-- ==== Sys2Proof/Word.lean ====
section
/-!
DEFINITION. The word types of the Crizon package (spec 00 R5, R6).
-/
namespace Sys2Proof

/-- A byte of memory. -/
abbrev Byte := BitVec 8

/-- A 16-bit parcel of code (R96). -/
abbrev Parcel := BitVec 16

/-- A 32-bit word: an FP32 pattern, a slot field, an s register. -/
abbrev Word32 := BitVec 32

/-- A 64-bit register (R66). -/
abbrev Word := BitVec 64

end Sys2Proof
end

