-- ==== Sys2Proof/Syntax.lean ====
section
/-!
DEFINITION. The syntax of the package's steps: one constructor of `Instr` per row of
spec/opcode_table.json. Rows 0 to 158 are bundle operations, rows 160 to 177 Lantern
microinstructions, the others events of engines, tables, pool, links, host and service.
-/
namespace Sys2Proof

/-- Element format codes of R29. -/
inductive Fmt where
  | raw | i8 | u8 | i4 | i16 | i32
  | f32 | bf16 | f16 | e4m3 | e5m2 | e2m1 | e2m3 | e3m2
  | mxi8 | mxe4m3 | mxe5m2 | mxe2m3 | mxe3m2 | mxe2m1
  | cb4 | zr8
deriving DecidableEq, Repr

/-- Rounding modes of R38. -/
inductive Rm where
  | rne | rz | sr
deriving DecidableEq, Repr

/-- A guard (R79): a predicate and its inversion bit. -/
structure Guard where
  inv : Bool
  p : Fin 8
deriving DecidableEq, Repr

/-- A scalar register (R105). -/
inductive Reg where
  | g (i : Fin 32)
  | h (i : Fin 16)
  | q (i : Fin 8)
deriving DecidableEq, Repr

/-- A source operand (R106): a g register with its `.b` bit, or a q register with its `.pk` bit. -/
inductive Src where
  | g (i : Fin 32) (blk : Bool)
  | q (i : Fin 8) (peek : Bool)
deriving DecidableEq, Repr

/-- A source operand that only a g register may fill (R106). -/
structure GSrc where
  i : Fin 32
  blk : Bool
deriving DecidableEq, Repr

/-- System registers named by XRD and XWR (R67). -/
inductive SysReg where
  | xstatus | xcause | xepc | xtval | xport | xelem | xctx | xcore | xgscope | xcycle
  | xseg | xlat | xfwdo | xfwdn | xfwdw | xlnt | xrpl
  | xscope (n : Fin 8)
deriving DecidableEq, Repr

/-- Result formats of MMUL and MMULS (R125). -/
inductive Zf where
  | f32 | i32 | bf16
deriving DecidableEq, Repr

/-- Port micro-operations (R134). -/
inductive POp where
  | fadd | fsub | fmul | fma | fmin | fmax | fabs | fneg
  | iadd | isub | imul | and | or | xor | shl | shr
  | sra | fclt | fcle | fceq | iclt | iceq | sel | fcun
  | cvt | qnt | dqnt
  | fexp2 | flog2 | frcp | frsq | ftanh
  | cmax | cmin | csum | cprev | cset | cld
  | emit | drop | amaxw
deriving DecidableEq, Repr

/-- Port operands (R132). -/
inductive POpnd where
  | x | i
  | w (n : Fin 4)
  | e (n : Fin 4)
  | c (n : Fin 4)
deriving DecidableEq, Repr

/-- A decoded port word (R132); a field the micro-operation does not use holds its zero value. -/
structure PWord where
  op : POp
  d : POpnd
  a : POpnd
  b : POpnd
  c : POpnd
  rm : Rm
  fmt : Fmt
deriving DecidableEq, Repr

/-- What a package reset finds outside the programs' view (R457, R459, R441, R445): the firmware check,
the enabled channels, the host windows, each port's trained lanes, the index its peer claims and which
package the peer is, the pod index and the measured pod scope figures. -/
structure BootInputs where
  fwValid : Bool
  fwVersion : Nat
  fwDigest : Nat
  channels : BitVec 8
  windows : List (Nat × Nat)
  lanes : List Nat
  peers : List Nat
  peerIds : List Nat
  podIndex : Nat
  inPod : Bool
  pdMin : Nat
  pdTyp : Nat
  pdMax : Nat
deriving DecidableEq, Repr

/-- The steps of the package, one constructor per row of the opcode table. In the operations of slots
S0 and S1 the first argument says whether the operation stands in S1. -/
inductive Instr where
  /-- R98 -/ | nop (s d : Bool)
  /-- R160 -/ | add (s1 : Bool) (gd : Guard) (w : Bool) (d : Reg) (a b : Src)
  /-- R160 -/ | addImm (s1 : Bool) (gd : Guard) (w : Bool) (d : Reg) (a : Src) (imm : BitVec 7)
  /-- R160 -/ | sub (s1 : Bool) (gd : Guard) (w : Bool) (d : Reg) (a b : Src)
  /-- R160 -/ | subImm (s1 : Bool) (gd : Guard) (w : Bool) (d : Reg) (a : Src) (imm : BitVec 7)
  /-- R160 -/ | and (s1 : Bool) (gd : Guard) (w : Bool) (d : Reg) (a b : Src)
  /-- R160 -/ | andImm (s1 : Bool) (gd : Guard) (w : Bool) (d : Reg) (a : Src) (imm : BitVec 7)
  /-- R160 -/ | or (s1 : Bool) (gd : Guard) (w : Bool) (d : Reg) (a b : Src)
  /-- R160 -/ | orImm (s1 : Bool) (gd : Guard) (w : Bool) (d : Reg) (a : Src) (imm : BitVec 7)
  /-- R160 -/ | xor (s1 : Bool) (gd : Guard) (w : Bool) (d : Reg) (a b : Src)
  /-- R160 -/ | xorImm (s1 : Bool) (gd : Guard) (w : Bool) (d : Reg) (a : Src) (imm : BitVec 7)
  /-- R160 -/ | andn (s1 : Bool) (gd : Guard) (w : Bool) (d : Reg) (a b : Src)
  /-- R160 -/ | andnImm (s1 : Bool) (gd : Guard) (w : Bool) (d : Reg) (a : Src) (imm : BitVec 7)
  /-- R160 -/ | min (s1 : Bool) (gd : Guard) (w : Bool) (d : Reg) (a b : Src)
  /-- R160 -/ | minImm (s1 : Bool) (gd : Guard) (w : Bool) (d : Reg) (a : Src) (imm : BitVec 7)
  /-- R160 -/ | max (s1 : Bool) (gd : Guard) (w : Bool) (d : Reg) (a b : Src)
  /-- R160 -/ | maxImm (s1 : Bool) (gd : Guard) (w : Bool) (d : Reg) (a : Src) (imm : BitVec 7)
  /-- R160 -/ | minu (s1 : Bool) (gd : Guard) (w : Bool) (d : Reg) (a b : Src)
  /-- R160 -/ | minuImm (s1 : Bool) (gd : Guard) (w : Bool) (d : Reg) (a : Src) (imm : BitVec 7)
  /-- R160 -/ | maxu (s1 : Bool) (gd : Guard) (w : Bool) (d : Reg) (a b : Src)
  /-- R160 -/ | maxuImm (s1 : Bool) (gd : Guard) (w : Bool) (d : Reg) (a : Src) (imm : BitVec 7)
  /-- R161 -/ | clz (s1 : Bool) (gd : Guard) (w : Bool) (d : Reg) (a : Src)
  /-- R161 -/ | popc (s1 : Bool) (gd : Guard) (w : Bool) (d : Reg) (a : Src)
  /-- R162 -/ | cmpeq (s1 : Bool) (gd : Guard) (w : Bool) (pd : Fin 8) (a b : Src)
  /-- R162 -/ | cmpeqImm (s1 : Bool) (gd : Guard) (w : Bool) (pd : Fin 8) (a : Src) (imm : BitVec 7)
  /-- R162 -/ | cmpne (s1 : Bool) (gd : Guard) (w : Bool) (pd : Fin 8) (a b : Src)
  /-- R162 -/ | cmpneImm (s1 : Bool) (gd : Guard) (w : Bool) (pd : Fin 8) (a : Src) (imm : BitVec 7)
  /-- R162 -/ | cmplt (s1 : Bool) (gd : Guard) (w : Bool) (pd : Fin 8) (a b : Src)
  /-- R162 -/ | cmpltImm (s1 : Bool) (gd : Guard) (w : Bool) (pd : Fin 8) (a : Src) (imm : BitVec 7)
  /-- R162 -/ | cmple (s1 : Bool) (gd : Guard) (w : Bool) (pd : Fin 8) (a b : Src)
  /-- R162 -/ | cmpleImm (s1 : Bool) (gd : Guard) (w : Bool) (pd : Fin 8) (a : Src) (imm : BitVec 7)
  /-- R162 -/ | cmpltu (s1 : Bool) (gd : Guard) (w : Bool) (pd : Fin 8) (a b : Src)
  /-- R162 -/ | cmpltuImm (s1 : Bool) (gd : Guard) (w : Bool) (pd : Fin 8) (a : Src) (imm : BitVec 7)
  /-- R162 -/ | cmpleu (s1 : Bool) (gd : Guard) (w : Bool) (pd : Fin 8) (a b : Src)
  /-- R162 -/ | cmpleuImm (s1 : Bool) (gd : Guard) (w : Bool) (pd : Fin 8) (a : Src) (imm : BitVec 7)
  /-- R163 -/ | div (s1 : Bool) (gd : Guard) (w : Bool) (d : Fin 32) (a b : Src)
  /-- R163 -/ | divImm (s1 : Bool) (gd : Guard) (w : Bool) (d : Fin 32) (a : Src) (imm : BitVec 7)
  /-- R163 -/ | divu (s1 : Bool) (gd : Guard) (w : Bool) (d : Fin 32) (a b : Src)
  /-- R163 -/ | divuImm (s1 : Bool) (gd : Guard) (w : Bool) (d : Fin 32) (a : Src) (imm : BitVec 7)
  /-- R163 -/ | rem (s1 : Bool) (gd : Guard) (w : Bool) (d : Fin 32) (a b : Src)
  /-- R163 -/ | remImm (s1 : Bool) (gd : Guard) (w : Bool) (d : Fin 32) (a : Src) (imm : BitVec 7)
  /-- R163 -/ | remu (s1 : Bool) (gd : Guard) (w : Bool) (d : Fin 32) (a b : Src)
  /-- R163 -/ | remuImm (s1 : Bool) (gd : Guard) (w : Bool) (d : Fin 32) (a : Src) (imm : BitVec 7)
  /-- R164 -/ | fabs (s1 : Bool) (gd : Guard) (d : Reg) (a : Src)
  /-- R164 -/ | fneg (s1 : Bool) (gd : Guard) (d : Reg) (a : Src)
  /-- R165 -/ | fadd (s1 : Bool) (gd : Guard) (d : Reg) (a b : Src)
  /-- R165 -/ | fsub (s1 : Bool) (gd : Guard) (d : Reg) (a b : Src)
  /-- R165 -/ | fmul (s1 : Bool) (gd : Guard) (d : Reg) (a b : Src)
  /-- R165 -/ | fmin (s1 : Bool) (gd : Guard) (d : Reg) (a b : Src)
  /-- R165 -/ | fmax (s1 : Bool) (gd : Guard) (d : Reg) (a b : Src)
  /-- R166 -/ | fcmpeq (s1 : Bool) (gd : Guard) (pd : Fin 8) (a b : Src)
  /-- R166 -/ | fcmplt (s1 : Bool) (gd : Guard) (pd : Fin 8) (a b : Src)
  /-- R166 -/ | fcmple (s1 : Bool) (gd : Guard) (pd : Fin 8) (a b : Src)
  /-- R166 -/ | fcmpun (s1 : Bool) (gd : Guard) (pd : Fin 8) (a b : Src)
  /-- R167 -/ | fcvti (s1 : Bool) (gd : Guard) (d : Reg) (a : Src) (rm : Rm)
  /-- R167 -/ | icvtf (s1 : Bool) (gd : Guard) (d : Reg) (a : Src) (rm : Rm)
  /-- R168 -/ | fdiv (s1 : Bool) (gd : Guard) (d : Fin 32) (a b : Src)
  /-- R168 -/ | fsqrt (s1 : Bool) (gd : Guard) (d : Fin 32) (a : Src)
  /-- R169 -/ | fma (s1 : Bool) (gd : Guard) (d : Fin 32) (a b : Src)
  /-- R170 -/ | movw (s1 : Bool) (gd : Guard) (hw : Fin 4) (z : Bool) (d : Fin 32) (imm : BitVec 16)
  /-- R171 -/ | mul (s1 : Bool) (gd : Guard) (w : Bool) (d : Reg) (a b : Src)
  /-- R171 -/ | mulImm (s1 : Bool) (gd : Guard) (w : Bool) (d : Reg) (a : Src) (imm : BitVec 7)
  /-- R171 -/ | mulh (s1 : Bool) (gd : Guard) (w : Bool) (d : Reg) (a b : Src)
  /-- R171 -/ | mulhImm (s1 : Bool) (gd : Guard) (w : Bool) (d : Reg) (a : Src) (imm : BitVec 7)
  /-- R171 -/ | mulhu (s1 : Bool) (gd : Guard) (w : Bool) (d : Reg) (a b : Src)
  /-- R171 -/ | mulhuImm (s1 : Bool) (gd : Guard) (w : Bool) (d : Reg) (a : Src) (imm : BitVec 7)
  /-- R172 -/ | shl (s1 : Bool) (gd : Guard) (w : Bool) (d : Reg) (a b : Src)
  /-- R172 -/ | shlImm (s1 : Bool) (gd : Guard) (w : Bool) (d : Reg) (a : Src) (c : Fin 64)
  /-- R172 -/ | shr (s1 : Bool) (gd : Guard) (w : Bool) (d : Reg) (a b : Src)
  /-- R172 -/ | shrImm (s1 : Bool) (gd : Guard) (w : Bool) (d : Reg) (a : Src) (c : Fin 64)
  /-- R172 -/ | sra (s1 : Bool) (gd : Guard) (w : Bool) (d : Reg) (a b : Src)
  /-- R172 -/ | sraImm (s1 : Bool) (gd : Guard) (w : Bool) (d : Reg) (a : Src) (c : Fin 64)
  /-- R172 -/ | rotr (s1 : Bool) (gd : Guard) (w : Bool) (d : Reg) (a b : Src)
  /-- R172 -/ | rotrImm (s1 : Bool) (gd : Guard) (w : Bool) (d : Reg) (a : Src) (c : Fin 64)
  /-- R145 -/ | bara (gd : Guard) (sc : Fin 8) (bar : Fin 1024)
  /-- R146 -/ | barw (gd : Guard) (sc : Fin 8) (bar : Fin 1024)
  /-- R146 -/ | barp (gd : Guard) (sc : Fin 8) (bar : Fin 1024) (pd : Fin 8)
  /-- R147 -/ | bra (gd : Guard) (off : BitVec 23)
  /-- R147 -/ | bri (gd : Guard) (a : GSrc)
  /-- R147 -/ | call (gd : Guard) (off : BitVec 23)
  /-- R148 -/ | breakI (gd : Guard)
  /-- R148 -/ | trapi (gd : Guard) (imm : BitVec 16)
  /-- R149 -/ | ctxfrz (gd : Guard) (a : GSrc)
  /-- R149, R341 -/ | ctxres (gd : Guard) (a : GSrc)
  /-- R150 -/ | drain (gd : Guard)
  /-- R151 -/ | eret (gd : Guard)
  /-- R152 -/ | fence (gd : Guard) (sc : Fin 8)
  /-- R153 -/ | lnstart (gd : Guard) (a b : GSrc)
  /-- R154 -/ | loop (gd : Guard) (len : Fin 256) (a : GSrc)
  /-- R154 -/ | loopImm (gd : Guard) (len : Fin 256) (count : Fin 16384)
  /-- R155 -/ | loopn (gd : Guard) (st : Fin 4) (len : Fin 1024) (n : Fin 8) (ga gb : Fin 32)
  /-- R156 -/ | nsub (gd : Guard) (a : GSrc)
  /-- R157 -/ | retire (gd : Guard)
  /-- R158 -/ | tblrd (gd : Guard) (d : Fin 32) (tbl : Fin 16) (a : GSrc)
  /-- R158 -/ | tblwr (gd : Guard) (tbl : Fin 16) (a b : GSrc)
  /-- R159 -/ | xrd (gd : Guard) (d : Fin 32) (xn : SysReg)
  /-- R159 -/ | xwr (gd : Guard) (a : GSrc) (xn : SysReg)
  /-- R174 -/ | ld (gd : Guard) (sz : Fin 4) (d : Fin 32) (a : GSrc) (off : BitVec 9)
  /-- R174 -/ | ldsx (gd : Guard) (sz : Fin 4) (d : Fin 32) (a : GSrc) (off : BitVec 9)
  /-- R175 -/ | st (gd : Guard) (sz : Fin 4) (v : Src) (a : GSrc) (off : BitVec 8)
  /-- R176 -/ | tmcst (gd : Guard) (sz : Fin 4) (v : Src) (a : GSrc) (off : BitVec 8)
  /-- R173 -/ | aadd (gd : Guard) (sz : Fin 4) (d : Fin 32) (a : GSrc) (v : Src)
  /-- R173 -/ | amax (gd : Guard) (sz : Fin 4) (d : Fin 32) (a : GSrc) (v : Src)
  /-- R173 -/ | amin (gd : Guard) (sz : Fin 4) (d : Fin 32) (a : GSrc) (v : Src)
  /-- R173 -/ | acas (gd : Guard) (sz : Fin 4) (d : Fin 32) (a : GSrc) (v : Src)
  /-- R173 -/ | aswp (gd : Guard) (sz : Fin 4) (d : Fin 32) (a : GSrc) (v : Src)
  /-- R177 -/ | pAnd (gd : Guard) (k : Bool) (d a b : Fin 8)
  /-- R177 -/ | pOr (gd : Guard) (k : Bool) (d a b : Fin 8)
  /-- R177 -/ | pXor (gd : Guard) (k : Bool) (d a b : Fin 8)
  /-- R177 -/ | pAndn (gd : Guard) (k : Bool) (d a b : Fin 8)
  /-- R178 -/ | vcmp (a : GSrc) (hb : Fin 16)
  /-- R208 -/ | aqpush (gd : Guard) (sz16 : Bool) (a : Src)
  /-- R210 -/ | dqpop (gd : Guard) (d : Reg)
  /-- R210 -/ | dqpopt (gd : Guard) (t : Fin 32) (row : Fin 64) (seg : Fin 16)
  /-- R209 -/ | aqstat (gd : Guard) (d : Fin 32)
  /-- R219 -/ | kset (gd : Guard) (side : Bool) (lat : Fin 16) (a : Src)
  /-- R219 -/ | kseti (gd : Guard) (side : Bool) (lat : Fin 16) (imm : BitVec 8)
  /-- R219 -/ | kclr (gd : Guard) (side : Bool)
  /-- R228 -/ | xcvt (gd : Guard) (dt st : Fin 32) (row cnt : Fin 64) (fs fd : Fmt) (rm : Rm)
  /-- R229 -/ | xexp (gd : Guard) (dt st : Fin 32) (row cnt : Fin 64) (fs fd : Fmt)
  /-- R231 -/ | xtbl (gd : Guard) (st : Fin 32) (row : Fin 64)
  /-- R232 -/ | xtrn (gd : Guard) (dt st : Fin 32) (row cnt : Fin 64) (fs fd : Fmt)
  /-- R230 -/ | xhad (gd : Guard) (dt st : Fin 32) (row cnt : Fin 64) (n : Fin 4) (seed : Fin 32) (fd : Fmt)
  /-- R220 -/ | mldb (gd : Guard) (bk : Fin 4) (bt : Fin 32) (fb : Fmt) (pb : Option (Fin 16))
  /-- R222 -/ | mmul (gd : Guard) (bk : Fin 4) (at_ : Fin 32) (arow acnt : Fin 64) (fa : Fmt) (acc : Bool)
      (zt : Fin 32) (zf : Zf) (pa pz : Option (Fin 16))
  /-- R223 -/ | mmuls (gd : Guard) (bk : Fin 4) (at_ : Fin 32) (arow acnt : Fin 64) (fa : Fmt) (acc : Bool)
      (zt : Fin 32) (zf : Zf) (pa pz : Option (Fin 16)) (st : Fin 32) (srow : Fin 64)
  /-- R224 -/ | tdaddr (gd : Guard) (y0 cnt : Fin 64) (t : Fin 32) (row : Fin 64) (a b : GSrc)
  /-- R224 -/ | tdaddrAq (gd : Guard) (y0 cnt : Fin 64) (a b : GSrc)
  /-- R225 -/ | tdesc (gd : Guard) (y0 cnt : Fin 64) (t : Fin 32) (row : Fin 64) (lv : Fin 32)
  /-- R226 -/ | tdleaf (gd : Guard) (y0 cnt : Fin 64) (t : Fin 32) (row : Fin 64)
  /-- R226 -/ | tdpath (gd : Guard) (y0 cnt : Fin 64) (t : Fin 32) (row : Fin 64)
  /-- R235 -/ | rsum (gd : Guard) (ax : Bool) (st : Fin 32) (srow cnt : Fin 64) (dt : Fin 32) (drow : Fin 64)
      (fs fd : Fmt) (pa pz : Option (Fin 16)) (km : Fin 4)
  /-- R235 -/ | rmax (gd : Guard) (ax : Bool) (st : Fin 32) (srow cnt : Fin 64) (dt : Fin 32) (drow : Fin 64)
      (fs fd : Fmt) (pa pz : Option (Fin 16)) (km : Fin 4)
  /-- R235 -/ | rssq (gd : Guard) (ax : Bool) (st : Fin 32) (srow cnt : Fin 64) (dt : Fin 32) (drow : Fin 64)
      (fs fd : Fmt) (pa pz : Option (Fin 16)) (km : Fin 4)
  /-- R236 -/ | rnorm (gd : Guard) (ax : Bool) (st : Fin 32) (srow cnt : Fin 64) (dt : Fin 32) (drow : Fin 64)
      (fs fd : Fmt) (pa pz : Option (Fin 16)) (km : Fin 4)
  /-- R237 -/ | rsortk (gd : Guard) (st : Fin 32) (srow cnt : Fin 64) (dt : Fin 32) (drow : Fin 64) (y0 : Fin 64)
  /-- R234 -/ | rcmpr (gd : Guard) (st : Fin 32) (srow cnt : Fin 64) (dt : Fin 32) (drow : Fin 64)
      (fs : Fmt) (sel : Fin 32) (part : Fin 4)
  /-- R202 -/ | tld (gd : Guard) (t : Fin 32) (row cnt : Fin 64) (a : GSrc) (n : Fin 8) (bar : Fin 1024)
      (p : Option (Fin 16)) (fmt : Fmt) (rm : Rm) (ps : Bool)
  /-- R202 -/ | tst (gd : Guard) (t : Fin 32) (row cnt : Fin 64) (a : GSrc) (n : Fin 8) (bar : Fin 1024)
      (p : Option (Fin 16)) (fmt : Fmt) (rm : Rm) (ps : Bool)
  /-- R203 -/ | tldc (gd : Guard) (t : Fin 32) (row cnt : Fin 64) (a : GSrc) (n : Fin 8) (bar : Fin 1024)
      (p : Option (Fin 16)) (fmt : Fmt) (rm : Rm) (xr : Fin 8)
  /-- R205 -/ | twin (gd : Guard) (t : Fin 32) (row cnt : Fin 64) (a : GSrc) (n : Fin 8) (bar : Fin 1024)
      (p : Option (Fin 16)) (fmt : Fmt) (rm : Rm) (ps : Bool)
  /-- R200 -/ | tgath (gd : Guard) (t : Fin 32) (row cnt : Fin 64) (a : GSrc) (it : Fin 32) (irow : Fin 64)
      (bar : Fin 1024) (p : Option (Fin 16)) (ps : Bool)
  /-- R201 -/ | tgath2 (gd : Guard) (t : Fin 32) (row cnt : Fin 64) (a : GSrc) (it : Fin 32) (irow : Fin 64)
      (bar : Fin 1024) (p : Option (Fin 16)) (ps : Bool)
  /-- R200 -/ | tscat (gd : Guard) (t : Fin 32) (row cnt : Fin 64) (a : GSrc) (it : Fin 32) (irow : Fin 64)
      (bar : Fin 1024) (p : Option (Fin 16)) (ps : Bool)
  /-- R204 -/ | tredAdd (gd : Guard) (t : Fin 32) (row cnt : Fin 64) (a : GSrc) (it : Fin 32) (irow : Fin 64)
      (bar : Fin 1024) (p : Option (Fin 16)) (ps : Bool) (i32 : Bool)
  /-- R204 -/ | tredMax (gd : Guard) (t : Fin 32) (row cnt : Fin 64) (a : GSrc) (it : Fin 32) (irow : Fin 64)
      (bar : Fin 1024) (p : Option (Fin 16)) (ps : Bool) (i32 : Bool)
  /-- R195 -/ | nset (gd : Guard) (n l : Fin 8) (a b : GSrc)
  /-- R195 -/ | nclr (gd : Guard) (n : Fin 8)
  /-- R196 -/ | nmcSgdfade (gd : Guard) (a : GSrc) (bar : Fin 1024)
  /-- R196 -/ | nmcFill (gd : Guard) (a : GSrc) (bar : Fin 1024)
  /-- R196 -/ | nmcCopy (gd : Guard) (a : GSrc) (bar : Fin 1024)
  /-- R196 -/ | nmcScale (gd : Guard) (a : GSrc) (bar : Fin 1024)
  /-- R196 -/ | nmcAccum (gd : Guard) (a : GSrc) (bar : Fin 1024)
  /-- R198; `none` is `.all` -/ | nmfence (gd : Guard) (stack : Option (Fin 16))
  /-- R193 -/ | lsend (gd : Guard) (port : Fin 16) (vl : Fin 4) (a : GSrc) (bar : Fin 1024)
  /-- R193 -/ | lrecv (gd : Guard) (port : Fin 16) (vl : Fin 4) (a : GSrc) (bar : Fin 1024)
  /-- R194 -/ | lstat (gd : Guard) (d : Fin 32) (port : Fin 16)
  /-- R190 -/ | imgdec (gd : Guard) (a : GSrc) (bar : Fin 1024)
  /-- R199 -/ | slabgrow (gd : Guard) (a : GSrc) (bar : Fin 1024)
  /-- R277 -/ | lanternStart
  /-- R296 -/ | pld (sd w : Fin 16)
  /-- R301 -/ | sgld (sa : Fin 16)
  /-- R291 -/ | glim (sd sa sb : Fin 16)
  /-- R292 -/ | kgth (sa sb : Fin 16)
  /-- R292 -/ | vgth (sa sb : Fin 16)
  /-- R298 -/ | qkmm (q : Bool) (sa : Fin 16)
  /-- R294 -/ | osmx (sa : Fin 16)
  /-- R297 -/ | pvmm
  /-- R299 -/ | rscl
  /-- R295 -/ | owrt
  /-- R301 -/ | sgap (sa sb : Fin 16)
  /-- R290 -/ | ewait (g : Bool)
  /-- R288 -/ | bsig (sc : Fin 8) (sa : Fin 16)
  /-- R293 -/ | loops (sa : Fin 16) (tgt : Fin 512)
  /-- R287 -/ | brc (cond : Fin 4) (sa sb : Fin 16) (tgt : Fin 512)
  /-- R283 -/ | done
  /-- R300 -/ | saddi (sd sa : Fin 16) (imm : BitVec 32)
  /-- R300 -/ | smovi (sd : Fin 16) (imm : BitVec 32)
  /-- R61 -/ | exposedResultDelivery (core ctx : Nat)
  /-- R75 -/ | longLatencyLanding (core ctx idx : Nat)
  /-- R176 -/ | tmcstLanding
  /-- R68 -/ | watchdog (core ctx : Nat)
  /-- R348 -/ | segmentExpansion (core ctx : Nat)
  /-- R187 -/ | chunkPerform (core ctx cmd unit : Nat)
  /-- R403 -/ | ringClaim (core ctx cmd : Nat)
  /-- R207 -/ | dataQueueArrival (core ctx idx : Nat)
  /-- R189 -/ | asyncTrap (core ctx : Nat)
  /-- R197 -/ | nmcExecution (stack : Nat)
  /-- R191 -/ | imageDecode (chiplet : Nat)
  /-- R199; the base the supervisor allocates -/ | slabgrowChunk (core ctx cmd : Nat) (newBase : Option Nat)
  /-- R332 -/ | freezeLimit (core ctx : Nat)
  /-- R333 -/ | contextFreeze (core ctx : Nat)
  /-- R337 -/ | saveImageWritten (core ctx : Nat)
  /-- R420 -/ | shoot (chiplet : Nat) (v : BitVec 64)
  /-- R421 -/ | wake (chiplet : Nat) (v : BitVec 64)
  /-- R405 -/ | barrierCfgWrite (chiplet slot : Nat) (v : BitVec 64)
  /-- R405 -/ | barrierForce (chiplet slot : Nat) (v : BitVec 64)
  /-- R22 -/ | pkgWordWrite (v : BitVec 64)
  /-- R22 -/ | scopeWordWrite (v : BitVec 64)
  /-- R419 -/ | pageFaultService (chiplet obj page frame : Nat) (content : List Host.Cell)
  /-- R422 -/ | pageEviction (chiplet obj page dest : Nat)
  /-- R423 -/ | copyOnWrite (chiplet obj page : Nat)
  /-- R362 -/ | nodeAccept
  /-- R368; the places and save areas the supervisor chooses -/ | dispatch (kind : Nat) (picks : List Nat)
  /-- R367 -/ | nodeAging (node : Nat)
  /-- R369 -/ | nodeComplete (node : Nat)
  /-- R390 -/ | groupEnd (gid : Nat)
  /-- R391 -/ | groupMigration (gid die : Nat) (picks : List Nat)
  /-- R433 -/ | messageSend (port lane : Nat)
  /-- R434; `none`: the peer acknowledges our oldest message -/
  | messageReceive (port lane : Nat) (msg : Option (List Byte))
  /-- R435 -/ | laneLoss (port : Nat)
  /-- R435 -/ | flitReplayLimit (port : Nat)
  /-- R435 -/ | trainingFrame (port : Nat)
  /-- R435 -/ | trainingEnd (port lanes : Nat)
  /-- R435 -/ | trainingTimeout (port : Nat)
  /-- R435 -/ | portDrainRequest (port : Nat)
  /-- R435 -/ | portResetRequest (port : Nat)
  /-- R431 -/ | fabricPathLoss (dieA dieB : Nat)
  /-- R443; the base the supervisor picks -/ | alloc (ch : Nat) (pick : Option Nat)
  /-- R443 -/ | free (ch : Nat)
  /-- R443 -/ | copyin (ch : Nat)
  /-- R443 -/ | copyout (ch : Nat)
  /-- R345; the identifier the supervisor picks -/ | load (ch : Nat) (kid : Option Nat)
  /-- R357 -/ | unload (ch : Nat)
  /-- R362 -/ | submit (ch : Nat)
  /-- R443 -/ | queryNode (ch : Nat)
  /-- R443 -/ | queryKernel (ch : Nat)
  /-- R443 -/ | queryPort (ch : Nat)
  /-- R443 -/ | queryPool (ch : Nat)
  /-- R441 -/ | outboxRead (ch : Nat)
  /-- R442 -/ | cstatWrite (ch : Nat) (v : BitVec 64)
  /-- R445 -/ | pcieLinkLoss
  /-- R457 -/ | attestation (nonce : Nat)
  /-- R459 -/ | packageReset (boot : BootInputs)
  /-- R459 -/ | testModeRequest
  /-- R460 -/ | powerClampWindow (averageW : Nat) (tempC : List Nat)
  /-- R462 -/ | thermalTrip (island tempC : Nat)
  /-- R441 -/ | requestDropped (ch : Nat)
  /-- R443 -/ | malformedRequest (ch : Nat)
deriving DecidableEq, Repr

end Sys2Proof
end

