-- ==== Sys2Proof/Machine/Bits.lean ====
section
/-!
DEFINITION. Bit fields, byte order and the packing of instruction fields (spec 00 R6, R7; 04 R96).
-/
namespace Sys2Proof

/-- `bits(x, hi, lo)` of R141. -/
def bits (x hi lo : Nat) : Nat := x / 2 ^ lo % 2 ^ (hi + 1 - lo)

/-- `sx(x, n)` of R141: bits n-1..0 of `x` as a signed integer. -/
def sx (x n : Nat) : Int :=
  let v := x % 2 ^ n
  if v < 2 ^ (n - 1) then (v : Int) else (v : Int) - 2 ^ n

/-- An integer as an unsigned value modulo 2^n. -/
def wrapN (v : Int) (n : Nat) : Nat := (v % (2 ^ n : Int)).toNat

/-- Bit `i` of `x`. -/
def bitAt (x i : Nat) : Bool := x / 2 ^ i % 2 == 1

/-- `x` with bits hi..lo replaced by `v`. -/
def setBits (x hi lo v : Nat) : Nat :=
  x / 2 ^ (hi + 1) * 2 ^ (hi + 1) + v % 2 ^ (hi + 1 - lo) * 2 ^ lo + x % 2 ^ lo

/-- Little-endian value of a list of bytes (R6). -/
def leNat : List Byte → Nat
  | [] => 0
  | b :: bs => b.toNat + 256 * leNat bs

/-- The `n` little-endian bytes of a value (R6). -/
def leBytes : Nat → Nat → List Byte
  | 0, _ => []
  | n + 1, v => BitVec.ofNat 8 v :: leBytes n (v / 256)

/-- A list cut into pieces of `n` elements, at most `k` pieces. -/
def chunks {α : Type} (n : Nat) : Nat → List α → List (List α)
  | 0, _ => []
  | _ + 1, [] => []
  | k + 1, xs => xs.take n :: chunks n k (xs.drop n)

/-- Total width of a field layout. -/
def fieldsWidth : List (Nat × Nat) → Nat
  | [] => 0
  | f :: fs => f.1 + fieldsWidth fs

/-- Fields (width, value), highest first, as one number (R96). -/
def pack : List (Nat × Nat) → Nat
  | [] => 0
  | f :: fs => f.2 * 2 ^ fieldsWidth fs + pack fs

/-- Sum of a list of widths. -/
def sumWidth : List Nat → Nat
  | [] => 0
  | w :: ws => w + sumWidth ws

/-- The values of fields of the widths given, highest first (R96). -/
def unpack : List Nat → Nat → List Nat
  | [], _ => []
  | w :: ws, x => x / 2 ^ sumWidth ws % 2 ^ w :: unpack ws x

end Sys2Proof
end

