-- ==== Sys2Proof/Decode.lean ====
section
/-!
DEFINITION. Decoding of slot fields, bundles' headers, port words and microwords, total on any bits
(spec 04 R96 to R138, 09 R285), and the encoder written from the same tables.
-/
namespace Sys2Proof

/-- Format codes of R29. -/
def Fmt.code : Fmt → Nat
  | .raw => 0x00 | .i8 => 0x01 | .u8 => 0x02 | .i4 => 0x03 | .i16 => 0x04 | .i32 => 0x05
  | .f32 => 0x10 | .bf16 => 0x11 | .f16 => 0x12 | .e4m3 => 0x13 | .e5m2 => 0x14 | .e2m1 => 0x15
  | .e2m3 => 0x16 | .e3m2 => 0x17
  | .mxi8 => 0x20 | .mxe4m3 => 0x21 | .mxe5m2 => 0x22 | .mxe2m3 => 0x23 | .mxe3m2 => 0x24 | .mxe2m1 => 0x25
  | .cb4 => 0x30 | .zr8 => 0x40

/-- The format of a code; none for a reserved code (R29, R30). -/
def Fmt.ofCode : Nat → Option Fmt
  | 0x00 => some .raw | 0x01 => some .i8 | 0x02 => some .u8 | 0x03 => some .i4 | 0x04 => some .i16
  | 0x05 => some .i32
  | 0x10 => some .f32 | 0x11 => some .bf16 | 0x12 => some .f16 | 0x13 => some .e4m3 | 0x14 => some .e5m2
  | 0x15 => some .e2m1 | 0x16 => some .e2m3 | 0x17 => some .e3m2
  | 0x20 => some .mxi8 | 0x21 => some .mxe4m3 | 0x22 => some .mxe5m2 | 0x23 => some .mxe2m3
  | 0x24 => some .mxe3m2 | 0x25 => some .mxe2m1
  | 0x30 => some .cb4 | 0x40 => some .zr8
  | _ => none

/-- RM codes of R38. -/
def Rm.code : Rm → Nat
  | .rne => 0 | .rz => 1 | .sr => 2

/-- The mode of an RM code; 0b11 is reserved (R38). -/
def Rm.ofCode : Nat → Option Rm
  | 0 => some .rne | 1 => some .rz | 2 => some .sr | _ => none

/-- ZF codes of R125. -/
def Zf.code : Zf → Nat
  | .f32 => 0 | .i32 => 1 | .bf16 => 2

/-- The result format of a ZF code; 0b11 is reserved (R125). -/
def Zf.ofCode : Nat → Option Zf
  | 0 => some .f32 | 1 => some .i32 | 2 => some .bf16 | _ => none

/-- Guard field G (R79). -/
def Guard.code (g : Guard) : Nat := g.inv.toNat * 8 + g.p.val

/-- The guard of a G field (R79). -/
def Guard.ofCode (v : Nat) : Guard := ⟨v / 8 % 2 == 1, Fin.ofNat 8 v⟩

/-- Register specifier (R105). -/
def Reg.code : Reg → Nat
  | .g i => i.val
  | .h i => 0x20 + i.val
  | .q i => 0x30 + i.val

/-- The register of a 6-bit specifier; 0b11_1000 and above are reserved (R105). -/
def Reg.ofCode (v : Nat) : Option Reg :=
  if v < 0x20 then some (.g (Fin.ofNat 32 v))
  else if v < 0x30 then some (.h (Fin.ofNat 16 v))
  else if v < 0x38 then some (.q (Fin.ofNat 8 v))
  else none

/-- Source field (R106). -/
def Src.code : Src → Nat
  | .g i m => m.toNat * 64 + i.val
  | .q i m => m.toNat * 64 + 0x30 + i.val

/-- The source of a 7-bit field; an h register or a reserved specifier is refused (R106). -/
def Src.ofCode (v : Nat) : Option Src :=
  if v % 64 < 0x20 then some (.g (Fin.ofNat 32 v) (v / 64 % 2 == 1))
  else if 0x30 ≤ v % 64 ∧ v % 64 < 0x38 then some (.q (Fin.ofNat 8 v) (v / 64 % 2 == 1))
  else none

/-- Source field that only a g register may fill (R106). -/
def GSrc.code (a : GSrc) : Nat := a.blk.toNat * 64 + a.i.val

/-- The g source of a 7-bit field (R106). -/
def GSrc.ofCode (v : Nat) : Option GSrc :=
  if v % 64 < 0x20 then some ⟨Fin.ofNat 32 v, v / 64 % 2 == 1⟩ else none

/-- A destination that is a g or a q register (R120). -/
def Reg.ofCodeGQ (v : Nat) : Option Reg :=
  match Reg.ofCode v with
  | some (.h _) => none
  | r => r

/-- A destination specifier that only a g register may fill (R75, R106). -/
def gOfCode (v : Nat) : Option (Fin 32) := if v < 0x20 then some (Fin.ofNat 32 v) else none

/-- Port binding field (R108). -/
def bindCode : Option (Fin 16) → Nat
  | none => 0
  | some s => 16 + s.val

/-- The binding of a port field; V = 0 with bits 3..0 not zero is refused (R108). -/
def bindOfCode (v : Nat) : Option (Option (Fin 16)) :=
  if v = 0 then some none else if 16 ≤ v ∧ v < 32 then some (some (Fin.ofNat 16 v)) else none

/-- System register numbers (R67). -/
def SysReg.code : SysReg → Nat
  | .xstatus => 0x00 | .xcause => 0x01 | .xepc => 0x02 | .xtval => 0x03 | .xport => 0x04 | .xelem => 0x05
  | .xctx => 0x06 | .xcore => 0x07 | .xgscope => 0x08 | .xcycle => 0x09 | .xseg => 0x0A | .xlat => 0x0B
  | .xfwdo => 0x0C | .xfwdn => 0x0D | .xfwdw => 0x0E | .xlnt => 0x0F | .xrpl => 0x10
  | .xscope n => 0x18 + n.val

/-- The system register of a number; a number not in R67's table is reserved. -/
def SysReg.ofCode (v : Nat) : Option SysReg :=
  match v with
  | 0x00 => some .xstatus | 0x01 => some .xcause | 0x02 => some .xepc | 0x03 => some .xtval
  | 0x04 => some .xport | 0x05 => some .xelem | 0x06 => some .xctx | 0x07 => some .xcore
  | 0x08 => some .xgscope | 0x09 => some .xcycle | 0x0A => some .xseg | 0x0B => some .xlat
  | 0x0C => some .xfwdo | 0x0D => some .xfwdn | 0x0E => some .xfwdw | 0x0F => some .xlnt
  | 0x10 => some .xrpl
  | 0x18 => some (.xscope 0) | 0x19 => some (.xscope 1) | 0x1A => some (.xscope 2)
  | 0x1B => some (.xscope 3) | 0x1C => some (.xscope 4) | 0x1D => some (.xscope 5)
  | 0x1E => some (.xscope 6) | 0x1F => some (.xscope 7)
  | _ => none

/-- A one-bit field. -/
def bitOf (v : Nat) : Bool := v == 1

/-- Keep a value where a condition holds. -/
def keepIf {α : Type} (c : Bool) (a : α) : Option α := if c then some a else none

/-- A field word of a slot as its guard, its operation and its body, of the widths given (R110, R113, R116, R120, R121,
R125, R129). -/
def splitOp (n m : Nat) (f : Guard → Nat → Nat → Option Instr) (word : Nat) : Option Instr :=
  match unpack [4, n, m] word with
  | [g, op, body] => f (Guard.ofCode g) op body
  | _ => none

/-! ## Slots S0 and S1 (R110 to R112) -/

/-- Body of an integer operation with register and immediate form (R110). -/
def decAlu (r : Bool → Reg → Src → Src → Instr) (im : Bool → Reg → Src → BitVec 7 → Instr) (body : Nat) :
    Option Instr :=
  match unpack [1, 1, 6, 7, 7] body with
  | [i, w, d, a, b] => do
    let d ← Reg.ofCode d
    let a ← Src.ofCode a
    if i = 0 then let b ← Src.ofCode b; some (r (bitOf w) d a b)
    else some (im (bitOf w) d a (BitVec.ofNat 7 b))
  | _ => none

/-- Body of a divide or remainder: D names a g register (R75, R163). -/
def decDiv (r : Bool → Fin 32 → Src → Src → Instr) (im : Bool → Fin 32 → Src → BitVec 7 → Instr) (body : Nat) :
    Option Instr :=
  match unpack [1, 1, 6, 7, 7] body with
  | [i, w, d, a, b] => do
    let d ← gOfCode d
    let a ← Src.ofCode a
    if i = 0 then let b ← Src.ofCode b; some (r (bitOf w) d a b)
    else some (im (bitOf w) d a (BitVec.ofNat 7 b))
  | _ => none

/-- Body of a shift or ROTR: in immediate form bit 6 is zero, and with W bit 5 too (R111, R172). -/
def decShift (r : Bool → Reg → Src → Src → Instr) (im : Bool → Reg → Src → Fin 64 → Instr) (body : Nat) :
    Option Instr :=
  match unpack [1, 1, 6, 7, 7] body with
  | [i, w, d, a, b] => do
    let d ← Reg.ofCode d
    let a ← Src.ofCode a
    if i = 0 then let b ← Src.ofCode b; some (r (bitOf w) d a b)
    else keepIf (decide (b < (if w = 1 then 32 else 64))) (im (bitOf w) d a (Fin.ofNat 64 b))
  | _ => none

/-- Body of an integer compare: PD, then three zero bits (R110). -/
def decCmp (r : Bool → Fin 8 → Src → Src → Instr) (im : Bool → Fin 8 → Src → BitVec 7 → Instr) (body : Nat) :
    Option Instr :=
  match unpack [1, 1, 3, 3, 7, 7] body with
  | [i, w, pd, 0, a, b] => do
    let a ← Src.ofCode a
    if i = 0 then let b ← Src.ofCode b; some (r (bitOf w) (Fin.ofNat 8 pd) a b)
    else some (im (bitOf w) (Fin.ofNat 8 pd) a (BitVec.ofNat 7 b))
  | _ => none

/-- Body of CLZ and POPC: I and B zero (R161). -/
def decUn (r : Bool → Reg → Src → Instr) (body : Nat) : Option Instr :=
  match unpack [1, 1, 6, 7, 7] body with
  | [0, w, d, a, 0] => do
    let d ← Reg.ofCode d
    let a ← Src.ofCode a
    some (r (bitOf w) d a)
  | _ => none

/-- Body of a floating operation of two sources: I and W zero (R111). -/
def decF2 (r : Reg → Src → Src → Instr) (body : Nat) : Option Instr :=
  match unpack [1, 1, 6, 7, 7] body with
  | [0, 0, d, a, b] => do
    let d ← Reg.ofCode d
    let a ← Src.ofCode a
    let b ← Src.ofCode b
    some (r d a b)
  | _ => none

/-- Body of FDIV and FMA: D names a g register (R111). -/
def decF2g (r : Fin 32 → Src → Src → Instr) (body : Nat) : Option Instr :=
  match unpack [1, 1, 6, 7, 7] body with
  | [0, 0, d, a, b] => do
    let d ← gOfCode d
    let a ← Src.ofCode a
    let b ← Src.ofCode b
    some (r d a b)
  | _ => none

/-- Body of FABS and FNEG (R111). -/
def decF1 (r : Reg → Src → Instr) (body : Nat) : Option Instr :=
  match unpack [1, 1, 6, 7, 7] body with
  | [0, 0, d, a, 0] => do
    let d ← Reg.ofCode d
    let a ← Src.ofCode a
    some (r d a)
  | _ => none

/-- Body of FSQRT (R111). -/
def decF1g (r : Fin 32 → Src → Instr) (body : Nat) : Option Instr :=
  match unpack [1, 1, 6, 7, 7] body with
  | [0, 0, d, a, 0] => do
    let d ← gOfCode d
    let a ← Src.ofCode a
    some (r d a)
  | _ => none

/-- Body of FCVTI and ICVTF: RM is 0b00 or 0b01 (R111, R167). -/
def decFcvt (r : Reg → Src → Rm → Instr) (body : Nat) : Option Instr :=
  match unpack [1, 1, 6, 7, 5, 2] body with
  | [0, 0, d, a, 0, rm] => do
    let d ← Reg.ofCode d
    let a ← Src.ofCode a
    let rm ← Rm.ofCode rm
    keepIf (rm != .sr) (r d a rm)
  | _ => none

/-- Body of a floating compare (R110, R111). -/
def decFcmp (r : Fin 8 → Src → Src → Instr) (body : Nat) : Option Instr :=
  match unpack [1, 1, 3, 3, 7, 7] body with
  | [0, 0, pd, 0, a, b] => do
    let a ← Src.ofCode a
    let b ← Src.ofCode b
    some (r (Fin.ofNat 8 pd) a b)
  | _ => none

/-- Body of MOVW (R110). -/
def decMovw (r : Bool → Fin 32 → BitVec 16 → Instr) (body : Nat) : Option Instr :=
  match unpack [1, 5, 16] body with
  | [z, d, imm] => some (r (bitOf z) (Fin.ofNat 32 d) (BitVec.ofNat 16 imm))
  | _ => none

/-- An operation of slot S0 (`s1` false) or S1, by the map of R112. -/
def decodeSOp (s1 : Bool) (gd : Guard) (op body : Nat) : Option Instr :=
  match op with
  | 0x00 => decAlu (.add s1 gd) (.addImm s1 gd) body
  | 0x01 => decAlu (.sub s1 gd) (.subImm s1 gd) body
  | 0x02 => decAlu (.mul s1 gd) (.mulImm s1 gd) body
  | 0x03 => decAlu (.mulh s1 gd) (.mulhImm s1 gd) body
  | 0x04 => decAlu (.mulhu s1 gd) (.mulhuImm s1 gd) body
  | 0x09 => decAlu (.and s1 gd) (.andImm s1 gd) body
  | 0x0A => decAlu (.or s1 gd) (.orImm s1 gd) body
  | 0x0B => decAlu (.xor s1 gd) (.xorImm s1 gd) body
  | 0x0C => decAlu (.andn s1 gd) (.andnImm s1 gd) body
  | 0x11 => decAlu (.min s1 gd) (.minImm s1 gd) body
  | 0x12 => decAlu (.max s1 gd) (.maxImm s1 gd) body
  | 0x13 => decAlu (.minu s1 gd) (.minuImm s1 gd) body
  | 0x14 => decAlu (.maxu s1 gd) (.maxuImm s1 gd) body
  | 0x05 => decDiv (.div s1 gd) (.divImm s1 gd) body
  | 0x06 => decDiv (.divu s1 gd) (.divuImm s1 gd) body
  | 0x07 => decDiv (.rem s1 gd) (.remImm s1 gd) body
  | 0x08 => decDiv (.remu s1 gd) (.remuImm s1 gd) body
  | 0x0D => decShift (.shl s1 gd) (.shlImm s1 gd) body
  | 0x0E => decShift (.shr s1 gd) (.shrImm s1 gd) body
  | 0x0F => decShift (.sra s1 gd) (.sraImm s1 gd) body
  | 0x10 => decShift (.rotr s1 gd) (.rotrImm s1 gd) body
  | 0x15 => decUn (.clz s1 gd) body
  | 0x16 => decUn (.popc s1 gd) body
  | 0x28 => decCmp (.cmpeq s1 gd) (.cmpeqImm s1 gd) body
  | 0x29 => decCmp (.cmpne s1 gd) (.cmpneImm s1 gd) body
  | 0x2A => decCmp (.cmplt s1 gd) (.cmpltImm s1 gd) body
  | 0x2B => decCmp (.cmple s1 gd) (.cmpleImm s1 gd) body
  | 0x2C => decCmp (.cmpltu s1 gd) (.cmpltuImm s1 gd) body
  | 0x2D => decCmp (.cmpleu s1 gd) (.cmpleuImm s1 gd) body
  | 0x18 => decF2 (.fadd s1 gd) body
  | 0x19 => decF2 (.fsub s1 gd) body
  | 0x1A => decF2 (.fmul s1 gd) body
  | 0x1C => decF2 (.fmin s1 gd) body
  | 0x1D => decF2 (.fmax s1 gd) body
  | 0x1B => decF2g (.fma s1 gd) body
  | 0x1E => decF2g (.fdiv s1 gd) body
  | 0x1F => decF1g (.fsqrt s1 gd) body
  | 0x20 => decF1 (.fabs s1 gd) body
  | 0x21 => decF1 (.fneg s1 gd) body
  | 0x22 => decFcvt (.fcvti s1 gd) body
  | 0x23 => decFcvt (.icvtf s1 gd) body
  | 0x2E => decFcmp (.fcmpeq s1 gd) body
  | 0x2F => decFcmp (.fcmplt s1 gd) body
  | 0x30 => decFcmp (.fcmple s1 gd) body
  | 0x31 => decFcmp (.fcmpun s1 gd) body
  | 0x3C => decMovw (.movw s1 gd 0) body
  | 0x3D => decMovw (.movw s1 gd 1) body
  | 0x3E => decMovw (.movw s1 gd 2) body
  | 0x3F => decMovw (.movw s1 gd 3) body
  | _ => none

/-- An operation of slot S0 (`s1` false) or S1: guard, operation and body. -/
def decodeS (s1 : Bool) (word : Nat) : Option Instr := splitOp 6 22 (decodeSOp s1) word

/-! ## Slot BR (R113 to R115) -/

/-- An operation of slot BR, by the layouts of R113 and the map of R115. -/
def decodeBROp (gd : Guard) (op body : Nat) : Option Instr :=
  match op with
  | 0x00 => some (.bra gd (BitVec.ofNat 23 body))
  | 0x01 => match unpack [7, 16] body with
    | [a, 0] => (GSrc.ofCode a).map (.bri gd)
    | _ => none
  | 0x02 => some (.call gd (BitVec.ofNat 23 body))
  | 0x03 => match unpack [8, 1, 14] body with
    | [len, i, x] =>
      if i = 1 then some (.loopImm gd (Fin.ofNat 256 len) (Fin.ofNat 16384 x))
      else match unpack [7, 7] x with
        | [a, 0] => (GSrc.ofCode a).map (.loop gd (Fin.ofNat 256 len))
        | _ => none
    | _ => none
  | 0x04 => decLoopn gd 0 body
  | 0x05 => decLoopn gd 1 body
  | 0x06 => decLoopn gd 2 body
  | 0x07 => decLoopn gd 3 body
  | 0x08 => match unpack [5, 8, 10] body with
    | [d, xn, 0] => (SysReg.ofCode xn).map (.xrd gd (Fin.ofNat 32 d))
    | _ => none
  | 0x09 => match unpack [7, 8, 8] body with
    | [a, xn, 0] => do
      let a ← GSrc.ofCode a
      let xn ← SysReg.ofCode xn
      some (.xwr gd a xn)
    | _ => none
  | 0x0A => match unpack [3, 20] body with
    | [sc, 0] => some (.fence gd (Fin.ofNat 8 sc))
    | _ => none
  | 0x0B => if body = 0 then some (.drain gd) else none
  | 0x0C => decBar (.bara gd) body
  | 0x0D => decBar (.barw gd) body
  | 0x0E => match unpack [3, 10, 3, 7] body with
    | [sc, bar, pd, 0] =>
      keepIf (bar != 0x3FF) (.barp gd (Fin.ofNat 8 sc) (Fin.ofNat 1024 bar) (Fin.ofNat 8 pd))
    | _ => none
  | 0x10 => match unpack [7, 7, 9] body with
    | [a, b, 0] => do
      let a ← GSrc.ofCode a
      let b ← GSrc.ofCode b
      some (.lnstart gd a b)
    | _ => none
  | 0x11 => decA16 (.nsub gd) body
  | 0x12 => if body = 0 then some (.retire gd) else none
  | 0x13 => match unpack [16, 7] body with
    | [imm, 0] => some (.trapi gd (BitVec.ofNat 16 imm))
    | _ => none
  | 0x14 => if body = 0 then some (.breakI gd) else none
  | 0x18 => if body = 0 then some (.eret gd) else none
  | 0x19 => match unpack [5, 4, 7, 7] body with
    | [d, tbl, a, 0] => do
      let a ← GSrc.ofCode a
      keepIf (decide (tbl < 9)) (.tblrd gd (Fin.ofNat 32 d) (Fin.ofNat 16 tbl) a)
    | _ => none
  | 0x1A => match unpack [4, 7, 7, 5] body with
    | [tbl, a, b, 0] => do
      let a ← GSrc.ofCode a
      let b ← GSrc.ofCode b
      keepIf (decide (tbl < 9)) (.tblwr gd (Fin.ofNat 16 tbl) a b)
    | _ => none
  | 0x1B => decA16 (.ctxfrz gd) body
  | 0x1C => decA16 (.ctxres gd) body
  | _ => none
where
  /-- LOOPN with stage count `st` + 1 (R113, R114). -/
  decLoopn (gd : Guard) (st : Fin 4) (body : Nat) : Option Instr :=
    match unpack [10, 3, 5, 5] body with
    | [len, n, ga, gb] =>
      some (.loopn gd st (Fin.ofNat 1024 len) (Fin.ofNat 8 n) (Fin.ofNat 32 ga) (Fin.ofNat 32 gb))
    | _ => none
  /-- A scope and a barrier slot (R113, R114). -/
  decBar (r : Fin 8 → Fin 1024 → Instr) (body : Nat) : Option Instr :=
    match unpack [3, 10, 10] body with
    | [sc, bar, 0] => keepIf (bar != 0x3FF) (r (Fin.ofNat 8 sc) (Fin.ofNat 1024 bar))
    | _ => none
  /-- One g source, 16 zero bits (R113). -/
  decA16 (r : GSrc → Instr) (body : Nat) : Option Instr :=
    match unpack [7, 16] body with
    | [a, 0] => (GSrc.ofCode a).map r
    | _ => none

/-- An operation of slot BR: guard, operation and body. -/
def decodeBR (word : Nat) : Option Instr := splitOp 5 23 decodeBROp word

/-! ## Slots LS, P, X, K and V (R116 to R122) -/

/-- An operation of slot LS (R116 to R118). -/
def decodeLSOp (gd : Guard) (op body : Nat) : Option Instr :=
  match op with
  | 0x0 => decLoad (.ld gd) body
  | 0x1 => decLoad (.ldsx gd) body
  | 0x2 => decStore (.st gd) body
  | 0x3 => decStore (.tmcst gd) body
  | 0x4 => decAtom (.aadd gd) body
  | 0x5 => decAtom (.amax gd) body
  | 0x6 => decAtom (.amin gd) body
  | 0x7 => decAtom (.acas gd) body
  | 0x8 => decAtom (.aswp gd) body
  | _ => none
where
  /-- The load layout of R116. -/
  decLoad (r : Fin 4 → Fin 32 → GSrc → BitVec 9 → Instr) (body : Nat) : Option Instr :=
    match unpack [2, 6, 7, 9] body with
    | [sz, d, a, off] => do
      let d ← gOfCode d
      let a ← GSrc.ofCode a
      some (r (Fin.ofNat 4 sz) d a (BitVec.ofNat 9 off))
    | _ => none
  /-- The store layout of R116. -/
  decStore (r : Fin 4 → Src → GSrc → BitVec 8 → Instr) (body : Nat) : Option Instr :=
    match unpack [2, 7, 7, 8] body with
    | [sz, v, a, off] => do
      let v ← Src.ofCode v
      let a ← GSrc.ofCode a
      some (r (Fin.ofNat 4 sz) v a (BitVec.ofNat 8 off))
    | _ => none
  /-- The atomic layout of R116; only 4 and 8 bytes (R117). -/
  decAtom (r : Fin 4 → Fin 32 → GSrc → Src → Instr) (body : Nat) : Option Instr :=
    match unpack [2, 6, 7, 7, 2] body with
    | [sz, d, a, v, 0] => do
      let d ← gOfCode d
      let a ← GSrc.ofCode a
      let v ← Src.ofCode v
      keepIf (decide (2 ≤ sz)) (r (Fin.ofNat 4 sz) d a v)
    | _ => none

/-- An operation of slot LS: guard, operation and body. -/
def decodeLS (word : Nat) : Option Instr := splitOp 4 24 decodeLSOp word

/-- An operation of slot P (R119). -/
def decodeP (word : Nat) : Option Instr :=
  match unpack [4, 2, 1, 3, 3, 3] word with
  | [g, op, k, d, a, b] =>
    let gd := Guard.ofCode g
    match op with
    | 0 => some (.pAnd gd (bitOf k) (Fin.ofNat 8 d) (Fin.ofNat 8 a) (Fin.ofNat 8 b))
    | 1 => some (.pOr gd (bitOf k) (Fin.ofNat 8 d) (Fin.ofNat 8 a) (Fin.ofNat 8 b))
    | 2 => some (.pXor gd (bitOf k) (Fin.ofNat 8 d) (Fin.ofNat 8 a) (Fin.ofNat 8 b))
    | 3 => some (.pAndn gd (bitOf k) (Fin.ofNat 8 d) (Fin.ofNat 8 a) (Fin.ofNat 8 b))
    | _ => none
  | _ => none

/-- An operation of slot X (R120). -/
def decodeXOp (gd : Guard) (op body : Nat) : Option Instr :=
  match op with
  | 0 => match unpack [1, 7, 17] body with
    | [sz, a, 0] => (Src.ofCode a).map (.aqpush gd (bitOf sz))
    | _ => none
  | 1 => match unpack [6, 19] body with
    | [d, 0] => (Reg.ofCodeGQ d).map (.dqpop gd)
    | _ => none
  | 2 => match unpack [5, 6, 4, 10] body with
    | [t, row, seg, 0] =>
      keepIf (decide (seg < 12)) (.dqpopt gd (Fin.ofNat 32 t) (Fin.ofNat 64 row) (Fin.ofNat 16 seg))
    | _ => none
  | 3 => match unpack [5, 20] body with
    | [d, 0] => some (.aqstat gd (Fin.ofNat 32 d))
    | _ => none
  | _ => none

/-- An operation of slot X: guard, operation and body. -/
def decodeX (word : Nat) : Option Instr := splitOp 3 25 decodeXOp word

/-- An operation of slot K (R121). -/
def decodeKOp (gd : Guard) (op body : Nat) : Option Instr :=
  match op with
  | 0 => match unpack [1, 4, 7, 14] body with
    | [side, lat, a, 0] => (Src.ofCode a).map (.kset gd (bitOf side) (Fin.ofNat 16 lat))
    | _ => none
  | 1 => match unpack [1, 4, 8, 13] body with
    | [side, lat, imm, 0] => some (.kseti gd (bitOf side) (Fin.ofNat 16 lat) (BitVec.ofNat 8 imm))
    | _ => none
  | 2 => match unpack [1, 25] body with
    | [side, 0] => some (.kclr gd (bitOf side))
    | _ => none
  | _ => none

/-- An operation of slot K: guard, operation and body. -/
def decodeK (word : Nat) : Option Instr := splitOp 2 26 decodeKOp word

/-- An operation of slot V (R122). -/
def decodeV (word : Nat) : Option Instr :=
  match unpack [2, 7, 4, 3] word with
  | [0, a, hb, 0] => (GSrc.ofCode a).map fun a => .vcmp a (Fin.ofNat 16 hb)
  | _ => none

/-! ## Slots T, M, R and C (R123 to R131) -/

/-- An operation of slot T (R123, R124). -/
def decodeT (word : Nat) : Option Instr :=
  match unpack [4, 3, 5, 5, 6, 6, 8, 8, 2, 1] word with
  | [g, op, dt, st, row, cnt, fs, fd, rm, 0] =>
    let gd := Guard.ofCode g
    let dt' := Fin.ofNat 32 dt
    let st' := Fin.ofNat 32 st
    let row' := Fin.ofNat 64 row
    let cnt' := Fin.ofNat 64 cnt
    match op with
    | 0 => do
      let fs ← Fmt.ofCode fs
      let fd ← Fmt.ofCode fd
      let rm ← Rm.ofCode rm
      some (.xcvt gd dt' st' row' cnt' fs fd rm)
    | 1 => do
      let fs ← Fmt.ofCode fs
      let fd ← Fmt.ofCode fd
      keepIf (rm == 0) (.xexp gd dt' st' row' cnt' fs fd)
    | 2 => keepIf (dt == 0 && cnt == 0 && fs == 0 && fd == 0 && rm == 0) (.xtbl gd st' row')
    | 3 => do
      let fs ← Fmt.ofCode fs
      let fd ← Fmt.ofCode fd
      keepIf (rm == 0) (.xtrn gd dt' st' row' cnt' fs fd)
    | 4 => do
      let fd ← Fmt.ofCode fd
      keepIf (rm == 0 && decide (fs / 32 < 4))
        (.xhad gd dt' st' row' cnt' (Fin.ofNat 4 (fs / 32)) (Fin.ofNat 32 fs) fd)
    | _ => none
  | _ => none

/-- An operation of slot M (R125, R126). -/
def decodeMOp (gd : Guard) (op body : Nat) : Option Instr :=
  match op with
  | 0 => match unpack [2, 5, 8, 5, 37] body with
    | [bk, bt, fb, pb, 0] => do
      let fb ← Fmt.ofCode fb
      let pb ← bindOfCode pb
      some (.mldb gd (Fin.ofNat 4 bk) (Fin.ofNat 32 bt) fb pb)
    | _ => none
  | 1 => match unpack [2, 5, 6, 6, 8, 1, 5, 2, 5, 5, 11, 1] body with
    | [bk, at_, arow, acnt, fa, acc, zt, zf, pa, pz, 0, 0] => do
      let fa ← Fmt.ofCode fa
      let zf' ← Zf.ofCode zf
      let pa ← bindOfCode pa
      let pz' ← bindOfCode pz
      keepIf (acc == 0 || (zt == 0 && zf == 0 && pz == 0))
        (.mmul gd (Fin.ofNat 4 bk) (Fin.ofNat 32 at_) (Fin.ofNat 64 arow) (Fin.ofNat 64 acnt) fa (bitOf acc)
          (Fin.ofNat 32 zt) zf' pa pz')
    | _ => none
  | 2 => match unpack [2, 5, 6, 6, 8, 1, 5, 2, 5, 5, 5, 6, 1] body with
    | [bk, at_, arow, acnt, fa, acc, zt, zf, pa, pz, st, srow, 0] => do
      let fa ← Fmt.ofCode fa
      let zf' ← Zf.ofCode zf
      let pa ← bindOfCode pa
      let pz' ← bindOfCode pz
      keepIf (acc == 0 || (zt == 0 && zf == 0 && pz == 0))
        (.mmuls gd (Fin.ofNat 4 bk) (Fin.ofNat 32 at_) (Fin.ofNat 64 arow) (Fin.ofNat 64 acnt) fa (bitOf acc)
          (Fin.ofNat 32 zt) zf' pa pz' (Fin.ofNat 32 st) (Fin.ofNat 64 srow))
    | _ => none
  | 3 => match unpack [6, 6, 5, 6, 5, 7, 7, 1, 14] body with
    | [y0, cnt, t, row, 0, a, b, aq, 0] => do
      let a ← GSrc.ofCode a
      let b ← GSrc.ofCode b
      if aq = 1 then keepIf (t == 0 && row == 0) (.tdaddrAq gd (Fin.ofNat 64 y0) (Fin.ofNat 64 cnt) a b)
      else some (.tdaddr gd (Fin.ofNat 64 y0) (Fin.ofNat 64 cnt) (Fin.ofNat 32 t) (Fin.ofNat 64 row) a b)
    | _ => none
  | 4 => match unpack [6, 6, 5, 6, 5, 29] body with
    | [y0, cnt, t, row, lv, 0] =>
      some (.tdesc gd (Fin.ofNat 64 y0) (Fin.ofNat 64 cnt) (Fin.ofNat 32 t) (Fin.ofNat 64 row) (Fin.ofNat 32 lv))
    | _ => none
  | 5 => match unpack [6, 6, 5, 6, 34] body with
    | [y0, cnt, t, row, 0] =>
      some (.tdleaf gd (Fin.ofNat 64 y0) (Fin.ofNat 64 cnt) (Fin.ofNat 32 t) (Fin.ofNat 64 row))
    | _ => none
  | 6 => match unpack [6, 6, 5, 6, 34] body with
    | [y0, cnt, t, row, 0] =>
      some (.tdpath gd (Fin.ofNat 64 y0) (Fin.ofNat 64 cnt) (Fin.ofNat 32 t) (Fin.ofNat 64 row))
    | _ => none
  | _ => none

/-- An operation of slot M: guard, operation and body. -/
def decodeM (word : Nat) : Option Instr := splitOp 3 57 decodeMOp word

/-- An operation of slot R (R127, R128). -/
def decodeR (word : Nat) : Option Instr :=
  match unpack [4, 3, 1, 5, 6, 6, 5, 6, 8, 8, 5, 5, 2] word with
  | [g, op, ax, st, srow, cnt, dt, drow, fs, fd, pa, pz, km] =>
    let gd := Guard.ofCode g
    let st' := Fin.ofNat 32 st
    let srow' := Fin.ofNat 64 srow
    let cnt' := Fin.ofNat 64 cnt
    let dt' := Fin.ofNat 32 dt
    let drow' := Fin.ofNat 64 drow
    let full (r : Bool → Fin 32 → Fin 64 → Fin 64 → Fin 32 → Fin 64 → Fmt → Fmt → Option (Fin 16) →
        Option (Fin 16) → Fin 4 → Instr) : Option Instr := do
      let fs ← Fmt.ofCode fs
      let fd ← Fmt.ofCode fd
      let pa ← bindOfCode pa
      let pz ← bindOfCode pz
      some (r (bitOf ax) st' srow' cnt' dt' drow' fs fd pa pz (Fin.ofNat 4 km))
    match op with
    | 0 => full (.rsum gd)
    | 1 => full (.rmax gd)
    | 2 => full (.rssq gd)
    | 3 => full (.rnorm gd)
    | 4 => keepIf (ax == 0 && decide (fs < 64) && fd == 0 && pa == 0 && pz == 0 && km == 0)
        (.rsortk gd st' srow' cnt' dt' drow' (Fin.ofNat 64 fs))
    | 5 => do
      let fs ← Fmt.ofCode fs
      keepIf (ax == 0 && decide (fd < 32) && pa == 0 && pz == 0)
        (.rcmpr gd st' srow' cnt' dt' drow' fs (Fin.ofNat 32 fd) (Fin.ofNat 4 km))
    | _ => none
  | _ => none

/-- The tile-copy form of R129: TLD, TST and TWIN. `pair` refuses A = g31 (R205). -/
def decCopy (r : Fin 32 → Fin 64 → Fin 64 → GSrc → Fin 8 → Fin 1024 → Option (Fin 16) → Fmt → Rm → Bool → Instr)
    (pair : Bool) (body : Nat) : Option Instr :=
  match unpack [5, 6, 6, 7, 3, 10, 5, 8, 2, 1, 2] body with
  | [t, row, cnt, a, n, bar, p, fmt, rm, ps, 0] => do
    let a ← GSrc.ofCode a
    let p ← bindOfCode p
    let fmt ← Fmt.ofCode fmt
    let rm ← Rm.ofCode rm
    keepIf ((p.isSome || rm == .rne) && !(pair && a.i == 31))
      (r (Fin.ofNat 32 t) (Fin.ofNat 64 row) (Fin.ofNat 64 cnt) a (Fin.ofNat 8 n) (Fin.ofNat 1024 bar) p fmt rm
        (bitOf ps))
  | _ => none

/-- TLDC: bits 2..0 hold XR, 6 and 7 reserved (R130, R203). -/
def decTldc (r : Fin 32 → Fin 64 → Fin 64 → GSrc → Fin 8 → Fin 1024 → Option (Fin 16) → Fmt → Rm → Fin 8 → Instr)
    (body : Nat) : Option Instr :=
  match unpack [5, 6, 6, 7, 3, 10, 5, 8, 2, 3] body with
  | [t, row, cnt, a, n, bar, p, fmt, rm, xr] => do
    let a ← GSrc.ofCode a
    let p ← bindOfCode p
    let fmt ← Fmt.ofCode fmt
    let rm ← Rm.ofCode rm
    keepIf (decide (xr < 6))
      (r (Fin.ofNat 32 t) (Fin.ofNat 64 row) (Fin.ofNat 64 cnt) a (Fin.ofNat 8 n) (Fin.ofNat 1024 bar) p fmt rm
        (Fin.ofNat 8 xr))
  | _ => none

/-- The gather form of R129. `pair` refuses A = g31 (R201); RO and FI are given to the constructor. -/
def decGather (r : Fin 32 → Fin 64 → Fin 64 → GSrc → Fin 32 → Fin 64 → Fin 1024 → Option (Fin 16) → Bool →
      Nat → Nat → Option Instr)
    (pair : Bool) (body : Nat) : Option Instr :=
  match unpack [5, 6, 6, 7, 5, 6, 10, 5, 1, 2, 1, 1] body with
  | [t, row, cnt, a, it, irow, bar, p, ps, ro, fi, 0] => do
    let a ← GSrc.ofCode a
    let p ← bindOfCode p
    let out ← r (Fin.ofNat 32 t) (Fin.ofNat 64 row) (Fin.ofNat 64 cnt) a (Fin.ofNat 32 it) (Fin.ofNat 64 irow)
      (Fin.ofNat 1024 bar) p (bitOf ps) ro fi
    keepIf (!(pair && a.i == 31)) out
  | _ => none

/-- The descriptor form of R129. -/
def decDesc (r : Nat → Nat → Nat → Fin 1024 → Option Instr) (body : Nat) : Option Instr :=
  match unpack [8, 7, 6, 10, 24] body with
  | [sub, a, d, bar, 0] => r sub a d (Fin.ofNat 1024 bar)
  | _ => none

/-- A descriptor operation of one address and a barrier, SUB and D zero (R130). -/
def decAddrBar (r : GSrc → Fin 1024 → Instr) (sub0 : Nat) : Nat → Nat → Nat → Fin 1024 → Option Instr
  | sub, a, d, bar => if sub = sub0 ∧ d = 0 then (GSrc.ofCode a).map (r · bar) else none

/-- An operation of slot C (R129 to R131). -/
def decodeCOp (gd : Guard) (op body : Nat) : Option Instr :=
  match op with
  | 0x00 => decCopy (.tld gd) false body
  | 0x01 => decCopy (.tst gd) false body
  | 0x02 => decTldc (.tldc gd) body
  | 0x03 => decCopy (.twin gd) true body
  | 0x04 => decGather (fun t row cnt a it irow bar p ps ro fi =>
      if ro = 0 ∧ fi = 0 then some (.tgath gd t row cnt a it irow bar p ps) else none) false body
  | 0x05 => decGather (fun t row cnt a it irow bar p ps ro fi =>
      if ro = 0 ∧ fi = 0 then some (.tgath2 gd t row cnt a it irow bar p ps) else none) true body
  | 0x06 => decGather (fun t row cnt a it irow bar p ps ro fi =>
      if ro = 0 ∧ fi = 0 then some (.tscat gd t row cnt a it irow bar p ps) else none) false body
  | 0x07 => decGather (fun t row cnt a it irow bar p ps ro fi =>
      if ro = 0 then some (.tredAdd gd t row cnt a it irow bar p ps (bitOf fi))
      else if ro = 1 then some (.tredMax gd t row cnt a it irow bar p ps (bitOf fi)) else none) false body
  | 0x08 => match unpack [3, 3, 7, 7, 35] body with
    | [n, l, a, b, 0] => do
      let a ← GSrc.ofCode a
      let b ← GSrc.ofCode b
      keepIf (decide (l < 6)) (.nset gd (Fin.ofNat 8 n) (Fin.ofNat 8 l) a b)
    | _ => none
  | 0x09 => match unpack [3, 52] body with
    | [n, 0] => some (.nclr gd (Fin.ofNat 8 n))
    | _ => none
  | 0x0A => decDesc (fun sub a d bar => match sub with
      | 1 => decAddrBar (.nmcSgdfade gd) 1 sub a d bar
      | 2 => decAddrBar (.nmcFill gd) 2 sub a d bar
      | 3 => decAddrBar (.nmcCopy gd) 3 sub a d bar
      | 4 => decAddrBar (.nmcScale gd) 4 sub a d bar
      | 5 => decAddrBar (.nmcAccum gd) 5 sub a d bar
      | _ => none) body
  | 0x0B => match unpack [8, 7, 6, 10, 24] body with
    | [sub, 0, 0, 0, 0] =>
      if sub < 16 then some (.nmfence gd (some (Fin.ofNat 16 sub)))
      else if sub = 0x1F then some (.nmfence gd none) else none
    | _ => none
  | 0x0C => decLink (.lsend gd) body
  | 0x0D => decLink (.lrecv gd) body
  | 0x0E => match unpack [4, 4, 7, 6, 10, 24] body with
    | [port, 0, 0, d, 0, 0] => (gOfCode d).map fun d => .lstat gd d (Fin.ofNat 16 port)
    | _ => none
  | 0x0F => decDesc (decAddrBar (.imgdec gd) 0) body
  | 0x10 => decDesc (decAddrBar (.slabgrow gd) 0) body
  | _ => none
where
  /-- LSEND and LRECV: port and virtual lane in SUB (R130). -/
  decLink (r : Fin 16 → Fin 4 → GSrc → Fin 1024 → Instr) (body : Nat) : Option Instr :=
    match unpack [4, 2, 2, 7, 6, 10, 24] body with
    | [port, vl, 0, a, 0, bar, 0] => (GSrc.ofCode a).map fun a =>
        r (Fin.ofNat 16 port) (Fin.ofNat 4 vl) a (Fin.ofNat 1024 bar)
    | _ => none

/-- An operation of slot C: guard, operation and body. -/
def decodeC (word : Nat) : Option Instr := splitOp 5 55 decodeCOp word

/-! ## Slots, headers and bundles (R96 to R100) -/

/-- Widths of the slots' fields, in parcels (R64). -/
def slotParcels : Nat → Nat
  | 4 | 11 => 1
  | 7 => 3
  | 8 | 9 | 10 => 4
  | _ => 2

/-- The operation in the field of a slot (R109). -/
def decodeSlot : Nat → Nat → Option Instr
  | 0, w => decodeBR w
  | 1, w => decodeS false w
  | 2, w => decodeS true w
  | 3, w => decodeLS w
  | 4, w => decodeP w
  | 5, w => decodeX w
  | 6, w => decodeK w
  | 7, w => decodeT w
  | 8, w => decodeM w
  | 9, w => decodeR w
  | 10, w => decodeC w
  | 11, w => decodeV w
  | _, _ => none

/-- Why a bundle does not decode; the number is the WHERE field of R103. -/
inductive DecodeError where
  /-- the header (R99): WHERE 12 -/
  | header
  /-- the structure of the group (R100): WHERE 13 -/
  | structure
  /-- the field of a slot (R104): WHERE is the slot -/
  | slot (n : Nat)
deriving DecidableEq, Repr

/-- The WHERE field of a decode error (R103). -/
def DecodeError.where_ : DecodeError → Nat
  | .header => 12
  | .structure => 13
  | .slot n => n

/-- A header (R97): the slots present, the stop bit and the drain-point bit. -/
structure Header where
  mask : Nat
  s : Bool
  d : Bool
deriving DecidableEq, Repr

/-- A header parcel; bits 1..0 not zero are refused (R97, R99). -/
def decodeHeader (v : Nat) : Option Header :=
  match unpack [12, 1, 1, 2] v with
  | [mask, s, d, 0] => some ⟨mask, bitOf s, bitOf d⟩
  | _ => none

/-- The slots a mask names, ascending (R96). -/
def Header.slots (h : Header) : List Nat := (List.range 12).filter fun n => bitAt h.mask n

/-- The length of a bundle in parcels (R96). -/
def Header.parcels (h : Header) : Nat := 1 + (h.slots.map slotParcels).sum

/-- The parcels of one field as its value, lowest parcel first (R96). -/
def fieldOf : List Nat → Nat
  | [] => 0
  | p :: ps => p % 65536 + 65536 * fieldOf ps

/-- The operations of the slots listed, from the parcels that follow the header (R96, R103). Parcels past the last of the
segment read as 0 (log 82). -/
def decodeFields : List Nat → List Nat → Except DecodeError (List Instr)
  | [], _ => .ok []
  | n :: ns, ps =>
    match decodeSlot n (fieldOf (ps.take (slotParcels n))) with
    | none => .error (.slot n)
    | some i =>
      match decodeFields ns (ps.drop (slotParcels n)) with
      | .ok is => .ok (i :: is)
      | .error e => .error e

/-- A decoded bundle. -/
structure Bundle where
  head : Header
  ops : List Instr
deriving DecidableEq, Repr

/-- A bundle with no slot is the one no-operation form (R98). -/
def Bundle.instrs (b : Bundle) : List Instr :=
  if b.head.mask = 0 then [.nop b.head.s b.head.d] else b.ops

/-- A bundle from the parcels at its address. `super` is true on a supervisor core, whose bundles may not name
slots 6 to 9 (R26, R99). -/
def decodeBundle (super : Bool) (ps : List Nat) : Except DecodeError Bundle :=
  match ps with
  | [] => .error .header
  | h :: rest =>
    match decodeHeader (h % 65536) with
    | none => .error .header
    | some hd =>
      if super && (hd.slots.any fun n => decide (6 ≤ n ∧ n ≤ 9)) then .error .header
      else match decodeFields hd.slots rest with
        | .ok is => .ok ⟨hd, is⟩
        | .error e => .error e

/-! ## Port words (R132 to R135) -/

/-- Codes of the port micro-operations (R134). -/
def POp.code : POp → Nat
  | .fadd => 0x00 | .fsub => 0x01 | .fmul => 0x02 | .fma => 0x03 | .fmin => 0x04 | .fmax => 0x05
  | .fabs => 0x06 | .fneg => 0x07
  | .iadd => 0x08 | .isub => 0x09 | .imul => 0x0A | .and => 0x0B | .or => 0x0C | .xor => 0x0D
  | .shl => 0x0E | .shr => 0x0F
  | .sra => 0x10 | .fclt => 0x11 | .fcle => 0x12 | .fceq => 0x13 | .iclt => 0x14 | .iceq => 0x15
  | .sel => 0x16 | .fcun => 0x17
  | .cvt => 0x18 | .qnt => 0x19 | .dqnt => 0x1A
  | .fexp2 => 0x20 | .flog2 => 0x21 | .frcp => 0x22 | .frsq => 0x23 | .ftanh => 0x24
  | .cmax => 0x28 | .cmin => 0x29 | .csum => 0x2A | .cprev => 0x2B | .cset => 0x2C | .cld => 0x2D
  | .emit => 0x30 | .drop => 0x31 | .amaxw => 0x32

/-- Every port micro-operation. -/
def POp.all : List POp :=
  [.fadd, .fsub, .fmul, .fma, .fmin, .fmax, .fabs, .fneg, .iadd, .isub, .imul, .and, .or, .xor, .shl, .shr,
   .sra, .fclt, .fcle, .fceq, .iclt, .iceq, .sel, .fcun, .cvt, .qnt, .dqnt, .fexp2, .flog2, .frcp, .frsq,
   .ftanh, .cmax, .cmin, .csum, .cprev, .cset, .cld, .emit, .drop, .amaxw]

/-- The micro-operation of a code (R134). -/
def POp.ofCode (v : Nat) : Option POp := POp.all.find? fun o => o.code == v

/-- Which of the fields D, A, B, C, RM, FMT a micro-operation uses (R133). -/
def POp.uses : POp → Bool × Bool × Bool × Bool × Bool × Bool
  | .fma | .sel => (true, true, true, true, false, false)
  | .fabs | .fneg | .fexp2 | .flog2 | .frcp | .frsq | .ftanh
  | .cmax | .cmin | .csum | .cset | .cld => (true, true, false, false, false, false)
  | .cvt => (true, true, false, false, true, true)
  | .qnt | .dqnt => (true, true, true, false, true, true)
  | .cprev => (true, false, false, false, false, false)
  | .emit => (false, true, false, false, false, false)
  | .drop => (false, false, false, false, false, false)
  | .amaxw => (false, true, true, false, false, false)
  | _ => (true, true, true, false, false, false)

/-- A port operand (R132). -/
def POpnd.ofCode (v : Nat) : Option POpnd :=
  if v = 0 then some .x else if v = 1 then some .i
  else if v < 4 then none
  else if v < 8 then some (.w (Fin.ofNat 4 v))
  else if v < 12 then some (.e (Fin.ofNat 4 v))
  else if v < 16 then some (.c (Fin.ofNat 4 v)) else none

/-- Codes of the port operands (R132). -/
def POpnd.code : POpnd → Nat
  | .x => 0 | .i => 1 | .w n => 4 + n.val | .e n => 8 + n.val | .c n => 12 + n.val

/-- The operand names a carried register. -/
def POpnd.isC : POpnd → Bool
  | .c _ => true
  | _ => false

/-- The operand may be written: w0 to w3 or c0 to c3 (R133). -/
def POpnd.isDest : POpnd → Bool
  | .c _ | .w _ => true
  | _ => false

/-- The operand names a constant. -/
def POpnd.isE : POpnd → Bool
  | .e _ => true
  | _ => false

/-- The rules of R133 on the operands of a micro-operation. -/
def PWord.ok (p : PWord) : Bool :=
  match p.op with
  | .cmax | .cmin | .csum | .cset => p.d.isC
  | .cld => p.d.isDest && p.a.isC
  | .amaxw => p.a.isC && p.b.isE
  | .emit | .drop => true
  | _ => p.d.isDest

/-- A port word; none where R133 or R134 reserves it. -/
def decodePort (word : Nat) : Option PWord :=
  match unpack [6, 4, 4, 4, 4, 2, 8] word with
  | [op, d, a, b, c, rm, fmt] => do
    let op ← POp.ofCode op
    let (ud, ua, ub, uc, urm, uf) := op.uses
    let d' ← POpnd.ofCode d
    let a' ← POpnd.ofCode a
    let b' ← POpnd.ofCode b
    let c' ← POpnd.ofCode c
    let rm' ← Rm.ofCode rm
    let fmt' ← Fmt.ofCode fmt
    let p : PWord := ⟨op, d', a', b', c', rm', fmt'⟩
    keepIf ((ud || d == 0) && (ua || a == 0) && (ub || b == 0) && (uc || c == 0) && (urm || rm == 0)
      && (uf || fmt == 0) && p.ok) p
  | _ => none

/-! ## Microwords (R136, R137, R285) -/

/-- A microword; none where R136, R137 or R285 reserves it. -/
def decodeMicro (word : Nat) : Option Instr :=
  match unpack [5, 4, 4, 4, 9, 32, 6] word with
  | [op, sd, sa, sb, tgt, imm, 0] =>
    let d := Fin.ofNat 16 sd
    let a := Fin.ofNat 16 sa
    let b := Fin.ofNat 16 sb
    match op, sd, sa, sb, tgt, imm with
    | 0x00, _, 0, 0, 0, w => keepIf (decide (w < 16)) (.pld d (Fin.ofNat 16 w))
    | 0x01, 0, _, 0, 0, 0 => some (.sgld a)
    | 0x02, _, _, _, 0, 0 => some (.glim d a b)
    | 0x03, 0, _, _, 0, 0 => some (.kgth a b)
    | 0x04, 0, _, _, 0, 0 => some (.vgth a b)
    | 0x05, 0, _, 0, 0, q => keepIf (decide (q < 2)) (.qkmm (bitOf q) a)
    | 0x06, 0, _, 0, 0, 0 => some (.osmx a)
    | 0x07, 0, 0, 0, 0, 0 => some .pvmm
    | 0x08, 0, 0, 0, 0, 0 => some .rscl
    | 0x09, 0, 0, 0, 0, 0 => some .owrt
    | 0x0A, 0, _, _, 0, 0 => some (.sgap a b)
    | 0x0B, 0, 0, 0, 0, g => keepIf (decide (g < 2)) (.ewait (bitOf g))
    | 0x0C, 0, _, 0, 0, sc => keepIf (decide (sc < 8)) (.bsig (Fin.ofNat 8 sc) a)
    | 0x0D, 0, _, 0, _, 0 => some (.loops a (Fin.ofNat 512 tgt))
    | 0x0E, 0, _, _, _, c => keepIf (decide (c < 4)) (.brc (Fin.ofNat 4 c) a b (Fin.ofNat 512 tgt))
    | 0x0F, 0, 0, 0, 0, 0 => some .done
    | 0x10, _, _, 0, 0, _ => some (.saddi d a (BitVec.ofNat 32 imm))
    | 0x11, _, 0, 0, 0, _ => some (.smovi d (BitVec.ofNat 32 imm))
    | _, _, _, _, _, _ => none
  | _ => none

/-! ## The encoder -/

/-- Slot S0 or S1. -/
def sSlot (s1 : Bool) : Nat := if s1 then 2 else 1

/-- The register form of R110. -/
def encR (s1 : Bool) (gd : Guard) (op : Nat) (w : Bool) (d a b : Nat) : Option (Nat × List (Nat × Nat)) :=
  some (sSlot s1, [(4, gd.code), (6, op), (22, pack [(1, 0), (1, w.toNat), (6, d), (7, a), (7, b)])])

/-- The immediate form of R110. -/
def encI (s1 : Bool) (gd : Guard) (op : Nat) (w : Bool) (d a imm : Nat) : Option (Nat × List (Nat × Nat)) :=
  some (sSlot s1, [(4, gd.code), (6, op), (22, pack [(1, 1), (1, w.toNat), (6, d), (7, a), (7, imm)])])

/-- The compare layout of R110, with its I bit. -/
def encP (s1 : Bool) (gd : Guard) (op i : Nat) (w : Bool) (pd : Fin 8) (a b : Nat) :
    Option (Nat × List (Nat × Nat)) :=
  some (sSlot s1,
    [(4, gd.code), (6, op), (22, pack [(1, i), (1, w.toNat), (3, pd.val), (3, 0), (7, a), (7, b)])])

/-- A BR field: G, OP and 23 bits (R113). -/
def encB (gd : Guard) (op : Nat) (fs : List (Nat × Nat)) : Option (Nat × List (Nat × Nat)) :=
  some (0, [(4, gd.code), (5, op), (23, pack fs)])

/-- An LS field: G, OP and 24 bits (R116). -/
def encL (gd : Guard) (op : Nat) (fs : List (Nat × Nat)) : Option (Nat × List (Nat × Nat)) :=
  some (3, [(4, gd.code), (4, op), (24, pack fs)])

/-- A P field (R119). -/
def encPp (gd : Guard) (op : Nat) (k : Bool) (d a b : Fin 8) : Option (Nat × List (Nat × Nat)) :=
  some (4, [(4, gd.code), (2, op), (1, k.toNat), (3, d.val), (3, a.val), (3, b.val)])

/-- An X field (R120). -/
def encX (gd : Guard) (op : Nat) (fs : List (Nat × Nat)) : Option (Nat × List (Nat × Nat)) :=
  some (5, [(4, gd.code), (3, op), (25, pack fs)])

/-- A K field (R121). -/
def encK (gd : Guard) (op : Nat) (fs : List (Nat × Nat)) : Option (Nat × List (Nat × Nat)) :=
  some (6, [(4, gd.code), (2, op), (26, pack fs)])

/-- A T field (R123). -/
def encT (gd : Guard) (op dt st row cnt fs fd rm : Nat) : Option (Nat × List (Nat × Nat)) :=
  some (7, [(4, gd.code), (3, op), (5, dt), (5, st), (6, row), (6, cnt), (8, fs), (8, fd), (2, rm), (1, 0)])

/-- An M field (R125, R126). -/
def encM (gd : Guard) (op : Nat) (fs : List (Nat × Nat)) : Option (Nat × List (Nat × Nat)) :=
  some (8, [(4, gd.code), (3, op), (57, pack fs)])

/-- An R field (R127). -/
def encRd (gd : Guard) (op ax st srow cnt dt drow fs fd pa pz km : Nat) : Option (Nat × List (Nat × Nat)) :=
  some (9, [(4, gd.code), (3, op), (1, ax), (5, st), (6, srow), (6, cnt), (5, dt), (6, drow), (8, fs), (8, fd),
    (5, pa), (5, pz), (2, km)])

/-- A C field (R129). -/
def encC (gd : Guard) (op : Nat) (fs : List (Nat × Nat)) : Option (Nat × List (Nat × Nat)) :=
  some (10, [(4, gd.code), (5, op), (55, pack fs)])

/-- The tile-copy form (R129). -/
def encCopy (gd : Guard) (op : Nat) (t : Fin 32) (row cnt : Fin 64) (a : GSrc) (n : Fin 8) (bar : Fin 1024)
    (p : Option (Fin 16)) (fmt : Fmt) (rm : Rm) (ps : Bool) : Option (Nat × List (Nat × Nat)) :=
  encC gd op [(5, t.val), (6, row.val), (6, cnt.val), (7, a.code), (3, n.val), (10, bar.val), (5, bindCode p),
    (8, fmt.code), (2, rm.code), (1, ps.toNat), (2, 0)]

/-- The gather form (R129). -/
def encGather (gd : Guard) (op : Nat) (t : Fin 32) (row cnt : Fin 64) (a : GSrc) (it : Fin 32) (irow : Fin 64)
    (bar : Fin 1024) (p : Option (Fin 16)) (ps : Bool) (ro fi : Nat) : Option (Nat × List (Nat × Nat)) :=
  encC gd op [(5, t.val), (6, row.val), (6, cnt.val), (7, a.code), (5, it.val), (6, irow.val), (10, bar.val),
    (5, bindCode p), (1, ps.toNat), (2, ro), (1, fi), (1, 0)]

/-- The descriptor form (R129). -/
def encDesc (gd : Guard) (op sub a d bar : Nat) : Option (Nat × List (Nat × Nat)) :=
  encC gd op [(8, sub), (7, a), (6, d), (10, bar), (24, 0)]

/-- The slot and the fields of an operation; none for the steps that are no bundle operation. -/
def encodeFields : Instr → Option (Nat × List (Nat × Nat))
  | .nop _ _ => none
  | .add s1 gd w d a b => encR s1 gd 0x00 w d.code a.code b.code
  | .addImm s1 gd w d a imm => encI s1 gd 0x00 w d.code a.code imm.toNat
  | .sub s1 gd w d a b => encR s1 gd 0x01 w d.code a.code b.code
  | .subImm s1 gd w d a imm => encI s1 gd 0x01 w d.code a.code imm.toNat
  | .mul s1 gd w d a b => encR s1 gd 0x02 w d.code a.code b.code
  | .mulImm s1 gd w d a imm => encI s1 gd 0x02 w d.code a.code imm.toNat
  | .mulh s1 gd w d a b => encR s1 gd 0x03 w d.code a.code b.code
  | .mulhImm s1 gd w d a imm => encI s1 gd 0x03 w d.code a.code imm.toNat
  | .mulhu s1 gd w d a b => encR s1 gd 0x04 w d.code a.code b.code
  | .mulhuImm s1 gd w d a imm => encI s1 gd 0x04 w d.code a.code imm.toNat
  | .and s1 gd w d a b => encR s1 gd 0x09 w d.code a.code b.code
  | .andImm s1 gd w d a imm => encI s1 gd 0x09 w d.code a.code imm.toNat
  | .or s1 gd w d a b => encR s1 gd 0x0A w d.code a.code b.code
  | .orImm s1 gd w d a imm => encI s1 gd 0x0A w d.code a.code imm.toNat
  | .xor s1 gd w d a b => encR s1 gd 0x0B w d.code a.code b.code
  | .xorImm s1 gd w d a imm => encI s1 gd 0x0B w d.code a.code imm.toNat
  | .andn s1 gd w d a b => encR s1 gd 0x0C w d.code a.code b.code
  | .andnImm s1 gd w d a imm => encI s1 gd 0x0C w d.code a.code imm.toNat
  | .min s1 gd w d a b => encR s1 gd 0x11 w d.code a.code b.code
  | .minImm s1 gd w d a imm => encI s1 gd 0x11 w d.code a.code imm.toNat
  | .max s1 gd w d a b => encR s1 gd 0x12 w d.code a.code b.code
  | .maxImm s1 gd w d a imm => encI s1 gd 0x12 w d.code a.code imm.toNat
  | .minu s1 gd w d a b => encR s1 gd 0x13 w d.code a.code b.code
  | .minuImm s1 gd w d a imm => encI s1 gd 0x13 w d.code a.code imm.toNat
  | .maxu s1 gd w d a b => encR s1 gd 0x14 w d.code a.code b.code
  | .maxuImm s1 gd w d a imm => encI s1 gd 0x14 w d.code a.code imm.toNat
  | .shl s1 gd w d a b => encR s1 gd 0x0D w d.code a.code b.code
  | .shlImm s1 gd w d a c => encI s1 gd 0x0D w d.code a.code c.val
  | .shr s1 gd w d a b => encR s1 gd 0x0E w d.code a.code b.code
  | .shrImm s1 gd w d a c => encI s1 gd 0x0E w d.code a.code c.val
  | .sra s1 gd w d a b => encR s1 gd 0x0F w d.code a.code b.code
  | .sraImm s1 gd w d a c => encI s1 gd 0x0F w d.code a.code c.val
  | .rotr s1 gd w d a b => encR s1 gd 0x10 w d.code a.code b.code
  | .rotrImm s1 gd w d a c => encI s1 gd 0x10 w d.code a.code c.val
  | .div s1 gd w d a b => encR s1 gd 0x05 w d.val a.code b.code
  | .divImm s1 gd w d a imm => encI s1 gd 0x05 w d.val a.code imm.toNat
  | .divu s1 gd w d a b => encR s1 gd 0x06 w d.val a.code b.code
  | .divuImm s1 gd w d a imm => encI s1 gd 0x06 w d.val a.code imm.toNat
  | .rem s1 gd w d a b => encR s1 gd 0x07 w d.val a.code b.code
  | .remImm s1 gd w d a imm => encI s1 gd 0x07 w d.val a.code imm.toNat
  | .remu s1 gd w d a b => encR s1 gd 0x08 w d.val a.code b.code
  | .remuImm s1 gd w d a imm => encI s1 gd 0x08 w d.val a.code imm.toNat
  | .clz s1 gd w d a => encR s1 gd 0x15 w d.code a.code 0
  | .popc s1 gd w d a => encR s1 gd 0x16 w d.code a.code 0
  | .cmpeq s1 gd w pd a b => encP s1 gd 0x28 0 w pd a.code b.code
  | .cmpeqImm s1 gd w pd a imm => encP s1 gd 0x28 1 w pd a.code imm.toNat
  | .cmpne s1 gd w pd a b => encP s1 gd 0x29 0 w pd a.code b.code
  | .cmpneImm s1 gd w pd a imm => encP s1 gd 0x29 1 w pd a.code imm.toNat
  | .cmplt s1 gd w pd a b => encP s1 gd 0x2A 0 w pd a.code b.code
  | .cmpltImm s1 gd w pd a imm => encP s1 gd 0x2A 1 w pd a.code imm.toNat
  | .cmple s1 gd w pd a b => encP s1 gd 0x2B 0 w pd a.code b.code
  | .cmpleImm s1 gd w pd a imm => encP s1 gd 0x2B 1 w pd a.code imm.toNat
  | .cmpltu s1 gd w pd a b => encP s1 gd 0x2C 0 w pd a.code b.code
  | .cmpltuImm s1 gd w pd a imm => encP s1 gd 0x2C 1 w pd a.code imm.toNat
  | .cmpleu s1 gd w pd a b => encP s1 gd 0x2D 0 w pd a.code b.code
  | .cmpleuImm s1 gd w pd a imm => encP s1 gd 0x2D 1 w pd a.code imm.toNat
  | .fadd s1 gd d a b => encR s1 gd 0x18 false d.code a.code b.code
  | .fsub s1 gd d a b => encR s1 gd 0x19 false d.code a.code b.code
  | .fmul s1 gd d a b => encR s1 gd 0x1A false d.code a.code b.code
  | .fmin s1 gd d a b => encR s1 gd 0x1C false d.code a.code b.code
  | .fmax s1 gd d a b => encR s1 gd 0x1D false d.code a.code b.code
  | .fma s1 gd d a b => encR s1 gd 0x1B false d.val a.code b.code
  | .fdiv s1 gd d a b => encR s1 gd 0x1E false d.val a.code b.code
  | .fsqrt s1 gd d a => encR s1 gd 0x1F false d.val a.code 0
  | .fabs s1 gd d a => encR s1 gd 0x20 false d.code a.code 0
  | .fneg s1 gd d a => encR s1 gd 0x21 false d.code a.code 0
  | .fcvti s1 gd d a rm => encR s1 gd 0x22 false d.code a.code rm.code
  | .icvtf s1 gd d a rm => encR s1 gd 0x23 false d.code a.code rm.code
  | .fcmpeq s1 gd pd a b => encP s1 gd 0x2E 0 false pd a.code b.code
  | .fcmplt s1 gd pd a b => encP s1 gd 0x2F 0 false pd a.code b.code
  | .fcmple s1 gd pd a b => encP s1 gd 0x30 0 false pd a.code b.code
  | .fcmpun s1 gd pd a b => encP s1 gd 0x31 0 false pd a.code b.code
  | .movw s1 gd hw z d imm =>
    some (sSlot s1, [(4, gd.code), (6, 0x3C + hw.val), (22, pack [(1, z.toNat), (5, d.val), (16, imm.toNat)])])
  | .bra gd off => encB gd 0x00 [(23, off.toNat)]
  | .bri gd a => encB gd 0x01 [(7, a.code), (16, 0)]
  | .call gd off => encB gd 0x02 [(23, off.toNat)]
  | .loop gd len a => encB gd 0x03 [(8, len.val), (1, 0), (14, pack [(7, a.code), (7, 0)])]
  | .loopImm gd len count => encB gd 0x03 [(8, len.val), (1, 1), (14, count.val)]
  | .loopn gd st len n ga gb => encB gd (0x04 + st.val) [(10, len.val), (3, n.val), (5, ga.val), (5, gb.val)]
  | .xrd gd d xn => encB gd 0x08 [(5, d.val), (8, xn.code), (10, 0)]
  | .xwr gd a xn => encB gd 0x09 [(7, a.code), (8, xn.code), (8, 0)]
  | .fence gd sc => encB gd 0x0A [(3, sc.val), (20, 0)]
  | .drain gd => encB gd 0x0B [(23, 0)]
  | .bara gd sc bar => encB gd 0x0C [(3, sc.val), (10, bar.val), (10, 0)]
  | .barw gd sc bar => encB gd 0x0D [(3, sc.val), (10, bar.val), (10, 0)]
  | .barp gd sc bar pd => encB gd 0x0E [(3, sc.val), (10, bar.val), (3, pd.val), (7, 0)]
  | .lnstart gd a b => encB gd 0x10 [(7, a.code), (7, b.code), (9, 0)]
  | .nsub gd a => encB gd 0x11 [(7, a.code), (16, 0)]
  | .retire gd => encB gd 0x12 [(23, 0)]
  | .trapi gd imm => encB gd 0x13 [(16, imm.toNat), (7, 0)]
  | .breakI gd => encB gd 0x14 [(23, 0)]
  | .eret gd => encB gd 0x18 [(23, 0)]
  | .tblrd gd d tbl a => encB gd 0x19 [(5, d.val), (4, tbl.val), (7, a.code), (7, 0)]
  | .tblwr gd tbl a b => encB gd 0x1A [(4, tbl.val), (7, a.code), (7, b.code), (5, 0)]
  | .ctxfrz gd a => encB gd 0x1B [(7, a.code), (16, 0)]
  | .ctxres gd a => encB gd 0x1C [(7, a.code), (16, 0)]
  | .ld gd sz d a off => encL gd 0x0 [(2, sz.val), (6, d.val), (7, a.code), (9, off.toNat)]
  | .ldsx gd sz d a off => encL gd 0x1 [(2, sz.val), (6, d.val), (7, a.code), (9, off.toNat)]
  | .st gd sz v a off => encL gd 0x2 [(2, sz.val), (7, v.code), (7, a.code), (8, off.toNat)]
  | .tmcst gd sz v a off => encL gd 0x3 [(2, sz.val), (7, v.code), (7, a.code), (8, off.toNat)]
  | .aadd gd sz d a v => encL gd 0x4 [(2, sz.val), (6, d.val), (7, a.code), (7, v.code), (2, 0)]
  | .amax gd sz d a v => encL gd 0x5 [(2, sz.val), (6, d.val), (7, a.code), (7, v.code), (2, 0)]
  | .amin gd sz d a v => encL gd 0x6 [(2, sz.val), (6, d.val), (7, a.code), (7, v.code), (2, 0)]
  | .acas gd sz d a v => encL gd 0x7 [(2, sz.val), (6, d.val), (7, a.code), (7, v.code), (2, 0)]
  | .aswp gd sz d a v => encL gd 0x8 [(2, sz.val), (6, d.val), (7, a.code), (7, v.code), (2, 0)]
  | .pAnd gd k d a b => encPp gd 0 k d a b
  | .pOr gd k d a b => encPp gd 1 k d a b
  | .pXor gd k d a b => encPp gd 2 k d a b
  | .pAndn gd k d a b => encPp gd 3 k d a b
  | .vcmp a hb => some (11, [(2, 0), (7, a.code), (4, hb.val), (3, 0)])
  | .aqpush gd sz a => encX gd 0 [(1, sz.toNat), (7, a.code), (17, 0)]
  | .dqpop gd d => encX gd 1 [(6, d.code), (19, 0)]
  | .dqpopt gd t row seg => encX gd 2 [(5, t.val), (6, row.val), (4, seg.val), (10, 0)]
  | .aqstat gd d => encX gd 3 [(5, d.val), (20, 0)]
  | .kset gd side lat a => encK gd 0 [(1, side.toNat), (4, lat.val), (7, a.code), (14, 0)]
  | .kseti gd side lat imm => encK gd 1 [(1, side.toNat), (4, lat.val), (8, imm.toNat), (13, 0)]
  | .kclr gd side => encK gd 2 [(1, side.toNat), (25, 0)]
  | .xcvt gd dt st row cnt fs fd rm => encT gd 0 dt.val st.val row.val cnt.val fs.code fd.code rm.code
  | .xexp gd dt st row cnt fs fd => encT gd 1 dt.val st.val row.val cnt.val fs.code fd.code 0
  | .xtbl gd st row => encT gd 2 0 st.val row.val 0 0 0 0
  | .xtrn gd dt st row cnt fs fd => encT gd 3 dt.val st.val row.val cnt.val fs.code fd.code 0
  | .xhad gd dt st row cnt n seed fd =>
    encT gd 4 dt.val st.val row.val cnt.val (n.val * 32 + seed.val) fd.code 0
  | .mldb gd bk bt fb pb => encM gd 0 [(2, bk.val), (5, bt.val), (8, fb.code), (5, bindCode pb), (37, 0)]
  | .mmul gd bk at_ arow acnt fa acc zt zf pa pz =>
    encM gd 1 [(2, bk.val), (5, at_.val), (6, arow.val), (6, acnt.val), (8, fa.code), (1, acc.toNat), (5, zt.val),
      (2, zf.code), (5, bindCode pa), (5, bindCode pz), (11, 0), (1, 0)]
  | .mmuls gd bk at_ arow acnt fa acc zt zf pa pz st srow =>
    encM gd 2 [(2, bk.val), (5, at_.val), (6, arow.val), (6, acnt.val), (8, fa.code), (1, acc.toNat), (5, zt.val),
      (2, zf.code), (5, bindCode pa), (5, bindCode pz), (5, st.val), (6, srow.val), (1, 0)]
  | .tdaddr gd y0 cnt t row a b =>
    encM gd 3 [(6, y0.val), (6, cnt.val), (5, t.val), (6, row.val), (5, 0), (7, a.code), (7, b.code), (1, 0), (14, 0)]
  | .tdaddrAq gd y0 cnt a b =>
    encM gd 3 [(6, y0.val), (6, cnt.val), (5, 0), (6, 0), (5, 0), (7, a.code), (7, b.code), (1, 1), (14, 0)]
  | .tdesc gd y0 cnt t row lv =>
    encM gd 4 [(6, y0.val), (6, cnt.val), (5, t.val), (6, row.val), (5, lv.val), (29, 0)]
  | .tdleaf gd y0 cnt t row => encM gd 5 [(6, y0.val), (6, cnt.val), (5, t.val), (6, row.val), (34, 0)]
  | .tdpath gd y0 cnt t row => encM gd 6 [(6, y0.val), (6, cnt.val), (5, t.val), (6, row.val), (34, 0)]
  | .rsum gd ax st srow cnt dt drow fs fd pa pz km =>
    encRd gd 0 ax.toNat st.val srow.val cnt.val dt.val drow.val fs.code fd.code (bindCode pa) (bindCode pz) km.val
  | .rmax gd ax st srow cnt dt drow fs fd pa pz km =>
    encRd gd 1 ax.toNat st.val srow.val cnt.val dt.val drow.val fs.code fd.code (bindCode pa) (bindCode pz) km.val
  | .rssq gd ax st srow cnt dt drow fs fd pa pz km =>
    encRd gd 2 ax.toNat st.val srow.val cnt.val dt.val drow.val fs.code fd.code (bindCode pa) (bindCode pz) km.val
  | .rnorm gd ax st srow cnt dt drow fs fd pa pz km =>
    encRd gd 3 ax.toNat st.val srow.val cnt.val dt.val drow.val fs.code fd.code (bindCode pa) (bindCode pz) km.val
  | .rsortk gd st srow cnt dt drow y0 => encRd gd 4 0 st.val srow.val cnt.val dt.val drow.val y0.val 0 0 0 0
  | .rcmpr gd st srow cnt dt drow fs sel part =>
    encRd gd 5 0 st.val srow.val cnt.val dt.val drow.val fs.code sel.val 0 0 part.val
  | .tld gd t row cnt a n bar p fmt rm ps => encCopy gd 0x00 t row cnt a n bar p fmt rm ps
  | .tst gd t row cnt a n bar p fmt rm ps => encCopy gd 0x01 t row cnt a n bar p fmt rm ps
  | .tldc gd t row cnt a n bar p fmt rm xr =>
    encC gd 0x02 [(5, t.val), (6, row.val), (6, cnt.val), (7, a.code), (3, n.val), (10, bar.val), (5, bindCode p),
      (8, fmt.code), (2, rm.code), (3, xr.val)]
  | .twin gd t row cnt a n bar p fmt rm ps => encCopy gd 0x03 t row cnt a n bar p fmt rm ps
  | .tgath gd t row cnt a it irow bar p ps => encGather gd 0x04 t row cnt a it irow bar p ps 0 0
  | .tgath2 gd t row cnt a it irow bar p ps => encGather gd 0x05 t row cnt a it irow bar p ps 0 0
  | .tscat gd t row cnt a it irow bar p ps => encGather gd 0x06 t row cnt a it irow bar p ps 0 0
  | .tredAdd gd t row cnt a it irow bar p ps i32 => encGather gd 0x07 t row cnt a it irow bar p ps 0 i32.toNat
  | .tredMax gd t row cnt a it irow bar p ps i32 => encGather gd 0x07 t row cnt a it irow bar p ps 1 i32.toNat
  | .nset gd n l a b => encC gd 0x08 [(3, n.val), (3, l.val), (7, a.code), (7, b.code), (35, 0)]
  | .nclr gd n => encC gd 0x09 [(3, n.val), (52, 0)]
  | .nmcSgdfade gd a bar => encDesc gd 0x0A 1 a.code 0 bar.val
  | .nmcFill gd a bar => encDesc gd 0x0A 2 a.code 0 bar.val
  | .nmcCopy gd a bar => encDesc gd 0x0A 3 a.code 0 bar.val
  | .nmcScale gd a bar => encDesc gd 0x0A 4 a.code 0 bar.val
  | .nmcAccum gd a bar => encDesc gd 0x0A 5 a.code 0 bar.val
  | .nmfence gd (some k) => encDesc gd 0x0B k.val 0 0 0
  | .nmfence gd none => encDesc gd 0x0B 0x1F 0 0 0
  | .lsend gd port vl a bar =>
    encC gd 0x0C [(4, port.val), (2, vl.val), (2, 0), (7, a.code), (6, 0), (10, bar.val), (24, 0)]
  | .lrecv gd port vl a bar =>
    encC gd 0x0D [(4, port.val), (2, vl.val), (2, 0), (7, a.code), (6, 0), (10, bar.val), (24, 0)]
  | .lstat gd d port => encC gd 0x0E [(4, port.val), (4, 0), (7, 0), (6, d.val), (10, 0), (24, 0)]
  | .imgdec gd a bar => encDesc gd 0x0F 0 a.code 0 bar.val
  | .slabgrow gd a bar => encDesc gd 0x10 0 a.code 0 bar.val
  | .lanternStart | .pld .. | .sgld .. | .glim .. | .kgth .. | .vgth .. | .qkmm .. | .osmx .. | .pvmm | .rscl
  | .owrt | .sgap .. | .ewait .. | .bsig .. | .loops .. | .brc .. | .done | .saddi .. | .smovi ..
  | .exposedResultDelivery .. | .longLatencyLanding .. | .tmcstLanding .. | .watchdog .. | .segmentExpansion ..
  | .chunkPerform .. | .ringClaim .. | .dataQueueArrival .. | .asyncTrap .. | .nmcExecution ..
  | .imageDecode .. | .slabgrowChunk .. | .freezeLimit .. | .contextFreeze .. | .saveImageWritten ..
  | .shoot .. | .wake .. | .barrierCfgWrite .. | .barrierForce .. | .pkgWordWrite .. | .scopeWordWrite ..
  | .pageFaultService .. | .pageEviction .. | .copyOnWrite .. | .nodeAccept .. | .dispatch .. | .nodeAging ..
  | .nodeComplete .. | .groupEnd .. | .groupMigration .. | .messageSend .. | .messageReceive .. | .laneLoss ..
  | .flitReplayLimit .. | .trainingFrame .. | .trainingEnd .. | .trainingTimeout .. | .portDrainRequest ..
  | .portResetRequest .. | .fabricPathLoss .. | .alloc .. | .free .. | .copyin .. | .copyout .. | .load ..
  | .unload .. | .submit .. | .queryNode .. | .queryKernel .. | .queryPort .. | .queryPool .. | .outboxRead ..
  | .cstatWrite .. | .pcieLinkLoss .. | .attestation .. | .packageReset .. | .testModeRequest ..
  | .powerClampWindow .. | .thermalTrip .. | .requestDropped .. | .malformedRequest .. => none

/-- The slot and the field word of an operation (R96). -/
def encode (i : Instr) : Option (Nat × Nat) := (encodeFields i).map fun p => (p.1, pack p.2)

/-- The header of a bundle of one slot, or of none, with its stop and drain bits (R97). -/
def encodeHeader (h : Header) : Nat := pack [(12, h.mask), (1, h.s.toNat), (1, h.d.toNat), (2, 0)]

/-- A field word as its parcels, lowest first (R96). -/
def parcelsOf : Nat → Nat → List Nat
  | 0, _ => []
  | n + 1, w => w % 65536 :: parcelsOf n (w / 65536)

/-- The parcels of a bundle that holds one operation, with S = 1 and D = 0. -/
def encodeOne (i : Instr) : List Nat :=
  match i with
  | .nop s d => [encodeHeader ⟨0, s, d⟩]
  | i => match encode i with
    | some (slot, w) => encodeHeader ⟨2 ^ slot, true, false⟩ :: parcelsOf (slotParcels slot) w
    | none => []

/-- A microword from its fields (R136). -/
def packMicro (op sd sa sb tgt imm : Nat) : Nat :=
  pack [(5, op), (4, sd), (4, sa), (4, sb), (9, tgt), (32, imm), (6, 0)]

/-- The microword of a Lantern microinstruction (R285). -/
def encodeMicro : Instr → Option Nat
  | .pld d w => some (packMicro 0x00 d.val 0 0 0 w.val)
  | .sgld a => some (packMicro 0x01 0 a.val 0 0 0)
  | .glim d a b => some (packMicro 0x02 d.val a.val b.val 0 0)
  | .kgth a b => some (packMicro 0x03 0 a.val b.val 0 0)
  | .vgth a b => some (packMicro 0x04 0 a.val b.val 0 0)
  | .qkmm q a => some (packMicro 0x05 0 a.val 0 0 q.toNat)
  | .osmx a => some (packMicro 0x06 0 a.val 0 0 0)
  | .pvmm => some (packMicro 0x07 0 0 0 0 0)
  | .rscl => some (packMicro 0x08 0 0 0 0 0)
  | .owrt => some (packMicro 0x09 0 0 0 0 0)
  | .sgap a b => some (packMicro 0x0A 0 a.val b.val 0 0)
  | .ewait g => some (packMicro 0x0B 0 0 0 0 g.toNat)
  | .bsig sc a => some (packMicro 0x0C 0 a.val 0 0 sc.val)
  | .loops a tgt => some (packMicro 0x0D 0 a.val 0 tgt.val 0)
  | .brc c a b tgt => some (packMicro 0x0E 0 a.val b.val tgt.val c.val)
  | .done => some (packMicro 0x0F 0 0 0 0 0)
  | .saddi d a imm => some (packMicro 0x10 d.val a.val 0 0 imm.toNat)
  | .smovi d imm => some (packMicro 0x11 d.val 0 0 0 imm.toNat)
  | _ => none

/-! ## Words of the opcode table -/

/-- How many ones of a field word lie in the bits its slot's encoding fixes (R110 to R122). -/
def fixedOnes (slot w : Nat) : Nat :=
  let ones (hi lo : Nat) : Nat := ((List.range (hi + 1 - lo)).map fun k => (bitAt w (lo + k)).toNat).sum
  match slot with
  | 0 =>
    if bits w 27 25 = 1 then 1
    else ones 27 23 + (if bits w 27 23 = 3 then ones 14 14 else 0)
  | 1 => if bits w 27 24 = 15 then 4 else ones 27 21
  | 3 => ones 27 24 + (if 4 ≤ bits w 27 24 then ones 23 23 else 0)
  | 4 => ones 11 10
  | 5 => ones 27 25
  | 6 => ones 27 26
  | _ => 0

/-- The reading of a word as a field of one of the slots listed: the slot whose encoding fixes more of the word's
ones; of two equal, the earlier listed. -/
def bestSlot (w : Nat) : List Nat → Option (Nat × Instr)
  | [] => none
  | n :: ns =>
    match decodeSlot n w, bestSlot w ns with
    | none, b => b
    | some i, none => some (fixedOnes n w, i)
    | some i, some b => if b.1 > fixedOnes n w then some b else some (fixedOnes n w, i)

/-- The instruction the decoder reads from a word of the opcode table, whose rows are headers or single slot fields.
The table gives fields of different slots the same bits and no slot number, so the slot is chosen: a 16-bit word with
no slot bit is a header, else a field of slot P or V; a 32-bit word a field of slot S0, BR, LS, X or K; a 48-bit word
of slot T; a 64-bit word of slot C, M or R, else a microword. -/
def decodeTableWord (nbits w : Nat) : Option Instr :=
  match nbits with
  | 16 => if w / 16 = 0 then
      (match decodeHeader w with
       | some h => some (.nop h.s h.d)
       | none => none)
    else (bestSlot w [4, 11]).map (·.2)
  | 32 => (bestSlot w [1, 0, 3, 5, 6]).map (·.2)
  | 48 => decodeSlot 7 w
  | 64 => match decodeSlot 10 w with
    | some i => some i
    | none => match decodeSlot 8 w with
      | some i => some i
      | none => match decodeSlot 9 w with
        | some i => some i
        | none => decodeMicro w
  | _ => none

end Sys2Proof
end

