-- ==== Sys2Proof/Machine/Flags.lean ====
section
/-!
DEFINITION. Numbers: element formats, exact values, rounding, conversions, FP32 arithmetic, the special functions
and every numeric flag (spec 02 R29 to R55; 08 R265).
-/
namespace Sys2Proof

/-! ## Flags (R41) -/

/-- Bits 17..8 of xstatus (R41): SAT, RNG, INV, DNAN, OVF, UNF, two reserved, IFE, QFE from bit 0 up. -/
abbrev Flags := BitVec 10

/-- No flag. -/
def noFlags : Flags := 0
def flagSAT : Flags := 0x001
def flagRNG : Flags := 0x002
def flagINV : Flags := 0x004
def flagDNAN : Flags := 0x008
def flagOVF : Flags := 0x010
def flagUNF : Flags := 0x020
/-- IFE, the enable of KIND 1 port faults (R41). -/
def Flags.ife (f : Flags) : Bool := f.getLsbD 8
/-- QFE, the enable of KIND 2 port faults (R41). -/
def Flags.qfe (f : Flags) : Bool := f.getLsbD 9
/-- The bits an XWR may write: 15..14 of xstatus are reserved (R41). -/
def flagsWritable : Flags := 0x33F

/-- A flag where a condition holds. -/
def flagIf (c : Bool) (f : Flags) : Flags := if c then f else 0

/-! ## Exact values -/

/-- An exact value: a NaN, an infinity, or (-1)^neg * m * 2^e. A zero keeps its sign. -/
inductive Val where
  | nan (signalling : Bool)
  | inf (neg : Bool)
  | fin (neg : Bool) (m : Nat) (e : Int)
deriving DecidableEq, Repr

/-- A floating format of R35: widths of e and m, bias, and whether it has infinities and NaN codes by the rule of
IEEE 754 (`ieee`), by that of E4M3 (`e4m3`), or none (`none`). -/
inductive FKind where
  | ieee | e4m3 | none
deriving DecidableEq, Repr

/-- The layout of a floating format (R35). -/
structure FloatFmt where
  eb : Nat
  mb : Nat
  bias : Nat
  kind : FKind
deriving DecidableEq, Repr

def fp32 : FloatFmt := ⟨8, 23, 127, .ieee⟩
def bf16Fl : FloatFmt := ⟨8, 7, 127, .ieee⟩
def fp16Fl : FloatFmt := ⟨5, 10, 15, .ieee⟩
def e4m3Fl : FloatFmt := ⟨4, 3, 7, .e4m3⟩
def e5m2Fl : FloatFmt := ⟨5, 2, 15, .ieee⟩
def e2m3Fl : FloatFmt := ⟨2, 3, 1, .none⟩
def e3m2Fl : FloatFmt := ⟨3, 2, 3, .none⟩
def e2m1Fl : FloatFmt := ⟨2, 1, 1, .none⟩

/-- What an element format holds (R29, R33, R35): an integer of a width and signedness, a floating value, or bare
bytes or codes. -/
inductive FmtKind where
  | int (signed : Bool)
  | float (f : FloatFmt)
  | bytes
deriving DecidableEq, Repr

/-- Width in bits of an element (R29); the zero-run format has 8-bit elements once read. -/
def Fmt.width : Fmt → Nat
  | .raw | .i8 | .u8 | .e4m3 | .e5m2 | .mxi8 | .mxe4m3 | .mxe5m2 | .zr8 => 8
  | .i4 | .e2m1 | .mxe2m1 | .cb4 => 4
  | .e2m3 | .e3m2 | .mxe2m3 | .mxe3m2 => 6
  | .i16 | .bf16 | .f16 => 16
  | .i32 | .f32 => 32

/-- The kind of an element format; an MX code stands for its element format (R42, R43). -/
def Fmt.kind : Fmt → FmtKind
  | .raw | .cb4 => .bytes
  | .i8 | .zr8 | .mxi8 | .i4 | .i16 | .i32 => .int true
  | .u8 => .int false
  | .f32 => .float fp32
  | .bf16 => .float bf16Fl
  | .f16 => .float fp16Fl
  | .e4m3 | .mxe4m3 => .float e4m3Fl
  | .e5m2 | .mxe5m2 => .float e5m2Fl
  | .e2m1 | .mxe2m1 => .float e2m1Fl
  | .e2m3 | .mxe2m3 => .float e2m3Fl
  | .e3m2 | .mxe3m2 => .float e3m2Fl

/-- An integer format. -/
def Fmt.isInt (f : Fmt) : Bool :=
  match f.kind with
  | .int _ => true
  | _ => false

/-- A floating format. -/
def Fmt.isFloat (f : Fmt) : Bool :=
  match f.kind with
  | .float _ => true
  | _ => false

/-- An MX format (R42). -/
def Fmt.isMx : Fmt → Bool
  | .mxi8 | .mxe4m3 | .mxe5m2 | .mxe2m3 | .mxe3m2 | .mxe2m1 => true
  | _ => false

/-- The codes 0x01 to 0x05 and 0x10 to 0x17, which conversions accept (R228, R262, R263). -/
def Fmt.isPlain : Fmt → Bool
  | .i8 | .u8 | .i4 | .i16 | .i32 | .f32 | .bf16 | .f16 | .e4m3 | .e5m2 | .e2m1 | .e2m3 | .e3m2 => true
  | _ => false

/-- The codes copies accept (R182). -/
def Fmt.isCopy (f : Fmt) : Bool := f.isPlain || f == .raw || f == .cb4

/-- The value of a floating code (R35, R36). -/
def FloatFmt.value (f : FloatFmt) (code : Nat) : Val :=
  let m := code % 2 ^ f.mb
  let e := code / 2 ^ f.mb % 2 ^ f.eb
  let neg := bitAt code (f.eb + f.mb)
  let top := 2 ^ f.eb - 1
  if f.kind = .ieee ∧ e = top then
    if m = 0 then .inf neg else .nan (!(bitAt m (f.mb - 1)))
  else if f.kind = .e4m3 ∧ e = top ∧ m = 2 ^ f.mb - 1 then .nan false
  else if e = 0 then .fin neg m (1 - (f.bias : Int) - f.mb)
  else .fin neg (2 ^ f.mb + m) ((e : Int) - f.bias - f.mb)

/-- An integer as an exact value. -/
def Val.ofInt (v : Int) : Val := .fin (decide (v < 0)) v.natAbs 0

/-- The value of an element code (R33, R35, R43 without its 2^-6). -/
def Fmt.value (f : Fmt) (code : Nat) : Val :=
  match f.kind with
  | .int true => .ofInt (sx code f.width)
  | .int false => .ofInt code
  | .float ff => ff.value code
  | .bytes => .ofInt code

/-- The canonical NaN of a floating format; +0 where it has none (R36, R39). -/
def FloatFmt.nanCode (f : FloatFmt) : Nat :=
  match f.kind with
  | .ieee => (2 ^ f.eb - 1) * 2 ^ f.mb + 2 ^ (f.mb - 1)
  | .e4m3 => 2 ^ (f.eb + f.mb) - 1
  | .none => 0

/-- The code of an infinity (R35). -/
def FloatFmt.infCode (f : FloatFmt) : Nat := (2 ^ f.eb - 1) * 2 ^ f.mb

/-- The code of the greatest finite magnitude (R35). -/
def FloatFmt.maxCode (f : FloatFmt) : Nat :=
  match f.kind with
  | .ieee => (2 ^ f.eb - 1) * 2 ^ f.mb - 1
  | .e4m3 => 2 ^ (f.eb + f.mb) - 2
  | .none => 2 ^ (f.eb + f.mb) - 1

/-- A code with its sign. -/
def FloatFmt.signed (f : FloatFmt) (neg : Bool) (mag : Nat) : Nat := neg.toNat * 2 ^ (f.eb + f.mb) + mag

/-! ## Rounding (R38) -/

/-- Round the magnitude m * 2^e, plus a remainder below one unit of m when `sticky`, to a whole number of 2^q. `u` is
bits 63..48 of the keyed generator, read by stochastic rounding only. The flag says whether it is inexact. -/
def roundMag (rm : Rm) (u : Nat) (m : Nat) (e q : Int) (sticky : Bool) : Nat × Bool :=
  if e ≥ q then (m * 2 ^ (e - q).toNat, sticky)
  else
    let sh := (q - e).toNat
    let n := m / 2 ^ sh
    let r := m % 2 ^ sh
    let inexact := r != 0 || sticky
    let up := match rm with
      | .rne =>
        if 2 * r = 2 ^ sh then sticky || n % 2 == 1 else decide (2 * r > 2 ^ sh)
      | .rz => false
      | .sr => inexact && decide (u < r * 65536 / 2 ^ sh)
    (if up then n + 1 else n, inexact)

/-- Exponent of the leading 1 of m * 2^e, for m not 0. -/
def leadExp (m : Nat) (e : Int) : Int := (Nat.log2 m : Int) + e

/-- Convert an exact magnitude to a floating format (R38, R39). -/
def FloatFmt.round (f : FloatFmt) (rm : Rm) (u : Nat) (neg : Bool) (m : Nat) (e : Int) (sticky : Bool) :
    Nat × Flags :=
  if m = 0 ∧ sticky = false then (f.signed neg 0, 0)
  else
    let emin : Int := 1 - (f.bias : Int)
    let lead := if m = 0 then e - 1 else leadExp m e
    let q : Int := max lead emin - f.mb
    let (n, inexact) := roundMag rm u m e q sticky
    -- the magnitude n * 2^q as a code on the unbounded grid
    let code : Nat := if n = 0 then 0
      else
        let l := leadExp n q
        if l < emin then n
        else ((l - emin + 1).toNat) * 2 ^ f.mb +
          (if l - f.mb ≥ q then n / 2 ^ (l - f.mb - q).toNat else n * 2 ^ (q - (l - f.mb)).toNat) % 2 ^ f.mb
    -- |x| above the greatest finite value
    let above := decide (f.maxCode < code) ||
      (code == f.maxCode && inexact && (roundMag .rz 0 m e q sticky).1 == n)
    if above && decide (f.maxCode < code ∨ rm ≠ .rne ∨ f.kind ≠ .ieee) then
      if f.kind = .ieee ∧ rm = .rne then (f.signed neg f.infCode, flagOVF)
      else (f.signed neg f.maxCode, flagSAT)
    else
      (f.signed neg code, flagIf (inexact && decide (code < 2 ^ f.mb)) flagUNF)

/-- Convert a value to a floating format by the table of R39. -/
def FloatFmt.convert (f : FloatFmt) (rm : Rm) (u : Nat) : Val → Nat × Flags
  | .nan sig =>
    match f.kind with
    | .none => (0, flagINV)
    | _ => (f.nanCode, flagIf sig flagINV)
  | .inf neg =>
    match f.kind with
    | .ieee => (f.signed neg f.infCode, 0)
    | _ => (f.signed neg f.maxCode, flagSAT)
  | .fin neg m e => f.round rm u neg m e false

/-- Least and greatest value of an integer format (R33). -/
def intRange (w : Nat) (signed : Bool) : Int × Int :=
  if signed then (-(2 ^ (w - 1) : Int), 2 ^ (w - 1) - 1) else (0, 2 ^ w - 1)

/-- Saturate an integer to a range; the flag is SAT (R39). -/
def satInt (w : Nat) (signed : Bool) (v : Int) : Int × Flags :=
  let (lo, hi) := intRange w signed
  if v < lo then (lo, flagSAT) else if hi < v then (hi, flagSAT) else (v, 0)

/-- A value rounded to an integer of the unbounded grid (R38). -/
def roundInt (rm : Rm) (u : Nat) (neg : Bool) (m : Nat) (e : Int) : Int :=
  let n := (roundMag rm u m e 0 false).1
  if neg then -(n : Int) else n

/-- The value is not an integer. -/
def isFrac (m : Nat) (e : Int) : Bool := (roundMag .rz 0 m e 0 false).2

/-- Convert a value to an integer format (R39); the result is the integer. A fraction that becomes 0 sets UNF (log 54), a
negative one that saturates to 0 in an unsigned format among them (log 81). -/
def convertInt (w : Nat) (signed : Bool) (rm : Rm) (u : Nat) : Val → Int × Flags
  | .nan _ => (0, flagINV)
  | .inf neg => let r := intRange w signed; (if neg then r.1 else r.2, flagSAT)
  | .fin neg m e =>
    let r := satInt w signed (roundInt rm u neg m e)
    (r.1, r.2 ||| flagIf (decide (r.1 = 0) && isFrac m e) flagUNF)

/-- `convert(v, F, RM)` of R139: the code of the result and the flags. Raw bytes and CB4 codes take their low bits
(R246). -/
def Fmt.convert (f : Fmt) (rm : Rm) (u : Nat) (v : Val) : Nat × Flags :=
  match f.kind with
  | .float ff => ff.convert rm u v
  | .int s => let r := convertInt f.width s rm u v; (wrapN r.1 f.width, r.2)
  | .bytes =>
    match v with
    | .fin neg m e => (wrapN (roundInt .rz 0 neg m e) f.width, 0)
    | _ => (0, 0)

/-! ## FP32 arithmetic (R37) -/

/-- The FP32 value of a pattern. -/
def f32v (x : Nat) : Val := fp32.value (x % 2 ^ 32)

/-- The canonical NaN of FP32 (R36). -/
def nan32 : Nat := 0x7FC00000

/-- +infinity of FP32. -/
def inf32 : Nat := 0x7F800000

/-- The value is a NaN. -/
def Val.isNan : Val → Bool
  | .nan _ => true
  | _ => false

/-- The value is a signalling NaN. -/
def Val.isSig : Val → Bool
  | .nan s => s
  | _ => false

/-- The value is an infinity. -/
def Val.isInf : Val → Bool
  | .inf _ => true
  | _ => false

/-- The value is a zero. -/
def Val.isZero : Val → Bool
  | .fin _ 0 _ => true
  | _ => false

/-- The sign of a value; a NaN counts as positive. -/
def Val.neg : Val → Bool
  | .nan _ => false
  | .inf n => n
  | .fin n _ _ => n

/-- The value negated. -/
def Val.negate : Val → Val
  | .nan s => .nan s
  | .inf n => .inf (!n)
  | .fin n m e => .fin (!n) m e

/-- A finite value as an integer count of 2^q, for q not above its exponent. -/
def scaled (neg : Bool) (m : Nat) (e q : Int) : Int :=
  let n := (m * 2 ^ (e - q).toNat : Nat)
  if neg then -(n : Int) else n

/-- Exact sum of two finite values; a zero sum is +0 unless both are -0 (R165). -/
def finAdd (na : Bool) (ma : Nat) (ea : Int) (nb : Bool) (mb : Nat) (eb : Int) : Val :=
  let q := min ea eb
  let s := scaled na ma ea q + scaled nb mb eb q
  if s = 0 then .fin (na && nb) 0 0 else .fin (decide (s < 0)) s.natAbs q

/-- Exact sum of values, NaN where IEEE 754 has none. -/
def Val.add : Val → Val → Val
  | .nan s, .nan t => .nan (s || t)
  | .nan s, _ => .nan s
  | _, .nan t => .nan t
  | .inf a, .inf b => if a = b then .inf a else .nan true
  | .inf a, _ => .inf a
  | _, .inf b => .inf b
  | .fin na ma ea, .fin nb mb eb => finAdd na ma ea nb mb eb

/-- Exact product of values; infinity times zero is an invalid operation. A zero product has the sign of its factors, also where one
of them is an integer (log 99). -/
def Val.mul : Val → Val → Val
  | .nan s, .nan t => .nan (s || t)
  | .nan s, _ => .nan s
  | _, .nan t => .nan t
  | .inf a, .inf b => .inf (a != b)
  | .inf a, .fin b m _ => if m = 0 then .nan true else .inf (a != b)
  | .fin a m _, .inf b => if m = 0 then .nan true else .inf (a != b)
  | .fin na ma ea, .fin nb mb eb => .fin (na != nb) (ma * mb) (ea + eb)

/-- `rne_fp32` of an exact value: the pattern and the flags (R37, R139). A NaN marked signalling is one consumed as
signalling or produced from operands that are not NaN, and sets INV. -/
def rne32 (v : Val) : Nat × Flags := fp32.convert .rne 0 v

/-- FP32 addition (R37). -/
def fadd32 (a b : Nat) : Nat × Flags := rne32 ((f32v a).add (f32v b))

/-- FP32 subtraction (R37). -/
def fsub32 (a b : Nat) : Nat × Flags := rne32 ((f32v a).add (f32v b).negate)

/-- FP32 multiplication (R37). -/
def fmul32 (a b : Nat) : Nat × Flags := rne32 ((f32v a).mul (f32v b))

/-- FP32 fused multiply-add a * b + c, rounded once (R37, R169). -/
def ffma32 (a b c : Nat) : Nat × Flags :=
  let p := (f32v a).mul (f32v b)
  let inv := p.isNan && !(f32v a).isNan && !(f32v b).isNan
  let r := rne32 (p.add (f32v c))
  (r.1, r.2 ||| flagIf (inv || (f32v a).isSig || (f32v b).isSig || (f32v c).isSig) flagINV)

/-- Order of two values that are not NaN, -0 below +0 when `zeroOrder`: less than. -/
def Val.lt (zeroOrder : Bool) : Val → Val → Bool
  | .inf true, .inf true => false
  | .inf true, _ => true
  | .inf false, _ => false
  | .fin .., .inf n => !n
  | .fin na ma ea, .fin nb mb eb =>
    let q := min ea eb
    let x := scaled na ma ea q
    let y := scaled nb mb eb q
    if x = 0 ∧ y = 0 then zeroOrder && na && !nb else decide (x < y)
  | _, _ => false

/-- FP32 minimum or maximum (R37): the canonical NaN for any NaN operand, -0 below +0. -/
def fminmax32 (isMax : Bool) (a b : Nat) : Nat × Flags :=
  let x := f32v a
  let y := f32v b
  if x.isNan || y.isNan then (nan32, flagIf (x.isSig || y.isSig) flagINV)
  else if x.lt true y then (if isMax then b % 2 ^ 32 else a % 2 ^ 32, 0)
  else (if isMax then a % 2 ^ 32 else b % 2 ^ 32, 0)

/-- Quotient of two naturals with enough bits for one rounding: m, e and whether a remainder is left. -/
def divBits (a b : Nat) : Nat × Int × Bool :=
  let k := 64 + Nat.log2 b
  let n := a * 2 ^ k
  (n / b, -(k : Int), n % b != 0)

/-- FP32 division (R168). -/
def fdiv32 (a b : Nat) : Nat × Flags :=
  match f32v a, f32v b with
  | .nan s, .nan t => (nan32, flagIf (s || t) flagINV)
  | .nan s, _ => (nan32, flagIf s flagINV)
  | _, .nan t => (nan32, flagIf t flagINV)
  | .inf _, .inf _ => (nan32, flagINV)
  | .inf n, .fin k _ _ => (fp32.signed (n != k) inf32, 0)
  | .fin n _ _, .inf k => (fp32.signed (n != k) 0, 0)
  | .fin na ma ea, .fin nb mb eb =>
    if mb = 0 then (if ma = 0 then (nan32, flagINV) else (fp32.signed (na != nb) inf32, 0))
    else
      let (q, e, st) := divBits ma mb
      fp32.round .rne 0 (na != nb) q (e + ea - eb) st

/-- Integer square root, one result bit per step from bit `k` - 1 down. -/
def isqrtFrom : Nat → Nat → Nat → Nat
  | 0, _, r => r
  | k + 1, n, r =>
    let r' := r + 2 ^ k
    isqrtFrom k n (if r' * r' ≤ n then r' else r)

/-- Floor of the square root. -/
def isqrt (n : Nat) : Nat := isqrtFrom (Nat.log2 n / 2 + 1) n 0

/-- Square root of m * 2^e with enough bits for one rounding. -/
def sqrtBits (m : Nat) (e : Int) : Nat × Int × Bool :=
  let k : Int := 128 + (e % 2)
  let n := m * 2 ^ k.toNat
  let r := isqrt n
  (r, (e - k) / 2, r * r != n)

/-- FP32 square root (R168). -/
def fsqrt32 (a : Nat) : Nat × Flags :=
  match f32v a with
  | .nan s => (nan32, flagIf s flagINV)
  | .inf true => (nan32, flagINV)
  | .inf false => (inf32, 0)
  | .fin n m e =>
    if m = 0 then (fp32.signed n 0, 0)
    else if n then (nan32, flagINV)
    else
      let (r, e', st) := sqrtBits m e
      fp32.round .rne 0 false r e' st

/-- FABS and FNEG (R164, R258): a NaN gives the canonical NaN and sets no flag. -/
def fabs32 (a : Nat) : Nat := if (f32v a).isNan then nan32 else a % 2 ^ 31
def fneg32 (a : Nat) : Nat :=
  if (f32v a).isNan then nan32 else if bitAt a 31 then a % 2 ^ 31 else a % 2 ^ 31 + 2 ^ 31

/-- The relations of the floating compares (R166, R260). -/
inductive FRel where
  | eq | lt | le | un
deriving DecidableEq, Repr

/-- A floating compare: whether it holds, and INV (R166, R260). -/
def fcmp32 (r : FRel) (a b : Nat) : Bool × Flags :=
  let x := f32v a
  let y := f32v b
  let nan := x.isNan || y.isNan
  let sig := x.isSig || y.isSig
  let fl := match r with
    | .lt | .le => flagIf nan flagINV
    | .eq | .un => flagIf sig flagINV
  let holds := match r with
    | .un => nan
    | .eq => !nan && !(x.lt false y) && !(y.lt false x)
    | .lt => !nan && x.lt false y
    | .le => !nan && !(y.lt false x)
  (holds, fl)

/-! ## Special functions (R265) -/

/-- 1 / a (R265). -/
def frcp32 (a : Nat) : Nat × Flags :=
  match f32v a with
  | .nan s => (nan32, flagIf s flagINV)
  | .inf n => (fp32.signed n 0, 0)
  | .fin n m e =>
    if m = 0 then (fp32.signed n inf32, 0)
    else
      let (q, e', st) := divBits 1 m
      fp32.round .rne 0 n q (e' - e) st

/-- 1 / sqrt(m * 2^e), correctly rounded. -/
def rsqrtMag (m : Nat) (e : Int) : Nat × Flags :=
  -- floor(sqrt(2^(2k) / (m * 2^(e mod 2)))) with 2^(-e/2)
  let odd := (e % 2).toNat
  let d := m * 2 ^ odd
  let k := 128 + Nat.log2 d
  let n := 2 ^ (2 * k)
  let r := isqrt (n / d)
  fp32.round .rne 0 false r (-(k : Int) - (e - odd) / 2) (r * r * d != n)

/-- 1 / sqrt(a) (R265). -/
def frsq32 (a : Nat) : Nat × Flags :=
  match f32v a with
  | .nan s => (nan32, flagIf s flagINV)
  | .inf true => (nan32, flagINV)
  | .inf false => (0, 0)
  | .fin n m e =>
    if m = 0 then (fp32.signed n inf32, 0) else if n then (nan32, flagINV) else rsqrtMag m e

/-- Round the two ends of an interval of magnitudes lo * 2^e and hi * 2^e, with the true value strictly between;
answer where they agree. -/
def roundBetween (neg : Bool) (lo hi : Nat) (e : Int) : Option (Nat × Flags) :=
  let a := fp32.round .rne 0 neg lo e true
  let b := fp32.round .rne 0 neg (hi - 1) e true
  if a = b then some a else none

/-- Try precisions until one decides the rounding (Ziv); the last resort is the lower end. -/
def ziv (f : Nat → Bool × Nat × Nat × Int) : List Nat → Nat × Flags
  | [] => let (n, lo, _, e) := f 1024; fp32.round .rne 0 n lo e true
  | p :: ps =>
    let (n, lo, hi, e) := f p
    match roundBetween n lo hi e with
    | some r => r
    | none => ziv f ps

/-- 2^(frac / 2^k) for frac below 2^k, in units of 2^-p: lower ends of the roots 2^(2^-i) multiplied. The bits of
frac are taken from the highest; `root` is the current 2^(2^-i) in units of 2^-p. -/
def exp2Frac (p : Nat) : Nat → Nat → Nat → Nat → Nat
  | 0, _, _, acc => acc
  | k + 1, frac, root, acc =>
    let root' := isqrt (root * 2 ^ p)
    exp2Frac p k frac root' (if bitAt frac k then acc * root' / 2 ^ p else acc)

/-- 2^a (R265). -/
def fexp232 (a : Nat) : Nat × Flags :=
  match f32v a with
  | .nan s => (nan32, flagIf s flagINV)
  | .inf true => (0, 0)
  | .inf false => (inf32, 0)
  | .fin neg m e =>
    if m = 0 then (0x3F800000, 0)
    else if leadExp m e ≥ 9 then
      -- far beyond the range on either side
      if neg then fp32.round .rne 0 false 1 (-400) true else fp32.round .rne 0 false 1 400 true
    else if leadExp m e < -40 then (0x3F800000, 0)
    else if e ≥ 0 then
      -- an integer exponent: exact
      let n : Int := scaled neg m e 0
      fp32.round .rne 0 false 1 n false
    else
      let k := (-e).toNat
      let v : Int := if neg then -(m : Int) else m
      let n : Int := v / 2 ^ k
      let frac : Nat := (v % 2 ^ k).toNat
      if frac = 0 then fp32.round .rne 0 false 1 n false
      else ziv (fun p =>
        let lo := exp2Frac p k frac (2 ^ (p + 1)) (2 ^ p)
        (false, lo, lo + 4 * k + 8, n - p)) [96, 160, 320]

/-- Digits of log2 of x in [1, 2), x in units of 2^-p with bounds lo and hi, after `k` digits held in `acc`: the
digits found and how many. -/
def log2Digits (p : Nat) : Nat → Nat → Nat → Nat → Nat → Nat × Nat
  | 0, _, _, acc, k => (acc, k)
  | fuel + 1, lo, hi, acc, k =>
    let l := lo * lo / 2 ^ p
    let h := hi * hi / 2 ^ p + 1
    if 2 ^ (p + 1) ≤ l then log2Digits p fuel (l / 2) (h / 2 + 1) (2 * acc + 1) (k + 1)
    else if h < 2 ^ (p + 1) then log2Digits p fuel l h (2 * acc) (k + 1)
    else (acc, k)

/-- log2 a (R265). -/
def flog232 (a : Nat) : Nat × Flags :=
  match f32v a with
  | .nan s => (nan32, flagIf s flagINV)
  | .inf true => (nan32, flagINV)
  | .inf false => (inf32, 0)
  | .fin neg m e =>
    if m = 0 then (0xFF800000, 0)
    else if neg then (nan32, flagINV)
    else
      let l := leadExp m e
      if m = 2 ^ Nat.log2 m then rne32 (.ofInt l)
      else
        let mk (p : Nat) : Bool × Nat × Nat × Int :=
          let x := m * 2 ^ (p - Nat.log2 m)
          let (acc, k) := log2Digits p (p / 3) x x 0 0
          let lo : Int := l * 2 ^ k + acc
          if lo < 0 then (true, (lo + 1).natAbs, lo.natAbs, -(k : Int)) else (false, lo.natAbs, lo.natAbs + 1, -(k : Int))
        ziv mk [400, 800]

/-- e^x - 1 for x in units of 2^-p, by its series, in units of 2^-p. -/
def expm1Sum (p x : Nat) : Nat → Nat → Nat → Nat → Nat
  | 0, _, _, acc => acc
  | fuel + 1, k, term, acc =>
    let t := term * x / 2 ^ p / k
    if t = 0 then acc else expm1Sum p x fuel (k + 1) t (acc + t)

/-- tanh a (R265). -/
def ftanh32 (a : Nat) : Nat × Flags :=
  match f32v a with
  | .nan s => (nan32, flagIf s flagINV)
  | .inf n => (fp32.signed n 0x3F800000, 0)
  | .fin neg m e =>
    if m = 0 then (fp32.signed neg 0, 0)
    else if leadExp m e ≥ 4 then fp32.round .rne 0 neg (2 ^ 64 - 1) (-64) true
    else ziv (fun p0 =>
      let p := p0 + 200
      let x := m * 2 ^ (e + 1 + p).toNat
      let lo := expm1Sum p x 400 1 (2 ^ p) 0
      let hi := lo + 2 ^ 48
      let q := 2 ^ (p0 + 200)
      (neg, lo * q / (lo + 2 * 2 ^ p), hi * q / (hi + 2 * 2 ^ p) + 1, -((p0 + 200 : Nat) : Int))) [160, 400]

/-! ## The keyed generator (R53) -/

/-- One step of xorshift64 (R53). -/
def xorshift (s : Nat) : Nat :=
  let a := (s ^^^ (s * 2 ^ 13)) % 2 ^ 64
  let b := a ^^^ (a / 2 ^ 7)
  (b ^^^ (b * 2 ^ 17)) % 2 ^ 64

/-- X(i) for a seed; a seed of 0 is replaced (R53). -/
def keyed (seed : Nat) : Nat → Nat
  | 0 => xorshift (if seed = 0 then 0x9E3779B97F4A7C15 else seed)
  | i + 1 => xorshift (keyed seed i)

/-- X(0) to X(n-1), given the state before X(0). -/
def keyedList : Nat → Nat → List Nat
  | 0, _ => []
  | n + 1, s => let x := xorshift s; x :: keyedList n x

/-- The first `n` states of a seed. -/
def keyedN (seed n : Nat) : List Nat := keyedList n (if seed = 0 then 0x9E3779B97F4A7C15 else seed)

/-- Bits 63..48 of X(i), the number stochastic rounding compares (R38). -/
def srBits (seed i : Nat) : Nat := bits (keyed seed i) 63 48

/-! ## Sums in lane-tree order (R233) -/

/-- One level of the lane tree: adjacent pairs combine, an odd last element passes. -/
def treeLevel {α : Type} (op : α → α → α) : List α → List α
  | a :: b :: xs => op a b :: treeLevel op xs
  | xs => xs

/-- The lane tree over a list, `fuel` levels at most. -/
def treeReduce {α : Type} (op : α → α → α) : Nat → List α → List α
  | 0, xs => xs
  | k + 1, xs => if xs.length ≤ 1 then xs else treeReduce op k (treeLevel op xs)

/-- A pattern with the flags raised while it was computed. -/
abbrev FV := Nat × Flags

/-- FP32 addition that gathers flags. -/
def FV.add (a b : FV) : FV := let r := fadd32 a.1 b.1; (r.1, a.2 ||| b.2 ||| r.2)

/-- FP32 maximum that gathers flags. -/
def FV.max (a b : FV) : FV := let r := fminmax32 true a.1 b.1; (r.1, a.2 ||| b.2 ||| r.2)

/-- Lane-tree sum of FP32 values (R233); -0 for no value. -/
def treeSum (xs : List FV) : FV := (treeReduce FV.add 16 xs).headD (0x80000000, 0)

/-! ## The keyed Hadamard (R54) -/

/-- One Walsh-Hadamard pass with half distance `h`: blocks of 2h, their halves added and subtracted. -/
def hadPass (h : Nat) : Nat → List FV → List FV
  | 0, ys => ys
  | fuel + 1, ys =>
    if ys.isEmpty then [] else
      let lo := ys.take h
      let hi := (ys.drop h).take h
      let sums := (lo.zip hi).map fun p => FV.add p.1 p.2
      let difs := (lo.zip hi).map fun p => let r := fsub32 p.1.1 p.2.1; ((r.1, p.1.2 ||| p.2.2 ||| r.2) : FV)
      sums ++ difs ++ hadPass h fuel (ys.drop (2 * h))

/-- The passes for h = 1, 2, 4 and on, below n. -/
def hadPasses (n : Nat) : Nat → Nat → List FV → List FV
  | 0, _, ys => ys
  | fuel + 1, h, ys => if h < n then hadPasses n fuel (2 * h) (hadPass h n ys) else ys

/-- The keyed Hadamard of n FP32 patterns (R54). -/
def hadamard (seed : Nat) (xs : List Nat) : List FV :=
  let n := xs.length
  let ys : List FV := (xs.zip (keyedN seed n)).map fun p =>
    if bitAt p.2 63 then ((if (f32v p.1).isNan then p.1 else (if bitAt p.1 31 then p.1 % 2 ^ 31 else p.1 + 2 ^ 31)), 0)
    else (p.1, 0)
  (hadPasses n 10 1 ys).map fun y =>
    match f32v y.1 with
    | .fin s m e => let r := rne32 (.fin s m (e - ((Nat.log2 n / 2 : Nat) : Int))); (r.1, y.2 ||| r.2)
    | v => let r := rne32 v; (r.1, y.2 ||| r.2)

/-! ## MX quantisation (R42 to R45) -/

/-- Exponent of an element format's greatest power of two (R44). -/
def Fmt.eElem : Fmt → Int
  | .mxe4m3 => 8 | .mxe5m2 => 15 | .mxe2m3 => 2 | .mxe3m2 => 4 | .mxe2m1 => 2 | _ => 0

/-- The greater magnitude of two finite values by exponent and mantissa. -/
def maxMag (a b : Nat × Int) : Nat × Int :=
  let q := min a.2 b.2
  if a.1 * 2 ^ (a.2 - q).toNat < b.1 * 2 ^ (b.2 - q).toNat then b else a

/-- Quantise a block to an MX format: the scale byte, the element codes and the flags (R44, R45). `u` gives bits 63..48 of
X(i) for the block's elements (R38, R39). No instruction of the opcode table quantises or dequantises to MX. -/
def mxQuantize (f : Fmt) (rm : Rm) (u : Nat → Nat) (vs : List Val) : Nat × List Nat × Flags :=
  if vs.any Val.isNan then (0xFF, vs.map fun _ => 0, flagINV)
  else
    let inf := vs.any Val.isInf
    let amax := vs.foldl (fun a v => match v with | .fin _ m e => maxMag a (m, e) | _ => a) (0, 0)
    let X : Int := if inf then 127 else if amax.1 = 0 then -127
      else max (-127) (min 127 (leadExp amax.1 amax.2 - f.eElem))
    let rs := vs.zipIdx.map fun p => match p.1 with
      | .fin n m e =>
        if f == Fmt.mxi8 then
          let q := roundInt rm (u p.2) n m (e - X + 6)
          let c := max (-127) (min 127 q)
          (wrapN c 8, flagIf (c != q) flagSAT)
        else f.convert rm (u p.2) (.fin n m (e - X))
      | v => if f == Fmt.mxi8 then (wrapN (if v.neg then -127 else 127) 8, flagSAT) else f.convert rm (u p.2) v
    ((X + 127).toNat, rs.map (·.1), rs.foldl (fun a r => a ||| r.2) 0)

/-- Dequantise an MX element to a floating format (R45; log 94 for formats without NaN); `u` is bits 63..48 of X(i) (R38, R39). -/
def mxDequantize (f : Fmt) (scale code : Nat) (dst : FloatFmt) (rm : Rm) (u : Nat) : Nat × Flags :=
  if scale = 0xFF then (dst.nanCode, 0)
  else match f.value code with
    | .fin n m e => dst.convert rm u (.fin n m (e + (scale : Int) - 127 - (if f == Fmt.mxi8 then 6 else 0)))
    | v => dst.convert rm u v

end Sys2Proof
end

