-- ==== Sys2Proof/Machine/MatrixMath.lean ====
section
/-!
DEFINITION. Tile rows as packed elements, block alignment and the sums of the matrix unit (spec 02 R31, R47 to R52;
07 R211, R212, R222, R223), tree descent steps and the orders of slot R.
-/
namespace Sys2Proof

/-- A tile row of 192 bytes, byte 0 in the low bits (R31). -/
abbrev Row := BitVec 1536

/-- Elements of width `w` in a row (R31). -/
def perRow (w : Nat) : Nat := 1536 / w

/-- Element `i` of width `w` of a packed array held as a number (R31). -/
def elemAt (w x i : Nat) : Nat := x / 2 ^ (i * w) % 2 ^ w

/-- The first `n` elements of a packed array (R31). -/
def elemsOf (w n x : Nat) : List Nat := (List.range n).map (elemAt w x)

/-- Codes packed from element 0 upward (R31). -/
def packElems (w : Nat) : List Nat → Nat
  | [] => 0
  | c :: cs => c % 2 ^ w + 2 ^ w * packElems w cs

/-- A row from its codes; elements not given are zero (R31). -/
def rowOf (w : Nat) (cs : List Nat) : Row := BitVec.ofNat 1536 (packElems w cs)

/-- The bytes of a row. -/
def Row.toBytes (r : Row) : List Byte := leBytes 192 r.toNat

/-- A row from its bytes. -/
def rowOfBytes (bs : List Byte) : Row := BitVec.ofNat 1536 (leNat bs)

/-- Bytes first .. first + length - 1 of a row replaced. -/
def Row.putBytes (r : Row) (first : Nat) (bs : List Byte) : Row :=
  BitVec.ofNat 1536 (setBits r.toNat (8 * (first + bs.length) - 1) (8 * first) (leNat bs))

/-- The format of a result format code (R125). -/
def Zf.toFmt : Zf → Fmt
  | .f32 => .f32
  | .bf16 => .bf16
  | .i32 => .i32

/-! ## Operand classes (R47, R211) -/

/-- The format is one the matrix unit accepts (R47). -/
def Fmt.isMatrix (f : Fmt) : Bool :=
  f.isMx || match f with
    | .i4 | .i8 | .u8 | .e2m1 | .e2m3 | .e3m2 | .e4m3 | .e5m2 | .bf16 | .f16 => true
    | _ => false

/-- The wide K class (R211). -/
def Fmt.isWide (f : Fmt) : Bool := f == .bf16 || f == .f16

/-- Integer matrix formats (R51). -/
def Fmt.isMatInt (f : Fmt) : Bool := f == .i4 || f == .i8 || f == .u8

/-- The bit-serial precision p of an A format (R47). -/
def Fmt.pA (f : Fmt) : Nat :=
  match f with
  | .i4 => 4
  | .e2m1 | .mxe2m1 | .i8 | .u8 | .mxi8 => 8
  | .bf16 | .f16 => 16
  | _ => 12

/-- The width p_B at which a bank holds an element (R47). -/
def Fmt.pB (f : Fmt) : Nat :=
  match f with
  | .i4 => 4
  | .bf16 | .f16 => 16
  | _ => 8

/-- K positions of one instruction (R211). -/
def Fmt.kPos (f : Fmt) : Nat := if f.isWide then 96 else 192

/-- Elements in an A alignment unit: an MX block, or a 48-byte segment; the whole row for integers (R47). -/
def Fmt.unitA (f : Fmt) : Nat := if f.isMx then 32 else if f.isMatInt then 4096 else 384 / f.width

/-- K positions in a B alignment unit (R47). -/
def Fmt.unitB (f : Fmt) : Nat := if f.isMx then 32 else if f.isMatInt then 4096 else if f.isWide then 24 else 48

/-- An aligned element: its integer, its exact value, its unit and the unit's weight; `bad` in a block whose scale
byte is 0xFF. -/
structure Aligned where
  a : Int
  v : Val
  unit : Nat
  w : Int
  bad : Bool
deriving DecidableEq, Repr

/-- The weight of one alignment unit of a floating format (R48). -/
def unitWeight (ff : FloatFmt) (P : Nat) (vs : List Val) : Int :=
  let es := vs.filterMap fun v => match v with
    | .fin _ m e => if m = 0 then none else some (e + (ff.mb : Int))
    | _ => none
  match es with
  | [] => 1 - (ff.bias : Int) - ((P : Int) - 2)
  | e :: es => es.foldl max e - ((P : Int) - 2)

/-- One alignment unit (R47, R48); `scale` is the unit's E8M0 byte, 127 for a format that is not MX. -/
def alignUnit (f : Fmt) (P unit scale : Nat) (codes : List Nat) : List Aligned :=
  let X : Int := (scale : Int) - 127
  let bad := f.isMx && scale == 0xFF
  let vs := codes.map f.value
  match f.kind with
  | .float ff =>
    let w := unitWeight ff P vs
    vs.map fun v => match v with
      | .fin n m e => ⟨roundInt .rne 0 n m (e - w), v, unit, w + X, bad⟩
      | v => ⟨0, v, unit, w + X, bad⟩
  | _ =>
    let w : Int := if f == .mxi8 then -6 else 0
    vs.map fun v => match v with
      | .fin n m _ => ⟨if n then -(m : Int) else m, v, unit, w + X, bad⟩
      | v => ⟨0, v, unit, w + X, bad⟩

/-- A whole run of elements cut into units of `ulen`, numbered from `u`; `scale u` is the byte of unit u. -/
def alignRun (f : Fmt) (P ulen : Nat) (scale : Nat → Nat) : Nat → Nat → List Nat → List Aligned
  | 0, _, _ => []
  | fuel + 1, u, codes =>
    if codes.isEmpty then []
    else alignUnit f P u (if f.isMx then scale u else 127) (codes.take ulen) ++
      alignRun f P ulen scale fuel (u + 1) (codes.drop ulen)

/-- The A elements of a row, aligned (R47, R48). -/
def alignA (f : Fmt) (latches : List Nat) (codes : List Nat) : List Aligned :=
  alignRun f f.pA f.unitA (fun u => latches.getD u 127) 64 0 codes

/-- A bank (R216): its format code and its 192 source rows after port B. -/
structure Bank where
  fmt : Fmt
  rows : List Row
deriving DecidableEq, Repr

/-- A bank at core reset: INT8 zeros (R216). -/
def Bank.reset : Bank := ⟨.i8, []⟩

/-- The code of K position k, column j (R212). -/
def Bank.code (b : Bank) (k j : Nat) : Nat :=
  if b.fmt.isWide then elemAt 16 (b.rows.getD (2 * k + j / 96) 0).toNat (j % 96)
  else elemAt b.fmt.width (b.rows.getD k 0).toNat j

/-- A column of a bank, aligned as MLDB aligned it (R47, R48, R220), without MX scales. -/
def Bank.column (b : Bank) (j : Nat) : List Aligned :=
  alignRun b.fmt b.fmt.pB b.fmt.unitB (fun _ => 127) 64 0 ((List.range b.fmt.kPos).map fun k => b.code k j)

/-- One term of a sum: the aligned A and B elements, and the MX scale byte of B's block where B is MX. -/
structure Term where
  a : Aligned
  b : Aligned
  xb : Nat
deriving DecidableEq, Repr

/-- The term's key of its unit: the A unit, the B unit and the B scale block (R49, R223). -/
def Term.key (t : Term) (blk : Nat) : Nat × Nat × Nat := (t.a.unit, t.b.unit, blk)

/-- Partials of a pair: maximal runs of equal keys, with exact sums and weights (R49). -/
def partials : List (Term × (Nat × Nat × Nat)) → List ((Nat × Nat × Nat) × Int × Int)
  | [] => []
  | (t, key) :: ts =>
    let w := t.a.w + t.b.w + ((t.xb : Int) - 127)
    let p := t.a.a * t.b.a
    match partials ts with
    | [] => [(key, p, w)]
    | r :: rs => if r.1 = key then (key, r.2.1 + p, w) :: rs else (key, p, w) :: r :: rs

/-- The wide accumulator (R50): the FP32 total and the flags. -/
def wideSum (ps : List (Int × Int)) : Nat × Flags :=
  let us := ps.filter fun p => p.1 != 0
  match us with
  | [] => (0, 0)
  | u :: rest =>
    let emax := rest.foldl (fun m p => max m p.2) u.2
    let kept := us.filter fun p => decide (emax - 30 ≤ p.2)
    let q := kept.foldl (fun m p => min m p.2) emax
    let s : Int := kept.foldl (fun s p => s + p.1 * 2 ^ (p.2 - q).toNat) 0
    let r := if s = 0 then (0, 0) else rne32 (.fin (decide (s < 0)) s.natAbs q)
    (r.1, r.2 ||| flagIf (kept.length != us.length) flagRNG)

/-- The total of one output pair (R49 to R52). -/
def pairTotal (ts : List (Term × (Nat × Nat × Nat))) : Nat × Flags :=
  let nan := ts.any fun t => t.1.a.v.isNan || t.1.b.v.isNan || t.1.a.bad || t.1.xb == 0xFF
  let infZero := ts.any fun t => (t.1.a.v.isInf && t.1.b.v.isZero) || (t.1.b.v.isInf && t.1.a.v.isZero)
  let infs := ts.filter fun t => t.1.a.v.isInf || t.1.b.v.isInf
  let pos := infs.any fun t => t.1.a.v.neg == t.1.b.v.neg
  let neg := infs.any fun t => t.1.a.v.neg != t.1.b.v.neg
  if nan || infZero || (pos && neg) then (nan32, flagINV)
  else if pos then (inf32, 0)
  else if neg then (fp32.signed true inf32, 0)
  else wideSum ((partials ts).map fun p => p.2)

/-- One dense result row: the totals of an A row with every column (R222). -/
def denseRow (fa : Fmt) (codes latA : List Nat) (b : Bank) (latB : List Nat) (cols : Nat) : List (Nat × Flags) :=
  let as := alignA fa latA codes
  (List.range cols).map fun j =>
    pairTotal ((as.zip (b.column j)).map fun p =>
      let xb := if b.fmt.isMx then latB.getD p.2.unit 127 else 127
      (⟨p.1, p.2, xb⟩, (p.1.unit, p.2.unit, 0)))

/-- The select fields of a select row (R223). -/
def selFields (sel : Row) : List Nat := elemsOf 16 48 sel.toNat

/-- A select field is well formed: its top bits zero, its indices rising (R223). -/
def selOk (f : Nat) : Bool :=
  bits f 15 12 == 0 && decide (bits f 2 0 < bits f 5 3 ∧ bits f 5 3 < bits f 8 6 ∧ bits f 8 6 < bits f 11 9)

/-- The dense positions of the 192 compressed positions (R223). -/
def selPositions (sel : Row) : List Nat :=
  ((selFields sel).zipIdx.map fun p => (List.range 4).map fun m => 8 * p.2 + bits p.1 (3 * m + 2) (3 * m)).flatten

/-- One sparse result row (R223): `codes` are the 384 dense elements of the A row. -/
def sparseRow (fa : Fmt) (codes latA : List Nat) (sel : Row) (b : Bank) (latB : List Nat) : List (Nat × Flags) :=
  let as := alignA fa latA codes
  let ds := selPositions sel
  (List.range 192).map fun j =>
    pairTotal ((ds.zip (b.column j)).map fun p =>
      let a := as.getD p.1 ⟨0, .fin false 0 0, 0, 0, false⟩
      let blk := p.1 / 32
      let xb := if b.fmt.isMx then latB.getD blk 127 else 127
      (⟨a, p.2, xb⟩, (a.unit, p.2.unit, if b.fmt.isMx then blk else 0)))

/-! ## Tree descent (R72, R225) -/

/-- A y register (R72). -/
structure YReg where
  path : Word32
  depth : Byte
  node : Word32
deriving DecidableEq, Repr

/-- One descent step at level `lv` with the dot product `v` (R225): the new y register and DNAN. -/
def descend (lv : Nat) (y : YReg) (v : Nat) : YReg × Flags :=
  let nan := (f32v v).isNan
  let right := !(bitAt v 31) && !nan
  let n := y.node.toNat
  (⟨BitVec.ofNat 32 (setBits y.path.toNat lv lv right.toNat), BitVec.ofNat 8 (lv + 1),
    BitVec.ofNat 32 (if right then 2 * n + 2 else 2 * n + 1)⟩, flagIf nan flagDNAN)

/-! ## Orders of slot R (R234, R237) -/

/-- Insert into a list ordered by key, after the entries of equal key: a stable order. -/
def insertBy (le : Nat × Nat → Nat × Nat → Bool) (x : Nat × Nat) : List (Nat × Nat) → List (Nat × Nat)
  | [] => [x]
  | y :: ys => if le y x then y :: insertBy le x ys else x :: y :: ys

/-- The indices of a list of keys in stable ascending order of key (R237). -/
def sortPerm (keys : List Nat) : List Nat :=
  (keys.zipIdx.foldl (fun acc p => insertBy (fun a b => decide (a.1 ≤ b.1)) p acc) []).map (·.2)

/-- The sum of the magnitudes of a row's first 192 elements, as a rational count of 2^-64; none is +infinity
(R234). -/
def magSum (f : Fmt) (r : Row) : Option Nat :=
  (elemsOf f.width 192 r.toNat).foldl (fun acc c =>
    match acc, f.value c with
    | some s, .fin _ m e => some (s + m * 2 ^ (e + 64).toNat)
    | _, _ => none) (some 0)

/-- A magnitude sum as a sort key: the greater sum first. -/
def magGe (a b : Option Nat) : Bool :=
  match a, b with
  | none, _ => true
  | some _, none => false
  | some x, some y => decide (y ≤ x)

/-- The first four of eight rows by descending magnitude sum, equal sums by ascending index, as ascending indices
(R234). -/
def pickFour (sums : List (Option Nat)) : List Nat :=
  let order := sums.zipIdx.foldl (fun (acc : List (Option Nat × Nat)) p =>
    (acc.takeWhile fun q => magGe q.1 p.1) ++ p :: (acc.dropWhile fun q => magGe q.1 p.1)) []
  let four := (order.take 4).map (·.2)
  (List.range 8).filter fun d => four.contains d

end Sys2Proof
end

