-- ==== Sys2Proof/Machine/PortProgram.lean ====
section
/-!
DEFINITION. Port programs: the record of a slot, the checks at binding and the element machine (spec 08).
-/
namespace Sys2Proof

/-- A port-program slot (R238, R241): the 128 bytes of its record (empty for a slot that holds none), the carried
registers c0 to c3 and PREV. -/
structure PortSlot where
  record : List Byte
  c : List Nat
  prev : Nat
deriving DecidableEq, Repr

/-- A slot that holds no record: LEN = 0 (R239). -/
def PortSlot.empty : PortSlot := ⟨[], [0, 0, 0, 0], 0⟩

/-- `n` bytes of a list from byte `i`, little-endian. -/
def leAt (bs : List Byte) (i n : Nat) : Nat := leNat ((bs.drop i).take n)

/-- The header of a record (R239). -/
def PortSlot.header (s : PortSlot) : Nat := leAt s.record 64 8

/-- LEN (R239). -/
def PortSlot.len (s : PortSlot) : Nat := bits s.header 4 0

/-- CM: which constants are indirect (R239). -/
def PortSlot.cm (s : PortSlot) (n : Nat) : Bool := bitAt s.header (12 + n)

/-- CI: which carried registers take their constant at a command's start (R239). -/
def PortSlot.ci (s : PortSlot) (n : Nat) : Bool := bitAt s.header (20 + n)

/-- PI: PREV is cleared at a command's start (R239). -/
def PortSlot.pi (s : PortSlot) : Bool := bitAt s.header 19

/-- IF, the receive format (R239). -/
def PortSlot.inFmt (s : PortSlot) : Option Fmt := Fmt.ofCode (bits s.header 39 32)

/-- OF, the emit format (R239). -/
def PortSlot.outFmt (s : PortSlot) : Option Fmt := Fmt.ofCode (bits s.header 47 40)

/-- The 64 bits of constant e`n` in the record (R238). -/
def PortSlot.e (s : PortSlot) (n : Nat) : Nat := leAt s.record (72 + 8 * n) 8

/-- The constants of a slot as its record holds them (R240). -/
def PortSlot.consts (s : PortSlot) : List Nat := (List.range 4).map s.e

/-- The words up to LEN (R238). -/
def PortSlot.words (s : PortSlot) : List Nat := (List.range s.len).map fun k => leAt s.record (4 * k) 4

/-- A slot loaded from a record: carried registers and PREV take the record's values (R241). -/
def PortSlot.load (bytes : List Byte) : PortSlot :=
  ⟨bytes, (List.range 4).map fun n => leAt bytes (104 + 4 * n) 4, leAt bytes 120 4⟩

/-- The header and the zero bytes of a record are as R238 and R239 lay them out. -/
def portRecordOk (bytes : List Byte) : Bool :=
  let h := leAt bytes 64 8
  bytes.length == 128 && bits h 63 48 == 0 && bits h 31 24 == 0 && bits h 18 16 == 0 && bits h 11 5 == 0
    && decide (bits h 4 0 ≤ 16) && leAt bytes 124 4 == 0
    && (match Fmt.ofCode (bits h 47 40), Fmt.ofCode (bits h 39 32) with
        | some o, some i => o.isCopy && i.isCopy
        | _, _ => false)

/-- The decoded words; the index of the first reserved word where there is one (R135). -/
def decodeWords : Nat → List Nat → Except Nat (List PWord)
  | _, [] => .ok []
  | k, w :: ws =>
    match decodePort w with
    | none => .error k
    | some p =>
      match decodeWords (k + 1) ws with
      | .ok ps => .ok (p :: ps)
      | .error j => .error j

/-- The program of a slot whose words all decode (R135). -/
def PortSlot.prog (s : PortSlot) : List PWord :=
  match decodeWords 0 s.words with
  | .ok ps => ps
  | .error _ => []

/-- A special function (R248, R265). -/
def POp.isSpecial : POp → Bool
  | .fexp2 | .flog2 | .frcp | .frsq | .ftanh => true
  | _ => false

/-- The slot holds a special-function word (R248). -/
def PortSlot.special (s : PortSlot) : Bool := s.prog.any fun p => p.op.isSpecial

/-- The micro-operation accepts the word's FMT (R262 to R264). -/
def PWord.fmtOk (p : PWord) : Bool :=
  match p.op with
  | .cvt | .qnt => p.fmt.isPlain
  | .dqnt => p.fmt.isFloat && p.fmt.isPlain
  | _ => true

/-- Which kind of operation binds a slot, as far as the rules of composition tell them apart (R243). -/
inductive PortUse where
  | tst | copy | slotM | slotR
deriving DecidableEq, Repr

/-- Index of the first element that meets a condition, counted from `k`. -/
def findIdxFrom {α : Type} (p : α → Bool) : Nat → List α → Option Nat
  | _, [] => none
  | k, x :: xs => if p x then some k else findIdxFrom p (k + 1) xs

/-- A word of a slot uses a constant that is indirect. -/
def PortSlot.hasIndirect (s : PortSlot) : Bool := (List.range 4).any fun n => s.cm n

/-- The first word that names as its destination a carried register which a CSUM word and another word, itself perhaps a
CSUM word, both name (R243; log 65). -/
def csumClash (ps : List PWord) : Option Nat :=
  findIdxFrom (fun p => p.op.uses.1 && (ps.any fun r => r.op == .csum && r.d == p.d)
    && decide (1 < (ps.filter fun r => r.op.uses.1 && r.d == p.d).length)) 0 ps

/-- The first condition of R243 that a binding breaks, as WHY and ARG. `twice`: the slot is bound to two ports of
one operation. -/
def PortSlot.bindFault (s : PortSlot) (use : PortUse) (inF outF : Fmt) (twice super : Bool) : Option (Nat × Nat) :=
  let ps := s.prog
  match findIdxFrom (fun p => !p.fmtOk) 0 ps with
  | some k => some (3, k)
  | none =>
    if s.inFmt != some inF || s.outFmt != some outF then some (7, 0)
    else match findIdxFrom (fun p => p.op.uses.2.2.2.2.1 && p.rm == .sr && use != .tst) 0 ps with
      | some k => some (10, k)
      | none =>
        if twice then some (11, 0)
        else match csumClash ps with
        | some k => some (11, k)
        | none =>
          let badM := if use = .slotM then findIdxFrom (fun p => p.op.isSpecial || p.op == .amaxw) 0 ps else none
          match badM with
          | some k => some (11, k)
          | none =>
            if use = .slotM && s.hasIndirect then some (11, 0)
            else
              let badR := if use = .slotR then findIdxFrom (fun p => p.op == .amaxw) 0 ps else none
              match badR with
              | some k => some (11, k)
              | none =>
                if use = .slotR && s.hasIndirect then some (11, 0)
                else match findIdxFrom (fun p => p.op == .amaxw &&
                    (match p.b with | .e n => s.cm n.val | _ => false)) 0 ps with
                  | some k => some (11, k)
                  | none => if super then some (11, 0) else none

/-! ## The element machine (R245 to R247) -/

/-- The pattern a word sees as x for a received code (R245). -/
def recvPattern (f : Fmt) (code : Nat) : Nat :=
  match f.kind with
  | .int true => wrapN (sx code f.width) 32
  | .int false => code
  | .bytes => code
  | .float ff =>
    if f == Fmt.f32 then code % 2 ^ 32
    else match ff.value code with
      | .nan s => if s then 0x7FA00000 else 0x7FC00000
      | v => (rne32 v).1

/-- The code an output pattern takes in the emit format, and the flags (R246). -/
def emitCode (f : Fmt) (rm : Rm) (u : Nat) (out : Nat) : Nat × Flags :=
  match f.kind with
  | .float _ => if f == Fmt.f32 then (out % 2 ^ 32, 0) else f.convert rm u (f32v out)
  | .int _ => f.convert .rne 0 (.ofInt (sx out 32))
  | .bytes => (out % 2 ^ f.width, 0)

/-- What a slot carries through a command's stream: the carried registers, PREV, the index of the next element, and
for each CSUM word its contributions in the open group, newest first (R247). -/
structure PRun where
  c : List Nat
  prev : Nat
  next : Nat
  open_ : List (Nat × Nat × List FV)
deriving DecidableEq, Repr

/-- Start of a command: CI and PI (R239, R241). -/
def PRun.start (s : PortSlot) (consts : List Nat) : PRun :=
  ⟨(List.range 4).map fun n => if s.ci n then consts.getD n 0 % 2 ^ 32 else s.c.getD n 0,
   if s.pi then 0 else s.prev, 0, []⟩

/-- Sum the open group of each CSUM word and add it to its register (R247). -/
def PRun.close (r : PRun) : PRun × Flags :=
  let step (acc : List Nat × Flags) (w : Nat × Nat × List FV) : List Nat × Flags :=
    let t := treeSum w.2.2.reverse
    let v := FV.add (acc.1.getD w.2.1 0, 0) t
    (acc.1.set w.2.1 v.1, acc.2 ||| v.2)
  let (c, f) := r.open_.foldl step (r.c, 0)
  ({ r with c := c, open_ := [] }, f)

/-- What one element leaves while its words run. -/
structure PElem where
  x : Nat
  idx : Nat
  w : List Nat
  c : List Nat
  out : Nat
  dropped : Bool
  flags : Flags
  sums : List (Nat × Nat × FV)
deriving DecidableEq, Repr

/-- The pattern of an operand (R245). -/
def PElem.get (s : PElem) (consts : List Nat) : POpnd → Nat
  | .x => s.x
  | .i => s.idx % 2 ^ 32
  | .w n => s.w.getD n.val 0
  | .e n => consts.getD n.val 0 % 2 ^ 32
  | .c n => s.c.getD n.val 0

/-- Write a destination (R133). -/
def PElem.put (s : PElem) (d : POpnd) (v : Nat) (f : Flags) : PElem :=
  match d with
  | .w n => { s with w := s.w.set n.val v, flags := s.flags ||| f }
  | .c n => { s with c := s.c.set n.val v, flags := s.flags ||| f }
  | _ => { s with flags := s.flags ||| f }

/-- A port fault: its KIND and the index of the word (R251). -/
structure PFault where
  kind : Nat
  word : Nat
deriving DecidableEq, Repr

/-- The integer micro-operations (R259). -/
def intOp (op : POp) (a b : Nat) : Nat :=
  match op with
  | .iadd => (a + b) % 2 ^ 32
  | .isub => (a + 2 ^ 32 - b % 2 ^ 32) % 2 ^ 32
  | .imul => a * b % 2 ^ 32
  | .and => a &&& b
  | .or => a ||| b
  | .xor => a ^^^ b
  | .shl => a * 2 ^ (b % 32) % 2 ^ 32
  | .shr => a / 2 ^ (b % 32)
  | _ => wrapN (sx a 32 / 2 ^ (b % 32)) 32

/-- The FP32 micro-operations of two sources (R256). -/
def fltOp (op : POp) (a b : Nat) : Nat × Flags :=
  match op with
  | .fadd => fadd32 a b
  | .fsub => fsub32 a b
  | .fmul => fmul32 a b
  | .fmin => fminmax32 false a b
  | _ => fminmax32 true a b

/-- The special functions (R265). -/
def specialOp (op : POp) (a : Nat) : Nat × Flags :=
  match op with
  | .fexp2 => fexp232 a
  | .flog2 => flog232 a
  | .frcp => frcp32 a
  | .frsq => frsq32 a
  | _ => ftanh32 a

/-- A quantised value as the 32-bit pattern a word writes: INT32 for an integer format, FP32 for a floating one. -/
def quantPattern (f : Fmt) (rm : Rm) (u : Nat) (v : Val) : Nat × Flags :=
  match f.kind with
  | .int s => let r := convertInt f.width s rm u v; (wrapN r.1 32, r.2)
  | .float ff =>
    let r := ff.convert rm u v
    ((rne32 (ff.value r.1)).1, r.2)
  | .bytes => (0, 0)

/-- One word (R256 to R271); of two port faults of one word KIND 1 is reported (R251; log 100). `en` are the enables, `u` bits 63..48 of X() for the element's position. -/
def runWord (consts : List Nat) (prev : Nat) (en : Flags) (u : Nat) (k : Nat) (p : PWord) (s : PElem) :
    Except PFault PElem :=
  let a := s.get consts p.a
  let b := s.get consts p.b
  let c := s.get consts p.c
  let sig (x : Nat) : Bool := en.ife && (f32v x).isSig
  let put (r : Nat × Flags) : Except PFault PElem := .ok (s.put p.d r.1 r.2)
  let guarded (bad : Bool) (r : Nat × Flags) : Except PFault PElem := if bad then .error ⟨1, k⟩ else put r
  match p.op with
  | .fadd | .fsub | .fmul | .fmin | .fmax => guarded (sig a || sig b) (fltOp p.op a b)
  | .fma => guarded (sig a || sig b || sig c) (ffma32 a b c)
  | .fabs => put (fabs32 a, 0)
  | .fneg => put (fneg32 a, 0)
  | .iadd | .isub | .imul | .and | .or | .xor | .shl | .shr | .sra => put (intOp p.op a b, 0)
  | .fclt => guarded (sig a || sig b) (let r := fcmp32 .lt a b; (r.1.toNat, r.2))
  | .fcle => guarded (sig a || sig b) (let r := fcmp32 .le a b; (r.1.toNat, r.2))
  | .fceq => guarded (sig a || sig b) (let r := fcmp32 .eq a b; (r.1.toNat, r.2))
  | .fcun => guarded (sig a || sig b) (let r := fcmp32 .un a b; (r.1.toNat, r.2))
  | .iclt => put ((decide (sx a 32 < sx b 32)).toNat, 0)
  | .iceq => put ((a == b).toNat, 0)
  | .sel => put (if a != 0 then b else c, 0)
  | .cvt =>
    if p.fmt.isFloat then guarded (sig a) (quantPattern p.fmt p.rm u (f32v a))
    else put (quantPattern p.fmt .rne 0 (.ofInt (sx a 32)))
  | .qnt =>
    let v := (f32v a).mul (f32v b)
    let r := quantPattern p.fmt p.rm u v
    let fl := r.2 ||| flagIf ((f32v a).isSig || (f32v b).isSig) flagINV
    let range := (fl &&& (flagSAT ||| flagOVF)) != 0 ||
      (v.isNan && (match p.fmt.kind with | .float ff => ff.kind == .none | _ => true))
    if sig a || sig b then .error ⟨1, k⟩
    else if en.qfe && range then .error ⟨2, k⟩
    else put (r.1, fl)
  | .dqnt => guarded (sig b) (quantPattern p.fmt p.rm u ((Val.ofInt (sx a 32)).mul (f32v b)))
  | .fexp2 | .flog2 | .frcp | .frsq | .ftanh => guarded (sig a) (specialOp p.op a)
  | .cmax => guarded (sig a || sig (s.get consts p.d)) (fminmax32 true (s.get consts p.d) a)
  | .cmin => guarded (sig a || sig (s.get consts p.d)) (fminmax32 false (s.get consts p.d) a)
  | .csum =>
    if sig a then .error ⟨1, k⟩
    else
      let n := match p.d with | .c n => n.val | _ => 0
      .ok { s with sums := s.sums ++ [(k, n, ((a, 0) : FV))] }
  | .cprev => put (prev, 0)
  | .cset => put (a, 0)
  | .cld => put (a, 0)
  | .emit => .ok { s with out := a, dropped := false }
  | .drop => .ok { s with dropped := true }
  | .amaxw => .ok s

/-- The words of an element, in order. -/
def runWords (consts : List Nat) (prev : Nat) (en : Flags) (u : Nat) : Nat → List PWord → PElem → Except PFault PElem
  | _, [], s => .ok s
  | k, p :: ps, s =>
    match runWord consts prev en u k p s with
    | .ok s' => runWords consts prev en u (k + 1) ps s'
    | .error f => .error f

/-- Add one element's CSUM contributions to the open group. -/
def addSums (o : List (Nat × Nat × List FV)) (sums : List (Nat × Nat × FV)) : List (Nat × Nat × List FV) :=
  sums.foldl (fun o s =>
    if o.any fun w => w.1 == s.1 then o.map fun w => if w.1 = s.1 then (w.1, w.2.1, s.2.2 :: w.2.2) else w
    else o ++ [(s.1, s.2.1, [s.2.2])]) o

/-- One element through a program: the slot's state after it, the output pattern (none: dropped) and the flags
(R246). -/
def runElem (ps : List PWord) (consts : List Nat) (en : Flags) (u : Nat) (r : PRun) (x : Nat) :
    Except PFault (PRun × Option Nat × Flags) :=
  match runWords consts r.prev en u 0 ps ⟨x, r.next, [0, 0, 0, 0], r.c, x, false, 0, []⟩ with
  | .error f => .error f
  | .ok s =>
    let r1 : PRun := { c := s.c, prev := x, next := r.next + 1, open_ := addSums r.open_ s.sums }
    let (r2, f) := if (r.next + 1) % 48 = 0 then r1.close else (r1, 0)
    .ok (r2, if s.dropped then none else some s.out, s.flags ||| f)

/-- A run of a stream: the state after it, the outputs of the elements that passed (none: dropped), the flags of
each, and the fault that stopped it. The open CSUM group is summed when the slot is given back. -/
structure PStream where
  run : PRun
  outs : List (Option Nat × Flags)
  fault : Option PFault
deriving DecidableEq, Repr

/-- Elements through a program in stream order; `u` gives bits 63..48 of X() for an element's index (R263). A fault
at an element leaves the state as if the stream ended before it (R252). -/
def runStream (ps : List PWord) (consts : List Nat) (en : Flags) (u : Nat → Nat) : PRun → List Nat → PStream
  | r, [] => ⟨r, [], none⟩
  | r, x :: xs =>
    match runElem ps consts en (u r.next) r x with
    | .error f => ⟨r, [], some f⟩
    | .ok (r', out, f) =>
      let t := runStream ps consts en u r' xs
      ⟨t.run, (out, f) :: t.outs, t.fault⟩

/-- The slot after a command, with the open group closed (R247, R252). -/
def PortSlot.keep (s : PortSlot) (r : PRun) : PortSlot := { s with c := r.close.1.c, prev := r.prev }

/-- The flags of summing the open group when a command leaves its slot (R37, R40, R250). -/
def PRun.endFlags (r : PRun) : Flags := r.close.2

end Sys2Proof
end

