-- ==== Sys2Proof/Machine/State.lean ====
section
/-!
DEFINITION. The state of the package as plain data, its value after reset, and the reasons a step can stop.
INVENTORY.md lists every field with the rule that names it.
-/
namespace Sys2Proof.Machine

/-- Why the machine stops. -/
inductive Fault where
  /-- An access reached a device physical address that R411 says does not exist. Raised by the copy units and the
  engines; safe: hardware behaviour there is not described. -/
  | physicalHole (addr : Nat)
deriving DecidableEq, Repr

/-- Why an instruction is not run. -/
inductive Refusal where
  /-- The instruction has no meaning in the model yet. Safe. -/
  | notModelled (mnemonic : String)
deriving DecidableEq, Repr

/-! ## One context -/

/-- The states of a compute context (R329). -/
inductive CtxSt where
  | free | ready | current | blocked | freezing | frozen | resuming | retired
deriving DecidableEq, Repr

/-- A result on its way to its destination (R61, R334). -/
inductive Write where
  | g (i : Fin 32) (v : Word)
  | h (i : Fin 16) (v : Word)
  | q (i : Fin 8) (v : Word)
  | p (i : Fin 8) (v : Bool)
  | k (i : Fin 8) (v : Word)
  | n (i : Fin 8) (l : Nat) (v : Word)
  | y (i : Nat) (v : YReg)
  | tile (t row first : Nat) (bs : List Byte)
  | latch (side : Bool) (i : Nat) (v : Nat)
  | flags (f : Flags)
  /-- the flags of a row that enters the transform engine, the reduction engine or a tree descent in issue cycle `entry` -/
  | rowFlags (entry : Nat) (f : Flags)
  | xstatus (f : Flags)
  | xepc (v : Word)
  /-- One result row of an MMUL or MMULS with ACC = 1: the totals to add into an acc row, and the flags of the row (R222);
  none where a capture has folded its flags already (R333). -/
  | accAdd (row : Nat) (vals : List Nat) (fl : Option Flags)
  /-- One result row with ACC = 0: totals, the acc row read at delivery, the port Z slot, destination, and the flags of the
  row as above (R222). -/
  | accOut (row : Nat) (vals : List Nat) (zt : Nat) (zf : Zf) (pz : Option Nat) (op : Nat) (epc : Nat) (last : Bool)
      (fl : Option Flags)
deriving DecidableEq, Repr

/-- An exposed result in flight: the issue cycle it is due in, the ck before which an interlocked class does not
deliver it (R351), the ck in which it leaves its pipeline (R61, R336), the issue cycle and the class of its operation (R84),
the issue cycle in which the row it comes from enters its engine (R333), and the write. -/
structure Flight where
  due : Nat
  ready : Nat
  out : Nat
  at_ : Nat
  cls : Nat
  entry : Nat
  w : Write
deriving DecidableEq, Repr

/-- A long-latency result that lands in real ck (R75). -/
structure LongRes where
  due : Nat
  d : Fin 32
  v : Word
  flags : Flags
deriving DecidableEq, Repr

/-- What a far scalar access does at its home (R173 to R175). -/
inductive FarKind where
  | load (signed : Bool)
  | store
  | add | max | min | swap
  | cas (cmp : Nat)
deriving DecidableEq, Repr

/-- A far scalar access that has issued, in ck `ck`, and not performed (R306): `addr` is its place, `name` the address as
issued. -/
structure Far where
  uid : Nat
  ck : Nat
  kind : FarKind
  addr : Nat
  name : Nat
  epc : Nat
  n : Nat
  d : Fin 32
  v : Nat
deriving DecidableEq, Repr

/-- LOOP state (R154, R338): first address of the body, its length in bytes, runs left. -/
structure LoopSt where
  start : Nat
  len : Nat
  left : Nat
deriving DecidableEq, Repr

/-- LOOPN state (R90, R155, R338). -/
structure LoopnSt where
  start : Nat
  len : Nat
  levels : List Nat
  iters : Nat
  stages : Nat
  t : Nat
  ga : Fin 32
  gb : Fin 32
deriving DecidableEq, Repr

/-- An expanded code segment in one half of a loop buffer (R88, R346). -/
structure Half where
  seg : Nat
  base : Nat
  parcels : List Nat
deriving DecidableEq, Repr

/-- An engine operation with rows still to enter (R217, R334 KIND 9): its number, the operation, the issue cycle and
the ck of its acceptance, the next row, the bundle's address, the select row it read at issue, the next row when a
freeze last captured it, and the issue cycles that a row of slot T or R takes (R233, R248). -/
structure RowsOp where
  op : Nat
  ins : Instr
  c : Nat
  ck : Nat
  next : Nat
  addr : Nat
  sel : Row
  saved : Option Nat
  pace : Nat
deriving DecidableEq, Repr

/-- An address-queue request (R206). -/
structure AqReq where
  uid : Nat
  addr : Nat
  n : Nat
deriving DecidableEq, Repr

/-- A unit, or a read of a data-queue entry, in the pod aperture that has been sent and not answered: its chunk, its address,
its key, the object and page of its translation where it has one, and its port, plus 16 where the port has failed since
(R440). -/
structure Sent where
  chunk : Nat
  addr : Nat
  key : Nat
  page : Option (Nat × Nat)
  port : Nat
deriving DecidableEq, Repr

/-- A data-queue entry (R206, R207); `sent` is its read in the pod aperture where that is on its way (R440), `got` the word of
host memory that has been read first, and whether it is the upper one (R304). -/
structure DqEnt where
  uid : Nat
  addr : Nat
  n : Nat
  arrived : Bool
  poison : Bool
  half : Bool
  data : List Byte
  parked : Bool
  sent : Option Sent
  got : Option (Bool × List Byte)
deriving DecidableEq, Repr

/-- A run of bytes of a chunk: its copy address, its length, and where the bytes stand in the chunk. -/
structure Piece where
  addr : Nat
  n : Nat
  off : Nat
deriving DecidableEq, Repr

/-- A unit of a chunk, which performs at one instant (R304): the chunk (0 for the indirect constants, k + 1 for chunk k of
the stream, one more than the last for AMAXW words), the copy address of the aligned block it lies in, its pieces in
stream order. -/
structure CUnit where
  chunk : Nat
  addr : Nat
  pieces : List Piece
deriving DecidableEq, Repr

/-- What kind of work a copy command is: a bundle operation, or the command of a Lantern microinstruction. -/
inductive CmdKind where
  | bundle (i : Instr)
  | glim (sd : Fin 16) (n : Nat)
  | kgth (n : Nat)
  | vgth (n : Nat)
  | sgap (bytes : List Byte)
  | owrt (rows : List (List Byte))
deriving DecidableEq, Repr

/-- The command is one of the Lantern's (R279). -/
def CmdKind.isLantern : CmdKind → Bool
  | .bundle _ => false
  | _ => true

/-- The shape of a copy command: its direction, its tile rows, its port, the formats of the elements before and after the
port, the rounding of the emitted values, the elements of a unit and its bytes, the elements of a chunk
and of the stream. -/
structure CopyForm where
  load : Bool
  t : Nat
  row : Nat
  cnt : Nat
  p : Option (Fin 16)
  ps : Bool
  inF : Fmt
  outF : Fmt
  rm : Rm
  epu : Nat
  u : Nat
  per : Nat
  total : Nat
deriving DecidableEq, Repr

/-- A copy command in the queue (R185, R187). `seq` is its number at the port slot it binds. `units` holds what has still
to perform, in stream order; `pos` the memory positions that chunks not yet through the port may write; `got` the bytes
of chunks on their way; `outs` elements that have left the port and stand in no row or unit yet; `credit` the bytes each
chunk of a store credits. `tileR` and `tileW` are the physical tiles it reads and writes (R92). `later` holds the addresses
of indirect constants and AMAXW words that stand in no unit yet (R240, R271), `elems` how many stream elements have passed,
`carry` the bits, as many as its first part says, that raw blocks of a described stream have left over from whole elements
(R57). `start` is the number from which it counts the context's accesses as earlier: its own, or that of its Lantern
sequence (R322).
`grants` the words of table 2 as they stood at issue (R385), `sent` the units in the pod aperture that are on their way
(R440). -/
structure Cmd where
  uid : Nat
  start : Nat
  kind : CmdKind
  addr : Nat
  bar : Option Nat
  form : CopyForm
  base : Nat
  nest : List Nat
  index : List Int
  src : List Row
  desc : List Byte
  seq : Nat
  units : List CUnit
  pos : List Nat
  got : List (Nat × List Byte)
  outs : List Nat
  emitted : Nat
  ported : Nat
  chunks : Nat
  rows : Nat
  credit : List (Nat × Nat)
  consts : List Nat
  started : Bool
  ended : Bool
  folded : Bool
  claimed : Nat
  parkedAt : Option Nat
  stopped : Bool
  poison : Bool
  tileR : List Nat
  tileW : List Nat
  later : List Nat
  elems : Nat
  carry : Nat × Nat
  grants : List ((Nat × Nat × Nat) × Nat)
  sent : List Sent
deriving DecidableEq, Repr

/-- An arrival that waits for earlier accesses of its context (R318). -/
structure PendArr where
  slot : Nat
  sc : Nat
  need : List Nat
deriving DecidableEq, Repr

/-- An asynchronous report pending for a context (R189). -/
structure Async where
  cause : Nat
  epc : Nat
  tval : Nat
  xport : Option Nat
  xelem : Option Nat
deriving DecidableEq, Repr

/-- A context (R66, R67, R338). `barWait` is the barrier slot on which its BARW is blocked, `cfgRel` the slots whose CFG
was written while it was blocked there, with its party index in the slot as it was (R405). `foldNow` holds the flags folded
in real ck `foldCk`, the last such ck (R159). `blk` says what it waits for, `since` the ck from which it has waited (R68),
`mark` the number of the next access when the group at the program counter first waited (R150, R152). `frzAt` is the ck in
which a freeze reached it, of a supervisor's context that in which its CTXFRZ began to wait (R149). -/
structure Ctx where
  st : CtxSt
  g : Vector Word 32
  full : BitVec 32
  h : Vector Word 16
  q : Vector (List Word) 8
  p : BitVec 8
  k : Vector Word 8
  n : Vector (Vector Word 6) 8
  y : Vector YReg 64
  flags : Flags
  foldCk : Nat
  foldNow : Flags
  rplp : Bool
  xcause : Nat
  xepc : Word
  xtval : Word
  xport : Word
  xelem : Word
  xfwdo : Word
  xfwdn : Word
  xfwdw : Word
  rplLast : Nat
  group : Nat
  rank : Nat
  tbase : Nat
  tcnt : Nat
  gsc : Nat
  seg : Nat
  ilk : BitVec 16
  lat : List Nat
  codebook : List Nat
  kernel : Nat
  pc : Nat
  icyc : Nat
  lastGroup : Nat
  flights : List Flight
  longs : List LongRes
  far : List Far
  loop : Option LoopSt
  loopn : Option LoopnSt
  half0 : Option Half
  half1 : Option Half
  rows : List RowsOp
  aq : List AqReq
  dq : List DqEnt
  pseen : Bool
  cmds : List Cmd
  nmc : List (Nat × Nat)
  uid : Nat
  arrivals : List PendArr
  barWait : Option Nat
  cfgRel : List (Nat × Option Nat)
  asyncs : List Async
  blk : Nat
  since : Nat
  mark : Option Nat
  frzAt : Option Nat
  frzPoint : Option Nat
  frzCause : Nat
  frzForced : Bool
  frzDp : Bool
  frzN : Nat
deriving DecidableEq, Repr

/-- A context that no group uses: the values of R66, and the values of log 5 where the spec gives none. -/
def Ctx.reset : Ctx where
  st := .free
  g := Vector.replicate 32 0
  full := 0xFFFFFFFF
  h := Vector.replicate 16 0
  q := Vector.replicate 8 []
  p := 1
  k := Vector.replicate 8 0xFFFFFFFFFFFFFFFF
  n := Vector.replicate 8 (Vector.replicate 6 0)
  y := Vector.replicate 64 ⟨0, 0, 0⟩
  flags := 0
  foldCk := 0
  foldNow := 0
  rplp := false
  xcause := 0
  xepc := 0
  xtval := 0
  xport := 0
  xelem := 0
  xfwdo := 0
  xfwdn := 0
  xfwdw := 0
  rplLast := 0
  group := 0
  rank := 0
  tbase := 0
  tcnt := 0
  gsc := 0
  seg := 0
  ilk := 0
  lat := [1, 3, 4, 1, 1, 3, 24, 4, 3, 8, 6, 12, 9, 6, 14, 70]
  codebook := List.replicate 16 0
  kernel := 0
  pc := 0
  icyc := 0
  lastGroup := 0
  flights := []
  longs := []
  far := []
  loop := none
  loopn := none
  half0 := none
  half1 := none
  rows := []
  aq := []
  dq := []
  pseen := false
  cmds := []
  nmc := []
  uid := 0
  arrivals := []
  barWait := none
  cfgRel := []
  asyncs := []
  blk := 0
  since := 0
  mark := none
  frzAt := none
  frzPoint := none
  frzCause := 0
  frzForced := false
  frzDp := false
  frzN := 0

/-! ## One core -/

/-- Who owns the matrix unit (R93, R277). -/
inductive Owner where
  | none
  | ctx (i : Nat)
  | lantern
deriving DecidableEq, Repr

/-- Where a Lantern sequence stands (R277, R283). -/
inductive LnPhase where
  | idle
  /-- step 3 of R277: waits for copy commands on lent tiles -/
  | starting
  | running
  /-- the word waits for a copy-queue entry or its copy command -/
  | copying (uid : Nat)
deriving DecidableEq, Repr

/-- The Lantern (R272 to R274); `base` is the name of its parameter block, `first` the number of the first copy command its
sequence may have issued. -/
structure Lantern where
  phase : LnPhase
  pc : Nat
  s : List Nat
  params : List Byte
  qsig : Nat
  m : List Nat
  l : List Nat
  alpha : List Nat
  score : List (List Nat)
  owner : Nat
  first : Nat
  bar : Nat
  endCode : Nat
  cause : Nat
  epc : Nat
  base : Nat
  poisoned : Bool
deriving DecidableEq, Repr

/-- The Lantern at core reset (R274). -/
def Lantern.reset : Lantern :=
  ⟨.idle, 0, List.replicate 16 0, [], 0, [], [], [], [], 0, 0, 0, 0, 0, 0, 0, false⟩

/-- A command that a port-program slot serves or will serve, in the order they issued (R244): the slot, the number of
the command on the core, its context, the state of its stream once it has started, and, for an operation of slot R, the
issue cycle in which it has left the slot. `inExp` says that a copy's first element has entered the exponent engine, `left`
that its last has left it (R249); `passed` that a later operation of its group has gone through the slot (R244). -/
structure Serve where
  slot : Nat
  seq : Nat
  ctx : Nat
  run : Option PRun
  until_ : Option Nat
  special : Bool
  inExp : Bool
  left : Bool
  passed : Bool
deriving DecidableEq, Repr

/-- A core (R60 to R95). A core number is ((RET * 4 + CHIP) * 2 + LAYER) * 65 + c with c = 8 * MY + MX, and c = 64 for
the supervisor core of the die layer. -/
structure Core where
  ctx : Vector Ctx 4
  cur : Nat
  lastIssue : Option Nat
  tiles : List (Nat × Row)
  bad : List Nat
  owner : Owner
  banks : Vector Bank 4
  acc : List (Nat × List Nat)
  live : BitVec 64
  latA : List Nat
  latB : List Nat
  mFree : Nat
  tFree : Nat
  rFree : Nat
  mUser : Nat
  tUser : Nat
  rUser : Nat
  ports : List (Nat × PortSlot)
  serving : List Serve
  opSeq : Nat
  control : List (Nat × Nat)
  lantern : Lantern
  inTrap : Bool
deriving DecidableEq, Repr

/-- A core after core reset (R216, R272; log 5). -/
def Core.reset : Core where
  ctx := Vector.replicate 4 Ctx.reset
  cur := 0
  lastIssue := none
  tiles := []
  bad := []
  owner := .none
  banks := Vector.replicate 4 Bank.reset
  acc := []
  live := 0
  latA := List.replicate 16 0x7F
  latB := List.replicate 16 0x7F
  mFree := 0
  tFree := 0
  rFree := 0
  mUser := 0
  tUser := 0
  rUser := 0
  ports := []
  serving := []
  opSeq := 0
  control := []
  lantern := Lantern.reset
  inTrap := false

/-! ## Barriers, pages, images, near-memory engines -/

/-- A party entry (R399); a party with no entry is NONE. -/
inductive PEntry where
  | arr | wait | done | donep | wrel | wrelp
deriving DecidableEq, Repr

/-- A claim of ring space that waits (R403): the command, and the ring slots it has taken. -/
structure Claim where
  core : Nat
  ctx : Nat
  uid : Nat
  taken : Nat
deriving DecidableEq, Repr

/-- A barrier slot (R395 to R399), the claims that wait for its ring space in the order they came (R403), and what has
been counted in the current ck (R400). -/
structure Slot where
  cfg : Nat
  size : Nat
  bytes : Nat
  arr : Nat
  phase : Nat
  lp : Bool
  brk : Bool
  claim : Nat
  filled : Nat
  free : Nat
  claiming : List Claim
  entries : List (Nat × PEntry)
  sup : List (Nat × Nat × Bool)
  arrNow : Nat
  arrParties : List Nat
  bytesNow : Nat
  poisonNow : Bool
  forceNow : Option Bool
deriving DecidableEq, Repr

/-- A free slot (R407). -/
def Slot.reset : Slot := ⟨0, 0, 0, 0, 0, false, false, 0, 0, 0, [], [], [], 0, [], 0, false, none⟩

/-- A multicast store in flight (R176): `name` is its address as issued, `epc` the bundle that issued it. -/
structure Mcast where
  due : Nat
  core : Nat
  ctx : Nat
  uid : Nat
  addrs : List Nat
  bytes : List Byte
  name : Nat
  epc : Nat
deriving DecidableEq, Repr

/-- The status word of a command that has ended at its base die: DONE, FAIL and STATE, and which of its two words of 8 bytes
has been written, the upper one or the lower (R197, R304). -/
structure NmEnd where
  done : Nat
  fail : Nat
  state : Nat
  high : Bool
deriving DecidableEq, Repr

/-- A command at the base die of a stack (R197, R365): an NMC of context `ctx` of `core`, or the entry of a KIND 3 node.
`ready` says that its pages have been translated: `a` and `b` are the keys of the 64 KiB pages of its two ranges, `objs`
the translations it holds. `stat` is the key of its status word, `fin` what it holds once half of it is written. -/
structure NmCmd where
  core : Nat
  ctx : Nat
  uid : Nat
  node : Option Nat
  op : Nat
  desc : List Byte
  bar : Option Nat
  epc : Nat
  stat : Nat
  ready : Bool
  a : List Nat
  b : List Nat
  objs : List (Nat × Nat)
  burst : Nat
  flags : Flags
  fin : Option NmEnd
deriving DecidableEq, Repr

/-- A command at the image-intake engine of a chiplet (R190): an IMGDEC of context `ctx` of `core`, or a descriptor of a
KIND 2 node. `sent` holds the ports on which a node's accesses to the pod aperture are on their way, and whether they
read (R440). -/
structure ImgCmd where
  core : Nat
  ctx : Nat
  uid : Nat
  node : Option Nat
  desc : List Byte
  sent : List (Nat × Bool)
deriving DecidableEq, Repr

/-! ## Kernels, nodes, groups -/

/-- A kernel on the package (R344, R357). -/
structure Kernel where
  kid : Nat
  state : Nat
  refuse : Nat
  image : List Byte
  addr : Nat
  client : Nat
  tag : Nat
deriving DecidableEq, Repr

/-- A saved context of a frozen group (R337): what the save image holds, the hardware context it stood in, and
`now` the context as the commands that run on leave it (R333). -/
structure Saved where
  rank : Nat
  hw : Nat
  ctx : Ctx
  now : Ctx
  tiles : List (Nat × Row)
  mu : Bool
  banks : Vector Bank 4
  acc : List (Nat × List Nat)
  live : BitVec 64
  latA : List Nat
  latB : List Nat
  ln : Bool
  lantern : Lantern
  ports : List (Nat × PortSlot)
  serving : List Serve
  mFree : Nat
  tFree : Nat
  rFree : Nat
deriving DecidableEq, Repr

/-- Where a context of a group stands: core, hardware context, first tile. -/
structure Place where
  core : Nat
  ctx : Nat
  tbase : Nat
deriving DecidableEq, Repr

/-- The states of a group (R392). -/
inductive GroupSt where
  | assigned | placing | running | freezing | frozen | resuming | ended
deriving DecidableEq, Repr

/-- A group (R378 to R392). -/
structure Group where
  gid : Nat
  st : GroupSt
  node : Nat
  kernel : Nat
  ctxs : Nat
  cpc : Nat
  tpc : Nat
  vwin : Nat
  mwin : Nat
  gsc : Nat
  places : List Place
  windows : List Nat
  saves : List Nat
  saved : List Saved
  retired : List Nat
  tick : Nat
  die : Nat
deriving DecidableEq, Repr

/-- The states of a node (R369 to R372). -/
inductive NodeSt where
  | waiting | ready | running | suspended | done
deriving DecidableEq, Repr

/-- A node of the node table (R360, R375): its record, its declared operands (base, length, mode), and the lists read
when it was accepted (R361): 28 argument words, or the descriptors of KIND 2 and 3. -/
structure Node where
  index : Nat
  record : List Byte
  ops : List (Nat × Nat × Nat)
  lists : List (List Byte)
  gid : Nat
  id : Nat
  st : NodeSt
  deps : List Nat
  level : Nat
  since : Nat
  group : Nat
  status : Nat
  cause : Nat
  seq : Nat
  client : Nat
deriving DecidableEq, Repr

/-- A graph (R359, R377); `done` says that it is Completed and its reply has still to be written. -/
structure Graph where
  gid : Nat
  client : Nat
  tag : Nat
  isOpen : Bool
  pending : Nat
  total : Nat
  bad : Nat
  done : Bool
deriving DecidableEq, Repr

/-! ## Links, host, service -/

/-- A link port (R432 to R438); `rate` is its rate limit in GB/s (R458). -/
structure Port where
  state : Nat
  lanes : Nat
  peer : Nat
  recv : List (List (List Byte))
  unacked : List (List (List Byte))
  credits : List Nat
  queued : List (List (List Byte))
  fails : Nat
  trainStart : Option Nat
  rate : Nat
deriving DecidableEq, Repr

/-- A port at package reset: down (R433), its rate limiter at the port's rate, as the fuses set it: 8 lanes of 25 GB/s (R432,
R458). -/
def Port.reset : Port := ⟨0, 0, 0, [[], [], [], []], [[], [], [], []], [64, 64, 64, 64], [[], [], [], []], 0, none, 200⟩

/-- A host channel (R441, R442). -/
structure Channel where
  en : Bool
  irqe : Bool
  ovf : Bool
  inbox : List (List Byte)
  outbox : List (List Byte)
  irq : Bool
deriving DecidableEq, Repr

/-- A channel with nothing in it, not enabled. -/
def Channel.reset : Channel := ⟨false, false, false, [], [], false⟩

/-- The modes of the package (R459). -/
inductive PkgMode where
  | startup | operating | test | recovery
deriving DecidableEq, Repr

/-! ## What waits for a supervisor -/

/-- A chunk or a request that has parked on a page (R419, R421): its context, its number and the page. -/
structure Park where
  core : Nat
  ctx : Nat
  uid : Nat
  id : Nat
deriving DecidableEq, Repr

/-- A slab that has grown (R424): its old base, its new base and the exponent of its new size. -/
structure OldSlab where
  old : Nat
  new : Nat
  sz : Nat
deriving DecidableEq, Repr

/-! ## Turns -/

/-- Who moves next: the instants that the spec leaves free (R303). -/
inductive Turn where
  /-- a core tries to issue -/
  | issue (core : Nat)
  /-- the Lantern of a core runs its next word -/
  | lantern (core : Nat)
  /-- an event or engine step -/
  | event (i : Instr)
  /-- one period of the clock ends -/
  | tick
  /-- a far scalar access performs -/
  | far (core ctx idx : Nat)
  /-- a request leaves an address queue -/
  | request (core ctx : Nat)
  /-- the host writes its own memory, or a peer package through its aperture -/
  | outside (addr : Nat) (bs : List Byte)
  /-- the host writes to BAR0 (R441) -/
  | barWrite (offset : Nat) (bs : List Byte)
  /-- the host reads `n` bytes of BAR0 (R441) -/
  | barRead (offset n : Nat)
  /-- a soft error strikes stored bits -/
  | softError (key : Nat)
  /-- a tile segment fails its parity; from 8192 on, the next write of a bank -/
  | tileError (core seg : Nat)
  /-- a peer grants a credit on a lane -/
  | credit (port lane : Nat)
  /-- the management controller counts in a lifetime record: a corrected error, a retrained fabric boundary, a thermal
  excursion, a powered hour, or an addition of the firmware (R456) -/
  | lifetime (record place : Nat)
  /-- a factory clear of the lifetime records (R456) -/
  | factoryClear
  /-- a word of a supervisor table meets an uncorrectable error (R459) -/
  | tableError
  /-- a soft error strikes what carries no check in a core, and leaves it as in `v` (R455) -/
  | upset (core : Nat) (v : Core)
  /-- the contexts of a group that is placed or resumed become Ready (R329, R392) -/
  | groupReady (gid : Nat)
  /-- the supervisor rewrites a window entry that maps a grown slab's old base, or frees that base (R424) -/
  | slabEntry
  /-- the next step of bring-up (R459) -/
  | bringUp
  /-- the firmware raises the fused rollback counter (R457, R458) -/
  | raiseRollback (v : Nat)
  /-- the firmware sets a port's rate limit (R458) -/
  | portRate (port v : Nat)
  /-- all memory of the package is written to a safe tier (R461) -/
  | checkpoint
  /-- the image of a checkpoint is written back (R461) -/
  | restore
deriving DecidableEq, Repr, Inhabited

/-- The group being issued: who issues it, where it stands, what follows it, D, the slots of its second bundle, and the
results that the replay buffer held at its start (R336). -/
structure Issue where
  core : Nat
  ctx : Nat
  addr : Nat
  addr2 : Nat
  next : Nat
  d : Bool
  second : Nat
  rpl : Nat
deriving DecidableEq, Repr

/-- A record in the submission FIFO (R156): the client for whom its submitter works, the record, and the window-table entries
in force for the submitter, range word and target word (R360). -/
structure Submission where
  client : Nat
  record : List Byte
  maps : List (Nat × Nat)
deriving DecidableEq, Repr

/-- A write to a shared page at a page unit (R423): the page's object, the chiplet it is issued on, the page, and the unit that
writes, of a copy command or an NMC (`chunk` 0) of a context. For a node's engine `uid` counts the entries it has left. -/
structure CowReq where
  obj : Nat
  ch : Nat
  page : Nat
  core : Nat
  ctx : Nat
  uid : Nat
  node : Option Nat
  chunk : Nat
  addr : Nat
deriving DecidableEq, Repr

/-- The image of a checkpoint (R461): the bytes of the stacks and vaults, the errors beneath them, and what the supervisors keep of
the groups that stood frozen, their kernels, nodes, tables and barriers (log 91). -/
structure Tier where
  mem : List Host.Cell
  poison : List Nat
  groups : List Group
  kernels : List Kernel
  nodes : List Node
  graphs : List Graph
  allocs : List (Nat × Nat × Nat)
  tables : List ((Nat × Nat × Nat) × Nat)
  slots : List ((Nat × Nat) × Slot)
deriving DecidableEq, Repr

/-- The package. `landed` is the ck in which multicast stores have landed (R176); `boot` and `bootStep` say where bring-up
stands (R459); `tier` is the image of a checkpoint (R461); `parks` what has parked, in the order it did (R421); `oldSlabs`
the grown slabs whose old base is still mapped (R424); `cow` the writes that page units serve, with the unit's chiplet
(R423); `barData` what the host's last read of BAR0 returned (R441). -/
structure State where
  ck : Nat
  mem : List Host.Cell
  poison : List Nat
  cores : List (Nat × Core)
  tables : List ((Nat × Nat × Nat) × Nat)
  tcache : List ((Nat × Nat × Nat) × Nat)
  slots : List ((Nat × Nat) × Slot)
  mcasts : List Mcast
  landed : Option Nat
  nmq : List (Nat × List NmCmd)
  imgq : List (Nat × List ImgCmd)
  kernels : List Kernel
  groups : List Group
  nodes : List Node
  graphs : List Graph
  fifo : List Submission
  supIrq : List (Nat × Nat × Nat)
  ports : List (Nat × Port)
  channels : List (Nat × Channel)
  windows : List (Nat × Nat × Nat)
  allocs : List (Nat × Nat × Nat)
  pciUp : Bool
  mode : PkgMode
  inPod : Bool
  life : List ((Nat × Nat) × Nat)
  fwDigest : Nat
  fwVersion : Nat
  fwRunning : Bool
  rollback : Nat
  clamp : Nat
  attests : List (Nat × Nat)
  boot : Option BootInputs
  bootStep : Nat
  tier : Option Tier
  parks : List Park
  oldSlabs : List OldSlab
  cow : List (Nat × CowReq)
  barData : List Byte
  nodeSeq : Nat
  sched : List Turn
  turns : Nat
  freeCtr : Nat
  issue : Issue
deriving DecidableEq, Repr

/-- The package right after reset (R459 and the reset columns; log 2 and 5 for the values the spec does not give). -/
def State.reset : State where
  ck := 0
  mem := []
  poison := []
  cores := []
  tables := []
  tcache := []
  slots := []
  mcasts := []
  landed := none
  nmq := []
  imgq := []
  kernels := []
  groups := []
  nodes := []
  graphs := []
  fifo := []
  supIrq := []
  ports := []
  channels := []
  windows := []
  allocs := []
  pciUp := true
  mode := .startup
  inPod := false
  life := []
  fwDigest := 0
  fwVersion := 0
  fwRunning := false
  rollback := 0
  clamp := 0
  attests := []
  boot := none
  bootStep := 0
  tier := none
  parks := []
  oldSlabs := []
  cow := []
  barData := []
  nodeSeq := 0
  sched := []
  turns := 0
  freeCtr := 0
  issue := ⟨0, 0, 0, 0, 0, false, 0, 0⟩

end Sys2Proof.Machine
end

