-- ==== Sys2Proof/Config.lean ====
section
/-!
DEFINITION. The values the spec leaves open: opaque constants, so that nothing can be proved of them (log 2, 3, 4).
-/
namespace Sys2Proof.Config

/-- Which agent takes a turn when the schedule in State is empty; applied to a counter (log 2). -/
opaque turn : Nat → Machine.Turn

/-- A value the spec leaves undefined; applied to a counter in State (log 3). -/
opaque freeValue : Nat → BitVec 64

/-- A tile row or bank row whose contents the spec leaves undefined; applied to a counter in State (log 3). -/
opaque freeRow : Nat → BitVec 1536

/-- Where the trap handler of a supervisor core stands (R151 gives no address; log 4). -/
opaque supHandler : Nat → Nat

/-- The number of kernel words in table 7 beyond the first, which R358 does not give (log 3). -/
opaque extraKernelWords : Nat

/-- The number of kernel words in table 7: at least one, since R358 keeps one for each kernel (log 3). -/
def kernelWords : Nat := extraKernelWords + 1

/-- The decoded pixels of an encoded image (R191 fixes them in the engine and does not state them): codec, channels,
width and height given, encoded bytes; the answer is none for a corrupt stream, some (none) for an unsupported
coding, else width, height, components and the samples in row order (log 4). -/
opaque imagePixels : Nat → Nat → Nat → List (BitVec 8) →
  Option (Option (Nat × Nat × Nat × List (BitVec 8)))

/-- The SHA digest of a byte string (R457; log 4). -/
opaque digest : List (BitVec 8) → Nat

/-- The signature over an attestation message (R457; log 4). -/
opaque sign : List (BitVec 8) → Nat

/-- The CRC32C checks of a chunk to or from a checked host page: whether it fails, by a counter (R188; log 3). -/
opaque crcFails : Nat → Bool

end Sys2Proof.Config
end

