-- ==== Sys2Proof/Machine/Ops.lean ====
section
/-!
DEFINITION. The operations over memory, cores, contexts, tables and translation; taking a trap, freezing a group and
returning from a trap (spec 03, 05 R142 to R144, 10, 13 R331, R332, 16 R382 to R386, 19).
-/
namespace Sys2Proof.Machine

/-! ## Association lists -/

/-- The value at a key, or a default. -/
def alGet {α β : Type} [DecidableEq α] (d : β) : List (α × β) → α → β
  | [], _ => d
  | p :: ps, k => if p.1 = k then p.2 else alGet d ps k

/-- The list with a key set. -/
def alSet {α β : Type} [DecidableEq α] : List (α × β) → α → β → List (α × β)
  | [], k, v => [(k, v)]
  | p :: ps, k, v => if p.1 = k then (k, v) :: ps else p :: alSet ps k v

/-- A list with the element at an index changed. -/
def listMod {α : Type} (f : α → α) : Nat → List α → List α
  | _, [] => []
  | 0, x :: xs => f x :: xs
  | n + 1, x :: xs => x :: listMod f n xs

/-! ## Memory (R302, R411; log 1) -/

/-- The byte an address reads as (log 1: 0 where nothing is listed). -/
def memGet : List Host.Cell → Nat → Byte
  | [], _ => 0
  | c :: cs, a => if c.1 = a then c.2 else if a < c.1 then 0 else memGet cs a

/-- Addresses strictly rise from `lo` on, and no entry is 0. -/
def memWfFrom : Nat → List Host.Cell → Bool
  | _, [] => true
  | lo, c :: cs => decide (lo ≤ c.1) && c.2 != 0 && memWfFrom (c.1 + 1) cs

/-- The canonical form of memory. -/
def Memory.wf (m : List Host.Cell) : Bool := memWfFrom 0 m

/-- `n` bytes from an address. -/
def readBytes (m : List Host.Cell) : Nat → Nat → List Byte
  | _, 0 => []
  | a, n + 1 => memGet m a :: readBytes m (a + 1) n

/-- The cells that list bytes from an address on: those that are not 0. -/
def cellsOf : Nat → List Byte → List Host.Cell
  | _, [] => []
  | a, b :: bs => if b = 0 then cellsOf (a + 1) bs else (a, b) :: cellsOf (a + 1) bs

/-- Bytes written from an address on, in canonical form. -/
def writeBytes (m : List Host.Cell) (a : Nat) (bs : List Byte) : List Host.Cell :=
  m.takeWhile (fun c => decide (c.1 < a)) ++
    (cellsOf a bs ++ m.dropWhile (fun c => decide (c.1 < a + bs.length)))

/-- Where the vaults' bytes stand among the keys of memory; device physical addresses stand below (R142, R411). -/
def vaultBase : Nat := 2 ^ 62

/-- The key of a physical vault address (R142). -/
def vaultKey (a : Nat) : Nat := vaultBase + a % 2 ^ 33

/-- A key that R411 or R142 says exists. -/
def keyExists (k : Nat) : Bool :=
  decide (vaultBase ≤ k ∧ k < vaultBase + 2 ^ 33) ||
    (decide (k < 2 ^ 48) && bits k 46 40 == 0)

/-- A key of the pod aperture: a byte of another package's HBM (R439). -/
def isAperture (k : Nat) : Bool := decide (k < 2 ^ 48) && bits k 47 47 == 1 && bits k 39 39 == 1

/-- The unit of memory that holds a key (R304): 32 bytes in HBM, of this package or another, 8 bytes elsewhere. -/
def unitSize (k : Nat) : Nat := if k < 2 ^ 47 ∨ isAperture k = true then 32 else 8

/-- First key of the unit that holds a key. -/
def unitOf (k : Nat) : Nat := k / unitSize k * unitSize k

/-- A little-endian value from memory (R6). -/
def memLe (s : State) (key n : Nat) : Nat := leNat (readBytes s.mem key n)

/-- Store bytes; a whole unit written holds no error any more (R452). -/
def storeBytes (s : State) (key : Nat) (bs : List Byte) : State :=
  { s with
    mem := writeBytes s.mem key bs
    poison := s.poison.filter fun u => !(decide (key ≤ u ∧ u + unitSize u ≤ key + bs.length)) }

/-- The first unit that overlaps a range and holds an uncorrectable error. -/
def badUnit (s : State) (key n : Nat) : Option Nat :=
  s.poison.find? fun u => decide (u < key + n ∧ key < u + unitSize u)

/-- A unit that overlaps a range holds an uncorrectable error (R452). -/
def poisoned (s : State) (key n : Nat) : Bool :=
  s.poison.any fun u => decide (u < key + n ∧ key < u + unitSize u)

/-- The first 8-byte word of a range that holds an uncorrectable error (R453). -/
def firstBad (s : State) (key n : Nat) : Nat :=
  ((List.range (n / 8)).map fun i => key + 8 * i).find? (fun a => poisoned s a 8) |>.getD key

/-! ## Cores and contexts -/

/-- A core of the package. -/
def getCore (s : State) (c : Nat) : Core := alGet Core.reset s.cores c

/-- A core replaced. -/
def setCore (s : State) (c : Nat) (k : Core) : State := { s with cores := alSet s.cores c k }

/-- A core changed. -/
def modCore (s : State) (c : Nat) (f : Core → Core) : State := setCore s c (f (getCore s c))

/-- A context of a core. -/
def Core.get (k : Core) (x : Nat) : Ctx := k.ctx[Fin.ofNat 4 x]

/-- A context of a core replaced. -/
def Core.put (k : Core) (x : Nat) (t : Ctx) : Core := { k with ctx := k.ctx.set (Fin.ofNat 4 x) t }

/-- A context of the package. -/
def getCtx (s : State) (c x : Nat) : Ctx := (getCore s c).get x

/-- A bank of a core changed. -/
def Core.modBank (k : Core) (bk : Fin 4) (f : Bank → Bank) : Core := { k with banks := k.banks.set bk (f k.banks[bk]) }

/-- A context replaced. -/
def setCtx (s : State) (c x : Nat) (t : Ctx) : State := setCore s c ((getCore s c).put x t)

/-- A context changed. -/
def modCtx (s : State) (c x : Nat) (f : Ctx → Ctx) : State := setCtx s c x (f (getCtx s c x))

/-- The supervisor core of a die layer (R9). -/
def isSup (c : Nat) : Bool := c % 65 == 64

/-- The die layer of a core, 0 to 15. -/
def dieOf (c : Nat) : Nat := c / 65

/-- The chiplet of a core, 0 to 7. -/
def chipletOf (c : Nat) : Nat := c / 130

/-- The primary supervisor (R27). -/
def primary : Nat := 64

/-- The service context of a supervisor core (R157; log 6). -/
def serviceCtx : Nat := 1

/-- The vault above a compute core, as a physical vault address (R11, R142). -/
def vaultOfCore (c : Nat) : Nat :=
  (c / 520) * 2 ^ 32 + (c / 130 % 4) * 2 ^ 30 + (c / 65 % 2 * 64 + c % 65) * 2 ^ 23

/-- The core beneath a physical vault address (R11). -/
def coreOfVault (a : Nat) : Nat :=
  ((bits a 32 32 * 4 + bits a 31 30) * 2 + bits a 29 29) * 65 + bits a 28 23

/-- A physical vault address is near for a core (R142). -/
def isNear (c a : Nat) : Bool := !(isSup c) && coreOfVault a == c

/-- The home unit of a key (R302): a vault, a stack, the host, or a stack of another package (R439). -/
def homeOf (k : Nat) : Nat × Nat :=
  if vaultBase ≤ k then (0, coreOfVault (k - vaultBase))
  else if bits k 47 47 = 0 then (1, bits k 39 36)
  else if bits k 39 39 = 0 then (2, 0) else (3, bits k 38 29)

/-- The chiplet to which a stack attaches (R12). -/
def stackChiplet (st : Nat) : Nat := st / 8 * 4 + st % 8 / 2

/-- The scope an instruction names, as it stands: outside a pod, pd is pk (R19). -/
def effScope (s : State) (sc : Nat) : Nat := if sc = 6 ∧ s.inPod = false then 5 else sc

/-- The place of a key lies within the instance of a scope that encloses a core (R15, R315). -/
def inScope (s : State) (sc c k : Nat) : Bool :=
  let sc := effScope s sc
  match (homeOf k).1 with
  | 0 =>
    let v := (homeOf k).2
    match sc with
    | 0 | 1 => false
    | 2 => dieOf v == dieOf c
    | 3 => chipletOf v == chipletOf c
    | 4 => v / 520 == c / 520
    | _ => true
  | 1 =>
    let p := stackChiplet (homeOf k).2
    match sc with
    | 0 | 1 | 2 => false
    | 3 => p == chipletOf c
    | 4 => p / 4 == c / 520
    | _ => true
  | 2 => decide (5 ≤ sc)
  | _ => decide (6 ≤ sc)

/-! ## Lifetime records (R456) -/

/-- A lifetime record counts one more; it saturates at 2^32 - 1 (R456). -/
def count (s : State) (rec idx : Nat) : State :=
  { s with life := alSet s.life (rec, idx) (min (2 ^ 32 - 1) (alGet 0 s.life (rec, idx) + 1)) }

/-- The lifetime records of R456, by their rows. -/
def lifeCORR : Nat := 0
def lifeUNCORR : Nat := 1
def lifeRETRAIN : Nat := 2
def lifeLINKFAIL : Nat := 3
def lifeTHERM : Nat := 4
def lifePLIM : Nat := 5
def lifeHOURS : Nat := 6

/-- The island or stack that holds a key: a stack after the 32 islands, a vault in the Tarn die of its chiplet (R456,
R460). -/
def recordIndex (k : Nat) : Nat :=
  if vaultBase ≤ k then 3 * chipletOf (coreOfVault (k - vaultBase)) + 2 else 32 + bits k 39 36

/-- A key of the package's own memory: its stacks and its vaults. -/
def ownKey (k : Nat) : Bool := decide (k < 2 ^ 47 ∨ vaultBase ≤ k)

/-- An uncorrectable error beneath a key is reported; the records are those of the package's own stores (R452, R456). -/
def countBad (s : State) (k : Nat) : State := if ownKey k then count s lifeUNCORR (recordIndex k) else s

/-- An uncorrectable error in a core die is reported (R454, R456). -/
def countCore (s : State) (c : Nat) : State := count s lifeUNCORR (3 * chipletOf c + dieOf c % 2)

/-! ## Tables (R114, R158) -/

/-- A word of a device table: table, owner (die layer, chiplet or 0), index. -/
def tabGet (s : State) (t o i : Nat) : Nat := alGet 0 s.tables (t, o, i)

/-- A word of a device table set. -/
def tabSet (s : State) (t o i v : Nat) : State := { s with tables := alSet s.tables (t, o, i) v }

/-- KIND of a node (R360). -/
def Node.kind (n : Node) : Nat := leAt n.record 6 1

/-- The group with an identifier. -/
def groupOf (s : State) (gid : Nat) : Option Group := s.groups.find? fun g => g.gid == gid

/-- A group changed. -/
def modGroup (s : State) (gid : Nat) (f : Group → Group) : State :=
  { s with groups := s.groups.map fun g => if g.gid = gid then f g else g }

/-! ## Vault windows (R382 to R386) -/

/-- The package with the grants of table 2 as a list has them (R385). -/
def withGrants (s : State) (grants : List ((Nat × Nat × Nat) × Nat)) : State :=
  { s with tables := grants ++ s.tables.filter fun e => e.1.1 != 2 }

/-- The package as a command in flight sees it: with the grants as they stood when it issued (R385). -/
def Cmd.view (m : Cmd) (s : State) : State := withGrants s m.grants

/-- The place of a name: the grant in force for the group whose name holds all `n` bytes (R383 to R385). -/
def relocate (s : State) (chiplet gid a n : Nat) : Option Nat :=
  if bits a 63 30 ≠ 0 then none
  else
    let grants := s.tables.filter fun e =>
      e.1.1 == 2 && e.1.2.1 / 2 == chiplet && e.1.2.2 % 2 == 0 && bitAt e.2 0 && bits e.2 63 48 == gid
        && bits e.2 29 23 == bits a 29 23 && decide (bits a 22 0 + n ≤ bits e.2 44 33 * 4096)
    match grants with
    | [] => none
    | e :: _ => some ((tabGet s 2 e.1.2.1 (e.1.2.2 + 1) / 4096 * 4096 + bits a 22 0) % 2 ^ 33)

/-- The physical vault address of a name for a context: a supervisor core uses physical addresses (R383). -/
def vaultPlace (s : State) (c x a n : Nat) : Option Nat :=
  if isSup c then (if bits a 63 33 = 0 then some a else none)
  else relocate s (chipletOf c) (getCtx s c x).group a n

/-- Trap causes (R68). -/
def causeILLEGAL : Nat := 0x01
def causeRESERVED : Nat := 0x02
def causePRIV : Nat := 0x03
def causeQOVF : Nat := 0x04
def causeQUNF : Nat := 0x05
def causeEARLY : Nat := 0x06
def causeDUP : Nat := 0x07
def causeWINDOW : Nat := 0x08
def causeVRANGE : Nat := 0x09
def causeALIGN : Nat := 0x0A
def causePORT : Nat := 0x0B
def causeSPARSE : Nat := 0x0C
def causeSCOPE : Nat := 0x0D
def causeBREAK : Nat := 0x0E
def causeTRAPI : Nat := 0x0F
def causeEXPAND : Nat := 0x11
def causeGPOISON : Nat := 0x12
def causeUNCORR : Nat := 0x13
def causeLINK : Nat := 0x14
def causeNMC : Nat := 0x15
def causeWATCHDOG : Nat := 0x16
def causePREEMPT : Nat := 0x17
def causeCHECKSUM : Nat := 0x18

/-- A trap at issue: the step of R144's order, the cause and xtval. -/
structure Trap where
  step : Nat
  cause : Nat
  tval : Nat
deriving DecidableEq, Repr

/-- The checks of R143 on a vault address `a` for `n` bytes. -/
def check143 (s : State) (c x a n : Nat) : List Trap :=
  if bits a 63 33 ≠ 0 then [⟨7, causeVRANGE, a⟩]
  else if a % n ≠ 0 then [⟨7, causeALIGN, a⟩]
  else if (vaultPlace s c x a n).isNone then [⟨7, causeVRANGE, a⟩]
  else []

/-! ## Device virtual addresses (R412 to R416, R425) -/

/-- The window-table entry of a core that maps a virtual address: its index (R412, R415). -/
def windowEntry (s : State) (c a : Nat) : Option Nat :=
  let hits := s.tables.filterMap fun e =>
    if e.1.1 = 0 ∧ e.1.2.1 = dieOf c ∧ e.1.2.2 / 1024 = c % 65 ∧ e.1.2.2 % 4 = 0 ∧ bitAt e.2 0 = true
        ∧ bits e.2 63 32 * 2 ^ 16 ≤ a ∧ a < bits e.2 63 32 * 2 ^ 16 + 2 ^ bits e.2 31 26
    then some (e.1.2.2 / 4 % 256) else none
  match hits with
  | [] => none
  | h :: hs => some (hs.foldl min h)

/-- Word `w` of entry `e` of a core's window table (R412). -/
def winWord (s : State) (c e w : Nat) : Nat := tabGet s 0 (dieOf c) (1024 * (c % 65) + 4 * e + w)

/-- What a translation gives (R415). -/
inductive Xlat where
  | miss
  | park (obj page : Nat)
  | ok (key : Nat) (obj page : Option Nat) (shared crc : Bool)
deriving DecidableEq, Repr

/-- The page table entry of a page of an object: from the translation cache or from memory; none where the object
has no such page (R416, R417). -/
def readPte (s : State) (chiplet obj page : Nat) : Option Nat :=
  let d := tabGet s 1 chiplet obj
  if bitAt d 0 = false ∨ bits d 63 40 ≤ page then none
  else
    let cached := alGet 0 s.tcache (chiplet, obj, page)
    some (if bitAt cached 0 then cached else memLe s (bits d 39 3 * 8 + 8 * page) 8)

/-- Translate a device virtual address for a context of a core (R415), with the forwarding of a growing slab (R199,
R425). -/
def translate (s : State) (c x a : Nat) : Xlat :=
  match windowEntry s c a with
  | none => .miss
  | some e =>
    let w0 := winWord s c e 0
    let w1 := winWord s c e 1
    let off := a - bits w0 63 32 * 2 ^ 16
    if bitAt w0 25 = false then
      let t := getCtx s c x
      let fw := t.xfwdw.toNat
      if bitAt fw 63 ∧ bits fw 55 48 = e ∧ off < bits fw 39 0 then .ok (bits t.xfwdn.toNat 47 0 + off) none none false (bitAt w0 22)
      else .ok (bits w1 47 16 * 2 ^ 16 + off) none none false (bitAt w0 22)
    else
      let obj := bits w1 11 0
      let page := bits w1 39 16 + off / 2 ^ 16
      match readPte s (chipletOf c) obj page with
      | none => .miss
      | some pte =>
        if bitAt pte 0 = false then .park obj page
        else .ok (bits pte 47 16 * 2 ^ 16 + off % 2 ^ 16) (some obj) (some page) (bitAt pte 2) (bitAt w0 22)

/-- A translation kept in the chiplet's cache of 4,096 entries; the oldest goes when it is full (R417; log 7). -/
def cachePte (s : State) (chiplet obj page pte : Nat) : State :=
  let l := (chiplet, obj, page)
  if bitAt pte 0 = false then s
  else
    let mine := (s.tcache.filter fun e => e.1.1 == chiplet).length
    let c := if mine < 4096 ∨ bitAt (alGet 0 s.tcache l) 0 then s.tcache
      else match s.tcache.find? fun e => e.1.1 == chiplet with
        | some old => s.tcache.filter fun e => e.1 != old.1
        | none => s.tcache
    { s with tcache := alSet c l pte }

/-- The translation of a copy address that a unit has used is kept (R417). -/
def rememberPte (s : State) (c a : Nat) : State :=
  if bits a 63 62 = 1 then s
  else match windowEntry s c (bits a 47 0) with
    | none => s
    | some e =>
      if bitAt (winWord s c e 0) 25 = false then s
      else
        let obj := bits (winWord s c e 1) 11 0
        let page := bits (winWord s c e 1) 39 16 + (bits a 47 0 - bits (winWord s c e 0) 63 32 * 2 ^ 16) / 2 ^ 16
        match readPte s (chipletOf c) obj page with
        | some pte => cachePte s (chipletOf c) obj page pte
        | none => s

/-- The key of the tensor header record that a window-table entry names; none where it names none, or where the record has no
place (R413, R414). -/
def recordKey (s : State) (c e : Nat) : Option Nat :=
  let h := winWord s c e 2
  if h = 0 then none
  else if bits h 63 62 = 1 then some (vaultKey (bits h 32 0))
  else match translate s c 0 (bits h 47 0) with
    | .ok k _ _ _ _ => some k
    | _ => none

/-- Seed and linear index of the element at a copy address (R183, R414); those of a record that has no place are open (log
72); `w` is the element width. -/
def seedIndex (s : State) (c a w : Nat) : Nat × Nat :=
  if bits a 63 62 = 1 then (0, bits a 32 0 * 8 / w)
  else match windowEntry s c a with
    | none => (0, 0)
    | some e =>
      let off := a - bits (winWord s c e 0) 63 32 * 2 ^ 16
      if winWord s c e 2 = 0 then (0, off * 8 / w)
      else match recordKey s c e with
        | some key => (memLe s key 8, memLe s (key + 16) 8 + off * 8 / w)
        | none => ((Config.freeValue s.freeCtr).toNat, (Config.freeValue (s.freeCtr + 1)).toNat + off * 8 / w)

/-! ## Free values (log 3) -/

/-- A value the spec leaves undefined, and the state with its counter moved on. -/
def freshWord (s : State) : Word × State := (Config.freeValue s.freeCtr, { s with freeCtr := s.freeCtr + 1 })

/-- A value the spec leaves open, as a number; the trap that reports it moves the counter on. -/
def openVal (s : State) : Nat := (Config.freeValue s.freeCtr).toNat

/-! ## Tiles (R91, R452) -/

/-- Row `r` of physical tile `t` of a core. -/
def Core.row (k : Core) (t r : Nat) : Row := alGet 0 k.tiles (t * 64 + r)

/-- A tile row replaced; a segment wholly written has good parity again (R452). -/
def Core.setRow (k : Core) (t r : Nat) (v : Row) : Core :=
  { k with tiles := alSet k.tiles (t * 64 + r) v, bad := k.bad.filter fun b => b / 4 != t * 64 + r }

/-- Bytes of a tile row replaced. -/
def Core.putRow (k : Core) (t r first : Nat) (bs : List Byte) : Core :=
  { k with
    tiles := alSet k.tiles (t * 64 + r) ((k.row t r).putBytes first bs)
    bad := k.bad.filter fun b => !(b / 4 == t * 64 + r && decide (first ≤ b % 4 * 48 ∧ b % 4 * 48 + 48 ≤ first + bs.length)) }

/-- A row read by an engine: a segment whose parity fails reads as free bytes (R454; log 3). -/
def readRow (s : State) (k : Core) (t r : Nat) : Row :=
  (List.range 4).foldl (fun v i =>
    if k.bad.contains ((t * 64 + r) * 4 + i) then
      Row.putBytes v (48 * i) ((Row.toBytes (Config.freeRow (s.freeCtr + i))).take 48)
    else v) (k.row t r)

/-! ## Delivering results (R61, R83, R84) -/

/-- Fold numeric flags into a context (R40). -/
def foldFlags (s : State) (c x : Nat) (f : Flags) : State :=
  if f = 0 then s else modCtx s c x fun t => { t with flags := t.flags ||| f }

/-- Fold numeric flags of work that ends in real ck `ck` (R40); an XWR that lands in the same ck keeps them (R159). -/
def foldAt (s : State) (c x ck : Nat) (f : Flags) : State :=
  if f = 0 then s else modCtx s c x fun t =>
    { t with flags := t.flags ||| f, foldCk := ck, foldNow := if t.foldCk = ck then t.foldNow ||| f else f }

/-- The context waits at a block of R62: it has given up its core, or keeps it while no other is Ready (log 103). -/
def Ctx.isBlocked (t : Ctx) : Bool := t.st == .blocked || (t.st == .current && decide (1 ≤ t.blk ∧ t.blk ≤ 9))

/-- A wait at a barrier is over: a Blocked context becomes Ready as the ck ends (R62, R330, R404). -/
def Ctx.unheld (t : Ctx) : Ctx := { t with barWait := none, blk := if t.isBlocked then 0 else t.blk }

/-- A Blocked context becomes Ready (R189, R329). -/
def Ctx.released (t : Ctx) : Ctx :=
  { t with
    barWait := none
    st := if t.st = .blocked then .ready else t.st
    blk := if t.isBlocked then 0 else t.blk }

/-- Report an asynchronous event to a context; to a retired context's supervisor where it has retired (R189). A Blocked
context becomes Ready. -/
def report (s : State) (c x : Nat) (a : Async) : State :=
  let t := getCtx s c x
  if t.st = .retired ∨ t.st = .free then { s with supIrq := s.supIrq ++ [(dieOf c, a.cause, a.tval)] }
  else setCtx s c x { (if t.isBlocked then t.released else t) with asyncs := t.asyncs ++ [a] }

/-- Codes of a result row in the result format of MMUL, with flags (R222). -/
def zfCode (zf : Zf) (v : Nat) : Nat × Flags :=
  match zf with
  | .f32 => (v, 0)
  | .bf16 => Fmt.bf16.convert .rne 0 (f32v v)
  | .i32 => Fmt.i32.convert .rne 0 (f32v v)

/-- Write the codes of a result row to the tiles of R213; none leaves its position unchanged (R215). -/
def putResultRow (k : Core) (zt row : Nat) (w : Nat) (codes : List (Option Nat)) : Core :=
  let per := 1536 / w
  -- results fill the first 48 or 96 element places of each tile
  (List.range ((codes.length + per - 1) / per)).foldl (fun k t =>
    let old := elemsOf w per (k.row (zt + t) row).toNat
    let new := old.zipIdx.map fun p => match codes.getD (t * per + p.2) none with
      | some v => v
      | none => p.1
    k.setRow (zt + t) row (rowOf w new)) k

/-- A slot of a core (R238). -/
def Core.port (k : Core) (n : Nat) : PortSlot := alGet PortSlot.empty k.ports n

/-- The state of a command's stream through a slot (R244). -/
def Core.runOf (k : Core) (slot seq : Nat) : PRun :=
  match k.serving.find? fun v => v.slot == slot && v.seq == seq with
  | some v => v.run.getD (PRun.start (k.port slot) (k.port slot).consts)
  | none => PRun.start (k.port slot) (k.port slot).consts

/-- The state of a command's stream kept. -/
def Core.setRun (k : Core) (slot seq : Nat) (r : PRun) : Core :=
  { k with serving := k.serving.map fun v => if v.slot = slot ∧ v.seq = seq then { v with run := some r } else v }

/-- A later operation of the command's group has gone through the slot, whose state is that operation's (R244). -/
def Core.wasPassed (k : Core) (slot seq : Nat) : Bool :=
  k.serving.any fun v => v.slot == slot && v.seq == seq && v.passed

/-- A command leaves a slot: the carried registers and PREV stay with the slot (R241). -/
def Core.endServe (k : Core) (slot seq : Nat) (r : PRun) : Core :=
  { k with
    ports := if k.wasPassed slot seq then k.ports else alSet k.ports slot ((k.port slot).keep r)
    serving := k.serving.filter fun v => !(v.slot == slot && v.seq == seq) }

/-- Every command of a number leaves the slots that serve it: the carried registers and PREV of each stay (R252). -/
def Core.endOp (k : Core) (op : Nat) : Core :=
  (k.serving.filter fun v => v.seq == op).foldl (fun k v => k.endServe v.slot op (k.runOf v.slot op)) k

/-- The flags of summing the open groups of an operation's slots as it gives them back (R250, R252). -/
def Core.endOpFlags (k : Core) (op : Nat) : Flags :=
  (k.serving.filter fun v => v.seq == op).foldl (fun f v => f ||| (k.runOf v.slot op).endFlags) 0

/-- A slot still serves a command (R244). -/
def Core.serves (k : Core) (slot op : Nat) : Bool := k.serving.any fun v => v.slot == slot && v.seq == op

/-- A port Z fault stops an operation of slot M: its ports are given back, its rows to come neither enter nor are
delivered, and their flags do not fold; its streams end there, and the flags of summing their open groups fold (R215,
R252; log 70). -/
def stopRows (s : State) (c x op : Nat) (slot : Nat) (r : PRun) : State :=
  let k := (getCore s c).setRun slot op r
  foldFlags (modCtx (setCore s c (k.endOp op)) c x fun t =>
    { t with
      flights := t.flights.filter fun fl => match fl.w with | .accOut _ _ _ _ _ o _ _ _ => o != op | _ => true
      rows := t.rows.filter fun ro => ro.op != op }) c x (k.endOpFlags op)

/-- The flags a row folds as it is delivered: none where a capture has folded them (R333). -/
def rowFold (fl : Option Flags) (f : Flags) : Flags :=
  match fl with
  | some g => g ||| f
  | none => 0

/-- The next result row of an MMUL or MMULS with ACC = 0 (R222): through port Z, to its place; the acc row empties. A
port fault stops the operation; a row of an operation that has stopped is not delivered (R215, R252). -/
def applyAccOut (s : State) (c x row : Nat) (vals : List Nat) (zt : Nat) (zf : Zf) (pz : Option Nat)
    (op epc : Nat) (last : Bool) (fl : Option Flags) : State :=
  let k := getCore s c
  let live := k.live.getLsbD row
  let acc := alGet [] k.acc row
  let sums : List FV := vals.zipIdx.map fun p =>
    if live then FV.add (acc.getD p.2 0, 0) (p.1, 0) else (p.1, 0)
  let f0 := sums.foldl (fun f v => f ||| v.2) 0
  let clear (k : Core) : Core := { k with acc := alSet k.acc row [], live := k.live &&& ~~~((1 : BitVec 64) <<< row) }
  match pz with
  | none =>
    let cs := sums.map fun v => zfCode zf v.1
    let f := cs.foldl (fun f v => f ||| v.2) f0
    foldFlags (setCore s c (clear (putResultRow k (zt) row (Zf.toFmt zf).width (cs.map fun v => some v.1)))) c x (rowFold fl f)
  | some slot =>
    if !(k.serves slot op) then s
    else
      let r := k.runOf slot op
      let t := getCtx s c x
      let p := runStream (k.port slot).prog (k.port slot).consts t.flags (fun _ => 0) r (sums.map (·.1))
      match p.fault with
      | some pf =>
        let idx := r.next + p.outs.length
        report (stopRows s c x op slot p.run) c x ⟨causePORT, epc, idx,
          some (8 * 2 ^ 20 + pf.kind * 2 ^ 16 + pf.word * 2 ^ 12 + slot * 16 + 2), some idx⟩
      | none =>
        let cs := p.outs.map fun o => match o.1 with
          | some v => let e := emitCode (Zf.toFmt zf) .rne 0 v; (some e.1, o.2 ||| e.2)
          | none => (none, o.2)
        let f := cs.foldl (fun f v => f ||| v.2) f0
        let k := clear (putResultRow k zt row (Zf.toFmt zf).width (cs.map (·.1)))
        let k := if last then k.endServe slot op p.run else k.setRun slot op p.run
        foldFlags (setCore s c k) c x (rowFold fl (if last then f ||| p.run.endFlags else f))

/-- An acc row and a row of totals, added (R222). -/
def accSums (k : Core) (row : Nat) (vals : List Nat) : List FV :=
  vals.zipIdx.map fun p => FV.add ((alGet [] k.acc row).getD p.2 0, 0) (p.1, 0)

/-- Add an acc row (R222, ACC = 1). -/
def applyAccAdd (s : State) (c x row : Nat) (vals : List Nat) (fl : Option Flags) : State :=
  let k := getCore s c
  let sums := accSums k row vals
  foldFlags (setCore s c { k with acc := alSet k.acc row (sums.map (·.1)), live := k.live ||| ((1 : BitVec 64) <<< row) }) c x
    (rowFold fl (sums.foldl (fun f v => f ||| v.2) 0))

/-- A result reaches its destination. -/
def applyWrite (s : State) (c x : Nat) : Write → State
  | .g i v => modCtx s c x fun t => { t with g := t.g.set i v }
  | .h i v => modCtx s c x fun t => { t with h := t.h.set i v }
  | .q i v => modCtx s c x fun t => { t with q := t.q.set i (t.q[i] ++ [v]) }
  | .p i v => modCtx s c x fun t =>
      if i = 0 then t else { t with p := if v then t.p ||| ((1 : BitVec 8) <<< i.val) else t.p &&& ~~~((1 : BitVec 8) <<< i.val) }
  | .k i v => modCtx s c x fun t => { t with k := t.k.set i v }
  | .n i l v => modCtx s c x fun t => { t with n := t.n.set i ((t.n[i]).set (Fin.ofNat 6 l) v) }
  | .y i v => modCtx s c x fun t => { t with y := t.y.set (Fin.ofNat 64 i) v }
  | .tile t r first bs =>
    modCore s c fun k => if bs.length = 192 then k.setRow t r (rowOfBytes bs) else k.putRow t r first bs
  | .latch side i v =>
    modCore s c fun k => if side then { k with latB := k.latB.set i v } else { k with latA := k.latA.set i v }
  | .flags f | .rowFlags _ f => foldFlags s c x f
  | .xstatus f => modCtx s c x fun t =>
      { t with flags := (f &&& flagsWritable) ||| (if t.foldCk = s.ck then t.foldNow else 0) }
  | .xepc v => modCtx s c x fun t => { t with xepc := v }
  | .accAdd row vals fl => applyAccAdd s c x row vals fl
  | .accOut row vals zt zf pz op epc last fl => applyAccOut s c x row vals zt zf pz op epc last fl

/-- The destinations of a write: what readers of it name (R351), and what later writes keep in order with (R84). -/
def Write.keys : Write → List (Nat × Nat × Nat)
  | .g i _ => [(0, i.val, 0)]
  | .h i _ => [(1, i.val, 0)]
  | .q i _ => [(2, i.val, 0)]
  | .p i _ => [(3, i.val, 0)]
  | .k i _ => [(4, i.val, 0)]
  | .n i l _ => [(5, i.val, l)]
  | .y i _ => [(6, i, 0)]
  | .tile t r _ _ => [(7, t, r)]
  | .latch sd i _ => [(8, sd.toNat, i)]
  | .flags _ | .rowFlags _ _ | .xstatus _ => [(9, 0, 0)]
  | .xepc _ => [(10, 0, 0)]
  | .accAdd row _ _ => [(9, 0, 0), (12, row, 0)]
  | .accOut row _ zt zf _ _ _ _ _ =>
    (9, 0, 0) :: (12, row, 0) :: (List.range (if zf = .bf16 then 2 else 4)).map fun j => (7, zt + j, row)

/-- The replay entries that a write makes (R334): an entry holds 192 bytes, so an acc row of 768 takes four; a row that
leaves the accumulators makes the entries of its tile rows. -/
def Write.entries : Write → Nat
  | .accAdd .. => 4
  | .accOut _ _ _ zf _ _ _ _ _ => if zf = .bf16 then 2 else 4
  | _ => 1

/-- The results due by an issue cycle, split: those to apply, in landing order, and those that stay. A result of an
interlocked class stays until its ck (R351), and so do later results for the same destination. -/
def splitDue (icyc ck : Nat) : List Flight → List (Nat × Nat × Nat) → List Flight × List Flight
  | [], _ => ([], [])
  | f :: fs, held =>
    if f.due ≤ icyc then
      if f.ready ≤ ck ∧ ¬ f.w.keys.any held.contains then
        let r := splitDue icyc ck fs held
        (f :: r.1, r.2)
      else
        let r := splitDue icyc ck fs (f.w.keys ++ held)
        (r.1, f :: r.2)
    else
      let r := splitDue icyc ck fs held
      (r.1, f :: r.2)

/-- The write is an XWR of xstatus. -/
def Write.isXwr : Write → Bool
  | .xstatus _ => true
  | _ => false

/-- The flight `g` lands no later than `f`: by issue cycle, then by issue, the group first and in a group slot R last (R84).
An XWR of xstatus stands before the flag folds of its landing cycle (R159). -/
def Flight.before (g f : Flight) : Bool :=
  decide (g.due < f.due) || (g.due == f.due &&
    (if g.w.isXwr = f.w.isXwr then decide (g.at_ < f.at_) || (g.at_ == f.at_ && !(g.cls == 11 && f.cls != 11))
    else g.w.isXwr))

/-- Insert a flight in landing order (R84). -/
def insertFlight (f : Flight) : List Flight → List Flight
  | [] => [f]
  | g :: gs => if g.before f then g :: insertFlight f gs else f :: g :: gs

/-- Deliver what is due in the context's current issue cycle (R61). -/
def deliver (s : State) (c x : Nat) : State :=
  let t := getCtx s c x
  let r := splitDue t.icyc s.ck t.flights []
  r.1.foldl (fun s f => applyWrite s c x f.w)
    (if r.1.isEmpty then s else setCtx s c x { t with flights := r.2 })

/-- Destinations whose results are due and not delivered: readers wait (R351). -/
def lateKeys (s : State) (c x : Nat) : List (Nat × Nat × Nat) :=
  let t := getCtx s c x
  ((splitDue t.icyc s.ck t.flights []).2.filter fun f => decide (f.due ≤ t.icyc)).flatMap fun f => f.w.keys

/-- Latencies of this part (R82), classes 0 to 11. -/
def partLatency : List Nat := [1, 3, 4, 1, 1, 3, 24, 4, 3, 8, 6, 12]

/-- Put a result of a class in flight, `extra` issue cycles after the class's own latency (R82, R350, R351); the row it comes
from enters its engine `row` issue cycles after this one. -/
def exposeFrom (row : Nat) (s : State) (c x cls extra : Nat) (w : Write) : State :=
  modCtx s c x fun t =>
    let T := t.lat.getD cls 1
    let L := partLatency.getD cls 1
    let f : Flight :=
      ⟨t.icyc + T + extra, if T < L then s.ck + L + extra else 0, s.ck + T + extra, t.icyc, cls, t.icyc + row, w⟩
    { t with flights := insertFlight f t.flights }

/-- Put a result of a class in flight, `extra` issue cycles after the class's own latency (R82, R350, R351). -/
def expose (s : State) (c x cls extra : Nat) (w : Write) : State := exposeFrom 0 s c x cls extra w

/-- The access writes its g register. -/
def FarKind.loads : FarKind → Bool
  | .store => false
  | _ => true

/-- A register with the results still on their way to it: it is full once none is left (R75, R77; log 66). -/
def fullAfter (full : BitVec 32) (d : Fin 32) (longs : List LongRes) (far : List Far) : BitVec 32 :=
  if (longs.any fun q => q.d == d) || far.any fun f => f.kind.loads && f.d == d then full
  else full ||| ((1 : BitVec 32) <<< d.val)

/-- Land a long-latency result: the register is full again (R75). -/
def landLong (s : State) (c x : Nat) (r : LongRes) : State :=
  foldAt (modCtx s c x fun t =>
    let rest := t.longs.erase r
    { t with g := t.g.set r.d r.v, full := fullAfter t.full r.d rest t.far, longs := rest })
    c x r.due r.flags

/-- A result entered among others in landing order, after those due no later (R84). -/
def insertLong (r : LongRes) : List LongRes → List LongRes
  | [] => [r]
  | q :: qs => if q.due ≤ r.due then q :: insertLong r qs else r :: q :: qs

/-- Results in landing order; of those due in one ck the later issued, or of the higher slot, is last (R84). -/
def landOrder (rs : List LongRes) : List LongRes := rs.foldl (fun l r => insertLong r l) []

/-- Land every long-latency result that is due, in landing order (R75, R84). -/
def landDue (s : State) (c x : Nat) : State :=
  (landOrder ((getCtx s c x).longs.filter fun r => decide (r.due ≤ s.ck))).foldl (fun s r => landLong s c x r) s

/-- No other result that lands before a result goes to its register (R84). -/
def landsNext (longs : List LongRes) (r : LongRes) : Bool :=
  ((landOrder longs).find? fun q => q.d == r.d) == some r

/-- A long-latency producer issues: its register is empty until the result lands (R75). -/
def produceLong (s : State) (c x lat : Nat) (d : Fin 32) (v : Word) (f : Flags) : State :=
  modCtx s c x fun t =>
    { t with full := t.full &&& ~~~((1 : BitVec 32) <<< d.val), longs := t.longs ++ [⟨s.ck + lat, d, v, f⟩] }

/-! ## Freezing and trapping (R331, R332) -/

/-- A freeze reaches a context (R332): at once where it is Ready or Blocked, later where it is Current. It restarts the
count of WATCHDOG (R68). -/
def freezeCtx (s : State) (c x : Nat) : State :=
  modCtx s c x fun t =>
    if t.st = .ready ∨ t.isBlocked then
      { t with st := .freezing, frzAt := some s.ck, frzPoint := some s.ck, frzCause := causePREEMPT, since := s.ck }
    else if t.st = .current then { t with frzAt := some (t.frzAt.getD s.ck), since := s.ck }
    else t

/-- A freeze reaches every context of a running group that has not retired (R387, R392). -/
def freezeGroup (s : State) (gid : Nat) : State :=
  match groupOf s gid with
  | none => s
  | some g =>
    if g.st = .running then
      modGroup (g.places.foldl (fun s p => freezeCtx s p.core p.ctx) s) gid fun g => { g with st := .freezing }
    else s

/-- Take a trap (R68, R331): the cause registers are written; on a compute core the trapping context freezes here and
the group with it; on a supervisor core issue goes to the trap handler (R151). Only under WATCHDOG does the context still
wait for what it waited for (R340). -/
def takeTrap (s : State) (c x cause tval epc : Nat) : State :=
  let s := modCtx { s with freeCtr := s.freeCtr + 1 } c x fun t =>
    { t with
      xcause := cause, xepc := BitVec.ofNat 64 epc, xtval := BitVec.ofNat 64 tval, since := s.ck, mark := none
      blk := if cause = causeWATCHDOG then t.blk else 0
      barWait := if cause = causeWATCHDOG then t.barWait else none }
  if isSup c then
    modCore (modCtx s c x fun t => { t with pc := Config.supHandler c, frzAt := none }) c fun k => { k with inTrap := true }
  else
    let s := modCtx s c x fun t =>
      { t with st := .freezing, frzAt := some (t.frzAt.getD s.ck), frzPoint := some s.ck, frzCause := cause }
    freezeGroup s (getCtx s c x).group

/-- Return from a trap on a supervisor core (R151): the next group is the one at xepc. -/
def returnTrap (s : State) (c x : Nat) : State :=
  modCore (modCtx s c x fun t => { t with pc := t.xepc.toNat }) c fun k => { k with inTrap := false }

/-- Take an asynchronous report at a bundle boundary (R189, R253, R254). -/
def takeAsync (s : State) (c x : Nat) (a : Async) : State :=
  let s := modCtx s c x fun t =>
    { t with
      xport := match a.xport with | some v => BitVec.ofNat 64 v | none => t.xport
      xelem := match a.xelem with | some v => BitVec.ofNat 64 v | none => t.xelem }
  takeTrap s c x a.cause a.tval a.epc

/-! ## Accesses in flight, as the ordering rules see them -/

/-- The key of a byte at a copy address; none where it has no place now (R383, R415). -/
def keyAt (s : State) (c x a : Nat) : Option Nat :=
  if bits a 63 62 = 1 then (vaultPlace s c x (bits a 32 0) 1).map vaultKey
  else if bits a 63 62 ≠ 0 then none
  else match translate s c x (bits a 47 0) with
    | .ok k _ _ _ _ => some k
    | _ => none

/-- Addresses a command may still reach: those of its units, of chunks not yet through its port, and of the indirect
constants and AMAXW words that stand in no unit yet (R187, R240, R271). -/
def Cmd.reach (m : Cmd) : List Nat := m.units.map (·.addr) ++ m.pos ++ m.later

/-- Keys that a far access, a copy command and the rest of a context have still to perform at, with their numbers; none
where an access has no place now (R316, R318). -/
def outstanding (s : State) (c x : Nat) : List (Nat × Option Nat) :=
  let t := getCtx s c x
  (t.far.map fun f => (f.uid, some f.addr))
    ++ (t.cmds.map fun m => m.reach.map fun a => (m.uid, keyAt (m.view s) c x a)).flatten
    ++ (t.aq.map fun r => (r.uid, keyAt s c x r.addr))
    ++ (t.dq.filter fun d => !d.arrived).map (fun d => (d.uid, keyAt s c x d.addr))
    ++ ((s.mcasts.filter fun m => m.core == c && m.ctx == x).map fun m => m.addrs.map fun a => (m.uid, some a)).flatten

/-- An access may lie within a scope of a core: one with no place now may turn out on any stack, so within every scope that
holds one (R15, R23). -/
def mayBeIn (s : State) (sc c : Nat) : Option Nat → Bool
  | some k => inScope s sc c k
  | none => decide (3 ≤ effScope s sc)

/-- The accesses issued before the group that a context tries to issue: those numbered below its next number when it first
tried (R150, R152). -/
def Ctx.horizon (t : Ctx) : Nat := t.mark.getD t.uid

/-- The numbers of the earlier accesses of a context, still to perform, that may lie within a scope of its core (R315,
R316). -/
def outstandingIn (s : State) (sc c x : Nat) : List Nat :=
  ((outstanding s c x).filter fun p => decide (p.1 < (getCtx s c x).horizon) && mayBeIn s sc c p.2).map (·.1)

/-- Everything DRAIN waits for has performed: what the context issued before it, the Lantern's commands apart (R150). -/
def drained (s : State) (c x : Nat) : Bool :=
  let t := getCtx s c x
  let old (uid : Nat) : Bool := decide (uid < t.horizon)
  !(t.far.any fun f => old f.uid) && !(t.cmds.any fun m => old m.uid && !m.kind.isLantern) && !(t.aq.any fun r => old r.uid)
    && !(t.dq.any fun d => old d.uid && !d.arrived) && !(s.mcasts.any fun m => m.core == c && m.ctx == x && old m.uid)

end Sys2Proof.Machine
end

