-- ==== Sys2Proof/Machine/Operands.lean ====
section
/-!
DEFINITION. How an issue group is handled: guards, operands, stalls, traps at issue and blocks, and what follows a
group (spec 03 R60 to R65, R74 to R81, R88 to R93; 04 R100 to R103; 05 R144; 14 R351).
-/
namespace Sys2Proof.Machine

/-- What a result or a read names (`Write.keys`). -/
abbrev Key := Nat × Nat × Nat

/-- The core of the group being issued. -/
def State.core (s : State) : Nat := s.issue.core

/-- The context of the group being issued. -/
def State.ctx (s : State) : Nat := s.issue.ctx

/-- The issuing core's state. -/
def State.myCore (s : State) : Core := getCore s s.issue.core

/-- The issuing context's state. -/
def State.me (s : State) : Ctx := getCtx s s.issue.core s.issue.ctx

/-- The issuing context changed. -/
def State.modMe (s : State) (f : Ctx → Ctx) : State := modCtx s s.issue.core s.issue.ctx f

/-- One operation of a group, as the rules of issue see it. A function of a state gets the state at the start of the
group, after what falls due has been delivered; the list holds the values of `srcs`. -/
structure Op where
  /-- slot number (R64) -/
  slot : Nat
  /-- guard (R79) -/
  guard : Guard := ⟨false, 0⟩
  /-- source operands, in operand order (R76, R78) -/
  srcs : List Src := []
  /-- destination g registers that must be full (R77) -/
  dsts : List (Fin 32) := []
  /-- queue registers the operation pushes (R78) -/
  pushes : List (Fin 8) := []
  /-- what else it reads (R351) -/
  reads : State → List Key := fun _ => []
  /-- port-program slots it binds (R244) -/
  binds : List (Fin 16) := []
  /-- requests it pushes to the address queue (R208, R224) -/
  aqs : Nat := 0
  /-- physical tiles it reads, for the scoreboard (R92) -/
  tileR : State → List Nat := fun _ => []
  /-- physical tiles it writes, for the scoreboard (R92) -/
  tileW : State → List Nat := fun _ => []
  /-- IDX of a port word that fails at decode (R103, R135) -/
  decode : State → Option Nat := fun _ => none
  /-- an in-place wait of its own (R63) -/
  stall : State → List Word → Bool := fun _ _ => false
  /-- an in-place wait that R60 counts as an empty issue cycle -/
  empty : State → List Word → Bool := fun _ _ => false
  /-- traps at issue beyond those of the operands (R144) -/
  traps : State → List Word → List Trap := fun _ _ => []
  /-- the blocking condition of R62 it meets -/
  block : State → List Word → Option Nat := fun _ _ => none
  /-- what a block of its own records (R401) -/
  onBlock : State → State := fun s => s
  /-- what the report of a trap of its own changes (R401) -/
  onTrap : Nat → State → State := fun _ s => s
  /-- an action that starts at issue and that the group waits for in place (R149) -/
  kick : State → List Word → Option (State → State) := fun _ _ => none
  /-- where control goes: a branch, or a skip of a loop body -/
  goto : State → List Word → Option (Bool × Nat) := fun _ _ => none
  /-- the effect: the state at the start of the group, the values, the state so far -/
  effect : State → List Word → State → State := fun _ _ s => s

/-- A g source as a source operand. -/
def gs (a : GSrc) : Src := .g a.i a.blk

/-- A guard holds (R79, R81). -/
def guardHolds (t : Ctx) (g : Guard) : Bool := t.p.getLsbD g.p.val != g.inv

/-- The values of the sources of one operation, and how many entries of each queue register have been popped (R78). -/
def readSrcs (t : Ctx) : List Src → List Nat → List Word × List Nat
  | [], pops => ([], pops)
  | .g i _ :: ss, pops =>
    let r := readSrcs t ss pops
    (t.g[i] :: r.1, r.2)
  | .q i pk :: ss, pops =>
    let n := pops.getD i.val 0
    let r := readSrcs t ss (if pk then pops else pops.set i.val (n + 1))
    ((t.q[i]).getD n 0 :: r.1, r.2)

/-- Queue registers that a source finds without an entry (R78). -/
def underflows (t : Ctx) : List Src → List Nat → List Nat
  | [], _ => []
  | .g _ _ :: ss, pops => underflows t ss pops
  | .q i pk :: ss, pops =>
    let n := pops.getD i.val 0
    (if (t.q[i]).length ≤ n then [i.val] else []) ++ underflows t ss (if pk then pops else pops.set i.val (n + 1))

/-- An operation whose guard holds, with the values it read and the queue registers it found empty. -/
structure Act where
  op : Op
  vals : List Word
  under : List Nat

/-- The operations of a group whose guards hold, in slot order, with their values. -/
def resolve (t : Ctx) : List Op → List Nat → List Act × List Nat
  | [], pops => ([], pops)
  | o :: os, pops =>
    if guardHolds t o.guard then
      let r := readSrcs t o.srcs pops
      let rest := resolve t os r.2
      (⟨o, r.1, underflows t o.srcs pops⟩ :: rest.1, rest.2)
    else resolve t os pops

/-- What the sources of an operation name. -/
def srcKey : Src → Key
  | .g i _ => (0, i.val, 0)
  | .q i _ => (2, i.val, 0)

/-- A source with `.b` on an empty register (R76). -/
def blockedSrc (t : Ctx) : Src → Bool
  | .g i true => !t.full.getLsbD i.val
  | _ => false

/-- A source without `.b` on an empty register: the register's number (R76). -/
def earlySrc (t : Ctx) : Src → Option Nat
  | .g i false => if t.full.getLsbD i.val then none else some i.val
  | _ => none

/-- The tile scoreboard holds an operation (R92). -/
def scoreboard (k : Core) (tr tw : List Nat) : Bool :=
  let cmds := ((List.range 4).map fun x => (k.get x).cmds).flatten
  cmds.any fun m =>
    (m.tileW.any fun t => tr.contains t || tw.contains t) || (m.tileR.any fun t => tw.contains t)

/-- The in-place waits of a group that are not counted as issue cycles (R63, R351). -/
def stalled (s : State) (all : List Op) (as : List Act) : Bool :=
  let t := s.me
  let late := lateKeys s s.issue.core s.issue.ctx
  (!late.isEmpty && ((all.any fun o => late.contains (3, o.guard.p.val, 0)) ||
      as.any fun a => (a.op.srcs.any fun r => late.contains (srcKey r)) || (a.op.reads s).any fun k => late.contains k))
  || as.any fun a =>
    a.op.srcs.any (blockedSrc t) || (a.op.dsts.any fun d => !t.full.getLsbD d.val)
      || scoreboard s.myCore (a.op.tileR s) (a.op.tileW s) || a.op.stall s a.vals

/-- An in-place wait of a group that counts as an empty issue cycle (R60). -/
def emptyWait (s : State) (as : List Act) : Bool := as.any fun a => a.op.empty s a.vals

/-- Pushes of a context still to land in a queue register (R78). -/
def pendingPushes (t : Ctx) (i : Nat) : Nat :=
  (t.flights.filter fun f => match f.w with | .q j _ => j.val == i | _ => false).length

/-- The queue registers whose entries would pass four (R78), with the slot of the last push, at which the trap counts (R144; log
96). -/
def overflows (t : Ctx) (as : List Act) (pops : List Nat) : List (Nat × Nat) :=
  (List.finRange 8).filterMap fun i =>
    let pushers := as.filter fun a => a.op.pushes.contains i
    if 4 + pops.getD i.val 0 < (t.q[i]).length + pendingPushes t i.val + pushers.length then
      pushers.getLast?.map fun a => (i.val, a.op.slot)
    else none

/-- A slot stands in the second bundle of the group. -/
def inSecond (s : State) (slot : Nat) : Bool := bitAt s.issue.second slot

/-- xtval of an ILLEGAL_ENC (R103). -/
def illegalVal (idx : Nat) (b2 : Bool) (whr : Nat) : Nat := idx * 256 + b2.toNat * 16 + whr

/-- An ILLEGAL_ENC raised at issue by the operation of a slot (R103, R144). -/
def illegalAt (s : State) (slot : Nat) : Trap := ⟨11, causeILLEGAL, illegalVal 0 (inSecond s slot) slot⟩

/-- The traps at issue of a group, each with the place R144 reports it at: step, bundle, slot. -/
def groupTraps (s : State) (as : List Act) (pops : List Nat) : List ((Nat × Nat × Nat) × Trap) :=
  let t := s.me
  let at_ (slot : Nat) (r : Trap) : (Nat × Nat × Nat) × Trap := ((r.step, (inSecond s slot).toNat, slot), r)
  (as.map fun a =>
      (a.op.srcs.filterMap (earlySrc t)).map (fun i => at_ a.op.slot ⟨2, causeEARLY, i⟩)
        ++ a.under.map (fun i => at_ a.op.slot ⟨3, causeQUNF, i⟩)
        ++ (a.op.traps s a.vals).map (at_ a.op.slot)).flatten
    ++ (overflows t as pops).map fun p => at_ p.2 ⟨3, causeQOVF, p.1⟩

/-- A place of R144 comes before another. -/
def placeLt (a b : Nat × Nat × Nat) : Bool :=
  decide (a.1 < b.1 ∨ (a.1 = b.1 ∧ (a.2.1 < b.2.1 ∨ (a.2.1 = b.2.1 ∧ a.2.2 < b.2.2))))

/-- The trap that is reported (R144). -/
def firstTrap : List ((Nat × Nat × Nat) × Trap) → Option ((Nat × Nat × Nat) × Trap)
  | [] => none
  | t :: ts =>
    match firstTrap ts with
    | none => some t
    | some u => if placeLt u.1 t.1 then some u else some t

/-- The first port word of a group that fails at decode (R103), by slot number over both bundles (log 97): its IDX and the slot. -/
def portDecode (s : State) (ops : List Op) : Option (Nat × Nat) :=
  ops.findSome? fun o => (o.decode s).map fun i => (i, o.slot)

/-! ## Control after a group (R89, R90, R147, R154, R155) -/

/-- An address lies in a loop body. -/
def inBody (start len a : Nat) : Bool := decide (start ≤ a ∧ a < start + len)

/-- What a group leaves of the loops and where the next group is: the address, LOOP and LOOPN state, the delta
iteration to add (the iteration just ended), and whether a new replay of LOOPN starts. -/
structure Flow where
  pc : Nat
  loop : Option LoopSt
  loopn : Option LoopnSt
  delta : Bool
  replay : Bool

/-- Control after a block's end has been reached (R90). -/
def flowN (loopn : Option LoopnSt) (loop : Option LoopSt) (next : Nat) : Flow :=
  match loopn with
  | none => ⟨next, loop, none, false, false⟩
  | some l =>
    if next = l.start + l.len then
      if l.t + 1 < l.iters + l.stages - 1 then
        ⟨l.start, loop, some { l with t := l.t + 1 }, decide (l.t + 2 ≤ l.iters), true⟩
      else ⟨next, loop, none, decide (l.t + 2 ≤ l.iters), false⟩
    else ⟨next, loop, some l, false, false⟩

/-- Control after a group that goes on at `next` unless it branched. -/
def flow (t : Ctx) (next : Nat) : Option (Bool × Nat) → Flow
  | some (true, tgt) =>
    ⟨tgt, t.loop.filter fun l => inBody l.start l.len tgt, t.loopn.filter fun l => inBody l.start l.len tgt, false,
      false⟩
  | g =>
    let next := match g with | some (_, a) => a | none => next
    match t.loop with
    | some l =>
      if next = l.start + l.len then
        if 1 < l.left then ⟨l.start, some { l with left := l.left - 1 }, t.loopn, false, false⟩
        else flowN t.loopn none next
      else flowN t.loopn (some l) next
    | none => flowN t.loopn none next

/-- BOUND of a level word (R71). -/
def levelBound (v : Nat) : Nat := bits v 63 40

/-- STRIDE of a level word (R71). -/
def levelStride (v : Nat) : Int := sx (bits v 39 0) 40

/-- The levels of a nest: those below the first level whose BOUND is 0 (R71). -/
def nestLevels (ws : List Nat) : List Nat := ws.takeWhile fun w => levelBound w != 0

/-- Iterations of a nest (R71). -/
def nestIters (ws : List Nat) : Nat :=
  let ls := nestLevels ws
  if ls.isEmpty then 0 else ls.foldl (fun n w => n * levelBound w) 1

/-- The index of a nest at an iteration (R71): level 0 varies fastest. -/
def nestOffset : List Nat → Nat → Int
  | [], _ => 0
  | w :: ws, k =>
    let b := levelBound w
    (k % b : Nat) * levelStride w + nestOffset ws (k / b)

/-- offset(k) of R139. -/
def offset (ws : List Nat) (k : Nat) : Int := nestOffset (nestLevels ws) k

/-- The level words of an n register. -/
def nWords (t : Ctx) (n : Fin 8) : List Nat := (t.n[n]).toList.map (·.toNat)

/-- The registers a LOOPN delta is added to (R155). -/
def LoopnSt.regs (l : LoopnSt) : List (Fin 32) := if l.ga = l.gb then [l.ga] else [l.ga, l.gb]

/-- The delta after iteration `l.t` (R90). -/
def LoopnSt.step (l : LoopnSt) : Int := offset l.levels (l.t + 1) - offset l.levels l.t

/-- The named registers of LOOPN move on by the delta, as integer writes of slot 0 (R155). -/
def loopDeltas (s0 : State) (f : Flow) (s : State) : State :=
  match s0.me.loopn with
  | some l =>
    if f.delta then
      l.regs.foldl (fun s r => expose s s.issue.core s.issue.ctx 0 0
        (.g r (BitVec.ofInt 64 ((s0.me.g[r]).toNat + l.step)))) s
    else s
  | none => s

/-- The registers a LOOPN delta reads and writes must be full, and no result for them late (R155, R77, R351). -/
def deltaStall (t : Ctx) (late : List Key) (f : Flow) : Bool :=
  match t.loopn with
  | some l => f.delta && l.regs.any fun r => !t.full.getLsbD r.val || late.contains (0, r.val, 0)
  | none => false

/-- The address queue lacks room for all the requests that a group pushes (R62, R224). -/
def aqBlock (s : State) (as : List Act) : Option Nat :=
  let n := (as.map fun a => a.op.aqs).sum
  if 0 < n ∧ 16 < s.me.aq.length + n then some 2 else none

/-- The blocking condition of R62 that a group meets, with what the blocking operation records. -/
def groupBlock (s : State) (as : List Act) : Option (Nat × (State → State)) :=
  (as.findSome? fun a => (a.op.block s a.vals).map fun n => (n, a.op.onBlock)).orElse fun _ =>
    (aqBlock s as).map fun n => (n, id)

/-- What the rules of issue say of a group. -/
inductive Verdict where
  | trap (cause tval : Nat) (f : State → State)
  | stall
  | empty
  | block (n : Nat) (f : State → State)
  | wait (f : State → State)
  | go (as : List Act)

/-- Judge a group at a state in which its due results have been delivered (R63): decode of its port slots, in-place
stalls, of which those that count no issue cycles come first (log 95), traps at issue, blocks. -/
def judge (ops : List Op) (s : State) : Verdict :=
  match portDecode s ops with
  | some (i, slot) => .trap causeILLEGAL (illegalVal i (inSecond s slot) 14) id
  | none =>
    let r := resolve s.me ops (List.replicate 8 0)
    if stalled s ops r.1 || deltaStall s.me (lateKeys s s.issue.core s.issue.ctx) (flow s.me s.issue.next (r.1.findSome? fun a => a.op.goto s a.vals)) then
      .stall
    else if emptyWait s r.1 then .empty
    else match firstTrap (groupTraps s r.1 r.2) with
      | some t =>
        .trap t.2.cause t.2.tval (match r.1.find? fun a => a.op.slot == t.1.2.2 with
          | some a => a.op.onTrap t.2.cause
          | none => id)
      | none =>
        match groupBlock s r.1 with
        | some p => .block p.1 p.2
        | none =>
          match r.1.findSome? fun a => a.op.kick s a.vals with
          | some f => .wait f
          | none => .go r.1

/-- The stage predicates of a replay (R90): p(4+s) holds when stage s runs an iteration. A result for one of them that
would land with the replay's first group is overwritten. -/
def stagePreds (t : Ctx) (l : LoopnSt) : Ctx :=
  let p := (List.range l.stages).foldl (fun (p : BitVec 8) st =>
    if st ≤ l.t ∧ l.t - st + 1 ≤ l.iters then p ||| ((1 : BitVec 8) <<< (4 + st))
    else p &&& ~~~((1 : BitVec 8) <<< (4 + st))) t.p
  { t with
    p := p
    flights := t.flights.filter fun f => match f.w with
      | .p i _ => !(decide (4 ≤ i.val ∧ i.val < 4 + l.stages) && decide (f.due ≤ t.icyc))
      | _ => true }

/-! ## The group -/

/-- Take the queue entries a group popped (R78). -/
def takePops (t : Ctx) (pops : List Nat) : Ctx :=
  { t with q := Vector.ofFn fun i => (t.q[i]).drop (pops.getD i.val 0) }

/-- D = 1 ends the ownership of the matrix unit by context `x` (R93). -/
def giveUp (d : Bool) (x : Nat) (k : Core) : Core := if d && k.owner = .ctx x then { k with owner := .none } else k

/-- Queue entries are popped and control moves on. -/
def moveOn (pops : List Nat) (f : Flow) (t : Ctx) : Ctx :=
  { takePops t pops with pc := f.pc, loop := f.loop, loopn := f.loopn }

/-- The issue cycle of the group is counted. -/
def countCycle (s : State) (t : Ctx) : Ctx :=
  { t with icyc := t.icyc + 1, lastGroup := s.issue.addr, since := s.ck, blk := 0, mark := none }

/-- The core has issued in this ck (R60). -/
def noteIssue (s : State) (k : Core) : Core := { k with lastIssue := some s.ck, cur := s.issue.ctx }

/-- A new replay of a LOOPN block sets its stage predicates (R90). -/
def setStages (t : Ctx) : Ctx :=
  match t.loopn with
  | some l => stagePreds t l
  | none => t

/-- The operation `a` of the first bundle is served before `b` of the second by a port-program slot that both bind (R244). -/
def servedFirst (second : Nat) (a b : Act) : Bool :=
  !(bitAt second a.op.slot) && bitAt second b.op.slot && b.op.binds.any a.op.binds.contains

/-- An operation entered among others in slot order, before those that a slot serves after it. -/
def enterAct (second : Nat) (a : Act) : List Act → List Act
  | [] => [a]
  | b :: bs => if servedFirst second a b then a :: b :: bs else b :: enterAct second a bs

/-- The operations of a group in the order their effects are made: slot order (R84), but one of the first bundle goes before one
of the second where they bind one port-program slot (R244; log 67). -/
def effectOrder (second : Nat) (as : List Act) : List Act := as.foldl (fun bs a => enterAct second a bs) []

/-- A group goes ahead: its effects in slot order (R84), and control after it; D = 1 ends the ownership of the matrix unit
before the group's own operations take effect (R93; log 68). The state is that at the start of the group. -/
def goAhead (ops : List Op) (as : List Act) (s : State) : State :=
  let t := s.me
  let pops := (resolve t ops (List.replicate 8 0)).2
  let f := flow t s.issue.next (as.findSome? fun a => a.op.goto s a.vals)
  let s1 := (modCore s s.issue.core (giveUp s.issue.d s.issue.ctx)).modMe (moveOn pops f)
  let s2 := (effectOrder s.issue.second as).foldl (fun st a => a.op.effect s a.vals st) (loopDeltas s f s1)
  let s3 := s2.modMe (countCycle s)
  let starts := t.loopn.isNone && s3.me.loopn.isSome
  modCore (if f.replay || starts then s3.modMe setStages else s3) s.issue.core (noteIssue s)

end Sys2Proof.Machine
end

