-- ==== Sys2Proof/Machine/Engine.lean ====
section
/-!
DEFINITION. The shared engines and port-program slots as the issue rules see them, rows entering the matrix unit, and
the issue of a group (spec 03 R93, R94; 07 R214 to R223; 08 R242 to R254; 09 R278).
-/
namespace Sys2Proof.Machine

/-- A RESERVED_COMBO with the xtval of R214. -/
def combo (slot why arg : Nat) : Trap := ⟨4, causeRESERVED, arg * 65536 + why * 256 + slot⟩

/-- A trap where a condition holds. -/
def trapIf (c : Bool) (t : Trap) : List Trap := if c then [t] else []

/-- The physical tile of a tile name of the issuing context (R91). -/
def State.tile (s : State) (t : Nat) : Nat := s.me.tbase + t

/-- The checks of R91 on a tile row range: a tile name and a last row. -/
def tileChecks (s : State) (slot t last : Nat) : List Trap :=
  trapIf (decide (s.me.tcnt ≤ t)) (combo slot 1 0) ++ trapIf (decide (63 < last)) (combo slot 2 0)

/-! ## Engines (R93, R94, R249, R278) -/

/-- The Lantern runs a sequence (R277). -/
def Core.lanternOn (k : Core) : Bool := k.lantern.phase != .idle

/-- An engine that `user` gave work in progress until issue cycle `free` of that context: the issuing context waits in
place. -/
def busySame (k : Core) (x user free : Nat) : Bool := user == x && decide ((k.get x).icyc < free)

/-- The engine is occupied by another context (R94). -/
def busyOther (k : Core) (x user free : Nat) : Bool := user != x && decide ((k.get user).icyc < free)

/-- The matrix unit belongs to another context or to the Lantern (R93). -/
def ownedElsewhere (k : Core) (x : Nat) : Bool := k.owner != .none && k.owner != .ctx x

/-- A command still holds its slot (R244); an operation of slot R holds it until its last issue cycle. -/
def Serve.active (k : Core) (v : Serve) : Bool :=
  match v.until_ with
  | some u => decide ((k.get v.ctx).icyc < u)
  | none => true

/-- A command occupies the exponent engine: its first element has entered, and its last has not left the slot (R249). -/
def Serve.onExp (k : Core) (v : Serve) : Bool := v.special && v.inExp && !v.left && v.active k

/-- The context has a command in the slot that holds back an operation of slot M or R (R244), or, for a slot with
special functions, one in the exponent engine (R249). -/
def slotBusySame (k : Core) (x slot : Nat) : Bool :=
  k.serving.any fun v => v.ctx == x && ((v.slot == slot && v.active k) || ((k.port slot).special && v.onExp k))

/-- The blocking condition of R62 that a bound slot meets: 7 for the slot, 6 for the exponent engine. -/
def slotBlock (k : Core) (x slot : Nat) : Option Nat :=
  if k.serving.any fun v => v.ctx != x && v.slot == slot && v.active k then some 7
  else if (k.port slot).special && k.serving.any fun v => v.ctx != x && v.onExp k then some 6
  else none

/-- A sequence of the Lantern holds an operation back that binds a special-function slot (R278). -/
def lanternSlot (k : Core) (ports : List Nat) : Bool :=
  k.lanternOn && ports.any fun p => (k.port p).special

/-- IDX of the first word of a bound slot that fails at decode: an empty slot, or a reserved word (R135, R243). -/
def slotDecode (k : Core) (slot : Nat) : Option Nat :=
  if (k.port slot).len = 0 then some (16 * slot)
  else match decodeWords 0 (k.port slot).words with
    | .ok _ => none
    | .error j => some (16 * slot + j)

/-- Decode of the slots an operation binds (R103, R135). -/
def portsDecode (ps : List (Option (Fin 16))) (s : State) : Option Nat :=
  if isSup s.issue.core then none
  else ps.findSome? fun p => match p with | some n => slotDecode s.myCore n.val | none => none

/-- The binding checks of R243 on one port of an operation. -/
def bindTraps (s : State) (hslot : Nat) (use : PortUse) (p : Option (Fin 16)) (inF outF : Fmt) (twice : Bool) :
    List Trap :=
  match p with
  | none => []
  | some n =>
    if isSup s.issue.core then [combo hslot 11 0]
    else match (s.myCore.port n.val).bindFault use inF outF twice false with
      | some (why, arg) => [combo hslot why arg]
      | none => []

/-- A new number for a command or an operation of a core. -/
def newOp (s : State) (c : Nat) : Nat × State :=
  let k := getCore s c
  (k.opSeq, setCore s c { k with opSeq := k.opSeq + 1 })

/-- A command takes its place in the queue of a slot (R244); an operation of slot M or R starts at once. -/
def serve (s : State) (c x seq : Nat) (p : Option (Fin 16)) (start : Bool) (until_ : Option Nat) : State :=
  match p with
  | none => s
  | some n => modCore s c fun k =>
    let d := k.port n.val
    { k with serving := (k.serving.filter fun v => v.active k) ++
        [⟨n.val, seq, x, if start then some (PRun.start d d.consts) else none, until_, d.special, start, false, false⟩] }

/-! ## Rows entering the matrix unit (R217, R220, R222, R223) -/

/-- The issue cycle in which row `i` of an operation accepted in cycle `c` enters (R217). -/
def rowEntry (i c p : Nat) : Nat := c + i * p / 8

/-- Tile rows of a context that were read with a parity failure are reported, each with its tile and how many of its first
bytes were read: xtval is 64 x tile + row, the tile relative to the context (R454). The free bytes read in their place have
been used up (log 3). -/
def noteBad (s : State) (c x epc : Nat) (rows : List (Nat × Nat × Nat)) : State :=
  let k := getCore s c
  let tb := (k.get x).tbase
  match rows.find? fun p => k.bad.any fun b => b / 4 == p.1 * 64 + p.2.1 && decide (b % 4 * 48 < p.2.2) with
  | none => s
  | some p =>
    report (countCore { s with freeCtr := s.freeCtr + 4 } c) c x ⟨causeUNCORR, epc, 64 * (p.1 - tb) + p.2.1, none, none⟩

/-- Rows first .. first + n - 1 of a tile, read whole. -/
def wholeRows (tile first n : Nat) : List (Nat × Nat × Nat) := (List.range n).map fun r => (tile, first + r, 192)

/-- The rows from `first` on in which `n` elements of `w` bits stand packed, `per` to a row; of the last only the elements are
read. -/
def packedRows (tile first per w n : Nat) : List (Nat × Nat × Nat) :=
  (List.range ((n + per - 1) / per)).map fun r => (tile, first + r, (min per (n - r * per) * w + 7) / 8)

/-- A list with element `i` set, extended with zeros where it is shorter. -/
def setPad (xs : List Row) (i : Nat) (v : Row) : List Row :=
  if i < xs.length then xs.set i v else xs ++ List.replicate (i - xs.length) 0 ++ [v]

/-- Operand elements after an operand port: codes, flags, the fault with the stream index where it stands, the core. A
dropped element enters as zero (R215). A fault ends the stream before its element, with the flags of summing the open
group (R252; log 70). -/
def operandPort (k : Core) (en : Flags) (p : Option (Fin 16)) (op : Nat) (f : Fmt) (codes : List Nat) :
    List Nat × Flags × Option (PFault × Nat) × Core :=
  match p with
  | none => (codes, 0, none, k)
  | some n =>
    let d := k.port n.val
    let r := k.runOf n.val op
    let st := runStream d.prog d.consts en (fun _ => 0) r (codes.map (recvPattern f))
    match st.fault with
    | some pf => ([], st.run.endFlags, some (pf, r.next + st.outs.length), k.endServe n.val op st.run)
    | none =>
      let es := st.outs.map fun o => match o.1 with
        | some v => let e := emitCode f .rne 0 v; (e.1, o.2 ||| e.2)
        | none => (0, o.2)
      (es.map (·.1), es.foldl (fun a e => a ||| e.2) 0, none, k.setRun n.val op st.run)

/-- The port slot an operation bound is given back (R244). -/
def endPort (k : Core) (p : Option (Fin 16)) (op : Nat) : Core :=
  match p with
  | none => k
  | some n => k.endServe n.val op (k.runOf n.val op)

/-- The flags of summing the open group as an operation gives its port slot back (R250). -/
def endPortFlags (k : Core) (p : Option (Fin 16)) (op : Nat) : Flags :=
  match p with
  | none => 0
  | some n => (k.runOf n.val op).endFlags

/-- xport of a fault (R253). -/
def xportVal (hslot kind word pslot port : Nat) : Nat :=
  hslot * 2 ^ 20 + kind * 2 ^ 16 + word * 2 ^ 12 + pslot * 16 + port

/-- A port fault stops an operation of slot M or R: the report of R252. -/
def reportPort (s : State) (c x epc hslot : Nat) (p : Option (Fin 16)) (port : Nat) (f : PFault × Nat) : State :=
  report s c x ⟨causePORT, epc, f.2,
    some (xportVal hslot f.1.kind f.1.word ((p.map (·.val)).getD 0) port), some f.2⟩

/-- Put a flight of a row of class 6 in the air as it enters: row `i` of an operation accepted in cycle `c` at ck `ck` (R217,
R350, R351). In its landing cycle it stands where its operation issued (R84). -/
def exposeRow (s : State) (c x : Nat) (ro : RowsOp) (i p : Nat) (w : Write) : State :=
  modCtx s c x fun t =>
    let T := t.lat.getD 6 1
    let L := partLatency.getD 6 1
    let e := ((i + 1) * p + 7) / 8
    let due := ro.c + T + e
    { t with
      flights := insertFlight
        ⟨due, if T < L then ro.ck + L + e else 0, s.ck + (due - t.icyc), ro.c, 6, t.icyc, w⟩ t.flights }

/-- Where `Core.bad` marks a bank whose next write fails parity, after the segments of the tiles (R452). -/
def badBank (bk : Fin 4) : Nat := 8192 + bk.val

/-- The write of a bank that fails parity is reported, and the bank's contents are undefined (R454; log 3). -/
def bankParity (s : State) (c x : Nat) (ro : RowsOp) (bk : Fin 4) : State :=
  let k := getCore s c
  if k.bad.contains (badBank bk) then
    let free := (List.range 192).map fun i => Config.freeRow (s.freeCtr + i)
    let k := { k.modBank bk fun b => { b with rows := free } with bad := k.bad.filter fun b => b != badBank bk }
    report (countCore { setCore s c k with freeCtr := s.freeCtr + 192 } c) c x ⟨causeUNCORR, ro.addr, 0x1000 + bk.val, none, none⟩
  else s

/-- Source row `r` of an MLDB enters (R212, R217, R220). Elements pass port B in source order, so the element index of a
port fault counts 96 elements a row for a wide B (log 69). -/
def enterBank (s : State) (c x : Nat) (ro : RowsOp) (bk : Fin 4) (bt : Nat) (fb : Fmt) (pb : Option (Fin 16))
    (r : Nat) : State :=
  let k := getCore s c
  let t := k.get x
  let per := if fb.isWide then 96 else 192
  let src := readRow s k (t.tbase + bt + r / 64) (r % 64)
  let codes := elemsOf fb.width per src.toNat
  let (cs, fl, fault, k) := operandPort k t.flags pb ro.op fb codes
  let note (s : State) : State := noteBad s c x ro.addr [(t.tbase + bt + r / 64, r % 64, (per * fb.width + 7) / 8)]
  match fault with
  | some f =>
    let free := (List.range 192).map fun i => Config.freeRow (s.freeCtr + i)
    let k := k.modBank bk fun b => { b with rows := free }
    let s := { setCore s c k with freeCtr := s.freeCtr + 192 }
    reportPort (note (foldFlags (modCtx s c x fun t => { t with rows := t.rows.filter fun q => q.op != ro.op }) c x fl))
      c x ro.addr 8 pb 1 f
  | none =>
    let k := k.modBank bk fun b => { b with rows := setPad b.rows r (rowOf fb.width cs) }
    let fl := if r = 191 then fl ||| endPortFlags k pb ro.op else fl
    let k := if r = 191 then endPort k pb ro.op else k
    let s := note (foldFlags (setCore s c k) c x fl)
    if r = 191 then bankParity s c x ro bk else s

/-- The dense codes of A row `i` (R211, R223): one tile row, or two for MMULS with an 8-bit A. -/
def aRowCodes (s : State) (k : Core) (at_ arow : Nat) (fa : Fmt) (sparse : Bool) (i : Nat) : List Nat :=
  if sparse then
    if fa.width = 4 then elemsOf 4 384 (readRow s k at_ (arow + i)).toNat
    else elemsOf 8 192 (readRow s k at_ (arow + 2 * i)).toNat
      ++ elemsOf 8 192 (readRow s k at_ (arow + 2 * i + 1)).toNat
  else elemsOf fa.width fa.kPos (readRow s k at_ (arow + i)).toNat

/-- The tile rows that make A row `i`, and the bytes read of each (R211, R223). -/
def aRows (at_ arow : Nat) (fa : Fmt) (sparse : Bool) (i : Nat) : List (Nat × Nat) :=
  if sparse && fa.width == 8 then [(at_, arow + 2 * i), (at_, arow + 2 * i + 1)] else [(at_, arow + i)]

/-- The bytes of a tile row that an A row reads (R211, R223). -/
def aRowBytes (fa : Fmt) (sparse : Bool) : Nat := if sparse then 192 else (fa.kPos * fa.width + 7) / 8

/-- A row of MMUL or MMULS enters: it is read, passes port A, and its totals go on their way (R217, R222, R223). -/
def enterA (s : State) (c x : Nat) (ro : RowsOp) (bk : Fin 4) (at_ arow n : Nat) (fa : Fmt) (acc : Bool) (zt : Nat)
    (zf : Zf) (pa pz : Option (Fin 16)) (sparse : Bool) (i : Nat) : State :=
  let k := getCore s c
  let t := k.get x
  let codes := aRowCodes s k (t.tbase + at_) arow fa sparse i
  let (cs, fl, fault, k) := operandPort k t.flags pa ro.op fa codes
  let note (s : State) : State :=
    noteBad s c x ro.addr ((aRows (t.tbase + at_) arow fa sparse i).map fun p => (p.1, p.2, aRowBytes fa sparse))
  match fault with
  | some f =>
    -- the rows before this one are the last ones delivered (R215)
    let k := if i = 0 then endPort k pz ro.op else k
    let s := modCtx (setCore s c k) c x fun t =>
      { t with
        rows := t.rows.filter fun q => q.op != ro.op
        flights := t.flights.map fun fl => match fl.w with
          | .accOut row vals z f p o e _ g =>
            if o = ro.op ∧ row = arow + i - 1 then { fl with w := .accOut row vals z f p o e true g } else fl
          | _ => fl }
    reportPort (note (foldFlags s c x fl)) c x ro.addr 8 pa 0 f
  | none =>
    let b := k.banks[bk]
    let ts := if sparse then sparseRow fa cs k.latA ro.sel b k.latB else denseRow fa cs k.latA b k.latB 192
    let fl := ts.foldl (fun a v => a ||| v.2) fl
    let fl := if i + 1 = n then fl ||| endPortFlags k pa ro.op else fl
    let k := if i + 1 = n then endPort k pa ro.op else k
    let w := if acc then Write.accAdd (arow + i) (ts.map (·.1)) (some fl)
      else .accOut (arow + i) (ts.map (·.1)) (t.tbase + zt) zf (pz.map (·.val)) ro.op ro.addr (decide (i + 1 = n))
          (some fl)
    exposeRow (note (setCore s c k)) c x ro i fa.pA w

/-- Result rows of an operation of slot M (R221). -/
def resultRows (fa : Fmt) (acnt : Fin 64) (sparse : Bool) : Nat :=
  if sparse && fa.width == 8 then (acnt.val + 1) / 2 else acnt.val + 1

/-- The operation is one of the matrix unit's, whose rows are read as they enter (R217); those of slots T and R read at issue
(R227, R233). -/
def RowsOp.inUnit (ro : RowsOp) : Bool :=
  match ro.ins with
  | .mldb .. | .mmul .. | .mmuls .. => true
  | _ => false

/-- Rows an engine operation has in all. -/
def rowCount : Instr → Nat
  | .mldb .. => 192
  | .mmul _ _ _ _ acnt fa .. => resultRows fa acnt false
  | .mmuls _ _ _ _ acnt fa .. => resultRows fa acnt true
  | .xcvt _ _ _ _ cnt .. | .xexp _ _ _ _ cnt .. | .xtrn _ _ _ _ cnt .. | .xhad _ _ _ _ cnt .. => cnt.val + 1
  | .rsum _ _ _ _ cnt .. | .rmax _ _ _ _ cnt .. | .rssq _ _ _ _ cnt .. | .rnorm _ _ _ _ cnt .. => cnt.val + 1
  | .rsortk _ _ _ cnt .. | .rcmpr _ _ _ cnt .. => cnt.val + 1
  | _ => 0

/-- The issue cycle in which a row of an engine operation enters (R217, R227, R233, R248). -/
def entryCycle (ro : RowsOp) : Nat :=
  match ro.ins with
  | .mldb .. => ro.c + ro.next / 3
  | .mmul _ _ _ _ _ fa .. | .mmuls _ _ _ _ _ fa .. => rowEntry ro.next ro.c fa.pA
  | _ => ro.c + ro.next * ro.pace

/-- A row of slot T or R enters its engine: its results leave it as many ck later as they are due issue cycles later, where the
context issues in every ck (R61, R336). -/
def enterRead (s : State) (c x : Nat) (ro : RowsOp) : State :=
  modCtx s c x fun t =>
    { t with flights := t.flights.map fun f =>
        if f.at_ = ro.c ∧ 7 ≤ f.cls ∧ f.entry = t.icyc then { f with out := s.ck + (f.due - t.icyc) } else f }

/-- The next row of an engine operation enters. -/
def enterRow (s : State) (c x : Nat) (ro : RowsOp) : State :=
  match ro.ins with
  | .mldb _ bk bt fb pb => enterBank s c x ro bk bt.val fb pb ro.next
  | .mmul _ bk at_ arow acnt fa acc zt zf pa pz =>
    enterA s c x ro bk at_.val arow.val (resultRows fa acnt false) fa acc zt.val zf pa pz false ro.next
  | .mmuls _ bk at_ arow acnt fa acc zt zf pa pz _ _ =>
    enterA s c x ro bk at_.val arow.val (resultRows fa acnt true) fa acc zt.val zf pa pz true ro.next
  | _ => enterRead s c x ro

/-- The rows of one operation that enter by the context's issue cycle, in order; `fuel` bounds them. -/
def enterOp (c x op : Nat) : Nat → State → State
  | 0, s => s
  | fuel + 1, s =>
    let t := getCtx s c x
    match t.rows.find? fun r => r.op == op with
    | none => s
    | some ro =>
      if t.icyc < entryCycle ro then s
      else
        let rest := t.rows.filterMap fun r =>
          if r.op = op then (if r.next + 1 < rowCount r.ins then some { r with next := r.next + 1 } else none) else some r
        enterOp c x op fuel (enterRow (setCtx s c x { t with rows := rest }) c x ro)

/-- An operation of slot T or R has issued, and its first row has entered: the others enter one after the other (R227, R233,
R248). -/
def startRows (s0 : State) (i : Instr) (op pace : Nat) (s : State) : State :=
  if rowCount i ≤ 1 then s
  else s.modMe fun t => { t with rows := t.rows ++ [⟨op, i, s0.me.icyc, s0.ck, 1, s0.issue.addr, 0, none, pace⟩] }

/-- The rows that enter in the context's current issue cycle (R60, R217). -/
def enterRows (s : State) (c x : Nat) : State :=
  (getCtx s c x).rows.foldl (fun s ro => enterOp c x ro.op 192 s) s

/-- Tile rows that exposed results of a context are still to be delivered into, those of rows not yet entered among them
(R85). -/
def pendingTileRows (t : Ctx) : List (Nat × Nat) :=
  (t.flights.flatMap fun f => f.w.keys.filterMap fun k => if k.1 = 7 then some (k.2.1, k.2.2) else none)
    ++ t.rows.flatMap fun ro =>
      match ro.ins with
      | .mmul _ _ _ arow _ _ acc zt zf _ _ | .mmuls _ _ _ arow _ _ acc zt zf _ _ _ _ =>
        if acc then [] else
          ((List.range (rowCount ro.ins)).drop ro.next).flatMap fun i =>
            (List.range (if zf = .bf16 then 2 else 4)).map fun j => (t.tbase + zt.val + j, arow.val + i)
      | _ => []

/-- The rows of an engine operation that enter in the context's issue cycle (R217). -/
def rowsEntering (t : Ctx) (ro : RowsOp) : List Nat :=
  (List.range (rowCount ro.ins)).filter fun j =>
    decide (ro.next ≤ j ∧ entryCycle { ro with next := j } ≤ t.icyc)

/-- What a stream through bound ports reads of its context: xstatus, for IFE and QFE (R251, R351). -/
def portKeys (ps : List (Option (Fin 16))) : List Key := if ps.any Option.isSome then [(9, 0, 0)] else []

/-- What row `j` of an engine operation reads as it enters. -/
def RowsOp.readsKey (t : Ctx) (ro : RowsOp) (j : Nat) (k : Key) : Bool :=
  match ro.ins with
  | .mldb _ _ bt _ pb => (k.1 == 7 && k.2 == (t.tbase + bt.val + j / 64, j % 64)) || (portKeys [pb]).contains k
  | .mmul _ _ at_ arow _ fa _ _ _ pa _ =>
    (k.1 == 7 && (aRows (t.tbase + at_.val) arow.val fa false j).contains k.2) || k.1 == 8 || (portKeys [pa]).contains k
  | .mmuls _ _ at_ arow _ fa _ _ _ pa _ _ _ =>
    (k.1 == 7 && (aRows (t.tbase + at_.val) arow.val fa true j).contains k.2) || k.1 == 8 || (portKeys [pa]).contains k
  | _ => false

/-- A row that enters in this issue cycle would read a result that has not been delivered (R351): the context waits. -/
def rowLate (s : State) (c x : Nat) : Bool :=
  let t := getCtx s c x
  let late := lateKeys s c x
  !late.isEmpty && t.rows.any fun ro => (rowsEntering t ro).any fun j => late.any (ro.readsKey t j)

/-! ## Issue of a group (R60 to R65) -/

/-- The ck from which a context has waited: `ck` where it did not wait (R68). -/
def Ctx.waitFrom (t : Ctx) (ck : Nat) : Nat := if t.blk = 0 then ck else t.since

/-- A context waits with condition `n` in ck `ck`. -/
def Ctx.waits (t : Ctx) (ck n : Nat) : Ctx := { t with blk := n, since := t.waitFrom ck, mark := some t.horizon }

/-- The issuing context waits in place; the wait counts no issue cycle (R63). -/
def stallGroup (s : State) : State := s.modMe fun t => t.waits s.ck 10

/-- An empty issue cycle: what falls due is delivered and rows enter, and no group issues (R60). -/
def emptyCycle (s : State) : State :=
  modCore (s.modMe fun t => { t.waits s.ck 10 with icyc := t.icyc + 1 }) s.issue.core fun k => { k with lastIssue := some s.ck }

/-- Another context of the issuing core is Ready (R62). -/
def othersReady (s : State) : Bool :=
  (List.range 4).any fun x => x != s.issue.ctx % 4 && (getCtx s s.issue.core x).st == .ready

/-- The group blocks with condition `n` of R62; `f` is what the blocking operation records. The context gives up the core where
another is Ready; otherwise it stays Current and tries again in the next ck. -/
def blockGroup (s : State) (n : Nat) (f : State → State) : State :=
  modCore ((f s).modMe fun t => { t.waits s.ck n with st := if othersReady s then .blocked else t.st }) s.issue.core fun k =>
    { k with lastIssue := some s.ck, cur := s.issue.ctx }

/-- Results that have left their pipelines, or were restored, and are not delivered, and restored engine continuations whose
next row has not entered: the replay buffer's entries (R61, R334, R336). -/
def heldCount (s : State) (t : Ctx) : Nat :=
  ((t.flights.filter fun f => decide (f.entry < t.icyc ∧ f.out < s.ck)).map fun f => f.w.entries).sum
    + (t.rows.filter fun r => r.saved == some r.next).length

/-- What falls due in the issuing context has been delivered (R61); the latch keeps what the replay buffer held. -/
def delivered (s : State) : State :=
  deliver { s with issue := { s.issue with rpl := heldCount s s.me } } s.issue.core s.issue.ctx

/-- The state in which a group is judged: what falls due has been delivered and rows have entered (R61). -/
def startCycle (s : State) : State := enterRows (delivered s) s.issue.core s.issue.ctx

/-- A group at the context's program counter: it waits, traps, blocks or goes ahead (R63). What falls due in its issue
cycle has been delivered when it traps (log 17). -/
def runGroup (ops : List Op) (s : State) : State :=
  let s1 := startCycle s
  if rowLate (delivered s) s.issue.core s.issue.ctx then stallGroup s
  else match judge ops s1 with
    | .trap cause tval f => takeTrap (f (delivered s)) s.issue.core s.issue.ctx cause tval s.issue.addr
    | .stall => stallGroup s
    | .empty => emptyCycle s1
    | .block n f => blockGroup s n f
    | .wait f => f (stallGroup s)
    | .go as => goAhead ops as s1

/-- One operation as a group of its own. -/
def runOne (o : Op) (s : State) : Host.Outcome State Fault Refusal := .next (runGroup [o] s)

end Sys2Proof.Machine
end

