-- ==== Sys2Proof/Machine/Scalar.lean ====
section
/-!
DEFINITION. Slots S0 and S1: integer, compare, divide, FP32 and conversion operations (spec 05 R141, R160 to R172).
-/
namespace Sys2Proof.Machine

/-! ## Shared parts -/

/-- The value of operand `i` of an operation. -/
def operand (vs : List Word) (i : Nat) : Word := vs.getD i 0

/-- The slot number of an operation of S0 or S1 (R64). -/
def sSlot (s1 : Bool) : Nat := if s1 then 2 else 1

/-- The g register a destination names (R77). -/
def Dest.full : Reg → List (Fin 32)
  | .g i => [i]
  | _ => []

/-- The queue register a destination pushes (R78). -/
def Dest.push : Reg → List (Fin 8)
  | .q i => [i]
  | _ => []

/-- A result for a scalar destination (R141). -/
def Dest.write : Reg → Word → Write
  | .g i, v => .g i v
  | .h i, v => .h i v
  | .q i, v => .q i v

/-- A result of an exposed class of the issuing context, with the flags it folds when it lands (R40, R82). -/
def give (s : State) (cls : Nat) (w : Write) (f : Flags) : State :=
  let s := expose s s.issue.core s.issue.ctx cls 0 w
  if f = 0 then s else expose s s.issue.core s.issue.ctx cls 0 (.flags f)

/-- An operation that computes one result from its sources (R139 wr). -/
def computeOp (slot : Nat) (gd : Guard) (d : Reg) (srcs : List Src) (cls : Nat) (f : List Word → Word × Flags) : Op where
  slot := slot
  guard := gd
  srcs := srcs
  dsts := Dest.full d
  pushes := Dest.push d
  effect := fun _ v s => let r := f v; give s cls (Dest.write d r.1) r.2

/-- An operation that computes one predicate (R80). -/
def predOp (slot : Nat) (gd : Guard) (pd : Fin 8) (srcs : List Src) (f : List Word → Bool × Flags) : Op where
  slot := slot
  guard := gd
  srcs := srcs
  effect := fun _ v s => let r := f v; give s 3 (.p pd r.1) r.2

/-- A long-latency operation of 14 ck (R75). -/
def divideOp (slot : Nat) (gd : Guard) (d : Fin 32) (srcs : List Src) (f : List Word → Word × Flags) : Op where
  slot := slot
  guard := gd
  srcs := srcs
  dsts := [d]
  effect := fun _ v s => let r := f v; produceLong s s.issue.core s.issue.ctx 14 d r.1 r.2

/-- A 32-bit result sign-extended (R141). -/
def sext32 (v : Nat) : Word := BitVec.ofInt 64 (sx v 32)

/-- A two-operand integer operation at 64 bits or, with `.w`, at 32 (R141). `op` gets the width and the operands. -/
def intResult (w : Bool) (op : Nat → Nat → Nat → Nat) (a b : Word) : Word :=
  if w then sext32 (op 32 (a.toNat % 2 ^ 32) (b.toNat % 2 ^ 32)) else BitVec.ofNat 64 (op 64 a.toNat b.toNat)

/-- The immediate of the S layout (R141). -/
def immS (imm : BitVec 7) : Word := imm.signExtend 64

/-- A shift count as an operand (R172). -/
def immC (c : Fin 64) : Word := BitVec.ofNat 64 c.val

/-- The pattern of an FP32 result (R139 enc). -/
def encF (v : Nat) : Word := BitVec.ofNat 64 (v % 2 ^ 32)

/-- The FP32 pattern an operand holds (R139 f32). -/
def lowF (a : Word) : Nat := a.toNat % 2 ^ 32

/-! ## Integer results (R160, R161, R163, R171, R172); `n` is the width -/

/-- x + z, wrapping. -/
def addN (n x z : Nat) : Nat := (x + z) % 2 ^ n

/-- x - z, wrapping. -/
def subN (n x z : Nat) : Nat := (x + 2 ^ n - z) % 2 ^ n

/-- x AND z. -/
def andN (_ x z : Nat) : Nat := x &&& z

/-- x OR z. -/
def orN (_ x z : Nat) : Nat := x ||| z

/-- x XOR z. -/
def xorN (_ x z : Nat) : Nat := x ^^^ z

/-- x AND NOT z. -/
def andnN (n x z : Nat) : Nat := x &&& (2 ^ n - 1 - z)

/-- The lesser, signed. -/
def minN (n x z : Nat) : Nat := if sx x n < sx z n then x else z

/-- The greater, signed. -/
def maxN (n x z : Nat) : Nat := if sx x n < sx z n then z else x

/-- The lesser, unsigned. -/
def minuN (_ x z : Nat) : Nat := if x < z then x else z

/-- The greater, unsigned. -/
def maxuN (_ x z : Nat) : Nat := if x < z then z else x

/-- Zero bits above the highest 1 bit; the width for 0 (R161). -/
def clzN (n x : Nat) : Nat := if x = 0 then n else n - 1 - Nat.log2 x

/-- The number of 1 bits (R161). -/
def popcN (n x : Nat) : Nat := ((List.range n).filter fun i => bitAt x i).length

/-- The low half of the product (R171). -/
def mulN (n x z : Nat) : Nat := x * z % 2 ^ n

/-- The high half of the signed product (R171). -/
def mulhN (n x z : Nat) : Nat := wrapN (sx x n * sx z n / 2 ^ n) n

/-- The high half of the unsigned product (R171). -/
def mulhuN (n x z : Nat) : Nat := x * z / 2 ^ n

/-- The count of a shift: 6 bits, or 5 with `.w` (R172). -/
def shCount (n z : Nat) : Nat := if n = 32 then z % 32 else z % 64

/-- Shift left (R172). -/
def shlN (n x z : Nat) : Nat := x * 2 ^ shCount n z % 2 ^ n

/-- Shift right, filling with zeros (R172). -/
def shrN (n x z : Nat) : Nat := x / 2 ^ shCount n z

/-- Shift right, filling with the top bit (R172). -/
def sraN (n x z : Nat) : Nat := wrapN (sx x n / 2 ^ shCount n z) n

/-- Rotate right (R172). -/
def rotrN (n x z : Nat) : Nat :=
  let c := shCount n z
  (x / 2 ^ c + x * 2 ^ (n - c)) % 2 ^ n

/-- Signed quotient, toward zero (R163). -/
def divN (n x z : Nat) : Nat :=
  if z = 0 then 2 ^ n - 1 else wrapN ((sx x n).tdiv (sx z n)) n

/-- Signed remainder, with the sign of x (R163). -/
def remN (n x z : Nat) : Nat :=
  if z = 0 then x else wrapN ((sx x n).tmod (sx z n)) n

/-- Unsigned quotient (R163). -/
def divuN (n x z : Nat) : Nat := if z = 0 then 2 ^ n - 1 else x / z

/-- Unsigned remainder (R163). -/
def remuN (_ x z : Nat) : Nat := if z = 0 then x else x % z

/-! ## Relations (R162); `n` is the width -/

/-- Equal. -/
def eqN (_ x z : Nat) : Bool := x == z

/-- Not equal. -/
def neN (_ x z : Nat) : Bool := x != z

/-- Less, signed. -/
def ltN (n x z : Nat) : Bool := decide (sx x n < sx z n)

/-- Less or equal, signed. -/
def leN (n x z : Nat) : Bool := decide (sx x n ≤ sx z n)

/-- Less, unsigned. -/
def ltuN (_ x z : Nat) : Bool := decide (x < z)

/-- Less or equal, unsigned. -/
def leuN (_ x z : Nat) : Bool := decide (x ≤ z)

/-- A relation of two operands at 64 bits or, with `.w`, at 32 (R162). -/
def relation (w : Bool) (r : Nat → Nat → Nat → Bool) (a b : Word) : Bool :=
  if w then r 32 (a.toNat % 2 ^ 32) (b.toNat % 2 ^ 32) else r 64 a.toNat b.toNat

/-- FP32 to INT32, sign-extended (R167). -/
def fcvtiR (rm : Rm) (a : Word) : Word × Flags :=
  let r := convertInt 32 true rm 0 (f32v (lowF a))
  (BitVec.ofInt 64 r.1, r.2)

/-- A signed 64-bit integer to FP32 (R167). -/
def icvtfR (rm : Rm) (a : Word) : Word × Flags :=
  let r := fp32.convert rm 0 (.ofInt (sx a.toNat 64))
  (encF r.1, r.2)

/-- The result of MOVW, given what D held (R170). -/
def movwR (hw : Fin 4) (z : Bool) (imm : BitVec 16) (old : Word) : Word :=
  let v := BitVec.ofNat 64 (imm.toNat * 2 ^ (16 * hw.val))
  if z then v else (old &&& ~~~(BitVec.ofNat 64 (0xFFFF * 2 ^ (16 * hw.val)))) ||| v

/-- An FP32 result as a register pattern. -/
def fv (r : Nat × Flags) : Word × Flags := (encF r.1, r.2)

/-! ## The operations -/

/-- ADD, register form (R160). -/
def opAdd (s1 : Bool) (gd : Guard) (w : Bool) (d : Reg) (a b : Src) : Op :=
  computeOp (sSlot s1) gd d [a, b] 0 fun v => (intResult w addN (operand v 0) (operand v 1), 0)

/-- ADD, register form (R160). -/
def execAdd (s1 : Bool) (gd : Guard) (w : Bool) (d : Reg) (a b : Src) (s : State) :
    Host.Outcome State Fault Refusal := runOne (opAdd s1 gd w d a b) s

/-- ADD, immediate form (R160). -/
def opAddImm (s1 : Bool) (gd : Guard) (w : Bool) (d : Reg) (a : Src) (imm : BitVec 7) : Op :=
  computeOp (sSlot s1) gd d [a] 0 fun v => (intResult w addN (operand v 0) (immS imm), 0)

/-- ADD, immediate form (R160). -/
def execAddImm (s1 : Bool) (gd : Guard) (w : Bool) (d : Reg) (a : Src) (imm : BitVec 7) (s : State) :
    Host.Outcome State Fault Refusal := runOne (opAddImm s1 gd w d a imm) s

/-- SUB, register form (R160). -/
def opSub (s1 : Bool) (gd : Guard) (w : Bool) (d : Reg) (a b : Src) : Op :=
  computeOp (sSlot s1) gd d [a, b] 0 fun v => (intResult w subN (operand v 0) (operand v 1), 0)

/-- SUB, register form (R160). -/
def execSub (s1 : Bool) (gd : Guard) (w : Bool) (d : Reg) (a b : Src) (s : State) :
    Host.Outcome State Fault Refusal := runOne (opSub s1 gd w d a b) s

/-- SUB, immediate form (R160). -/
def opSubImm (s1 : Bool) (gd : Guard) (w : Bool) (d : Reg) (a : Src) (imm : BitVec 7) : Op :=
  computeOp (sSlot s1) gd d [a] 0 fun v => (intResult w subN (operand v 0) (immS imm), 0)

/-- SUB, immediate form (R160). -/
def execSubImm (s1 : Bool) (gd : Guard) (w : Bool) (d : Reg) (a : Src) (imm : BitVec 7) (s : State) :
    Host.Outcome State Fault Refusal := runOne (opSubImm s1 gd w d a imm) s

/-- AND, register form (R160). -/
def opAnd (s1 : Bool) (gd : Guard) (w : Bool) (d : Reg) (a b : Src) : Op :=
  computeOp (sSlot s1) gd d [a, b] 0 fun v => (intResult w andN (operand v 0) (operand v 1), 0)

/-- AND, register form (R160). -/
def execAnd (s1 : Bool) (gd : Guard) (w : Bool) (d : Reg) (a b : Src) (s : State) :
    Host.Outcome State Fault Refusal := runOne (opAnd s1 gd w d a b) s

/-- AND, immediate form (R160). -/
def opAndImm (s1 : Bool) (gd : Guard) (w : Bool) (d : Reg) (a : Src) (imm : BitVec 7) : Op :=
  computeOp (sSlot s1) gd d [a] 0 fun v => (intResult w andN (operand v 0) (immS imm), 0)

/-- AND, immediate form (R160). -/
def execAndImm (s1 : Bool) (gd : Guard) (w : Bool) (d : Reg) (a : Src) (imm : BitVec 7) (s : State) :
    Host.Outcome State Fault Refusal := runOne (opAndImm s1 gd w d a imm) s

/-- OR, register form (R160). -/
def opOr (s1 : Bool) (gd : Guard) (w : Bool) (d : Reg) (a b : Src) : Op :=
  computeOp (sSlot s1) gd d [a, b] 0 fun v => (intResult w orN (operand v 0) (operand v 1), 0)

/-- OR, register form (R160). -/
def execOr (s1 : Bool) (gd : Guard) (w : Bool) (d : Reg) (a b : Src) (s : State) :
    Host.Outcome State Fault Refusal := runOne (opOr s1 gd w d a b) s

/-- OR, immediate form (R160). -/
def opOrImm (s1 : Bool) (gd : Guard) (w : Bool) (d : Reg) (a : Src) (imm : BitVec 7) : Op :=
  computeOp (sSlot s1) gd d [a] 0 fun v => (intResult w orN (operand v 0) (immS imm), 0)

/-- OR, immediate form (R160). -/
def execOrImm (s1 : Bool) (gd : Guard) (w : Bool) (d : Reg) (a : Src) (imm : BitVec 7) (s : State) :
    Host.Outcome State Fault Refusal := runOne (opOrImm s1 gd w d a imm) s

/-- XOR, register form (R160). -/
def opXor (s1 : Bool) (gd : Guard) (w : Bool) (d : Reg) (a b : Src) : Op :=
  computeOp (sSlot s1) gd d [a, b] 0 fun v => (intResult w xorN (operand v 0) (operand v 1), 0)

/-- XOR, register form (R160). -/
def execXor (s1 : Bool) (gd : Guard) (w : Bool) (d : Reg) (a b : Src) (s : State) :
    Host.Outcome State Fault Refusal := runOne (opXor s1 gd w d a b) s

/-- XOR, immediate form (R160). -/
def opXorImm (s1 : Bool) (gd : Guard) (w : Bool) (d : Reg) (a : Src) (imm : BitVec 7) : Op :=
  computeOp (sSlot s1) gd d [a] 0 fun v => (intResult w xorN (operand v 0) (immS imm), 0)

/-- XOR, immediate form (R160). -/
def execXorImm (s1 : Bool) (gd : Guard) (w : Bool) (d : Reg) (a : Src) (imm : BitVec 7) (s : State) :
    Host.Outcome State Fault Refusal := runOne (opXorImm s1 gd w d a imm) s

/-- ANDN, register form (R160). -/
def opAndn (s1 : Bool) (gd : Guard) (w : Bool) (d : Reg) (a b : Src) : Op :=
  computeOp (sSlot s1) gd d [a, b] 0 fun v => (intResult w andnN (operand v 0) (operand v 1), 0)

/-- ANDN, register form (R160). -/
def execAndn (s1 : Bool) (gd : Guard) (w : Bool) (d : Reg) (a b : Src) (s : State) :
    Host.Outcome State Fault Refusal := runOne (opAndn s1 gd w d a b) s

/-- ANDN, immediate form (R160). -/
def opAndnImm (s1 : Bool) (gd : Guard) (w : Bool) (d : Reg) (a : Src) (imm : BitVec 7) : Op :=
  computeOp (sSlot s1) gd d [a] 0 fun v => (intResult w andnN (operand v 0) (immS imm), 0)

/-- ANDN, immediate form (R160). -/
def execAndnImm (s1 : Bool) (gd : Guard) (w : Bool) (d : Reg) (a : Src) (imm : BitVec 7) (s : State) :
    Host.Outcome State Fault Refusal := runOne (opAndnImm s1 gd w d a imm) s

/-- MIN, register form (R160). -/
def opMin (s1 : Bool) (gd : Guard) (w : Bool) (d : Reg) (a b : Src) : Op :=
  computeOp (sSlot s1) gd d [a, b] 0 fun v => (intResult w minN (operand v 0) (operand v 1), 0)

/-- MIN, register form (R160). -/
def execMin (s1 : Bool) (gd : Guard) (w : Bool) (d : Reg) (a b : Src) (s : State) :
    Host.Outcome State Fault Refusal := runOne (opMin s1 gd w d a b) s

/-- MIN, immediate form (R160). -/
def opMinImm (s1 : Bool) (gd : Guard) (w : Bool) (d : Reg) (a : Src) (imm : BitVec 7) : Op :=
  computeOp (sSlot s1) gd d [a] 0 fun v => (intResult w minN (operand v 0) (immS imm), 0)

/-- MIN, immediate form (R160). -/
def execMinImm (s1 : Bool) (gd : Guard) (w : Bool) (d : Reg) (a : Src) (imm : BitVec 7) (s : State) :
    Host.Outcome State Fault Refusal := runOne (opMinImm s1 gd w d a imm) s

/-- MAX, register form (R160). -/
def opMax (s1 : Bool) (gd : Guard) (w : Bool) (d : Reg) (a b : Src) : Op :=
  computeOp (sSlot s1) gd d [a, b] 0 fun v => (intResult w maxN (operand v 0) (operand v 1), 0)

/-- MAX, register form (R160). -/
def execMax (s1 : Bool) (gd : Guard) (w : Bool) (d : Reg) (a b : Src) (s : State) :
    Host.Outcome State Fault Refusal := runOne (opMax s1 gd w d a b) s

/-- MAX, immediate form (R160). -/
def opMaxImm (s1 : Bool) (gd : Guard) (w : Bool) (d : Reg) (a : Src) (imm : BitVec 7) : Op :=
  computeOp (sSlot s1) gd d [a] 0 fun v => (intResult w maxN (operand v 0) (immS imm), 0)

/-- MAX, immediate form (R160). -/
def execMaxImm (s1 : Bool) (gd : Guard) (w : Bool) (d : Reg) (a : Src) (imm : BitVec 7) (s : State) :
    Host.Outcome State Fault Refusal := runOne (opMaxImm s1 gd w d a imm) s

/-- MINU, register form (R160). -/
def opMinu (s1 : Bool) (gd : Guard) (w : Bool) (d : Reg) (a b : Src) : Op :=
  computeOp (sSlot s1) gd d [a, b] 0 fun v => (intResult w minuN (operand v 0) (operand v 1), 0)

/-- MINU, register form (R160). -/
def execMinu (s1 : Bool) (gd : Guard) (w : Bool) (d : Reg) (a b : Src) (s : State) :
    Host.Outcome State Fault Refusal := runOne (opMinu s1 gd w d a b) s

/-- MINU, immediate form (R160). -/
def opMinuImm (s1 : Bool) (gd : Guard) (w : Bool) (d : Reg) (a : Src) (imm : BitVec 7) : Op :=
  computeOp (sSlot s1) gd d [a] 0 fun v => (intResult w minuN (operand v 0) (immS imm), 0)

/-- MINU, immediate form (R160). -/
def execMinuImm (s1 : Bool) (gd : Guard) (w : Bool) (d : Reg) (a : Src) (imm : BitVec 7) (s : State) :
    Host.Outcome State Fault Refusal := runOne (opMinuImm s1 gd w d a imm) s

/-- MAXU, register form (R160). -/
def opMaxu (s1 : Bool) (gd : Guard) (w : Bool) (d : Reg) (a b : Src) : Op :=
  computeOp (sSlot s1) gd d [a, b] 0 fun v => (intResult w maxuN (operand v 0) (operand v 1), 0)

/-- MAXU, register form (R160). -/
def execMaxu (s1 : Bool) (gd : Guard) (w : Bool) (d : Reg) (a b : Src) (s : State) :
    Host.Outcome State Fault Refusal := runOne (opMaxu s1 gd w d a b) s

/-- MAXU, immediate form (R160). -/
def opMaxuImm (s1 : Bool) (gd : Guard) (w : Bool) (d : Reg) (a : Src) (imm : BitVec 7) : Op :=
  computeOp (sSlot s1) gd d [a] 0 fun v => (intResult w maxuN (operand v 0) (immS imm), 0)

/-- MAXU, immediate form (R160). -/
def execMaxuImm (s1 : Bool) (gd : Guard) (w : Bool) (d : Reg) (a : Src) (imm : BitVec 7) (s : State) :
    Host.Outcome State Fault Refusal := runOne (opMaxuImm s1 gd w d a imm) s

/-- CLZ (R161). -/
def opClz (s1 : Bool) (gd : Guard) (w : Bool) (d : Reg) (a : Src) : Op :=
  computeOp (sSlot s1) gd d [a] 0 fun v => (intResult w (fun n x _ => clzN n x) (operand v 0) 0, 0)

/-- CLZ (R161). -/
def execClz (s1 : Bool) (gd : Guard) (w : Bool) (d : Reg) (a : Src) (s : State) :
    Host.Outcome State Fault Refusal := runOne (opClz s1 gd w d a) s

/-- POPC (R161). -/
def opPopc (s1 : Bool) (gd : Guard) (w : Bool) (d : Reg) (a : Src) : Op :=
  computeOp (sSlot s1) gd d [a] 0 fun v => (intResult w (fun n x _ => popcN n x) (operand v 0) 0, 0)

/-- POPC (R161). -/
def execPopc (s1 : Bool) (gd : Guard) (w : Bool) (d : Reg) (a : Src) (s : State) :
    Host.Outcome State Fault Refusal := runOne (opPopc s1 gd w d a) s

/-- CMPEQ, register form (R162). -/
def opCmpeq (s1 : Bool) (gd : Guard) (w : Bool) (pd : Fin 8) (a b : Src) : Op :=
  predOp (sSlot s1) gd pd [a, b] fun v => (relation w eqN (operand v 0) (operand v 1), 0)

/-- CMPEQ, register form (R162). -/
def execCmpeq (s1 : Bool) (gd : Guard) (w : Bool) (pd : Fin 8) (a b : Src) (s : State) :
    Host.Outcome State Fault Refusal := runOne (opCmpeq s1 gd w pd a b) s

/-- CMPEQ, immediate form (R162). -/
def opCmpeqImm (s1 : Bool) (gd : Guard) (w : Bool) (pd : Fin 8) (a : Src) (imm : BitVec 7) : Op :=
  predOp (sSlot s1) gd pd [a] fun v => (relation w eqN (operand v 0) (immS imm), 0)

/-- CMPEQ, immediate form (R162). -/
def execCmpeqImm (s1 : Bool) (gd : Guard) (w : Bool) (pd : Fin 8) (a : Src) (imm : BitVec 7) (s : State) :
    Host.Outcome State Fault Refusal := runOne (opCmpeqImm s1 gd w pd a imm) s

/-- CMPNE, register form (R162). -/
def opCmpne (s1 : Bool) (gd : Guard) (w : Bool) (pd : Fin 8) (a b : Src) : Op :=
  predOp (sSlot s1) gd pd [a, b] fun v => (relation w neN (operand v 0) (operand v 1), 0)

/-- CMPNE, register form (R162). -/
def execCmpne (s1 : Bool) (gd : Guard) (w : Bool) (pd : Fin 8) (a b : Src) (s : State) :
    Host.Outcome State Fault Refusal := runOne (opCmpne s1 gd w pd a b) s

/-- CMPNE, immediate form (R162). -/
def opCmpneImm (s1 : Bool) (gd : Guard) (w : Bool) (pd : Fin 8) (a : Src) (imm : BitVec 7) : Op :=
  predOp (sSlot s1) gd pd [a] fun v => (relation w neN (operand v 0) (immS imm), 0)

/-- CMPNE, immediate form (R162). -/
def execCmpneImm (s1 : Bool) (gd : Guard) (w : Bool) (pd : Fin 8) (a : Src) (imm : BitVec 7) (s : State) :
    Host.Outcome State Fault Refusal := runOne (opCmpneImm s1 gd w pd a imm) s

/-- CMPLT, register form (R162). -/
def opCmplt (s1 : Bool) (gd : Guard) (w : Bool) (pd : Fin 8) (a b : Src) : Op :=
  predOp (sSlot s1) gd pd [a, b] fun v => (relation w ltN (operand v 0) (operand v 1), 0)

/-- CMPLT, register form (R162). -/
def execCmplt (s1 : Bool) (gd : Guard) (w : Bool) (pd : Fin 8) (a b : Src) (s : State) :
    Host.Outcome State Fault Refusal := runOne (opCmplt s1 gd w pd a b) s

/-- CMPLT, immediate form (R162). -/
def opCmpltImm (s1 : Bool) (gd : Guard) (w : Bool) (pd : Fin 8) (a : Src) (imm : BitVec 7) : Op :=
  predOp (sSlot s1) gd pd [a] fun v => (relation w ltN (operand v 0) (immS imm), 0)

/-- CMPLT, immediate form (R162). -/
def execCmpltImm (s1 : Bool) (gd : Guard) (w : Bool) (pd : Fin 8) (a : Src) (imm : BitVec 7) (s : State) :
    Host.Outcome State Fault Refusal := runOne (opCmpltImm s1 gd w pd a imm) s

/-- CMPLE, register form (R162). -/
def opCmple (s1 : Bool) (gd : Guard) (w : Bool) (pd : Fin 8) (a b : Src) : Op :=
  predOp (sSlot s1) gd pd [a, b] fun v => (relation w leN (operand v 0) (operand v 1), 0)

/-- CMPLE, register form (R162). -/
def execCmple (s1 : Bool) (gd : Guard) (w : Bool) (pd : Fin 8) (a b : Src) (s : State) :
    Host.Outcome State Fault Refusal := runOne (opCmple s1 gd w pd a b) s

/-- CMPLE, immediate form (R162). -/
def opCmpleImm (s1 : Bool) (gd : Guard) (w : Bool) (pd : Fin 8) (a : Src) (imm : BitVec 7) : Op :=
  predOp (sSlot s1) gd pd [a] fun v => (relation w leN (operand v 0) (immS imm), 0)

/-- CMPLE, immediate form (R162). -/
def execCmpleImm (s1 : Bool) (gd : Guard) (w : Bool) (pd : Fin 8) (a : Src) (imm : BitVec 7) (s : State) :
    Host.Outcome State Fault Refusal := runOne (opCmpleImm s1 gd w pd a imm) s

/-- CMPLTU, register form (R162). -/
def opCmpltu (s1 : Bool) (gd : Guard) (w : Bool) (pd : Fin 8) (a b : Src) : Op :=
  predOp (sSlot s1) gd pd [a, b] fun v => (relation w ltuN (operand v 0) (operand v 1), 0)

/-- CMPLTU, register form (R162). -/
def execCmpltu (s1 : Bool) (gd : Guard) (w : Bool) (pd : Fin 8) (a b : Src) (s : State) :
    Host.Outcome State Fault Refusal := runOne (opCmpltu s1 gd w pd a b) s

/-- CMPLTU, immediate form (R162). -/
def opCmpltuImm (s1 : Bool) (gd : Guard) (w : Bool) (pd : Fin 8) (a : Src) (imm : BitVec 7) : Op :=
  predOp (sSlot s1) gd pd [a] fun v => (relation w ltuN (operand v 0) (immS imm), 0)

/-- CMPLTU, immediate form (R162). -/
def execCmpltuImm (s1 : Bool) (gd : Guard) (w : Bool) (pd : Fin 8) (a : Src) (imm : BitVec 7) (s : State) :
    Host.Outcome State Fault Refusal := runOne (opCmpltuImm s1 gd w pd a imm) s

/-- CMPLEU, register form (R162). -/
def opCmpleu (s1 : Bool) (gd : Guard) (w : Bool) (pd : Fin 8) (a b : Src) : Op :=
  predOp (sSlot s1) gd pd [a, b] fun v => (relation w leuN (operand v 0) (operand v 1), 0)

/-- CMPLEU, register form (R162). -/
def execCmpleu (s1 : Bool) (gd : Guard) (w : Bool) (pd : Fin 8) (a b : Src) (s : State) :
    Host.Outcome State Fault Refusal := runOne (opCmpleu s1 gd w pd a b) s

/-- CMPLEU, immediate form (R162). -/
def opCmpleuImm (s1 : Bool) (gd : Guard) (w : Bool) (pd : Fin 8) (a : Src) (imm : BitVec 7) : Op :=
  predOp (sSlot s1) gd pd [a] fun v => (relation w leuN (operand v 0) (immS imm), 0)

/-- CMPLEU, immediate form (R162). -/
def execCmpleuImm (s1 : Bool) (gd : Guard) (w : Bool) (pd : Fin 8) (a : Src) (imm : BitVec 7) (s : State) :
    Host.Outcome State Fault Refusal := runOne (opCmpleuImm s1 gd w pd a imm) s

/-- DIV, register form (R163). -/
def opDiv (s1 : Bool) (gd : Guard) (w : Bool) (d : Fin 32) (a b : Src) : Op :=
  divideOp (sSlot s1) gd d [a, b] fun v => (intResult w divN (operand v 0) (operand v 1), 0)

/-- DIV, register form (R163). -/
def execDiv (s1 : Bool) (gd : Guard) (w : Bool) (d : Fin 32) (a b : Src) (s : State) :
    Host.Outcome State Fault Refusal := runOne (opDiv s1 gd w d a b) s

/-- DIV, immediate form (R163). -/
def opDivImm (s1 : Bool) (gd : Guard) (w : Bool) (d : Fin 32) (a : Src) (imm : BitVec 7) : Op :=
  divideOp (sSlot s1) gd d [a] fun v => (intResult w divN (operand v 0) (immS imm), 0)

/-- DIV, immediate form (R163). -/
def execDivImm (s1 : Bool) (gd : Guard) (w : Bool) (d : Fin 32) (a : Src) (imm : BitVec 7) (s : State) :
    Host.Outcome State Fault Refusal := runOne (opDivImm s1 gd w d a imm) s

/-- DIVU, register form (R163). -/
def opDivu (s1 : Bool) (gd : Guard) (w : Bool) (d : Fin 32) (a b : Src) : Op :=
  divideOp (sSlot s1) gd d [a, b] fun v => (intResult w divuN (operand v 0) (operand v 1), 0)

/-- DIVU, register form (R163). -/
def execDivu (s1 : Bool) (gd : Guard) (w : Bool) (d : Fin 32) (a b : Src) (s : State) :
    Host.Outcome State Fault Refusal := runOne (opDivu s1 gd w d a b) s

/-- DIVU, immediate form (R163). -/
def opDivuImm (s1 : Bool) (gd : Guard) (w : Bool) (d : Fin 32) (a : Src) (imm : BitVec 7) : Op :=
  divideOp (sSlot s1) gd d [a] fun v => (intResult w divuN (operand v 0) (immS imm), 0)

/-- DIVU, immediate form (R163). -/
def execDivuImm (s1 : Bool) (gd : Guard) (w : Bool) (d : Fin 32) (a : Src) (imm : BitVec 7) (s : State) :
    Host.Outcome State Fault Refusal := runOne (opDivuImm s1 gd w d a imm) s

/-- REM, register form (R163). -/
def opRem (s1 : Bool) (gd : Guard) (w : Bool) (d : Fin 32) (a b : Src) : Op :=
  divideOp (sSlot s1) gd d [a, b] fun v => (intResult w remN (operand v 0) (operand v 1), 0)

/-- REM, register form (R163). -/
def execRem (s1 : Bool) (gd : Guard) (w : Bool) (d : Fin 32) (a b : Src) (s : State) :
    Host.Outcome State Fault Refusal := runOne (opRem s1 gd w d a b) s

/-- REM, immediate form (R163). -/
def opRemImm (s1 : Bool) (gd : Guard) (w : Bool) (d : Fin 32) (a : Src) (imm : BitVec 7) : Op :=
  divideOp (sSlot s1) gd d [a] fun v => (intResult w remN (operand v 0) (immS imm), 0)

/-- REM, immediate form (R163). -/
def execRemImm (s1 : Bool) (gd : Guard) (w : Bool) (d : Fin 32) (a : Src) (imm : BitVec 7) (s : State) :
    Host.Outcome State Fault Refusal := runOne (opRemImm s1 gd w d a imm) s

/-- REMU, register form (R163). -/
def opRemu (s1 : Bool) (gd : Guard) (w : Bool) (d : Fin 32) (a b : Src) : Op :=
  divideOp (sSlot s1) gd d [a, b] fun v => (intResult w remuN (operand v 0) (operand v 1), 0)

/-- REMU, register form (R163). -/
def execRemu (s1 : Bool) (gd : Guard) (w : Bool) (d : Fin 32) (a b : Src) (s : State) :
    Host.Outcome State Fault Refusal := runOne (opRemu s1 gd w d a b) s

/-- REMU, immediate form (R163). -/
def opRemuImm (s1 : Bool) (gd : Guard) (w : Bool) (d : Fin 32) (a : Src) (imm : BitVec 7) : Op :=
  divideOp (sSlot s1) gd d [a] fun v => (intResult w remuN (operand v 0) (immS imm), 0)

/-- REMU, immediate form (R163). -/
def execRemuImm (s1 : Bool) (gd : Guard) (w : Bool) (d : Fin 32) (a : Src) (imm : BitVec 7) (s : State) :
    Host.Outcome State Fault Refusal := runOne (opRemuImm s1 gd w d a imm) s

/-- FABS (R164). -/
def opFabs (s1 : Bool) (gd : Guard) (d : Reg) (a : Src) : Op :=
  computeOp (sSlot s1) gd d [a] 2 fun v => fv (fabs32 (lowF (operand v 0)), 0)

/-- FABS (R164). -/
def execFabs (s1 : Bool) (gd : Guard) (d : Reg) (a : Src) (s : State) :
    Host.Outcome State Fault Refusal := runOne (opFabs s1 gd d a) s

/-- FNEG (R164). -/
def opFneg (s1 : Bool) (gd : Guard) (d : Reg) (a : Src) : Op :=
  computeOp (sSlot s1) gd d [a] 2 fun v => fv (fneg32 (lowF (operand v 0)), 0)

/-- FNEG (R164). -/
def execFneg (s1 : Bool) (gd : Guard) (d : Reg) (a : Src) (s : State) :
    Host.Outcome State Fault Refusal := runOne (opFneg s1 gd d a) s

/-- FADD (R165). -/
def opFadd (s1 : Bool) (gd : Guard) (d : Reg) (a b : Src) : Op :=
  computeOp (sSlot s1) gd d [a, b] 2 fun v => fv (fadd32 (lowF (operand v 0)) (lowF (operand v 1)))

/-- FADD (R165). -/
def execFadd (s1 : Bool) (gd : Guard) (d : Reg) (a b : Src) (s : State) :
    Host.Outcome State Fault Refusal := runOne (opFadd s1 gd d a b) s

/-- FSUB (R165). -/
def opFsub (s1 : Bool) (gd : Guard) (d : Reg) (a b : Src) : Op :=
  computeOp (sSlot s1) gd d [a, b] 2 fun v => fv (fsub32 (lowF (operand v 0)) (lowF (operand v 1)))

/-- FSUB (R165). -/
def execFsub (s1 : Bool) (gd : Guard) (d : Reg) (a b : Src) (s : State) :
    Host.Outcome State Fault Refusal := runOne (opFsub s1 gd d a b) s

/-- FMUL (R165). -/
def opFmul (s1 : Bool) (gd : Guard) (d : Reg) (a b : Src) : Op :=
  computeOp (sSlot s1) gd d [a, b] 2 fun v => fv (fmul32 (lowF (operand v 0)) (lowF (operand v 1)))

/-- FMUL (R165). -/
def execFmul (s1 : Bool) (gd : Guard) (d : Reg) (a b : Src) (s : State) :
    Host.Outcome State Fault Refusal := runOne (opFmul s1 gd d a b) s

/-- FMIN (R165). -/
def opFmin (s1 : Bool) (gd : Guard) (d : Reg) (a b : Src) : Op :=
  computeOp (sSlot s1) gd d [a, b] 2 fun v => fv (fminmax32 false (lowF (operand v 0)) (lowF (operand v 1)))

/-- FMIN (R165). -/
def execFmin (s1 : Bool) (gd : Guard) (d : Reg) (a b : Src) (s : State) :
    Host.Outcome State Fault Refusal := runOne (opFmin s1 gd d a b) s

/-- FMAX (R165). -/
def opFmax (s1 : Bool) (gd : Guard) (d : Reg) (a b : Src) : Op :=
  computeOp (sSlot s1) gd d [a, b] 2 fun v => fv (fminmax32 true (lowF (operand v 0)) (lowF (operand v 1)))

/-- FMAX (R165). -/
def execFmax (s1 : Bool) (gd : Guard) (d : Reg) (a b : Src) (s : State) :
    Host.Outcome State Fault Refusal := runOne (opFmax s1 gd d a b) s

/-- FCMPEQ (R166). -/
def opFcmpeq (s1 : Bool) (gd : Guard) (pd : Fin 8) (a b : Src) : Op :=
  predOp (sSlot s1) gd pd [a, b] fun v => fcmp32 .eq (lowF (operand v 0)) (lowF (operand v 1))

/-- FCMPEQ (R166). -/
def execFcmpeq (s1 : Bool) (gd : Guard) (pd : Fin 8) (a b : Src) (s : State) :
    Host.Outcome State Fault Refusal := runOne (opFcmpeq s1 gd pd a b) s

/-- FCMPLT (R166). -/
def opFcmplt (s1 : Bool) (gd : Guard) (pd : Fin 8) (a b : Src) : Op :=
  predOp (sSlot s1) gd pd [a, b] fun v => fcmp32 .lt (lowF (operand v 0)) (lowF (operand v 1))

/-- FCMPLT (R166). -/
def execFcmplt (s1 : Bool) (gd : Guard) (pd : Fin 8) (a b : Src) (s : State) :
    Host.Outcome State Fault Refusal := runOne (opFcmplt s1 gd pd a b) s

/-- FCMPLE (R166). -/
def opFcmple (s1 : Bool) (gd : Guard) (pd : Fin 8) (a b : Src) : Op :=
  predOp (sSlot s1) gd pd [a, b] fun v => fcmp32 .le (lowF (operand v 0)) (lowF (operand v 1))

/-- FCMPLE (R166). -/
def execFcmple (s1 : Bool) (gd : Guard) (pd : Fin 8) (a b : Src) (s : State) :
    Host.Outcome State Fault Refusal := runOne (opFcmple s1 gd pd a b) s

/-- FCMPUN (R166). -/
def opFcmpun (s1 : Bool) (gd : Guard) (pd : Fin 8) (a b : Src) : Op :=
  predOp (sSlot s1) gd pd [a, b] fun v => fcmp32 .un (lowF (operand v 0)) (lowF (operand v 1))

/-- FCMPUN (R166). -/
def execFcmpun (s1 : Bool) (gd : Guard) (pd : Fin 8) (a b : Src) (s : State) :
    Host.Outcome State Fault Refusal := runOne (opFcmpun s1 gd pd a b) s

/-- FCVTI (R167). -/
def opFcvti (s1 : Bool) (gd : Guard) (d : Reg) (a : Src) (rm : Rm) : Op :=
  computeOp (sSlot s1) gd d [a] 2 fun v => fcvtiR rm (operand v 0)

/-- FCVTI (R167). -/
def execFcvti (s1 : Bool) (gd : Guard) (d : Reg) (a : Src) (rm : Rm) (s : State) :
    Host.Outcome State Fault Refusal := runOne (opFcvti s1 gd d a rm) s

/-- ICVTF (R167). -/
def opIcvtf (s1 : Bool) (gd : Guard) (d : Reg) (a : Src) (rm : Rm) : Op :=
  computeOp (sSlot s1) gd d [a] 2 fun v => icvtfR rm (operand v 0)

/-- ICVTF (R167). -/
def execIcvtf (s1 : Bool) (gd : Guard) (d : Reg) (a : Src) (rm : Rm) (s : State) :
    Host.Outcome State Fault Refusal := runOne (opIcvtf s1 gd d a rm) s

/-- FDIV (R168). -/
def opFdiv (s1 : Bool) (gd : Guard) (d : Fin 32) (a b : Src) : Op :=
  divideOp (sSlot s1) gd d [a, b] fun v => fv (fdiv32 (lowF (operand v 0)) (lowF (operand v 1)))

/-- FDIV (R168). -/
def execFdiv (s1 : Bool) (gd : Guard) (d : Fin 32) (a b : Src) (s : State) :
    Host.Outcome State Fault Refusal := runOne (opFdiv s1 gd d a b) s

/-- FSQRT (R168). -/
def opFsqrt (s1 : Bool) (gd : Guard) (d : Fin 32) (a : Src) : Op :=
  divideOp (sSlot s1) gd d [a] fun v => fv (fsqrt32 (lowF (operand v 0)))

/-- FSQRT (R168). -/
def execFsqrt (s1 : Bool) (gd : Guard) (d : Fin 32) (a : Src) (s : State) :
    Host.Outcome State Fault Refusal := runOne (opFsqrt s1 gd d a) s

/-- FMA: D is also the addend, read at the start of the group (R169). -/
def opFma (s1 : Bool) (gd : Guard) (d : Fin 32) (a b : Src) : Op :=
  { slot := sSlot s1, guard := gd, srcs := [a, b], dsts := [d], reads := fun _ => [(0, d.val, 0)]
    effect := fun s0 v s =>
      let r := fv (ffma32 (lowF (operand v 0)) (lowF (operand v 1)) (lowF s0.me.g[d]))
      give s 2 (.g d r.1) r.2 }

/-- FMA: D is also the addend, read at the start of the group (R169). -/
def execFma (s1 : Bool) (gd : Guard) (d : Fin 32) (a b : Src) (s : State) :
    Host.Outcome State Fault Refusal := runOne (opFma s1 gd d a b) s

/-- MOVW: without `.z` D is read at the start of the group (R170). -/
def opMovw (s1 : Bool) (gd : Guard) (hw : Fin 4) (z : Bool) (d : Fin 32) (imm : BitVec 16) : Op :=
  { slot := sSlot s1, guard := gd, dsts := [d], reads := fun _ => if z then [] else [(0, d.val, 0)]
    effect := fun s0 _ s => give s 0 (.g d (movwR hw z imm s0.me.g[d])) 0 }

/-- MOVW: without `.z` D is read at the start of the group (R170). -/
def execMovw (s1 : Bool) (gd : Guard) (hw : Fin 4) (z : Bool) (d : Fin 32) (imm : BitVec 16) (s : State) :
    Host.Outcome State Fault Refusal := runOne (opMovw s1 gd hw z d imm) s

/-- MUL, register form (R171). -/
def opMul (s1 : Bool) (gd : Guard) (w : Bool) (d : Reg) (a b : Src) : Op :=
  computeOp (sSlot s1) gd d [a, b] 1 fun v => (intResult w mulN (operand v 0) (operand v 1), 0)

/-- MUL, register form (R171). -/
def execMul (s1 : Bool) (gd : Guard) (w : Bool) (d : Reg) (a b : Src) (s : State) :
    Host.Outcome State Fault Refusal := runOne (opMul s1 gd w d a b) s

/-- MUL, immediate form (R171). -/
def opMulImm (s1 : Bool) (gd : Guard) (w : Bool) (d : Reg) (a : Src) (imm : BitVec 7) : Op :=
  computeOp (sSlot s1) gd d [a] 1 fun v => (intResult w mulN (operand v 0) (immS imm), 0)

/-- MUL, immediate form (R171). -/
def execMulImm (s1 : Bool) (gd : Guard) (w : Bool) (d : Reg) (a : Src) (imm : BitVec 7) (s : State) :
    Host.Outcome State Fault Refusal := runOne (opMulImm s1 gd w d a imm) s

/-- MULH, register form (R171). -/
def opMulh (s1 : Bool) (gd : Guard) (w : Bool) (d : Reg) (a b : Src) : Op :=
  computeOp (sSlot s1) gd d [a, b] 1 fun v => (intResult w mulhN (operand v 0) (operand v 1), 0)

/-- MULH, register form (R171). -/
def execMulh (s1 : Bool) (gd : Guard) (w : Bool) (d : Reg) (a b : Src) (s : State) :
    Host.Outcome State Fault Refusal := runOne (opMulh s1 gd w d a b) s

/-- MULH, immediate form (R171). -/
def opMulhImm (s1 : Bool) (gd : Guard) (w : Bool) (d : Reg) (a : Src) (imm : BitVec 7) : Op :=
  computeOp (sSlot s1) gd d [a] 1 fun v => (intResult w mulhN (operand v 0) (immS imm), 0)

/-- MULH, immediate form (R171). -/
def execMulhImm (s1 : Bool) (gd : Guard) (w : Bool) (d : Reg) (a : Src) (imm : BitVec 7) (s : State) :
    Host.Outcome State Fault Refusal := runOne (opMulhImm s1 gd w d a imm) s

/-- MULHU, register form (R171). -/
def opMulhu (s1 : Bool) (gd : Guard) (w : Bool) (d : Reg) (a b : Src) : Op :=
  computeOp (sSlot s1) gd d [a, b] 1 fun v => (intResult w mulhuN (operand v 0) (operand v 1), 0)

/-- MULHU, register form (R171). -/
def execMulhu (s1 : Bool) (gd : Guard) (w : Bool) (d : Reg) (a b : Src) (s : State) :
    Host.Outcome State Fault Refusal := runOne (opMulhu s1 gd w d a b) s

/-- MULHU, immediate form (R171). -/
def opMulhuImm (s1 : Bool) (gd : Guard) (w : Bool) (d : Reg) (a : Src) (imm : BitVec 7) : Op :=
  computeOp (sSlot s1) gd d [a] 1 fun v => (intResult w mulhuN (operand v 0) (immS imm), 0)

/-- MULHU, immediate form (R171). -/
def execMulhuImm (s1 : Bool) (gd : Guard) (w : Bool) (d : Reg) (a : Src) (imm : BitVec 7) (s : State) :
    Host.Outcome State Fault Refusal := runOne (opMulhuImm s1 gd w d a imm) s

/-- SHL, register form (R172). -/
def opShl (s1 : Bool) (gd : Guard) (w : Bool) (d : Reg) (a b : Src) : Op :=
  computeOp (sSlot s1) gd d [a, b] 0 fun v => (intResult w shlN (operand v 0) (operand v 1), 0)

/-- SHL, register form (R172). -/
def execShl (s1 : Bool) (gd : Guard) (w : Bool) (d : Reg) (a b : Src) (s : State) :
    Host.Outcome State Fault Refusal := runOne (opShl s1 gd w d a b) s

/-- SHL, immediate form (R172). -/
def opShlImm (s1 : Bool) (gd : Guard) (w : Bool) (d : Reg) (a : Src) (c : Fin 64) : Op :=
  computeOp (sSlot s1) gd d [a] 0 fun v => (intResult w shlN (operand v 0) (immC c), 0)

/-- SHL, immediate form (R172). -/
def execShlImm (s1 : Bool) (gd : Guard) (w : Bool) (d : Reg) (a : Src) (c : Fin 64) (s : State) :
    Host.Outcome State Fault Refusal := runOne (opShlImm s1 gd w d a c) s

/-- SHR, register form (R172). -/
def opShr (s1 : Bool) (gd : Guard) (w : Bool) (d : Reg) (a b : Src) : Op :=
  computeOp (sSlot s1) gd d [a, b] 0 fun v => (intResult w shrN (operand v 0) (operand v 1), 0)

/-- SHR, register form (R172). -/
def execShr (s1 : Bool) (gd : Guard) (w : Bool) (d : Reg) (a b : Src) (s : State) :
    Host.Outcome State Fault Refusal := runOne (opShr s1 gd w d a b) s

/-- SHR, immediate form (R172). -/
def opShrImm (s1 : Bool) (gd : Guard) (w : Bool) (d : Reg) (a : Src) (c : Fin 64) : Op :=
  computeOp (sSlot s1) gd d [a] 0 fun v => (intResult w shrN (operand v 0) (immC c), 0)

/-- SHR, immediate form (R172). -/
def execShrImm (s1 : Bool) (gd : Guard) (w : Bool) (d : Reg) (a : Src) (c : Fin 64) (s : State) :
    Host.Outcome State Fault Refusal := runOne (opShrImm s1 gd w d a c) s

/-- SRA, register form (R172). -/
def opSra (s1 : Bool) (gd : Guard) (w : Bool) (d : Reg) (a b : Src) : Op :=
  computeOp (sSlot s1) gd d [a, b] 0 fun v => (intResult w sraN (operand v 0) (operand v 1), 0)

/-- SRA, register form (R172). -/
def execSra (s1 : Bool) (gd : Guard) (w : Bool) (d : Reg) (a b : Src) (s : State) :
    Host.Outcome State Fault Refusal := runOne (opSra s1 gd w d a b) s

/-- SRA, immediate form (R172). -/
def opSraImm (s1 : Bool) (gd : Guard) (w : Bool) (d : Reg) (a : Src) (c : Fin 64) : Op :=
  computeOp (sSlot s1) gd d [a] 0 fun v => (intResult w sraN (operand v 0) (immC c), 0)

/-- SRA, immediate form (R172). -/
def execSraImm (s1 : Bool) (gd : Guard) (w : Bool) (d : Reg) (a : Src) (c : Fin 64) (s : State) :
    Host.Outcome State Fault Refusal := runOne (opSraImm s1 gd w d a c) s

/-- ROTR, register form (R172). -/
def opRotr (s1 : Bool) (gd : Guard) (w : Bool) (d : Reg) (a b : Src) : Op :=
  computeOp (sSlot s1) gd d [a, b] 0 fun v => (intResult w rotrN (operand v 0) (operand v 1), 0)

/-- ROTR, register form (R172). -/
def execRotr (s1 : Bool) (gd : Guard) (w : Bool) (d : Reg) (a b : Src) (s : State) :
    Host.Outcome State Fault Refusal := runOne (opRotr s1 gd w d a b) s

/-- ROTR, immediate form (R172). -/
def opRotrImm (s1 : Bool) (gd : Guard) (w : Bool) (d : Reg) (a : Src) (c : Fin 64) : Op :=
  computeOp (sSlot s1) gd d [a] 0 fun v => (intResult w rotrN (operand v 0) (immC c), 0)

/-- ROTR, immediate form (R172). -/
def execRotrImm (s1 : Bool) (gd : Guard) (w : Bool) (d : Reg) (a : Src) (c : Fin 64) (s : State) :
    Host.Outcome State Fault Refusal := runOne (opRotrImm s1 gd w d a c) s

end Sys2Proof.Machine
end

