-- ==== Sys2Proof/Machine/LoadStore.lean ====
section
/-!
DEFINITION. Slot LS: scalar loads, stores, atomics and multicast stores (spec 05 R173 to R176; 10 R306, R310 to R314;
24 R453), and slots P and V (R177, R178).
-/
namespace Sys2Proof.Machine

/-! ## Scalar accesses -/

/-- Bytes of a size code (R116). -/
def sizeBytes (sz : Fin 4) : Nat := 2 ^ sz.val

/-- The address of a load or store with an offset in units of its size (R174, R175). -/
def lsAddr (base : Word) (off : Int) (n : Nat) : Nat := wrapN (base.toNat + off * n) 64

/-- The key of a scalar access of the issuing context, which has passed the checks of R143. -/
def placeKey (s : State) (c x a n : Nat) : Nat := vaultKey ((vaultPlace s c x a n).getD 0)

/-- What a scalar access does to the old value of its bytes: the new value, where it writes (R173). -/
def FarKind.new (k : FarKind) (n old v : Nat) : Option Nat :=
  match k with
  | .load _ => none
  | .store => some v
  | .add => some ((old + v) % 2 ^ (8 * n))
  | .max => some (if sx old (8 * n) < sx v (8 * n) then v else old)
  | .min => some (if sx v (8 * n) < sx old (8 * n) then v else old)
  | .swap => some v
  | .cas cmp => some (if old = cmp then v else old)

/-- What a scalar access returns: a load zero- or sign-extended, an atomic sign-extended (R173, R174). -/
def FarKind.result (k : FarKind) (n old : Nat) : Word :=
  match k with
  | .load false => BitVec.ofNat 64 old
  | _ => BitVec.ofInt 64 (sx old (8 * n))

/-- The access is a load. -/
def FarKind.isLoad : FarKind → Bool
  | .load _ => true
  | _ => false

/-! ## Landings of multicast stores (R176, R314) -/

/-- A word of fewer than 8 bytes is stored beneath an uncorrectable error, which keeps it from being written (R453). -/
def keptOut (s : State) (key n : Nat) : Bool := poisoned s key n && n != 8

/-- The bytes of a multicast store at one member. -/
def landBytes (m : Mcast) (s : State) (k : Nat) : State :=
  if keptOut s k m.bytes.length then s else storeBytes s k m.bytes

/-- Landing order: the core with the lesser 8 x MY + MX first, and from one core the earlier issued (R176). -/
def mcastOrder (ms : List Mcast) : List Mcast :=
  ms.foldl (fun acc m => acc.takeWhile (fun q => decide (q.core % 65 ≤ m.core % 65)) ++ m
    :: acc.dropWhile (fun q => decide (q.core % 65 ≤ m.core % 65))) []

/-- The multicast stores whose landing ck has come, in landing order. -/
def dueMcasts (s : State) : List Mcast := mcastOrder (s.mcasts.filter fun m => decide (m.due ≤ s.ck))

/-- Memory as a load of this ck sees it: with the multicast stores that land in it (R314; log 59). -/
def landedView (s : State) : State := (dueMcasts s).foldl (fun s m => m.addrs.foldl (landBytes m) s) s

/-- A scalar access performs at its home (R453): the state, the value returned, and whether the word could not be
corrected. A store of a whole word writes fresh check bits. -/
def performScalar (s : State) (k : FarKind) (key n v : Nat) : State × Word × Bool :=
  let seen := if k.isLoad then landedView s else s
  if poisoned seen key n && !(k == .store && n == 8) then (s, 0, true)
  else
    let old := memLe seen key n
    let s' := match k.new n old v with
      | some w => storeBytes s key (leBytes n w)
      | none => s
    (s', k.result n old, false)

/-- A number for an access of a context, and the state with the next one (R306). -/
def newUid (s : State) (c x : Nat) : Nat × State :=
  ((getCtx s c x).uid, modCtx s c x fun t => { t with uid := t.uid + 1 })

/-- A near access performs as it issues, and a load lands 6 ck later (R174, R306); a far access waits to perform. -/
def issueScalar (s : State) (k : FarKind) (a n : Nat) (d : Fin 32) (v : Nat) : State :=
  let c := s.issue.core
  let x := s.issue.ctx
  let key := placeKey s c x a n
  if isNear c (key - vaultBase) then
    let r := performScalar s k key n v
    let s := if k.loads then produceLong r.1 c x 6 d r.2.1 0 else r.1
    if r.2.2 then report (countBad s key) c x ⟨causeUNCORR, s.issue.addr, a, none, none⟩ else s
  else
    let u := newUid s c x
    modCtx u.2 c x fun t =>
      { t with
        full := if k.loads then t.full &&& ~~~((1 : BitVec 32) <<< d.val) else t.full
        far := t.far ++ [⟨u.1, s.ck, k, key, a, s.issue.addr, n, d, v⟩] }

/-- A far access may perform: every earlier far access of the context to a common byte has (R306). -/
def farReady (fs : List Far) (i : Nat) : Bool :=
  match fs[i]? with
  | none => false
  | some f => (fs.take i).all fun g => !(decide (g.addr < f.addr + f.n ∧ f.addr < g.addr + g.n))

/-- The far access `i` of a context performs at its home, and a load lands (R75, R306). -/
def performFar (s : State) (c x i : Nat) : State :=
  let t := getCtx s c x
  match t.far[i]? with
  | none => s
  | some f =>
    if farReady t.far i then
      let r := performScalar s f.kind f.addr f.n f.v
      let s := modCtx r.1 c x fun t =>
        { t with
          far := t.far.eraseIdx i
          g := if f.kind.loads then t.g.set f.d r.2.1 else t.g
          full := if f.kind.loads then fullAfter t.full f.d t.longs (t.far.eraseIdx i) else t.full }
      if r.2.2 then report (countBad s f.addr) c x ⟨causeUNCORR, f.epc, f.name, none, none⟩ else s
    else s

/-- A scalar access of slot LS. `addr` gives the address from the values, `val` the stored value and `cmp` what an ACAS
compares with. -/
def scalarOp (gd : Guard) (srcs : List Src) (n : Nat) (d : Option (Fin 32)) (rd : List Key) (addr : List Word → Nat)
    (k : State → FarKind) (val : List Word → Nat) : Op where
  slot := 3
  guard := gd
  srcs := srcs
  dsts := d.toList
  reads := fun _ => rd
  traps := fun s v => check143 s s.issue.core s.issue.ctx (addr v) n
  effect := fun s0 v s => issueScalar s (k s0) (addr v) n (d.getD 0) (val v % 2 ^ (8 * n))

/-- LD (R174). -/
def opLd (gd : Guard) (sz : Fin 4) (d : Fin 32) (a : GSrc) (off : BitVec 9) : Op :=
  scalarOp gd [gs a] (sizeBytes sz) (some d) [] (fun v => lsAddr (operand v 0) off.toInt (sizeBytes sz))
    (fun _ => .load false) (fun _ => 0)

/-- LD (R174). -/
def execLd (gd : Guard) (sz : Fin 4) (d : Fin 32) (a : GSrc) (off : BitVec 9) (s : State) :
    Host.Outcome State Fault Refusal := runOne (opLd gd sz d a off) s

/-- LDSX (R174). -/
def opLdsx (gd : Guard) (sz : Fin 4) (d : Fin 32) (a : GSrc) (off : BitVec 9) : Op :=
  scalarOp gd [gs a] (sizeBytes sz) (some d) [] (fun v => lsAddr (operand v 0) off.toInt (sizeBytes sz))
    (fun _ => .load true) (fun _ => 0)

/-- LDSX (R174). -/
def execLdsx (gd : Guard) (sz : Fin 4) (d : Fin 32) (a : GSrc) (off : BitVec 9) (s : State) :
    Host.Outcome State Fault Refusal := runOne (opLdsx gd sz d a off) s

/-- ST (R175). -/
def opSt (gd : Guard) (sz : Fin 4) (v : Src) (a : GSrc) (off : BitVec 8) : Op :=
  scalarOp gd [gs a, v] (sizeBytes sz) none [] (fun v => lsAddr (operand v 0) off.toInt (sizeBytes sz))
    (fun _ => .store) (fun v => (operand v 1).toNat)

/-- ST (R175). -/
def execSt (gd : Guard) (sz : Fin 4) (v : Src) (a : GSrc) (off : BitVec 8) (s : State) :
    Host.Outcome State Fault Refusal := runOne (opSt gd sz v a off) s

/-- An atomic without a comparand (R173). -/
def atomicOp (gd : Guard) (sz : Fin 4) (d : Fin 32) (a : GSrc) (v : Src) (k : FarKind) : Op :=
  scalarOp gd [gs a, v] (sizeBytes sz) (some d) [] (fun v => (operand v 0).toNat) (fun _ => k)
    (fun v => (operand v 1).toNat)

/-- AADD (R173). -/
def opAadd (gd : Guard) (sz : Fin 4) (d : Fin 32) (a : GSrc) (v : Src) : Op := atomicOp gd sz d a v .add

/-- AADD (R173). -/
def execAadd (gd : Guard) (sz : Fin 4) (d : Fin 32) (a : GSrc) (v : Src) (s : State) :
    Host.Outcome State Fault Refusal := runOne (opAadd gd sz d a v) s

/-- AMAX (R173). -/
def opAmax (gd : Guard) (sz : Fin 4) (d : Fin 32) (a : GSrc) (v : Src) : Op := atomicOp gd sz d a v .max

/-- AMAX (R173). -/
def execAmax (gd : Guard) (sz : Fin 4) (d : Fin 32) (a : GSrc) (v : Src) (s : State) :
    Host.Outcome State Fault Refusal := runOne (opAmax gd sz d a v) s

/-- AMIN (R173). -/
def opAmin (gd : Guard) (sz : Fin 4) (d : Fin 32) (a : GSrc) (v : Src) : Op := atomicOp gd sz d a v .min

/-- AMIN (R173). -/
def execAmin (gd : Guard) (sz : Fin 4) (d : Fin 32) (a : GSrc) (v : Src) (s : State) :
    Host.Outcome State Fault Refusal := runOne (opAmin gd sz d a v) s

/-- ACAS: D is read at the start of the group as the comparand (R173). -/
def opAcas (gd : Guard) (sz : Fin 4) (d : Fin 32) (a : GSrc) (v : Src) : Op :=
  scalarOp gd [gs a, v] (sizeBytes sz) (some d) [(0, d.val, 0)] (fun v => (operand v 0).toNat)
    (fun s0 => .cas (s0.me.g[d].toNat % 2 ^ (8 * sizeBytes sz))) (fun v => (operand v 1).toNat)

/-- ACAS (R173). -/
def execAcas (gd : Guard) (sz : Fin 4) (d : Fin 32) (a : GSrc) (v : Src) (s : State) :
    Host.Outcome State Fault Refusal := runOne (opAcas gd sz d a v) s

/-- ASWP (R173). -/
def opAswp (gd : Guard) (sz : Fin 4) (d : Fin 32) (a : GSrc) (v : Src) : Op := atomicOp gd sz d a v .swap

/-- ASWP (R173). -/
def execAswp (gd : Guard) (sz : Fin 4) (d : Fin 32) (a : GSrc) (v : Src) (s : State) :
    Host.Outcome State Fault Refusal := runOne (opAswp gd sz d a v) s

/-! ## TMCST (R176, R386) -/

/-- Bytes of the multicast window of a group, from table 3 of a die layer (R386). -/
def mcastLen (s : State) (die gid : Nat) : Nat :=
  match s.tables.find? fun e => e.1.1 == 3 && e.1.2.1 == die && bitAt e.2 0 && bits e.2 63 48 == gid with
  | some e => bits e.2 44 33 * 4096
  | none => 0

/-- The core index of a context in its group (R378). -/
def coreIndex (s : State) (c x : Nat) : Nat :=
  let t := getCtx s c x
  match groupOf s t.group with
  | some g => t.rank / (max g.cpc 1)
  | none => 0

/-- The cores of the group of a context (R378). -/
def memberCount (s : State) (c x : Nat) : Nat :=
  match groupOf s (getCtx s c x).group with
  | some g => (g.ctxs + max g.cpc 1 - 1) / max g.cpc 1
  | none => 0

/-- The checks of a TMCST (R176). -/
def mcastChecks (s : State) (c x a n : Nat) : List Trap :=
  if isSup c then [⟨7, causeVRANGE, a⟩]
  else if bits a 63 33 ≠ 0 then [⟨7, causeVRANGE, a⟩]
  else if a % n ≠ 0 then [⟨7, causeALIGN, a⟩]
  else if bits a 63 30 ≠ 0 ∨ bits a 29 23 ≠ coreIndex s c x ∨ mcastLen s (dieOf c) (getCtx s c x).group < bits a 22 0 + n then
    [⟨7, causeVRANGE, a⟩]
  else []

/-- The keys a TMCST lands at: the same name offset in every member window (R176, R386). -/
def mcastKeys (s : State) (c x a n : Nat) : List Nat :=
  (List.range (memberCount s c x)).filterMap fun i =>
    (relocate s (chipletOf c) (getCtx s c x).group (i * 2 ^ 23 + bits a 22 0) n).map vaultKey

/-- A TMCST issues: it lands 9 ck later (R176). -/
def issueMcast (s : State) (a n v : Nat) : State :=
  let c := s.issue.core
  let x := s.issue.ctx
  let u := newUid s c x
  { u.2 with mcasts := u.2.mcasts ++ [⟨s.ck + 9, c, x, u.1, mcastKeys s c x a n, leBytes n v, a, s.issue.addr⟩] }

/-- TMCST (R176). -/
def opTmcst (gd : Guard) (sz : Fin 4) (v : Src) (a : GSrc) (off : BitVec 8) : Op where
  slot := 3
  guard := gd
  srcs := [gs a, v]
  traps := fun s v => mcastChecks s s.issue.core s.issue.ctx (lsAddr (operand v 0) off.toInt (sizeBytes sz)) (sizeBytes sz)
  effect := fun _ v s =>
    issueMcast s (lsAddr (operand v 0) off.toInt (sizeBytes sz)) (sizeBytes sz)
      ((operand v 1).toNat % 2 ^ (8 * sizeBytes sz))

/-- TMCST (R176). -/
def execTmcst (gd : Guard) (sz : Fin 4) (v : Src) (a : GSrc) (off : BitVec 8) (s : State) :
    Host.Outcome State Fault Refusal := runOne (opTmcst gd sz v a off) s

/-- A multicast store lands in member `p.2`'s vault at key `p.1`; one of fewer than 8 bytes to a word that cannot be
corrected writes nothing and is reported, by the member's name of the address (R453). -/
def landAt (m : Mcast) (s : State) (p : Nat × Nat) : State :=
  if keptOut s p.1 m.bytes.length then
    report (countBad s p.1) m.core m.ctx ⟨causeUNCORR, m.epc, p.2 * 2 ^ 23 + bits m.name 22 0, none, none⟩
  else storeBytes s p.1 m.bytes

/-- A multicast store lands in every member vault (R176). -/
def landMcast (s : State) (m : Mcast) : State := m.addrs.zipIdx.foldl (landAt m) s

/-- Every multicast store that is due lands (R176). -/
def landMcasts (s : State) : State :=
  (dueMcasts s).foldl landMcast { s with mcasts := s.mcasts.filter fun m => !(decide (m.due ≤ s.ck)) }

/-- TMCST_LANDING: after every scalar access that performs in the ck, so nothing more of slot LS performs in it (R176;
log 59). -/
def execTmcstLanding (s : State) : Host.Outcome State Fault Refusal :=
  .next (if (dueMcasts s).isEmpty then s else { landMcasts s with landed := some s.ck })

/-! ## Slot P (R177) -/

/-- One of the four operations on a bit or a word. -/
inductive POpKind where
  | and | or | xor | andn
deriving DecidableEq, Repr

/-- The operation on predicates (R177). -/
def POpKind.bit (o : POpKind) (a b : Bool) : Bool :=
  match o with
  | .and => a && b
  | .or => a || b
  | .xor => a != b
  | .andn => a && !b

/-- The operation on masks (R177). -/
def POpKind.word (o : POpKind) (a b : Word) : Word :=
  match o with
  | .and => a &&& b
  | .or => a ||| b
  | .xor => a ^^^ b
  | .andn => a &&& ~~~b

/-- An operation of slot P on predicates or on masks (R177). -/
def slotPOp (o : POpKind) (gd : Guard) (k : Bool) (d a b : Fin 8) : Op where
  slot := 4
  guard := gd
  reads := fun _ => if k then [(4, a.val, 0), (4, b.val, 0)] else [(3, a.val, 0), (3, b.val, 0)]
  effect := fun s0 _ s =>
    let t := s0.me
    give s 4 (if k then .k d (o.word t.k[a] t.k[b]) else .p d (o.bit (t.p.getLsbD a.val) (t.p.getLsbD b.val))) 0

/-- AND of slot P (R177). -/
def opPAnd (gd : Guard) (k : Bool) (d a b : Fin 8) : Op := slotPOp .and gd k d a b
/-- OR of slot P (R177). -/
def opPOr (gd : Guard) (k : Bool) (d a b : Fin 8) : Op := slotPOp .or gd k d a b
/-- XOR of slot P (R177). -/
def opPXor (gd : Guard) (k : Bool) (d a b : Fin 8) : Op := slotPOp .xor gd k d a b
/-- ANDN of slot P (R177). -/
def opPAndn (gd : Guard) (k : Bool) (d a b : Fin 8) : Op := slotPOp .andn gd k d a b

/-- AND of slot P (R177). -/
def execPAnd (gd : Guard) (k : Bool) (d a b : Fin 8) (s : State) : Host.Outcome State Fault Refusal :=
  runOne (opPAnd gd k d a b) s
/-- OR of slot P (R177). -/
def execPOr (gd : Guard) (k : Bool) (d a b : Fin 8) (s : State) : Host.Outcome State Fault Refusal :=
  runOne (opPOr gd k d a b) s
/-- XOR of slot P (R177). -/
def execPXor (gd : Guard) (k : Bool) (d a b : Fin 8) (s : State) : Host.Outcome State Fault Refusal :=
  runOne (opPXor gd k d a b) s
/-- ANDN of slot P (R177). -/
def execPAndn (gd : Guard) (k : Bool) (d a b : Fin 8) (s : State) : Host.Outcome State Fault Refusal :=
  runOne (opPAndn gd k d a b) s

/-! ## Slot V (R87, R178) -/

/-- VCMP (R178). -/
def opVcmp (a : GSrc) (hb : Fin 16) : Op where
  slot := 11
  srcs := [gs a]
  reads := fun _ => [(1, hb.val, 0)]
  traps := fun s v =>
    let y := s.me.h[hb]
    if operand v 0 = y then [] else [⟨10, causeDUP, (operand v 0 ^^^ y).toNat⟩]

/-- VCMP (R178). -/
def execVcmp (a : GSrc) (hb : Fin 16) (s : State) : Host.Outcome State Fault Refusal := runOne (opVcmp a hb) s

end Sys2Proof.Machine
end

