-- ==== Sys2Proof/Machine/Barrier.lean ====
section
/-!
DEFINITION. Barrier slots: arrivals, credits, completion, waits, ring mode and the writes of the owning supervisor
(spec 17; 10 R318).
-/
namespace Sys2Proof.Machine

/-! ## Fields (R395 to R398) -/

/-- The slot `b` of a chiplet's barrier file. -/
def getSlot (s : State) (ch b : Nat) : Slot := alGet Slot.reset s.slots (ch, b)

/-- A slot replaced. -/
def setSlot (s : State) (ch b : Nat) (v : Slot) : State := { s with slots := alSet s.slots (ch, b) v }

/-- A slot changed. -/
def modSlot (s : State) (ch b : Nat) (f : Slot → Slot) : State := setSlot s ch b (f (getSlot s ch b))

def Slot.grpA (v : Slot) : Nat := bits v.cfg 63 48
def Slot.grpB (v : Slot) : Nat := bits v.cfg 47 32
def Slot.sc (v : Slot) : Nat := bits v.cfg 31 29
def Slot.ring (v : Slot) : Bool := bitAt v.cfg 28
def Slot.ea (v : Slot) : Nat := bits v.cfg 27 17
/-- The slot is in force (R395). -/
def Slot.on (v : Slot) : Bool := bitAt v.cfg 0
/-- EB in counting mode, SLOTB in ring mode (R396). -/
def Slot.eb (v : Slot) : Nat := bits v.size 63 32
def Slot.depth (v : Slot) : Nat := bits v.size 31 24

/-- STATE as it is read (R397). -/
def Slot.stateWord (v : Slot) : Nat :=
  v.bytes % 2 ^ 32 * 2 ^ 32 + v.arr * 2 ^ 21 + v.phase * 2 ^ 5 + v.lp.toNat * 2 + v.brk.toNat

/-- RING as it is read (R398). -/
def Slot.ringWord (v : Slot) : Nat :=
  if v.ring then v.claim % 2 ^ 32 * 2 ^ 32 + v.filled % 256 * 2 ^ 24 + v.free % 256 * 2 ^ 16 else 0

/-- The party index of a context in a slot (R394). -/
def Slot.party (v : Slot) (gid rank : Nat) : Option Nat :=
  if gid = 0 then none
  else if v.grpA = gid then some rank
  else if v.grpB = gid then some (512 + rank)
  else none

/-- The scope of a slot as it now stands; none where it has none (R395, R402). -/
def slotScope (s : State) (v : Slot) : Option Nat :=
  if v.sc ≠ 7 then some v.sc
  else
    let g (i : Nat) : Option Nat := if i = 0 then none else (groupOf s i).map (·.gsc)
    match g v.grpA with
    | some x => some x
    | none => g v.grpB

/-- A party entry set, or removed: a party without an entry is NONE (R399). -/
def Slot.setEntry (v : Slot) (p : Nat) (e : Option PEntry) : Slot :=
  let rest := v.entries.filter fun q => q.1 != p
  { v with entries := match e with | some e => (p, e) :: rest | none => rest }

/-- The entry of a party. -/
def Slot.entry (v : Slot) (p : Nat) : Option PEntry := (v.entries.find? fun q => q.1 == p).map (·.2)

/-! ## Counting (R400, R403, R404) -/

/-- An arrival counts: in the current ck for a counting slot, at once for a ring slot. A party is recorded at a
BARA. -/
def Slot.arrive (v : Slot) (party : Option Nat) : Slot :=
  if v.ring then { v with free := min v.depth (v.free + 1) }
  else { v with
    arrNow := v.arrNow + 1
    arrParties := match party with | some p => p :: v.arrParties | none => v.arrParties }

/-- Ring slots that the bytes counted fill (R403); `fuel` bounds them. -/
def Slot.fill (v : Slot) : Nat → Slot
  | 0 => v
  | fuel + 1 =>
    if v.eb ≤ v.bytes ∧ 0 < v.eb then
      Slot.fill { v with bytes := v.bytes - v.eb, filled := v.filled + 1, phase := (v.phase + 1) % 2 ^ 16 } fuel
    else v

/-- A credit of bytes reaches a slot (R187, R400, R403); one that reaches a slot out of force is lost. -/
def Slot.credit (v : Slot) (n : Nat) (poison : Bool) : Slot :=
  if v.on = false then v
  else if v.ring then
    if poison then { v with brk := true } else { v with bytes := v.bytes + n }.fill (n + 1)
  else { v with bytesNow := v.bytesNow + n, poisonNow := v.poisonNow || poison }

/-! ## Blocked waits become ready (R62, R400, R404, R405) -/

/-- A context of core `c` has a BARW blocked on a slot of a chiplet; a freeze leaves it so (R406). -/
def waitsOn (c : Nat) (t : Ctx) (ch b : Nat) : Bool := chipletOf c == ch && t.barWait == some b

/-- Every context whose BARW is blocked on a slot, changed; those of frozen groups too. -/
def modWaits (s : State) (ch b : Nat) (f : Ctx → Ctx) : State :=
  { s with
    cores := s.cores.map fun p =>
      (p.1, { p.2 with ctx := p.2.ctx.map fun t => if waitsOn p.1 t ch b then f t else t })
    groups := s.groups.map fun g =>
      if g.die / 2 = ch then
        { g with saved := g.saved.map fun v =>
            if v.now.barWait = some b then { v with ctx := f v.ctx, now := f v.now } else v }
      else g }

/-- The readers of a ring slot whose BARW has blocked: party index, core and context; a supervisor, which is no party, comes last. -/
def ringReaders (s : State) (ch b : Nat) : List (Nat × Nat × Nat) :=
  s.cores.flatMap fun p => (List.range 4).filterMap fun x =>
    let t := p.2.get x
    if waitsOn p.1 t ch b && (t.st == .blocked || t.st == .current) then
      some (((getSlot s ch b).party t.group t.rank).getD 2048, p.1, x)
    else none

/-- Blocked readers become ready in ascending party index, one for each of `n` increments of FILLED (R404). -/
def readyReaders (ch b : Nat) : Nat → State → State
  | 0, s => s
  | n + 1, s =>
    match ringReaders s ch b with
    | [] => s
    | r :: rs =>
      let q := rs.foldl (fun a e => if e.1 < a.1 then e else a) r
      readyReaders ch b n (modCtx s q.2.1 q.2.2 Ctx.unheld)

/-- Credit a slot of a chiplet; BAR = 0x3FF names none. A ring slot that has been filled makes a reader ready, and one that
has taken poison makes every reader ready (R404). -/
def creditSlot (s : State) (ch : Nat) (bar : Option Nat) (n : Nat) (poison : Bool) : State :=
  match bar with
  | none => s
  | some b =>
    let v := getSlot s ch b
    let w := v.credit n poison
    let s := setSlot s ch b w
    if v.ring = false then s
    else if w.brk && !v.brk then modWaits s ch b Ctx.unheld
    else readyReaders ch b (w.filled - v.filled) s

/-- A phase completes (R400). -/
def Slot.complete (v : Slot) (q : Bool) : Slot :=
  { v with
    phase := (v.phase + 1) % 2 ^ 16
    arr := 0
    lp := q
    entries := v.entries.map fun e => (e.1, match e.2 with
      | .arr => if q then .donep else .done
      | .wait => if q then .wrelp else .wrel
      | x => x) }

/-- The end of a ck for a slot (R400). -/
def Slot.endCk (v : Slot) : Slot :=
  let z := { v with arrNow := 0, arrParties := [], bytesNow := 0, poisonNow := false, forceNow := none }
  if v.on && !v.ring then
    let w := v.arrParties.foldl (fun w p => Slot.setEntry w p (some .arr)) z
    let w := { w with arr := min 2047 (v.arr + v.arrNow), bytes := v.bytes + v.bytesNow }
    if v.poisonNow then { w.complete true with bytes := 0 }
    else match v.forceNow with
      | some q => { w.complete q with bytes := 0 }
      | none =>
        if v.ea ≤ w.arr ∧ v.eb ≤ w.bytes then { w.complete false with bytes := w.bytes - v.eb } else w
  else z

/-- The ring slots that the next `n` bytes of a producer enter first (R403). -/
def Slot.claims (v : Slot) (n : Nat) : Nat :=
  let m := v.depth * v.eb
  if v.eb = 0 ∨ m = 0 then 0
  else ((List.range n).filter fun i => (v.claim + i) % m % v.eb == 0).length

/-- A claim takes ring slots as they are free, up to the `n` it needs (R403). -/
def Slot.grab (v : Slot) (n : Nat) (q : Claim) : Slot × Claim :=
  let k := min (n - q.taken) v.free
  ({ v with free := v.free - k }, { q with taken := q.taken + k })

/-- The claim at the head takes what it can of the ring space for `b` bytes; whether it is whole (R403). -/
def Slot.advance (v : Slot) (b : Nat) : Slot × Bool :=
  match v.claiming with
  | [] => (v, false)
  | q :: qs =>
    let r := v.grab (v.claims b) q
    if v.claims b ≤ r.2.taken then ({ r.1 with claim := (v.claim + b) % (v.depth * v.eb), claiming := qs }, true)
    else ({ r.1 with claiming := r.2 :: qs }, false)

/-- Claims of commands that are gone give back what they had taken (log 19). -/
def Slot.prune (v : Slot) (live : Claim → Bool) : Slot :=
  let gone := v.claiming.filter fun q => !(live q)
  { v with claiming := v.claiming.filter live, free := min v.depth (v.free + (gone.map (·.taken)).sum) }

/-! ## Control by the supervisor (R405) -/

/-- A CFG write with V = 1 is refused (R395). -/
def cfgRefused (v : Slot) (w : Nat) : Bool :=
  let n := { v with cfg := w }
  bitAt w 0 && ((!n.ring && n.ea == 0 && n.eb == 0) || (!n.ring && decide (1024 < n.ea))
    || (n.ring && (n.depth == 0 || n.eb == 0)))

/-- The parties of a slot whose BARW is blocked on it. -/
def waitParties (s : State) (ch b : Nat) : List Nat :=
  let v := getSlot s ch b
  ((s.cores.flatMap fun p => p.2.ctx.toList.filter fun t => waitsOn p.1 t ch b)
    ++ (s.groups.filter fun g => g.die / 2 == ch).flatMap fun g =>
      (g.saved.map (·.now)).filter fun t => t.barWait == some b).filterMap fun t => v.party t.group t.rank

/-- CFG of a slot is written: every BARW blocked on it becomes ready, with its entry WRELP, to trap with CHECKSUM when it
issues again (R405, R395); that of a frozen group when it resumes (R406). -/
def writeCfg (s : State) (ch b w : Nat) : State :=
  let w := w % 2 ^ 64
  let v := getSlot s ch b
  let w' := if cfgRefused v w then setBits w 0 0 0 else w
  let stored := setBits w' 16 1 0
  let v' := { Slot.reset with
    cfg := stored
    size := v.size
    free := v.depth
    sup := (v.sup.filter fun p => (getCtx s (p.1 / 4) (p.1 % 4)).barWait == some b).map fun p => (p.1, p.2.1, true) }
  let w := (waitParties s ch b).foldl (fun w p => w.setEntry p (some .wrelp)) v'
  modWaits (setSlot s ch b w) ch b fun t =>
    { t.unheld with cfgRel := (b, v.party t.group t.rank) :: t.cfgRel }

/-- SIZE of a slot is written, while it is out of force (R396). -/
def writeSize (s : State) (ch b w : Nat) : State :=
  modSlot s ch b fun v => if v.on then v else { v with size := setBits (w % 2 ^ 64) 23 0 0 }

/-- STATE of a slot is written (R405). -/
def writeStateWord (s : State) (ch b w : Nat) : State :=
  let v := getSlot s ch b
  if bitAt w 2 = false ∨ v.on = false then s
  else if v.ring then
    if bitAt w 1 then modWaits (setSlot s ch b { v with brk := true }) ch b Ctx.unheld else s
  else setSlot s ch b { v with forceNow := some (bitAt w 1) }

/-- A granted group ends: its grant is cleared, and with no grant left the slot is put out of force (R406). -/
def clearGrants (s : State) (gid : Nat) : State :=
  s.slots.foldl (fun s p =>
    let v := p.2
    if v.on && gid != 0 && (v.grpA == gid || v.grpB == gid) then
      let a := if v.grpA = gid then 0 else v.grpA
      let b := if v.grpB = gid then 0 else v.grpB
      if a = 0 ∧ b = 0 then writeCfg s p.1.1 p.1.2 (setBits (setBits v.cfg 63 32 0) 0 0 0)
      else setSlot s p.1.1 p.1.2 { v with cfg := setBits (setBits v.cfg 63 48 a) 47 32 b }
    else s) s

/-! ## Waits of a context (R401, R404) -/

/-- What a wait finds. -/
inductive Wait where
  | pass
  | hold
  | fail
deriving DecidableEq, Repr

/-- The chiplet whose barrier file the issuing context uses (R393). -/
def State.chiplet (s : State) : Nat := chipletOf s.issue.core

/-- The record of a supervisor core's blocked BARW: the phase at its first issue and whether CFG was written since. -/
def Slot.supEntry (v : Slot) (id : Nat) : Option (Nat × Bool) := (v.sup.find? fun p => p.1 == id).map (·.2)

/-- The number under which a supervisor's context waits. -/
def supId (s : State) : Nat := 4 * s.issue.core + s.issue.ctx

/-- What a BARW or BARP of the issuing context finds at a slot (R401, R404). -/
def waitOutcome (s : State) (b : Nat) (isW : Bool) : Wait :=
  let v := getSlot s s.chiplet b
  let t := s.me
  if v.ring then
    if v.brk then .fail else if 0 < v.filled then .pass else .hold
  else if isSup s.issue.core then
    if isW then
      match v.supEntry (supId s) with
      | none => .hold
      | some (ph, _) => if v.phase = ph then .hold else if v.lp then .fail else .pass
    else .hold
  else if t.arrivals.any fun a => a.slot == b then .hold
  else match v.party t.group t.rank with
    | none => .hold
    | some p =>
      match v.entry p with
      | some .done | some .wrel => .pass
      | some .donep | some .wrelp => .fail
      | _ => .hold

/-- The CFG of the slot was written while this BARW was blocked (R405). -/
def cfgReleased (s : State) (b : Nat) : Bool :=
  (s.me.cfgRel.any fun q => q.1 == b) ||
    (isSup s.issue.core && (match (getSlot s s.chiplet b).supEntry (supId s) with | some (_, r) => r | none => false))

/-- A wait passes: an entry WREL becomes NONE, a ring slot is taken (R401, R404). -/
def passWait (s0 : State) (b : Nat) (s : State) : State :=
  let t := s0.me
  let s := modSlot s s0.chiplet b fun v =>
    let v := { v with sup := v.sup.filter fun p => p.1 != supId s0 }
    if v.ring then { v with filled := v.filled - 1 }
    else match v.party t.group t.rank with
      | some p => if v.entry p = some .wrel then v.setEntry p none else v
      | none => v
  s.modMe fun t => { t with barWait := none }

/-- A BARW blocks: the entry of a party with no arrival becomes WAIT (R401). -/
def holdWait (b : Nat) (s : State) : State :=
  let t := s.me
  let s := modSlot s s.chiplet b fun v =>
    if v.ring then v
    else if isSup s.issue.core then
      if v.supEntry (supId s) = none then { v with sup := (supId s, v.phase, false) :: v.sup } else v
    else match v.party t.group t.rank with
      | some p => if v.entry p = none ∧ (t.arrivals.any fun a => a.slot == b) = false then v.setEntry p (some .wait) else v
      | none => v
  s.modMe fun t => { t with barWait := some b }

/-- A CHECKSUM is reported at a wait: WRELP becomes NONE (R401, R405), at the party index under which a CFG write released
the wait. -/
def failWait (b : Nat) (s : State) : State :=
  let t := s.me
  let s := modSlot s s.chiplet b fun v =>
    let v := { v with sup := v.sup.filter fun p => p.1 != supId s }
    match ((t.cfgRel.find? fun q => q.1 == b).map (·.2)).getD (v.party t.group t.rank) with
    | some p => if v.entry p = some .wrelp then v.setEntry p none else v
    | none => v
  s.modMe fun t => { t with barWait := none, cfgRel := t.cfgRel.filter fun q => q.1 != b }

/-- The traps BARA, BARW and BARP share (R145, R394, R402). -/
def grantTraps (s : State) (sc : Fin 8) (b : Nat) : List Trap :=
  let v := getSlot s s.chiplet b
  let t := s.me
  let code := if sc = 7 then t.gsc else sc.val
  if v.on = false then [⟨1, causePRIV, b⟩]
  else if !(isSup s.issue.core) && (v.party t.group t.rank).isNone then [⟨1, causePRIV, b⟩]
  else if (sc = 7 ∧ isSup s.issue.core) ∨ slotScope s v ≠ some code then [⟨6, causeSCOPE, b⟩]
  else []

/-! ## Release (R318) -/

/-- Count the arrival of a context at a slot once the accesses it waits for have performed. -/
def countArrival (s : State) (c x b : Nat) : State :=
  let t := getCtx s c x
  modSlot s (chipletOf c) b fun v =>
    if v.on then v.arrive (if isSup c then none else v.party t.group t.rank) else v

/-- The pending arrivals of a context whose accesses have all performed are counted (R318). -/
def countArrivals (s : State) (c x : Nat) : State :=
  let t := getCtx s c x
  if t.arrivals.isEmpty then s
  else
    let out := outstanding s c x
    let wait (a : PendArr) : Bool := out.any fun o => a.need.contains o.1 && mayBeIn s a.sc c o.2
    let s1 := setCtx s c x { t with arrivals := t.arrivals.filter wait }
    (t.arrivals.filter fun a => !wait a).foldl (fun s a => countArrival s c x a.slot) s1

/-- The end of a ck for a slot: where its phase completes, every wait of a BARW blocked on it is over (R400). -/
def endCkSlot (s : State) (ch b : Nat) : State :=
  let v := getSlot s ch b
  let s := setSlot s ch b v.endCk
  if v.endCk.phase = v.phase then s else modWaits s ch b Ctx.unheld

/-- The end of a ck for every slot (R400). -/
def endCkSlots (s : State) : State := s.slots.foldl (fun s p => endCkSlot s p.1.1 p.1.2) s

end Sys2Proof.Machine
end

