-- ==== Sys2Proof/Machine/Tables.lean ====
section
/-!
DEFINITION. The device tables as TBLRD and TBLWR see them, and the system registers as XRD sees them (spec 01 R10, R17
to R22; 03 R67 to R70, R86; 05 R158, R159; 15 R374, R375; 16 R384 to R386; 19 R412, R413, R416, R420, R421).
-/
namespace Sys2Proof.Machine

/-! ## Discovery (R20 to R22) -/

/-- MINC, TYPC and MAXC of scopes 0 to 5 (R21). -/
def scopeCosts : List (Nat × Nat × Nat) :=
  [(0, 0, 0), (2, 3, 6), (18, 24, 40), (60, 80, 140), (200, 260, 420), (450, 600, 1000)]

/-- The value of xscope0 to xscope6 (R20, R21). -/
def scopeWord (s : State) (n : Nat) : Nat :=
  if n < 6 then
    let f := scopeCosts.getD n (0, 0, 0)
    f.2.2 * 2 ^ 48 + f.2.1 * 2 ^ 32 + f.1 * 2 ^ 16 + 2 ^ 7 + n
  else
    let w := tabGet s 8 0 6
    bits w 63 16 * 2 ^ 16 + bits w 7 7 * 2 ^ 7 + 6

/-- PKG of the package (R22). -/
def pkgIndex (s : State) : Nat := tabGet s 8 0 8

/-- The RET, CHIP, LAYER fields of a core at bits 25..22 (R10). -/
def dieBits (c : Nat) : Nat := dieOf c * 2 ^ 22

/-- xcore of a core (R10). -/
def xcoreVal (s : State) (c : Nat) : Nat :=
  pkgIndex s * 2 ^ 26 + dieBits c + (if isSup c then 2 ^ 21 else c % 65 * 2 ^ 15)

/-- A write to word 6 of the discovery table (R22). -/
def writeScope6 (s : State) (v : Nat) : State := tabSet s 8 0 6 (bits v 63 16 * 2 ^ 16 + bits v 7 7 * 2 ^ 7)

/-- A write to the PKG word (R22). -/
def writePkg (s : State) (v : Nat) : State := tabSet s 8 0 8 (bits v 5 0)

/-! ## System registers (R67) -/

/-- xstatus (R69). -/
def xstatusVal (s : State) (c x : Nat) : Nat :=
  let k := getCore s c
  let t := k.get x
  (t.flags &&& flagsWritable).toNat * 2 ^ 8 + t.rplp.toNat * 2 ^ 4 + (t.ilk != 0).toNat * 2 ^ 3
    + (k.owner == .ctx x).toNat * 2 ^ 2 + (if isSup c then 1 else 0)

/-- xctx (R70). -/
def xctxVal (t : Ctx) (x : Nat) : Nat :=
  t.group % 2 ^ 16 * 2 ^ 32 + t.rank % 256 * 2 ^ 24 + t.tbase % 256 * 2 ^ 16 + t.tcnt % 256 * 2 ^ 8 + x % 4

/-- xlnt (R274). -/
def xlntVal (k : Core) (x : Nat) : Nat :=
  let l := k.lantern
  l.pc % 512 * 2 ^ 39 + l.cause % 256 * 2 ^ 24 + l.endCode % 4 * 2 ^ 16 + l.bar % 1024 * 2 ^ 6 + l.owner % 4 * 4
    + (l.owner == x).toNat * 2 + k.lanternOn.toNat

/-- xrpl (R336): NOW is what the replay buffer held at the start of the group. -/
def xrplVal (s : State) (t : Ctx) : Nat := t.rplLast % 1024 * 2 ^ 16 + s.issue.rpl % 1024

/-- What XRD reads (R67, R159), in the state at the start of the group. -/
def sysRead (s : State) (c x : Nat) (r : SysReg) : Word :=
  let k := getCore s c
  let t := k.get x
  match r with
  | .xstatus => BitVec.ofNat 64 (xstatusVal s c x)
  | .xcause => BitVec.ofNat 64 t.xcause
  | .xepc => t.xepc
  | .xtval => t.xtval
  | .xport => t.xport
  | .xelem => t.xelem
  | .xctx => BitVec.ofNat 64 (xctxVal t x)
  | .xcore => BitVec.ofNat 64 (xcoreVal s c)
  | .xgscope => BitVec.ofNat 64 t.gsc
  | .xcycle => BitVec.ofNat 64 s.ck
  | .xseg => BitVec.ofNat 64 t.seg
  | .xlat => BitVec.ofNat 64 t.ilk.toNat
  | .xfwdo => t.xfwdo
  | .xfwdn => t.xfwdn
  | .xfwdw => t.xfwdw
  | .xlnt => BitVec.ofNat 64 (xlntVal k x)
  | .xrpl => BitVec.ofNat 64 (xrplVal s t)
  | .xscope n => BitVec.ofNat 64 (scopeWord s (if n = 7 then t.gsc else n.val))

/-- XWR traps with PRIV on a compute context for these registers (R67). -/
def privReg : SysReg → Bool
  | .xfwdo | .xfwdn | .xfwdw | .xscope _ => true
  | _ => false

/-! ## Words of the tables (R158) -/

/-- The number of words in a table, as a supervisor core sees it (R22, R358, R374, R375, R384, R386, R393, R412,
R416; log 8 for table 5). -/
def tableWords (c tbl : Nat) : Nat :=
  match tbl with
  | 0 => 65 * 1024
  | 1 => 4100
  | 2 => 1024
  | 3 => 256
  | 4 => if dieOf c % 2 = 0 then 2048 else 2044
  | 5 => 16
  | 6 => 262144
  | 7 => Config.kernelWords
  | _ => 9

/-- Levels of the ready pool that hold a Ready node, and how many (R374). -/
def readyCount (s : State) (lv : Nat) : Nat := (s.nodes.filter fun n => n.st == .ready && n.level == lv).length

/-- STATE of a node word (R375). -/
def NodeSt.code : NodeSt → Nat
  | .waiting => 1 | .ready => 2 | .running => 3 | .suspended => 4 | .done => 5

/-- A node word (R375). -/
def nodeWord (n : Node) : Nat :=
  n.gid * 2 ^ 32 + n.id * 2 ^ 16 + n.status * 2 ^ 8 + n.level * 2 ^ 3 + n.st.code

/-- Nodes accepted and not completed (R374). -/
def liveNodes (s : State) : Nat := (s.nodes.filter fun n => n.st != .done).length

/-- A word of the ready pool (R374). -/
def poolWord (s : State) (i : Nat) : Nat :=
  if i = 0 then
    liveNodes s * 2 ^ 32 + bits (tabGet s 5 0 0) 16 16 * 2 ^ 16
      + ((List.range 8).map fun l => if readyCount s l = 0 then 0 else 2 ^ l).sum
  else if 8 ≤ i then
    readyCount s (i - 8) * 2 ^ 32 + (tabGet s 5 0 i ^^^ 0x100000)
  else 0

/-- AGE_L (R374): kept relative to its reset value. -/
def ageOf (s : State) (lv : Nat) : Nat := bits (poolWord s (8 + lv)) 31 0

/-- The slot of the barrier file that an index of table 4 names (R393). -/
def slotIndex (c i : Nat) : Nat := dieOf c % 2 * 512 + i / 4

/-- A word of a table, as the supervisor core `c` reads it (R158); SHOOT and WAKE, which are write only, read 0 (log 98). -/
def tableRead (s : State) (c tbl i : Nat) : Nat :=
  match tbl with
  | 1 => if i = 4096 ∨ i = 4097 then 0 else tabGet s 1 (chipletOf c) i
  | 4 =>
    let v := getSlot s (chipletOf c) (slotIndex c i)
    match i % 4 with
    | 0 => v.cfg
    | 1 => v.size
    | 2 => v.stateWord
    | _ => v.ringWord
  | 5 => poolWord s i
  | 6 => match s.nodes.find? fun n => n.index == i with
    | some n => nodeWord n
    | none => 0
  | 7 => tabGet s 7 0 i
  | 8 => if i < 7 then scopeWord s i else if i = 7 then scopeWord s 0 % 2 ^ 64 else tabGet s 8 0 8
  | t => tabGet s t (dieOf c) i

/-- A window-table entry is well formed, in all four of its words (R412, R413); the third is a copy address or 0. -/
def windowOk (w0 w1 w2 w3 : Nat) : Bool :=
  let sz := bits w0 31 26
  let kind := bitAt w0 25
  decide (16 ≤ sz ∧ sz ≤ 40) && bits w0 63 32 * 2 ^ 16 % 2 ^ sz == 0 && w3 == 0
    && decide (bits w2 63 62 < 2) && bits w2 61 48 == 0 && (bits w2 63 62 == 0 || bits w2 47 33 == 0)
    && (if kind then !(bitAt w0 24) && bits w1 47 40 == 0
        else !(bitAt w0 23) && bits w1 47 16 * 2 ^ 16 % 2 ^ sz == 0 && bits w1 11 0 == 0)

/-- A word of a core's window table is written, and its entry checked (R413). `die` is the die layer. -/
def writeWindow (s : State) (die i v : Nat) : State :=
  let v := v % 2 ^ 64
  let w := match i % 4 with
    | 0 => setBits v 21 1 0
    | 1 => setBits (setBits v 63 48 0) 15 12 0
    | _ => v
  let s := tabSet s 0 die i w
  let e := i / 4 * 4
  let w0 := tabGet s 0 die e
  if bitAt w0 0 && !(windowOk w0 (tabGet s 0 die (e + 1)) (tabGet s 0 die (e + 2)) (tabGet s 0 die (e + 3))) then
    tabSet s 0 die e (setBits w0 0 0 0)
  else s

/-- OBJ, PAGE and ALL of a SHOOT or WAKE name a page (R420). -/
def namesPage (v obj page : Nat) : Bool :=
  bits v 63 52 == obj && (bitAt v 27 || bits v 51 28 == page)

/-- SHOOT: the translations named leave the chiplet's cache (R420). A unit is translated as it performs, so the copy engines
hold those of units on their way to another package alone; the TBLWR waits for these. -/
def shootDown (s : State) (ch v : Nat) : State :=
  { s with tcache := s.tcache.filter fun e => !(e.1.1 == ch && namesPage v e.1.2.1 e.1.2.2) }

/-- Where a parked chunk waits: the object and the page as one number. -/
def parkId (obj page : Nat) : Nat := obj * 2 ^ 24 + page

/-- A chunk or a request parks: it takes its place among those that wait, and the supervisor that owns the chiplet's table 1
is told of the object and the page; the command is that of its entry in `parks` (R419, R421). -/
def parkAt (s : State) (c x uid id : Nat) : State :=
  { s with parks := s.parks ++ [⟨c, x, uid, id⟩], supIrq := s.supIrq ++ [(2 * chipletOf c, 0x100, id)] }

/-- What has parked still waits: its command or its data-queue entry. -/
def Park.waits (s : State) (p : Park) : Bool :=
  let t := getCtx s p.core p.ctx
  (t.cmds.any fun m => m.uid == p.uid && m.parkedAt == some p.id) || t.dq.any fun d => d.uid == p.uid && d.parked

/-- The page of a paged object has an entry that says it is not present (R419). -/
def pageAbsent (s : State) (ch obj page : Nat) : Bool :=
  match readPte s ch obj page with
  | some pte => !(bitAt pte 0)
  | none => false

/-- What has parked translates again, and parks again where the page is still not present (R421). -/
def wakePark (s : State) (p : Park) : State :=
  if !(p.waits s) then s
  else if pageAbsent s (chipletOf p.core) (p.id / 2 ^ 24) (p.id % 2 ^ 24) = true then parkAt s p.core p.ctx p.uid p.id
  else modCtx s p.core p.ctx fun t =>
    { t with
      cmds := t.cmds.map fun m => if m.uid = p.uid then { m with parkedAt := none } else m
      dq := t.dq.map fun d => if d.uid = p.uid then { d with parked := false } else d }

/-- WAKE: the chunks parked on the pages named translate again, in the order in which they parked, by the page table as it
stands (R417, R421). -/
def wakeChunks (s : State) (ch v : Nat) : State :=
  let named (p : Park) : Bool := chipletOf p.core == ch && namesPage v (p.id / 2 ^ 24) (p.id % 2 ^ 24)
  (s.parks.filter named).foldl wakePark
    { shootDown s ch v with parks := s.parks.filter fun p => !(named p) }

/-- A word of a table is written by the supervisor core `c` (R158). -/
def tableWrite (s : State) (c tbl i v : Nat) : State :=
  let v := v % 2 ^ 64
  match tbl with
  | 0 => writeWindow s (dieOf c) i v
  | 1 =>
    let ch := chipletOf c
    if i = 4096 then shootDown s ch v
    else if i = 4097 then wakeChunks s ch v
    else if i = 4098 then tabSet s 1 ch i (bits v 63 40 * 2 ^ 40 + bits v 39 3 * 8)
    else if i = 4099 then tabSet s 1 ch i (bits v 39 3 * 8)
    else tabSet s 1 ch i (setBits v 2 1 0)
  | 2 =>
    if i % 2 = 0 then
      tabSet s 2 (dieOf c) i (bits v 63 48 * 2 ^ 48 + bits v 44 33 * 2 ^ 33 + bits v 29 23 * 2 ^ 23 + bits v 0 0)
    else tabSet s 2 (dieOf c) i (bits v 32 12 * 2 ^ 12)
  | 3 => tabSet s 3 (dieOf c) i (bits v 63 48 * 2 ^ 48 + bits v 44 29 * 2 ^ 29 + bits v 0 0)
  | 4 =>
    let b := slotIndex c i
    match i % 4 with
    | 0 => writeCfg s (chipletOf c) b v
    | 1 => writeSize s (chipletOf c) b v
    | 2 => writeStateWord s (chipletOf c) b v
    | _ => s
  | 5 =>
    if i = 0 then tabSet s 5 0 0 (bits v 16 16 * 2 ^ 16)
    else if 8 ≤ i then tabSet s 5 0 i (bits v 31 0 ^^^ 0x100000)
    else s
  | 6 => s
  | 7 => tabSet s 7 0 i (setBits v 7 3 0)
  | _ => if i = 6 then writeScope6 s v else if i = 8 then writePkg s v else s

/-- The traps of TBLRD and TBLWR at an index (R22, R158, R416; log 8, and log 93 for table 7). xtval of PRIV is not stated: a free value (log 3). -/
def tableTraps (s : State) (c tbl i : Nat) (write : Bool) : List Trap :=
  if !(isSup c) then [⟨1, causePRIV, openVal s⟩]
  else if write && ((tbl == 1 && dieOf c % 2 == 1) || (decide (5 ≤ tbl ∧ tbl ≠ 7) && c != primary)) then [⟨1, causePRIV, openVal s⟩]
  else if tableWords c tbl ≤ i then [⟨4, causeRESERVED, i⟩]
  else []

end Sys2Proof.Machine
end

