-- ==== Sys2Proof/Machine/CopyUnits.lean ====
section
/-!
DEFINITION. Copy commands after issue: the units they perform in, the order of units, the places units name, streams
through ports, credits, and the events that end a command (spec 02 R56 to R59; 06 R179 to R188; 08 R240, R244, R251,
R252, R271; 10 R304 to R308; 17 R403; 19 R415, R428).
-/
namespace Sys2Proof.Machine

/-! ## Addresses and units -/

/-- A copy address in vault space (R179). -/
def isVaultAddr (a : Nat) : Bool := bits a 63 62 == 1

/-- A copy address plus an offset: the carry never reaches SPACE (R180). -/
def addrPlus (a : Nat) (o : Int) : Nat :=
  if isVaultAddr a then 2 ^ 62 + wrapN ((bits a 32 0 : Nat) + o) 33 else wrapN ((bits a 47 0 : Nat) + o) 48

/-- Bytes of the aligned block that performs as one unit: 8 in vault space, 32 in device space, where a block that turns out
to be host-backed is cut into words of 8 as it performs (R304; log 10). -/
def blockSize (a : Nat) : Nat := if isVaultAddr a then 8 else 32

/-- A piece cut at the boundaries of blocks of `b` bytes; `fuel` bounds the parts. -/
def cutPiece (b : Nat) : Nat → Piece → List Piece
  | 0, _ => []
  | fuel + 1, p =>
    let room := b - p.addr % b
    if p.n = 0 then []
    else if p.n ≤ room then [p]
    else ⟨p.addr, room, p.off⟩ :: cutPiece b fuel ⟨addrPlus p.addr room, p.n - room, p.off + room⟩

/-- A piece added to the unit of its block of `b` bytes. -/
def addPiece (b chunk : Nat) (us : List CUnit) (p : Piece) : List CUnit :=
  let a := p.addr / b * b
  if us.any fun u => u.addr == a then
    us.map fun u => if u.addr = a then { u with pieces := u.pieces ++ [p] } else u
  else us ++ [⟨chunk, a, [p]⟩]

/-- The units of a chunk (R304). -/
def unitsOf (chunk : Nat) (ps : List Piece) : List CUnit :=
  (ps.flatMap fun p => (cutPiece (blockSize p.addr) (p.n / 8 + 2) p).map fun q => (blockSize p.addr, q)).foldl
    (fun us q => addPiece q.1 chunk us q.2) []

/-- A unit as aligned words of 8 bytes, the units of host-backed memory (R304). -/
def CUnit.words (u : CUnit) : List CUnit :=
  (u.pieces.flatMap (cutPiece 8 6)).foldl (addPiece 8 u.chunk) []

/-- The addresses of the first `n` iterations of a nest (R71, R180). -/
def nestAddrs (base : Nat) (ws : List Nat) (n : Nat) : List Nat :=
  (List.range n).map fun k => addrPlus base (offset ws k)

/-! ## Commands of a context -/

/-- A command replaced, by its number. -/
def putCmd (s : State) (c x : Nat) (m : Cmd) : State :=
  modCtx s c x fun t => { t with cmds := t.cmds.map fun q => if q.uid = m.uid then m else q }

/-- A command leaves the queue. -/
def dropCmd (s : State) (c x uid : Nat) : State :=
  modCtx s c x fun t => { t with cmds := t.cmds.filter fun q => q.uid != uid }

/-! ## Stopping the Lantern (R283, R284) -/

/-- The Lantern gives the core's engines back (R283 step 3). -/
def lanternRelease (s : State) (c : Nat) (endCode cause : Nat) : State :=
  modCore s c fun k =>
    { k with
      owner := if k.owner = .lantern then .none else k.owner
      lantern := { k.lantern with phase := .idle, endCode := endCode, cause := cause } }

/-- The command belongs to the sequence that runs. -/
def lanternLive (k : Core) (x : Nat) (m : Cmd) : Bool :=
  k.lantern.phase != .idle && k.lantern.phase != .starting && k.lantern.owner == x && decide (k.lantern.first ≤ m.uid)

/-- The command is a GLIM, whose signatures its word takes from the queue (R291). -/
def Cmd.isGlim (m : Cmd) : Bool := match m.kind with | .glim .. => true | _ => false

/-- A GLIM that has read every signature leaves the queue as its sequence stops: its word does not end (R284). -/
def dropGlim (s : State) (c x : Nat) : State :=
  modCtx s c x fun t => { t with cmds := t.cmds.filter fun m => !(m.isGlim && m.ended && m.units.isEmpty) }

/-- A sequence is stopped: the cause goes to the starting context (R284). -/
def lanternStop (s : State) (c cause tval : Nat) : State :=
  let l := (getCore s c).lantern
  if l.phase = .idle then s
  else report (dropGlim (lanternRelease s c 2 cause) c l.owner) c l.owner ⟨cause, l.epc, tval, none, none⟩

/-! ## Places (R415, R439, R440) -/

/-- What a unit finds at its address. -/
inductive Spot where
  /-- the key, whether its page is shared, the object and page, whether CRC32C checks it -/
  | at_ (key : Nat) (shared : Bool) (obj page : Nat) (crc : Bool)
  | miss
  | range
  | park (id : Nat)
  /-- a failed link: the port, or 0xFF -/
  | link (port : Nat)
  /-- host memory that no window reaches (R445) -/
  | unreached (key : Nat)
  /-- the spec says there is no such address -/
  | hole (key : Nat)
deriving DecidableEq, Repr

/-- The lowest port in Up or Degraded whose peer is package `p` (R440). -/
def portTo (s : State) (p : Nat) : Option Nat :=
  (List.range 16).find? fun i =>
    let q := alGet Port.reset s.ports i
    (q.state == 2 || q.state == 3) && q.peer == p

/-- A port still carries what has been sent on it: Up, Degraded or Draining (R435, R440). -/
def linkAlive (s : State) (p : Nat) : Bool :=
  let st := (alGet Port.reset s.ports p).state
  st == 2 || st == 3 || st == 4

/-- `n` bytes of host memory from a key on are reached: the PCIe link is up, and their window is set and long enough
(R445). -/
def hostReached (s : State) (k n : Nat) : Bool :=
  s.pciUp && s.windows.any fun w => w.1 == bits k 38 36 && decide (bits k 35 0 + n ≤ w.2.2)

/-- A key of host memory (R439). -/
def isHost (k : Nat) : Bool := decide (k < 2 ^ 48) && bits k 47 47 == 1 && bits k 39 39 == 0

/-- What an access of `n` bytes at a key finds, whose translation gave the object and page (R439, R440, R445). -/
def spotOf (s : State) (k n : Nat) (obj page : Option Nat) (shared crc : Bool) : Spot :=
  if !(keyExists k) then .hole k
  else if isHost k && !(hostReached s k n) then .unreached k
  else if isAperture k && (!s.inPod || bits k 38 33 == pkgIndex s || (portTo s (bits k 38 33)).isNone) then .link 0xFF
  else .at_ k shared (obj.getD 0) (page.getD 0) (crc && isHost k)

/-- The place of a copy address, for `n` bytes (R415, R439). -/
def placeOf (s : State) (c x a : Nat) (n : Nat := 1) : Spot :=
  if isVaultAddr a then
    match vaultPlace s c x (bits a 32 0) 1 with
    | some p => .at_ (vaultKey p) false 0 0 false
    | none => .range
  else match translate s c x (bits a 47 0) with
    | .miss => .miss
    | .park obj page => .park (parkId obj page)
    | .ok k obj page sh crc => spotOf s k n obj page sh crc

/-- The place of a unit's block; what keeps one of its pieces keeps the unit (R445). -/
def placeUnit (s : State) (c x : Nat) (u : CUnit) : Spot :=
  match placeOf s c x u.addr with
  | .at_ k sh obj page crc =>
    if isHost k && u.pieces.any fun p => !(hostReached s (k + (p.addr - u.addr)) p.n) then .unreached k
    else .at_ k sh obj page crc
  | q => q

/-- The home unit an address names, none where it has no place now (R302). -/
def homeAt (s : State) (c x a : Nat) : Option (Nat × Nat) := (keyAt s c x a).map homeOf

/-- The home unit that an address of a command names, by the grants of its issue (R385). -/
def Cmd.home (m : Cmd) (s : State) (c x a : Nat) : Option (Nat × Nat) := homeAt (m.view s) c x a

/-- Two homes may be one: an address with no place now may turn out anywhere (R188; log 10). -/
def mayMeet (a b : Option (Nat × Nat)) : Bool :=
  match a, b with
  | some x, some y => x == y
  | _, _ => true

/-! ## Order of units (R187, R307, R308) -/

/-- The operation is ordered only by NMFENCE after issue (R307). -/
def Cmd.isNmc (m : Cmd) : Bool :=
  match m.kind with
  | .bundle (.nmcSgdfade ..) | .bundle (.nmcFill ..) | .bundle (.nmcCopy ..) | .bundle (.nmcScale ..)
  | .bundle (.nmcAccum ..) => true
  | _ => false

/-- An earlier access of the context may meet a home: copy commands and address-queue reads issued before number `uid`, and
scalar accesses issued before number `start` (R307, R308, R322). -/
def earlierMeets (s : State) (c x uid : Nat) (h : Option (Nat × Nat)) (start : Nat := uid) : Bool :=
  let t := getCtx s c x
  (t.cmds.any fun m => decide (m.uid < uid) && !(m.isNmc) && m.reach.any fun a => mayMeet (m.home s c x a) h)
    || (t.aq.any fun r => decide (r.uid < uid) && mayMeet (homeAt s c x r.addr) h)
    || (t.dq.any fun d => decide (d.uid < uid) && !d.arrived && mayMeet (homeAt s c x d.addr) h)
    || (t.far.any fun f => decide (f.uid < start) && mayMeet (some (homeOf f.addr)) h)

/-! ## The bytes of units, and errors beneath them (R188, R428, R453) -/

/-- The bytes a unit writes, at their keys: `key` is that of the unit's block. -/
def unitWrites (m : Cmd) (u : CUnit) (key : Nat) : List (Nat × List Byte) :=
  u.pieces.map fun p => (key + (p.addr - u.addr), ((alGet [] m.got (u.chunk - 1)).drop p.off).take p.n)

/-- Every byte of a range is among the writes. -/
def covers (ws : List (Nat × List Byte)) (a n : Nat) : Bool :=
  (List.range n).all fun i => ws.any fun w => decide (w.1 ≤ a + i ∧ a + i < w.1 + w.2.length)

/-- A write would leave an uncorrectable error beneath part of a unit of memory (R428, R453). -/
def partialBad (s : State) (ws : List (Nat × List Byte)) : Bool :=
  s.poison.any fun u =>
    (ws.any fun w => decide (u < w.1 + w.2.length ∧ w.1 < u + unitSize u)) && !(covers ws u (unitSize u))

/-- The unit reads memory: one of a load, or an indirect constant. -/
def Cmd.readsUnit (m : Cmd) (u : CUnit) : Bool := m.form.load && decide (u.chunk ≤ m.chunks) || u.chunk == 0

/-- The update of a TRED: whether it takes the maximum, and whether its format is INT32 (R204). -/
def CmdKind.reduces : CmdKind → Option (Bool × Bool)
  | .bundle (.tredAdd _ _ _ _ _ _ _ _ _ _ i) => some (false, i)
  | .bundle (.tredMax _ _ _ _ _ _ _ _ _ _ i) => some (true, i)
  | _ => none

/-- An uncorrectable error keeps a unit from performing: beneath what it reads, or beneath part of a unit of memory that it
writes (R188, R428, R453). -/
def unitBad (s : State) (m : Cmd) (u : CUnit) (key : Nat) : Bool :=
  if m.readsUnit u || decide (m.chunks < u.chunk) || m.kind.reduces.isSome then
    u.pieces.any fun p => poisoned s (key + (p.addr - u.addr)) p.n
  else partialBad s (unitWrites m u key)

/-- A unit would end its command now (R188). -/
def unitFails (s : State) (c x : Nat) (m : Cmd) (u : CUnit) : Bool :=
  match placeUnit (m.view s) c x u with
  | .miss | .range | .link _ | .unreached _ => true
  | .at_ k _ _ _ _ => unitBad s m u k
  | .park _ | .hole _ => false

/-- A unit would end its command now in a CRC32C failure (R188). -/
def crcBad (s : State) (c x : Nat) (m : Cmd) (u : CUnit) : Bool :=
  match placeUnit (m.view s) c x u with
  | .at_ _ _ _ _ crc => crc && Config.crcFails s.freeCtr
  | _ => false

/-- A unit would fail or park now: a later chunk is held while an earlier one may (R188). -/
def wouldFail (s : State) (c x : Nat) (m : Cmd) (u : CUnit) : Bool :=
  unitFails s c x m u || (match placeUnit (m.view s) c x u with | .park _ | .hole _ => true | _ => false)

/-- The command's chunks are blocks, not rows (R187, R203). -/
def CmdKind.isTldc : CmdKind → Bool
  | .bundle (.tldc ..) => true
  | _ => false

/-- The command is an IMGDEC (R190). -/
def Cmd.isImg (m : Cmd) : Bool := match m.kind with | .bundle (.imgdec ..) => true | _ => false

/-- A command's turn at the image engine of its chiplet has come (R190); its record follows every patch byte (R187). -/
def imageTurn (s : State) (c x : Nat) (m : Cmd) (u : CUnit) : Bool :=
  (match (alGet [] s.imgq (chipletOf c)).head? with
    | some q => q.node.isNone && q.core == c && q.ctx == x && q.uid == m.uid
    | none => false)
    && (u.chunk != 2 || m.units.all fun v => v.chunk != 1)

/-- The command runs to its end while its context is frozen (R333): NMC, LSEND, LRECV and IMGDEC. -/
def Cmd.runsOn (m : Cmd) : Bool :=
  m.isNmc || (match m.kind with
    | .bundle (.lsend ..) | .bundle (.lrecv ..) | .bundle (.imgdec ..) => true
    | _ => false)

/-- The context stands captured: its save image has been taken (R333). -/
def isCaptured (s : State) (c x : Nat) : Bool :=
  let t := getCtx s c x
  !(isSup c) && (t.st == .freezing || t.st == .frozen || t.st == .resuming) &&
    (groupOf s t.group).any fun g => g.saved.any fun v => v.rank == t.rank

/-- The command has claimed the ring space of a chunk, where it needs any (R403). -/
def Cmd.mayWrite (s : State) (c : Nat) (m : Cmd) (k : Nat) : Bool :=
  match m.bar with
  | none => true
  | some b =>
    let v := getSlot s (chipletOf c) b
    !(v.on && v.ring) || decide (k < m.claimed)

/-- The turn of unit `i` of a command at its own home has come (R187, R240, R271, R307, R308): indirect constants go before
every other chunk, AMAXW words in word order, and a chunk that ends the command after every chunk before it has passed the
port (R188). -/
def turnHere (s : State) (c x : Nat) (m : Cmd) (i : Nat) : Bool :=
  match m.units[i]? with
  | none => false
  | some u =>
    let h := m.home s c x u.addr
    let earlier := (m.units.take i).filter fun v => v.chunk != u.chunk
    m.parkedAt.isNone
      && (u.chunk == 0 || (m.form.p.isNone || m.started) && m.units.all fun v => v.chunk != 0)
      && !(earlier.any fun v => mayMeet (m.home s c x v.addr) h || wouldFail s c x m v)
      && !(decide (m.chunks < u.chunk) && earlier.any fun v => decide (m.chunks < v.chunk))
      && !(earlierMeets s c x m.uid h m.start)
      && (!(m.form.load && decide (0 < u.chunk ∧ u.chunk ≤ m.chunks) && !m.isImg
          && (unitFails s c x m u || crcBad s c x m u))
        || m.ported + 1 == u.chunk)
      && (!m.isImg || imageTurn s c x m u)

/-- A unit of the chunk of a store would fail at its home, where its turn has not come: whether the chunk writes is not
known before it has (R188, R428). -/
def siblingOpen (s : State) (c x : Nat) (m : Cmd) (u : CUnit) : Bool :=
  !(m.readsUnit u) && m.units.zipIdx.any fun p =>
    p.1.chunk == u.chunk && unitFails s c x m p.1 && !(turnHere s c x m p.2)

/-- The turn of unit `i` of a command has come, but for ring space. -/
def unitTurn (s : State) (c x : Nat) (m : Cmd) (i : Nat) : Bool :=
  turnHere s c x m i && !((m.units[i]?).any (siblingOpen s c x m))

/-- Unit `i` of a command may perform: its turn has come, and its chunk has the ring space it needs (R403). -/
def unitReady (s : State) (c x : Nat) (m : Cmd) (i : Nat) : Bool :=
  unitTurn s c x m i && (match m.units[i]? with
    | none => false
    | some u => u.chunk == 0 || m.kind.isTldc || decide (m.chunks < u.chunk)
        || m.mayWrite s c (if m.isImg then 0 else u.chunk - 1))

/-! ## Credits and completion -/

/-- Credit bytes to a command's barrier (R187, R400). -/
def creditCmd (s : State) (c : Nat) (m : Cmd) (n : Nat) : State := creditSlot s (chipletOf c) m.bar n false

/-- The credit of a chunk of a store may be counted: no unit of the chunk is left, its ring space is claimed, and it is not
the last credit of a command whose AMAXW words have still to perform (R187, R271, R403). -/
def Cmd.mayCredit (s : State) (c : Nat) (m : Cmd) (q : Nat × Nat) : Bool :=
  !(m.units.any fun u => u.chunk == q.1 + 1) && m.mayWrite s c q.1
    && (m.folded || m.form.p.isNone || m.credit.any fun r => r.1 != q.1 && decide (0 < r.2))

/-- The credits that may be counted are; `fuel` bounds them (R187). -/
def flushCredits (c : Nat) : Nat → State × Cmd → State × Cmd
  | 0, p => p
  | fuel + 1, (s, m) =>
    match m.credit.find? (m.mayCredit s c) with
    | none => (s, m)
    | some q => flushCredits c fuel (creditCmd s c m q.2, { m with credit := m.credit.filter fun r => r.1 != q.1 })

/-! ## Ports of a copy command (R240, R244, R249, R251) -/

/-- The command's turn at its slot has come (R244). -/
def slotTurn (k : Core) (seq slot : Nat) : Bool :=
  match (k.serving.filter fun v => v.slot == slot && v.active k).head? with
  | some v => v.seq == seq
  | none => false

/-- The turn of a copy at the exponent engine has come, where its slot needs the engine: it is free, and no copy that issued
earlier waits for it (R244, R249). -/
def expTurn (k : Core) (seq slot : Nat) : Bool :=
  !(k.port slot).special || (!k.lanternOn && !(k.serving.any fun v => v.seq != seq &&
    (v.onExp k || (v.until_.isNone && v.special && decide (v.seq < seq) && !v.left))))

/-- The service of a command at its slot, changed. -/
def modServe (s : State) (c slot seq : Nat) (f : Serve → Serve) : State :=
  modCore s c fun k => { k with serving := k.serving.map fun v => if v.slot = slot ∧ v.seq = seq then f v else v }

/-- A constant that names memory is malformed (R251 KIND 3). -/
def badConst (s : State) (c x a : Nat) : Bool :=
  decide (1 < bits a 63 62) || bits a 61 48 != 0 || a % 4 != 0
    || (isVaultAddr a && (bits a 47 33 != 0 || (vaultPlace s c x (bits a 32 0) 4).isNone))

/-- The AMAXW words of a slot: the word's index, the carried register and the address (R271). -/
def amaxWords (d : PortSlot) (consts : List Nat) : List (Nat × Nat) :=
  d.prog.filterMap fun p =>
    match p.op, p.a, p.b with
    | .amaxw, .c n, .e m => some (n.val, consts.getD m.val 0)
    | _, _, _ => none

/-- An address that no place can be given for: one that is not known yet. -/
def unknownAddr : Nat := 2 ^ 63

/-- What a command that binds a slot has still to reach apart from its chunks: its indirect constants and its AMAXW words, as
far as their addresses are known (R240, R271). -/
def slotLater (d : PortSlot) : List Nat :=
  ((List.range 4).filter d.cm).map d.e
    ++ d.prog.filterMap fun p =>
      match p.op, p.b with
      | .amaxw, .e m => some (if d.cm m.val then unknownAddr else d.e m.val)
      | _, _ => none

/-- A constant or an AMAXW address of a slot is malformed (R251). -/
def slotMalformed (s : State) (c x : Nat) (d : PortSlot) : Bool :=
  ((List.range 4).any fun n => d.cm n && badConst s c x (d.e n))
    || (amaxWords d d.consts).any fun p => badConst s c x p.2

/-- xport of a copy command's fault (R253). -/
def copyXport (m : Cmd) (kind word : Nat) : Nat :=
  xportVal 10 kind word ((m.form.p.map (·.val)).getD 0) (if m.form.ps then 2 else 0)

/-- The command gives its slot back (R244), with the flags of summing its open group (R250); a stream that never started
leaves the slot as it was. -/
def freeSlot (s : State) (c x : Nat) (m : Cmd) : State :=
  match m.form.p with
  | none => s
  | some n =>
    let k := getCore s c
    match (k.serving.find? fun v => v.slot == n.val && v.seq == m.seq).bind (·.run) with
    | some r => foldAt (setCore s c (k.endServe n.val m.seq r)) c x s.ck r.endFlags
    | none => setCore s c { k with serving := k.serving.filter fun v => !(v.slot == n.val && v.seq == m.seq) }

/-- A command stops at chunk `k`: that chunk and every later one perform nothing; the earlier ones run on (R188, R252). -/
def Cmd.stopAt (m : Cmd) (k : Nat) : Cmd :=
  { m with
    units := m.units.filter fun u => decide (u.chunk ≤ k ∧ u.chunk ≠ 0)
    pos := []
    later := []
    sent := m.sent.filter fun q => decide (q.chunk ≤ k ∧ q.chunk ≠ 0)
    credit := m.credit.filter fun p => decide (p.1 < k)
    chunks := if m.form.load then min k m.chunks else m.ported
    stopped := true
    started := m.started || k == 0 || !m.form.load
    parkedAt := none }

/-- A command of the Lantern fails at chunk `k`: its sequence stops; one whose sequence has stopped reports like any other
(R189, R284). -/
def lanternFail (s : State) (c x : Nat) (m : Cmd) (cause k : Nat) : State :=
  if lanternLive (getCore s c) x m then lanternStop s c cause k else report s c x ⟨cause, m.addr, k, none, none⟩

/-- A command fails with a cause at chunk `k`: the report goes to its context, or stops the Lantern's sequence (R188,
R284). `tval` is xtval for a command that is not the Lantern's. -/
def failCmd (s : State) (c x : Nat) (m : Cmd) (k cause tval : Nat) : State × Cmd :=
  let m := m.stopAt k
  if m.kind.isLantern then (lanternFail s c x m cause k, m)
  else (report s c x ⟨cause, m.addr, tval, none, none⟩, m)

/-- The elements that a TST holds of chunks that have passed fill a last unit as its stream ends at a fault: its place and
its bytes go with the chunk before, or are a chunk of their own where that one has claimed its ring space (R184, R252,
R403). -/
def Cmd.endStore (m : Cmd) (pos : List Nat) : Cmd :=
  match m.kind, pos with
  | .bundle (.tst ..), a :: _ =>
    let k := m.ported - 1
    let b := alGet [] m.got k
    let bs := leBytes m.form.u (packElems m.form.outF.width m.outs)
    if m.outs.isEmpty || m.ported == 0 then m
    else if k < m.claimed then
      { m with
        units := m.units ++ unitsOf (m.ported + 1) [⟨a, m.form.u, 0⟩]
        got := alSet m.got m.ported bs
        outs := []
        credit := m.credit ++ [(m.ported, m.form.u)]
        ported := m.ported + 1
        chunks := m.ported + 1 }
    else
      { m with
        units := m.units ++ unitsOf m.ported [⟨a, m.form.u, b.length⟩]
        got := alSet m.got k (b ++ bs)
        outs := []
        credit := alSet m.credit k (alGet 0 m.credit k + m.form.u) }
  | _, _ => m

/-- A port fault stops a copy at an element of chunk `m.ported` (R252): the elements before it have left the port, `outs`
with their flags; a destination row that they fill is written, and the chunk of a store writes nothing. -/
def failPort (s : State) (c x : Nat) (m : Cmd) (kind word elem : Nat) (outs : List Nat) (fl : Flags) : State × Cmd :=
  let m' := (m.stopAt m.ported).endStore m.pos
  (report (foldAt s c x s.ck fl) c x ⟨causePORT, m.addr, elem, some (copyXport m kind word), some elem⟩,
    if m.form.load then { m' with outs := m.outs ++ outs, emitted := m.emitted + outs.length } else m')

/-- The stream of a command starts: constants that are indirect are read first (R240, R244). -/
def startStream (s : State) (c x : Nat) (m : Cmd) : State × Cmd :=
  if m.started then (s, m)
  else match m.form.p with
    | none => (s, { m with started := true })
    | some n =>
      let k := getCore s c
      let d := k.port n.val
      if !(slotTurn k m.seq n.val) then (s, m)
      else if m.consts.isEmpty then
        if slotMalformed (m.view s) c x d then failPort s c x m 3 0 0 [] 0
        else
          let ind := (List.range 4).filter d.cm
          (s, { m with
            consts := d.consts
            units := (ind.flatMap fun i => unitsOf 0 [⟨d.e i, 4, 4 * i⟩]) ++ m.units })
      else if m.units.any fun u => u.chunk == 0 then (s, m)
      else
        (modServe s c n.val m.seq fun v => { v with run := some (PRun.start d m.consts) },
         { m with started := true, later := (amaxWords d m.consts).map (·.2) })

/-- Outputs of a stream as emitted codes: those that are kept take the emit format at their emission index (R183, R246). -/
def emitAll (f : Fmt) (rm : Rm) (u : Nat → Nat) : Nat → List (Option Nat × Flags) → List (Option Nat) × Flags
  | _, [] => ([], 0)
  | j, (none, fl) :: os =>
    let r := emitAll f rm u j os
    (none :: r.1, fl ||| r.2)
  | j, (some v, fl) :: os =>
    let e := emitCode f rm (if rm = .sr then u j else 0) v
    let r := emitAll f rm u (j + 1) os
    (some e.1 :: r.1, fl ||| e.2 ||| r.2)

/-- Elements of a command through its port (R184, R245, R246). `u` gives bits 63..48 of X() for a stream position. -/
def throughPort (s : State) (c x : Nat) (m : Cmd) (u : Nat → Nat) (codes : List Nat) :
    List (Option Nat) × Flags × Option (PFault × Nat) × State :=
  match m.form.p with
  | none => (codes.map some, 0, none, s)
  | some n =>
    let k := getCore s c
    let d := k.port n.val
    let r := k.runOf n.val m.seq
    let sr := d.prog.any fun p => p.op.uses.2.2.2.2.1 && p.rm == .sr
    let st := runStream d.prog m.consts (k.get x).flags (fun i => if sr then u i else 0) r (codes.map (recvPattern m.form.inF))
    let e := emitAll m.form.outF m.form.rm u m.emitted st.outs
    (e.1, e.2, st.fault.map fun f => (f, r.next + st.outs.length), setCore s c (k.setRun n.val m.seq st.run))

/-! ## Described streams (R56 to R59) -/

/-- The values of a zero-run payload: INT8 codes (R58). -/
def zeroRun : List Byte → List Nat
  | [] => []
  | [b] => if b = 0 then [] else [b.toNat]
  | b :: c :: rest =>
    if b = 0 then (if c = 0 then [] else List.replicate c.toNat 0 ++ zeroRun rest)
    else b.toNat :: zeroRun (c :: rest)

/-- The value times 2^(SCALE - 127) (R57). -/
def scaleVal (scale : Nat) : Val → Val
  | .fin n m e => .fin n m (e + ((scale : Int) - 127))
  | v => v

/-- Element count, width and the padding check of a block's FMT (R57). -/
def blockShape (f : Fmt) (bs : List Byte) : Nat × Bool :=
  match f.width with
  | 8 => (62, true)
  | 4 => (124, true)
  | 6 => (82, decide ((bs.getD 63 0).toNat / 16 = 0))
  | 16 => (31, true)
  | _ => (15, (bs.getD 62 0) == 0 && (bs.getD 63 0) == 0)

/-- The expansion ratio that XR names (R203). -/
def ratioOf (xr : Nat) : Nat := [1, 2, 3, 4, 6, 8].getD xr 1

/-- The elements of a block in the tile-side format, with flags; none where the block fails the check of R59. Those of a raw
block are as many as its 62 bytes hold whole. -/
def expandBlock (dst : Fmt) (rm : Rm) (ratio : Nat) (bs : List Byte) : Option (List Nat × Flags) :=
  let scale := (bs.getD 1 0).toNat
  let pay := bs.drop 2
  match Fmt.ofCode (bs.getD 0 0).toNat with
  | none => none
  | some f =>
    if f.isMx then none
    else if (f == .cb4) != (dst == .cb4) then none
    else if scale = 0xFF ∧ f ≠ .raw then none
    else
      let sized (r : List Nat × Flags) : Option (List Nat × Flags) :=
        if ratio * 64 * 8 < r.1.length * dst.width then none else some r
      if f = .raw then sized (elemsOf dst.width (496 / dst.width) (leNat pay), 0)
      else if !(f == .zr8) && !(blockShape f bs).2 then none
      else
        let codes := if f = .zr8 then zeroRun pay else elemsOf f.width (blockShape f bs).1 (leNat pay)
        if dst = .cb4 then sized (codes, 0)
        else
          let src : Fmt := if f = .zr8 then .i8 else f
          let rs := codes.map fun v =>
            dst.convert rm 0 (if dst.isFloat then scaleVal scale (src.value v) else src.value v)
          sized (rs.map (·.1), rs.foldl (fun a r => a ||| r.2) 0)

/-- The bits of a raw block that its whole elements leave over, in a tile of elements of `w` bits (R57). -/
def rawRest (w : Nat) (bs : List Byte) : Nat × Nat :=
  if (bs.getD 0 0) = 0 then (496 % w, leNat (bs.drop 2) / 2 ^ (496 / w * w)) else (0, 0)

/-- The elements of `w` bits that a block adds to a stream whose raw bytes have left bits over, and what is left over then:
raw blocks are copied byte behind byte (R57; log 24). -/
def joinCodes (w : Nat) (carry : Nat × Nat) (codes : List Nat) (rest : Nat × Nat) : List Nat × (Nat × Nat) :=
  if carry.1 = 0 then (codes, rest)
  else
    let n := carry.1 + codes.length * w + rest.1
    let v := carry.2 + 2 ^ carry.1 * (packElems w codes + 2 ^ (codes.length * w) * rest.2)
    (elemsOf w (n / w) v, (n % w, v / 2 ^ (n / w * w)))

/-! ## A chunk through the port -/

/-- The elements of a destination row. -/
def Cmd.rowElems (m : Cmd) : Nat := 1536 / m.form.outF.width

/-- The number of elements of chunk `k` of the stream. -/
def Cmd.chunkElems (m : Cmd) (k : Nat) : Nat := min m.form.per (m.form.total - k * m.form.per)

/-- The bytes that the units of chunk `k` have brought; a byte never read is zero (R205). -/
def Cmd.bytesOf (m : Cmd) (k n : Nat) : List Byte :=
  let b := alGet [] m.got k
  b ++ List.replicate (n - b.length) 0

/-- The source codes of chunk `k` (R202 to R205). -/
def Cmd.codes (m : Cmd) (k : Nat) : List Nat :=
  let n := m.chunkElems k
  if m.form.load then elemsOf m.form.inF.width n (leNat (m.bytesOf k (n * m.form.inF.width / 8)))
  else elemsOf m.form.inF.width n ((m.src.getD k 0).toNat)

/-- The tile row that holds row `r` of a command's range. -/
def writeRow (s : State) (c x : Nat) (m : Cmd) (r : Nat) (v : Row) : State :=
  modCore s c fun k => k.setRow ((k.get x).tbase + m.form.t) (m.form.row + r) v

/-- The memory position of stream element `j` of a TST (R183, R263): seed and linear index. What the record of an address
without a place holds is open (log 72). -/
def positionBits (s : State) (c : Nat) (m : Cmd) (j : Nat) : Nat :=
  let w := m.form.outF.width
  let e := max 1 m.form.epu
  let si := seedIndex s c (addrPlus m.base (offset m.nest (j / e))) w
  srBits si.1 (si.2 + j % e)

/-- A store uses the tensor header records of its window entries: it rounds by `.sr` somewhere (R183, R263). -/
def Cmd.usesRecord (s : State) (c : Nat) (m : Cmd) : Bool :=
  !m.form.load && (m.form.rm == .sr || (match m.form.p with
    | some n => ((getCore s c).port n.val).prog.any fun p => p.op.uses.2.2.2.2.1 && p.rm == .sr
    | none => false))

/-- The tensor header record of an address names a reserved format (R30, R414); one that has no place names none (log 72). -/
def badRecord (s : State) (c a : Nat) : Bool :=
  if isVaultAddr a then false
  else match (windowEntry s c a).bind (recordKey s c) with
    | none => false
    | some key => (Fmt.ofCode (memLe s (key + 8) 1)).isNone

/-- The first stream element of the next chunk whose record names a reserved format (R30). -/
def Cmd.recordFault (s : State) (c : Nat) (m : Cmd) : Option Nat :=
  if m.usesRecord s c then
    ((List.range (m.chunkElems m.ported)).map fun j => m.ported * m.form.per + j).find? fun j =>
      badRecord s c (addrPlus m.base (offset m.nest (j / max 1 m.form.epu)))
  else none

/-- Bytes of a list of codes, packed (R31). -/
def packBytes (w : Nat) (codes : List Nat) : List Byte := leBytes ((codes.length * w + 7) / 8) (packElems w codes)

/-- Chunk `m.ported` of a TST, TSCAT or TRED has passed the port: its units (R184, R200, R202, R204). -/
def placeStore (s : State) (m : Cmd) (outs : List (Option Nat)) : State × Cmd :=
  let k := m.ported
  let m1 := { m with ported := k + 1, emitted := m.emitted + (outs.filter Option.isSome).length }
  let finish (ps : List Piece) (bs : List Byte) (n : Nat) (m : Cmd) : State × Cmd :=
    (s, { m with units := m.units ++ unitsOf (k + 1) ps, got := alSet m.got k bs, credit := m.credit ++ [(k, n)] })
  match m.kind with
  | .bundle (.tscat ..) =>
    let bs := packBytes 32 (outs.filterMap id)
    finish [⟨addrPlus m.base (m.index.getD k 0 * 64), bs.length, 0⟩] bs 192 { m1 with pos := m.pos.drop 3 }
  | .bundle (.tredAdd ..) | .bundle (.tredMax ..) =>
    let b := addrPlus m.base (m.index.getD k 0 * 64)
    let kept := outs.zipIdx.filterMap fun p => p.1.map fun v => (v, p.2)
    finish (kept.zipIdx.map fun p => ⟨addrPlus b (4 * p.1.2 : Nat), 4, 4 * p.2⟩) (packBytes 32 (kept.map (·.1))) 192
      { m1 with pos := m.pos.drop 3 }
  | _ =>
    let all := m.outs ++ outs.filterMap id
    let last := decide (m.chunks ≤ k + 1)
    let e := max 1 m.form.epu
    let n := if last then (all.length + e - 1) / e else all.length / e
    let here := all.take (n * e)
    let bs := packBytes m.form.outF.width (here ++ List.replicate (n * e - here.length) 0)
    finish ((m.pos.take n).zipIdx.map fun p => ⟨p.1, m.form.u, p.2 * m.form.u⟩) bs (n * m.form.u)
      { m1 with outs := all.drop (n * e), pos := m.pos.drop n }

/-- The row of TV or TK that a gathered token row fills: elements from D on are +0 (R292). -/
def gatherRow (d : Nat) (bs : List Byte) : Row := rowOf 16 ((elemsOf 16 96 (leNat bs)).take d)

/-- Chunk `m.ported` has been read, or stands in its tile row: it passes the port. -/
def passChunk (s : State) (c x : Nat) (m : Cmd) : State × Cmd :=
  let k := m.ported
  match m.kind with
  | .glim .. => (s, { m with ported := k + 1, outs := m.outs ++ [leNat (m.bytesOf k 8)] })
  | .kgth _ => (writeRow s c x m k (gatherRow m.form.per (m.bytesOf k 192)), { m with ported := k + 1 })
  | .vgth _ =>
    (writeRow s c x { m with form := { m.form with t := m.form.t + 2 * k / 64 } } (2 * k % 64)
      (gatherRow m.form.per (m.bytesOf k 192)), { m with ported := k + 1 })
  | .sgap _ | .owrt _ => (s, { m with ported := k + 1 })
  | .bundle (.lsend ..) | .bundle (.lrecv ..) | .bundle (.imgdec ..) => (s, { m with ported := k + 1 })
  | .bundle (.tldc _ _ _ _ _ _ _ _ _ rm xr) =>
    (match expandBlock m.form.outF rm (ratioOf xr.val) (m.bytesOf k 64) with
      | none => failBlock s c x m
      | some r =>
        let j := joinCodes m.form.outF.width m.carry r.1 (rawRest m.form.outF.width (m.bytesOf k 64))
        let ends := decide (m.chunks ≤ k + 1 ∧ 0 < j.2.1)
        let codes := if ends then j.1 ++ [j.2.2] else j.1
        let p := throughPort s c x m (fun _ => 0) codes
        match p.2.2.1 with
        | some f => failPort p.2.2.2 c x m f.1.kind f.1.word f.2 (p.1.filterMap id) (r.2 ||| p.2.1)
        | none =>
          let outs := p.1.filterMap id
          let spill := if m.form.p.isNone && !ends && decide (0 < j.2.1) then 1 else 0
          if m.rowElems * (m.form.cnt + 1) < m.emitted + outs.length + spill then failBlock s c x m
          else
            (foldAt p.2.2.2 c x s.ck (r.2 ||| p.2.1),
              { m with
                ported := k + 1, outs := m.outs ++ outs, emitted := m.emitted + outs.length
                elems := m.elems + codes.length, carry := if ends then (0, 0) else j.2 }))
  | .bundle i =>
    match m.recordFault s c with
    | some j => failCmd s c x m k causeRESERVED j
    | none =>
    let p := throughPort s c x m (positionBits s c m) (m.codes k)
    match p.2.2.1 with
    | some f => failPort p.2.2.2 c x m f.1.kind f.1.word f.2 (p.1.filterMap id) p.2.1
    | none =>
      let s := foldAt p.2.2.2 c x s.ck p.2.1
      if m.form.load then
        let outs := p.1.filterMap id
        let pad := match i with
          | .twin .. => List.replicate (m.rowElems - outs.length) 0
          | _ => []
        (s, { m with ported := k + 1, outs := m.outs ++ (outs ++ pad), emitted := m.emitted + outs.length })
      else placeStore s m p.1
where
  /-- A block fails its check (R59, R203): the rows before it stand, a part-filled row is written and not credited. -/
  failBlock (s : State) (c x : Nat) (m : Cmd) : State × Cmd :=
    let r := failCmd s c x m m.ported 0x11 m.ported
    let part := m.outs.drop (m.outs.length / m.rowElems * m.rowElems) ++
      (if m.form.p.isNone && decide (0 < m.carry.1) then [m.carry.2] else [])
    (if part.isEmpty then r.1
      else modCore r.1 c fun k => k.putRow ((k.get x).tbase + m.form.t)
        (m.form.row + m.rows + m.outs.length / m.rowElems) 0 (packBytes m.form.outF.width part), r.2)

/-! ## Rows, AMAXW words, the end -/

/-- The command's destination rows are those of a tile range (R187). -/
def CmdKind.fills : CmdKind → Bool
  | .bundle (.tld ..) | .bundle (.tldc ..) | .bundle (.twin ..) | .bundle (.tgath ..) | .bundle (.tgath2 ..) => true
  | _ => false

/-- One destination row is written and credited, where its elements are there, its ring space is claimed and, for the
last row, the AMAXW words have performed (R184, R187, R271, R403). -/
def oneRow (s : State) (c x : Nat) (m : Cmd) : Option (State × Cmd) :=
  let e := m.rowElems
  let full := decide (e ≤ m.outs.length)
  let atEnd := m.ended && !m.stopped
  if !(m.kind.fills) || decide (m.form.cnt < m.rows) || !(full || atEnd) || !(m.mayWrite s c m.rows)
      || (decide (m.rows = m.form.cnt) && !m.folded) then none
  else
    let s := writeRow s c x m m.rows (rowOf m.form.outF.width (m.outs.take e))
    some (creditCmd s c m 192, { m with rows := m.rows + 1, outs := m.outs.drop e })

/-- Destination rows as far as they go; `fuel` bounds them. -/
def fillRows (c x : Nat) : Nat → State × Cmd → State × Cmd
  | 0, p => p
  | fuel + 1, p =>
    match oneRow p.1 c x p.2 with
    | some q => fillRows c x fuel q
    | none => p

/-- The next element of a stream may enter its slot: the first one waits for the exponent engine where the slot needs it
(R249). -/
def entryTurn (s : State) (c : Nat) (m : Cmd) : Bool :=
  match m.form.p with
  | none => true
  | some n => decide (0 < m.ported) || expTurn (getCore s c) m.seq n.val

/-- The first element of a stream enters its slot, and with it the exponent engine where the slot needs it (R249). -/
def enterStream (s : State) (c : Nat) (m : Cmd) : State :=
  match m.form.p with
  | none => s
  | some n => if m.ported = 0 then modServe s c n.val m.seq fun v => { v with inExp := true } else s

/-- Chunks as far as they have been read; `fuel` bounds them (R244). -/
def passChunks (c x : Nat) : Nat → State × Cmd → State × Cmd
  | 0, p => p
  | fuel + 1, (s, m) =>
    if m.started && decide (m.ported < m.chunks) && !(m.form.load && m.units.any fun u => u.chunk == m.ported + 1)
        && entryTurn s c m then
      passChunks c x fuel (passChunk (enterStream s c m) c x m)
    else (s, m)

/-- The stream has ended, and its last element has left the slot (R249): AMAXW words follow (R271). -/
def endStream (s : State) (c x : Nat) (m : Cmd) : State × Cmd :=
  if m.ended || !m.started || decide (m.ported < m.chunks) then (s, m)
  else
    let m := { m with ended := true, pos := [], later := [] }
    if m.stopped then (freeSlot s c x m, { m with folded := true }) else
    match m.form.p with
    | none => (s, { m with folded := true })
    | some n =>
      let ws := amaxWords ((getCore s c).port n.val) m.consts
      if ws.isEmpty then (freeSlot s c x m, { m with folded := true })
      else (modServe s c n.val m.seq fun v => { v with left := true },
        { m with units := m.units ++ ws.zipIdx.flatMap fun p => unitsOf (m.chunks + 1 + p.2) [⟨p.1.2, 4, 0⟩] })

/-- The AMAXW words have performed: the slot is free (R271). -/
def endFold (s : State) (c x : Nat) (m : Cmd) : State × Cmd :=
  if !m.ended || m.folded || (m.units.any fun u => decide (m.chunks < u.chunk)) then (s, m)
  else (freeSlot s c x m, { m with folded := true })

/-- A command of a tile range, or of the Lantern, is complete. -/
def Cmd.done (m : Cmd) : Bool :=
  m.ended && m.folded && m.units.isEmpty && m.credit.isEmpty
    && (!(m.kind.fills) || decide (m.form.cnt < m.rows) || (m.stopped && decide (m.outs.length < m.rowElems)))

/-- Drive a command as far as it goes without a unit performing. -/
def pump (s : State) (c x : Nat) (m : Cmd) : State × Cmd :=
  let p := startStream s c x m
  let p := startStream p.1 c x p.2
  let p := passChunks c x (p.2.chunks + 1) p
  let p := endStream p.1 c x p.2
  let p := endFold p.1 c x p.2
  flushCredits c (p.2.credit.length + 1) (fillRows c x 65 p)

/-! ## A unit performs -/

/-- Bytes written; units of memory written whole hold no error any more (R428). -/
def storeAll (s : State) (ws : List (Nat × List Byte)) : State :=
  { s with
    mem := ws.foldl (fun m w => writeBytes m w.1 w.2) s.mem
    poison := s.poison.filter fun u => !(covers ws u (unitSize u)) }

/-- A TRED update of one word (R204). -/
def redWord (max i32 : Bool) (old v : Nat) : Nat × Flags :=
  if i32 then
    (if max then (if sx old 32 < sx v 32 then v else old) else (old + v) % 2 ^ 32, 0)
  else if max then fminmax32 true old v else fadd32 old v

/-- The words of a TRED unit, one after the other (R204). -/
def redUnit (s : State) (max i32 : Bool) (ws : List (Nat × List Byte)) : State × Flags :=
  ws.foldl (fun p w =>
    let r := redWord max i32 (memLe p.1 w.1 4) (leNat w.2)
    (storeAll p.1 [(w.1, leBytes 4 r.1)], p.2 ||| r.2)) (s, 0)

/-- Bytes read into a chunk's buffer. -/
def Cmd.take (m : Cmd) (k off : Nat) (bs : List Byte) : Cmd :=
  let b := alGet [] m.got k
  let b := b ++ List.replicate (off + bs.length - b.length) 0
  { m with got := alSet m.got k (b.take off ++ bs ++ b.drop (off + bs.length)) }

/-- The stream index of a chunk's first element: xtval of a command that fails with a cause at chunk `k` (R189). The chunk
writes nothing, so its first element is the first affected (log 18); the elements of a TLDC are those of its blocks, and
every block before the failing one has passed. A command of the Lantern gives the chunk itself. -/
def Cmd.firstElem (m : Cmd) (cause k : Nat) : Nat :=
  match m.kind with
  | .bundle (.tldc ..) => if cause = causeEXPAND then k else m.elems
  | i => if i.isLantern then k else k * m.form.per

/-- Free bytes, for a destination the spec leaves undefined (R188). -/
def freeBytes (s : State) (n : Nat) : List Byte :=
  ((List.range ((n + 191) / 192)).flatMap fun i => Row.toBytes (Config.freeRow (s.freeCtr + i))).take n

/-- A unit of a load has been read, with the multicast stores that land in this ck (R314). -/
def readUnit (s : State) (m : Cmd) (u : CUnit) (key : Nat) : Cmd :=
  let mem := (landedView s).mem
  u.pieces.foldl (fun m p => m.take (u.chunk - 1) p.off (readBytes mem (key + (p.addr - u.addr)) p.n)) m

/-- Tile rows become free (log 3): tiles are counted from the command's, each row with its tile. -/
def freeRows (s : State) (c x : Nat) (m : Cmd) (rows : List (Nat × Nat)) : State :=
  rows.zipIdx.foldl (fun s p =>
    writeRow s c x { m with form := { m.form with t := m.form.t + p.1.1 } } p.1.2 (Config.freeRow (s.freeCtr + p.2)))
    { s with freeCtr := s.freeCtr + rows.length }

/-- The most elements that a chunk of a load brings into its range: a block of a TLDC may expand to its ratio (R59, R203). -/
def Cmd.mostElems (m : Cmd) : Nat :=
  match m.kind with
  | .bundle (.tldc _ _ _ _ _ _ _ _ _ _ xr) => ratioOf xr.val * 512 / m.form.outF.width
  | _ => m.form.per

/-- The destination rows of chunk `k` of a load, each with its tile counted from the command's (R187, R279): the chunk fills
the range from where the stream stands, all before it having passed; a GLIM has none. -/
def Cmd.destRows (m : Cmd) (k : Nat) : List (Nat × Nat) :=
  match m.kind with
  | .glim .. => []
  | .vgth _ => [(2 * k / 64, 2 * k % 64)]
  | .kgth _ => [(0, k)]
  | _ =>
    let e := m.rowElems
    let first := m.rows * e + m.outs.length
    let last := first + m.mostElems - 1
    ((List.range (last / e + 1 - first / e)).map fun j => (0, first / e + j)).filter fun p => decide (p.2 ≤ m.form.cnt)

/-! ## Where an image goes (R190, R192) -/

def imPatch (d : List Byte) : Nat := leAt d 13 1
def imCh (d : List Byte) : Nat := leAt d 14 1
def imBudget (d : List Byte) : Nat := leAt d 24 4
def imFirst (d : List Byte) : Nat := leAt d 28 4
def imSeq (d : List Byte) : Nat := leAt d 32 8
def imCap (d : List Byte) : Nat := leAt d 40 4
def imRec (d : List Byte) : Nat := leAt d 56 8

/-- Bytes of a patch in the sequence buffer (R192). -/
def patchBytes (d : List Byte) : Nat := (imPatch d * imPatch d * imCh d + 63) / 64 * 64

/-- The address of a patch (R192). -/
def patchAddr (d : List Byte) (index : Nat) : Nat := addrPlus (imSeq d) ((index * patchBytes d : Nat) : Int)

/-- The patches that fit the budget and the buffer. -/
def patchRoom (d : List Byte) : Nat := min (imCap d - imFirst d) (imBudget d / (imPatch d * imPatch d))

/-- The units of everything an image may write: its patches and its record. -/
def imageDest (d : List Byte) : List CUnit :=
  unitsOf 1 [⟨patchAddr d (imFirst d), patchRoom d * patchBytes d, 0⟩] ++ unitsOf 2 [⟨imRec d, 32, 0⟩]

/-- Units of memory become free bytes, where they have a place (log 3). -/
def freeUnits (s : State) (c x : Nat) (us : List CUnit) : State :=
  us.foldl (fun s u => match placeUnit s c x u with
    | .at_ key _ _ _ _ =>
      storeAll { s with freeCtr := s.freeCtr + 1 } (u.pieces.map fun p => (key + (p.addr - u.addr), freeBytes s p.n))
    | _ => s) s

/-- A chunk ends with a CRC32C failure: its destination bytes are undefined, and the barrier's phase completes poisoned
(R188). `ws` are the bytes its unit would write. -/
def failCrc (s : State) (c x : Nat) (m : Cmd) (u : CUnit) (ws : List (Nat × List Byte)) : State × Cmd :=
  let k := u.chunk - 1
  let s :=
    if m.isImg && m.readsUnit u then freeUnits s c x (imageDest m.desc)
    else if m.readsUnit u then freeRows s c x m (m.destRows k)
    else
      let all := m.units.filterMap fun v => if v.chunk = u.chunk then
          (match placeUnit (m.view s) c x v with | .at_ key _ _ _ _ => some (unitWrites m v key) | _ => none)
        else none
      let ws := ws ++ all.flatten
      (storeAll { s with freeCtr := s.freeCtr + 1 } (ws.map fun w => (w.1, freeBytes s w.2.length)))
  let m' := m.stopAt k
  match m.bar with
  | some b => (creditSlot s (chipletOf c) (some b) 0 true, m')
  | none =>
    if m.kind.isLantern then (lanternFail s c x m causeCHECKSUM k, m')
    else (report s c x ⟨causeCHECKSUM, m.addr, m.firstElem causeCHECKSUM k, none, none⟩, m')

/-- The sequence of a Lantern command has told its context of a failed link: its commands tell it no more, nor do those it
issues from now on (R284). -/
def toldLink (s : State) (c x : Nat) (m : Cmd) : State :=
  modCore s c fun k =>
    let t := k.get x
    let k := k.put x
      { t with cmds := t.cmds.map fun q => if q.kind.isLantern ∧ q.start = m.start then { q with poison := true } else q }
    if lanternLive k x m then { k with lantern := { k.lantern with poisoned := true } } else k

/-- A gather-form read meets a failed link: its row is zero, and the context is told once for the command, or once for the
sequence (R188, R284, R440). -/
def gatherLink (s : State) (c x : Nat) (m : Cmd) (u : CUnit) : State × Cmd :=
  let m' := { m with
    units := m.units.filter fun v => v.chunk != u.chunk
    sent := m.sent.filter fun q => q.chunk != u.chunk
    got := alSet m.got (u.chunk - 1) (List.replicate 192 0)
    poison := true }
  if m.poison then (s, m')
  else (report (if m.kind.isLantern then toldLink s c x m else s) c x
    ⟨causeGPOISON, m.addr, m.firstElem causeGPOISON (u.chunk - 1), none, none⟩, m')

/-- The command is a gather-form read (R188, R440). -/
def CmdKind.gathers : CmdKind → Bool
  | .bundle (.tgath ..) | .bundle (.tgath2 ..) | .kgth _ | .vgth _ => true
  | _ => false

/-- A failed link keeps a unit from performing (R188, R440). -/
def failLink (s : State) (c x : Nat) (m : Cmd) (u : CUnit) (port : Nat) : State × Cmd :=
  if m.kind.gathers && m.readsUnit u && u.chunk != 0 then gatherLink s c x m u
  else failCmd s c x m (u.chunk - 1) causeLINK port

/-- The word of POOL of the chiplet that homes a frame is empty (R423). -/
def poolEmpty (s : State) (key : Nat) : Bool := bits (tabGet s 1 (stackChiplet (bits key 39 36)) 4098) 63 40 == 0

/-- The count of a frame (R423). -/
def frameCount (s : State) (key : Nat) : Nat :=
  memLe s (bits (tabGet s 1 (stackChiplet (bits key 39 36)) 4099) 39 3 * 8 + 4 * bits key 39 16) 4

/-- The chunk parks on a page, and the owner of the chiplet's table 1 is told (R188, R419). -/
def parkCmd (s : State) (c x : Nat) (m : Cmd) (id : Nat) : State × Cmd :=
  (parkAt s c x m.uid id, { m with parkedAt := some id })

/-- The unit of a store's chunk that fails, where there is one: the chunk then writes nothing (R180, R188, R428). -/
def failingUnit (s : State) (c x : Nat) (m : Cmd) (u : CUnit) : CUnit :=
  if m.readsUnit u then u else (m.units.find? fun v => v.chunk == u.chunk && unitFails s c x m v).getD u

/-- A unit whose block turns out to be host-backed is cut into its words, which perform in any order (R304). -/
def Cmd.cutHost (s : State) (c x : Nat) (m : Cmd) (i : Nat) : Cmd :=
  match m.units[i]? with
  | none => m
  | some u =>
    match placeUnit (m.view s) c x u with
    | .at_ k _ _ _ _ | .unreached k =>
      if isHost k then { m with units := m.units.take i ++ u.words ++ m.units.drop (i + 1) } else m
    | _ => m

/-- An AMAXW word performs (R271). -/
def performAmax (s : State) (c x : Nat) (m : Cmd) (u : CUnit) (a : Nat) (rest : List CUnit) : State × Cmd :=
  let d := match m.form.p with | some n => (getCore s c).port n.val | none => PortSlot.empty
  let run := match m.form.p with | some n => (getCore s c).runOf n.val m.seq | none => PRun.start d []
  let n := u.chunk - m.chunks - 1
  let v := fminmax32 true (memLe s a 4) (run.close.1.c.getD (((amaxWords d m.consts).getD n (0, 0)).1) 0)
  (foldAt (storeAll s [(a, leBytes 4 v.1)]) c x s.ck v.2, { m with units := rest })

/-- A unit performs at its key; `rest` are the other units. -/
def performAt (s : State) (c x : Nat) (m : Cmd) (u : CUnit) (rest : List CUnit) (key : Nat) (crc : Bool) : State × Cmd :=
  let k := u.chunk - 1
  let m := { m with sent := m.sent.filter fun q => !(q.chunk == u.chunk && q.addr == u.addr) }
  let at_ : Nat := key + ((u.pieces.head?.map (·.addr)).getD u.addr - u.addr)
  if crc && Config.crcFails s.freeCtr then
    failCrc { s with freeCtr := s.freeCtr + 1 } c x m u (if m.readsUnit u then [] else unitWrites m u key)
  else if unitBad s m u key then
    failCmd (countBad s key) c x m k causeUNCORR (m.firstElem causeUNCORR k)
  else if u.chunk = 0 then
    (s, { m with
      units := rest
      consts := m.consts.set ((u.pieces.head?.map (·.off)).getD 0 / 4) (memLe s at_ 4) })
  else if m.chunks < u.chunk then performAmax s c x m u at_ rest
  else if m.readsUnit u then (s, { readUnit s m u key with units := rest })
  else
    let ws := unitWrites m u key
    match m.kind.reduces with
    | some q =>
      let r := redUnit s q.1 q.2 ws
      (foldAt r.1 c x s.ck r.2, { m with units := rest })
    | none => (storeAll s ws, { m with units := rest })

/-- A unit in the pod aperture is sent on a port, once (R440). -/
def sendUnit (s : State) (m : Cmd) (u : CUnit) (key : Nat) (page : Option (Nat × Nat)) (port : Nat) : State × Cmd :=
  (s, { m with
    sent := ⟨u.chunk, u.addr, key, page, port⟩ ::
      m.sent.filter fun q => !(q.chunk == u.chunk && q.addr == u.addr) })

/-- A unit that was sent on a port is answered, or its port has failed (R440): a read then fails; a write whose
acknowledgement is lost may have performed (a free choice, log 73), and is sent again on another port that may carry it. -/
def answerUnit (s : State) (c x : Nat) (m : Cmd) (u : CUnit) (rest : List CUnit) (q : Sent) : State × Cmd :=
  if q.port < 16 then
    if linkAlive s q.port then performAt s c x m u rest q.key false else (s, m)
  else if m.readsUnit u then failLink s c x m u (q.port - 16)
  else
    let done := bitAt (openVal s) 0 && !(unitBad s m u q.key)
    let s' := if done then (performAt s c x m u rest q.key false).1 else s
    let s' := { s' with freeCtr := s'.freeCtr + 1 }
    match portTo s (bits q.key 38 33) with
    | some p => sendUnit s' m u q.key q.page p
    | none => failLink s' c x m u (q.port - 16)

/-- Unit `i` of a command performs, or meets an event of R188. -/
def performUnit (s : State) (c x : Nat) (m₀ : Cmd) (i : Nat) : State × Cmd :=
  let m := m₀.cutHost s c x i
  match m.units[i]? with
  | none => (s, m)
  | some w =>
    if m.units.length ≠ m₀.units.length then (s, m) else
    let u := failingUnit s c x m w
    let k := u.chunk - 1
    let rest := m.units.eraseIdx i
    match m.sent.find? fun q => q.chunk == u.chunk && q.addr == u.addr with
    | some q => answerUnit s c x m u rest q
    | none =>
      match placeUnit (m.view s) c x u with
      | .miss => failCmd s c x m k causeWINDOW (m.firstElem causeWINDOW k)
      | .range => failCmd s c x m k causeVRANGE (m.firstElem causeVRANGE k)
      | .park id => parkCmd s c x m id
      | .link port => failLink s c x m u port
      | .unreached _ => failCmd s c x m k causeUNCORR (m.firstElem causeUNCORR k)
      | .hole _ => (s, m)
      | .at_ key shared obj page crc =>
        let s := rememberPte s c u.addr
        if !(m.readsUnit u) && shared then
          (if poolEmpty s key && frameCount s key != 1 then parkCmd s c x m (parkId obj page) else (s, m))
        else if isAperture key then
          sendUnit s m u key (some (obj, page)) ((portTo s (bits key 38 33)).getD 0)
        else performAt s c x m u rest key crc

end Sys2Proof.Machine
end

