-- ==== Sys2Proof/Machine/Copy.lean ====
section
/-!
DEFINITION. Slot C: tile copies, gathers, scatters and reductions in memory, and nests; slot X: the address and data
queues (spec 06 R180 to R185, R195, R200 to R210; 08 R242, R243).
-/
namespace Sys2Proof.Machine

/-! ## Checks at issue -/

/-- A copy address is well formed and in a space the command accepts (R180). -/
def addrFormOk (a : Nat) (vaultOk : Bool) : Bool :=
  bits a 61 48 == 0 && (bits a 63 62 == 0 || (vaultOk && bits a 63 62 == 1 && bits a 47 33 == 0))

/-- RESERVED_COMBO of an address (R180). -/
def addrTraps (a : Nat) (vaultOk : Bool) : List Trap := trapIf (!(addrFormOk a vaultOk)) ⟨4, causeRESERVED, a⟩

/-- ADDR of a copy address (R179). -/
def addrField (a : Nat) : Nat := bits a 47 0

/-- Bytes of a unit of a format (R182). -/
def unitBytes (f : Fmt) : Nat := if f.width = 4 then 1 else if f.width = 6 then 3 else f.width / 8

/-- Elements of a unit of a format (R182). -/
def unitElems (f : Fmt) : Nat := if f.width = 4 then 2 else if f.width = 6 then 4 else 1

/-- The base and the strides in use are multiples of the unit (R182). -/
def nestAligned (base : Nat) (ws : List Nat) (u : Nat) : Bool :=
  addrField base % u == 0 && (nestLevels ws).all fun w => decide (levelBound w ≤ 1) || levelStride w % (u : Int) == 0

/-- The least and the greatest offset of a nest (R180). -/
def nestExtent (ws : List Nat) : Int × Int :=
  (nestLevels ws).foldl (fun e w =>
    let d := ((levelBound w - 1 : Nat) : Int) * levelStride w
    (e.1 + min 0 d, e.2 + max 0 d)) (0, 0)

/-- `n` bytes from a vault copy address plus an offset lie wholly inside one window of the group (R180). -/
def vaultHolds (s : State) (c x a : Nat) (o : Int) (n : Nat) : Bool :=
  (vaultPlace s c x (bits (addrPlus a o) 32 0) n).isSome

/-- VAULT_RANGE of a nest (R180): the whole extent, clipped to the bytes lo .. hi - 1 from the base. -/
def extentTraps (s : State) (c x a : Nat) (ws : List Nat) (u : Nat) (clip : Option Nat) : List Trap :=
  if !(isVaultAddr a) || nestIters ws == 0 then []
  else
    let e := nestExtent ws
    let lo := match clip with | some _ => max 0 e.1 | none => e.1
    let hi := match clip with | some l => min (l : Int) (e.2 + u) | none => e.2 + u
    trapIf (decide (lo < hi) && !(vaultHolds s c x a lo (hi - lo).toNat)) ⟨7, causeVRANGE, a⟩

/-- Exposed results are still to be delivered into a row range of a physical tile (R85). -/
def rowsPending (t : Ctx) (tile first last : Nat) : Bool :=
  (pendingTileRows t).any fun p => p.1 == tile && decide (first ≤ p.2 ∧ p.2 ≤ last)

/-- The blocks every copy command shares (R62): a full queue, a running Lantern. -/
def copyBlock (s : State) : Option Nat :=
  if 16 ≤ s.me.cmds.length then some 1 else if s.myCore.lanternOn then some 9 else none

/-- The names of a nest register, level by level (R351). -/
def nestKeys (n : Fin 8) : List Key := (List.range 6).map fun l => (5, n.val, l)

/-- The format of the other end of a bound port: OF of the slot for a load, IF for a store; FMT where no port is
bound (R183). -/
def farFmt (k : Core) (p : Option (Fin 16)) (fmt : Fmt) (load : Bool) : Fmt :=
  match p with
  | none => fmt
  | some n => ((if load then (k.port n.val).outFmt else (k.port n.val).inFmt)).getD fmt

/-! ## Issue -/

/-- BAR of a command: 0x3FF names none (R187). -/
def barOf (bar : Fin 1024) : Option Nat := if bar.val = 0x3FF then none else some bar.val

/-- A command with nothing done yet; its accesses go by the grants as they stand (R385). -/
def freshCmd (s : State) (i : Instr) (bar : Option Nat) (f : CopyForm) (base : Nat) : Cmd where
  uid := 0
  start := 0
  kind := .bundle i
  addr := s.issue.addr
  bar := bar
  form := f
  base := base
  nest := []
  index := []
  src := []
  desc := []
  seq := 0
  units := []
  pos := []
  got := []
  outs := []
  emitted := 0
  ported := 0
  chunks := 0
  rows := 0
  credit := []
  consts := []
  started := false
  ended := false
  folded := false
  claimed := 0
  parkedAt := none
  stopped := false
  poison := false
  tileR := []
  tileW := []
  later := []
  elems := 0
  carry := (0, 0)
  grants := s.tables.filter fun e => e.1.1 == 2
  sent := []

/-- A command enters the queue of a context with the next number; one that binds a slot takes its place there (R185,
R187, R244). One of the Lantern keeps the number of its sequence's start (R322). -/
def enqueue (s : State) (c x : Nat) (m : Cmd) : State :=
  let u := newUid s c x
  let m := { m with start := if m.kind.isLantern then m.start else u.1 }
  match m.form.p with
  | none => modCtx u.2 c x fun t => { t with cmds := t.cmds ++ [{ m with uid := u.1 }] }
  | some n =>
    let o := newOp u.2 c
    modCtx (serve o.2 c x o.1 m.form.p false none) c x fun t =>
      { t with cmds := t.cmds ++ [{ m with uid := u.1, seq := o.1, later := slotLater ((getCore s c).port n.val) }] }

/-- A command whose stream has no element completes at once, but for the AMAXW words of its port (R187, R271). -/
def enqueueWork (s : State) (c x : Nat) (m : Cmd) : State :=
  if m.chunks = 0 ∧ m.form.p.isNone then s
  else if m.chunks = 0 then enqueue s c x { m with rows := 64 }
  else enqueue s c x m

/-- The pieces of a chunk of a nest: `k` is its first iteration, `n` how many. -/
def nestPieces (addrs : List Nat) (u k n : Nat) : List Piece :=
  ((addrs.drop k).take n).zipIdx.map fun p => ⟨p.1, u, p.2 * u⟩

/-! ## TLD, TST, TWIN, TLDC (R202, R203, R205) -/

/-- The checks that the tile-copy form shares (R91, R182, R183, R243). -/
def copyTraps (s : State) (t row cnt a : Nat) (fmt : Fmt) (rm : Rm) (p : Option (Fin 16)) (load : Bool) : List Trap :=
  let far := farFmt s.myCore p fmt load
  tileChecks s 10 t (row + cnt)
    ++ trapIf (!fmt.isCopy) (combo 10 3 0)
    ++ addrTraps a true
    ++ trapIf (load && rm == .sr) (combo 10 10 0)
    ++ bindTraps s 10 (if load then .copy else .tst) p (if load then fmt else far) (if load then far else fmt) false

/-- N above what the tile range holds (R202). -/
def copyFits (ws : List Nat) (cnt : Nat) (tileF : Fmt) (epu : Nat) : Bool :=
  decide (nestIters ws ≤ (cnt + 1) * (1536 / tileF.width) / epu)

/-- The form of a nest copy. -/
def nestForm (k : Core) (load : Bool) (t row cnt : Nat) (p : Option (Fin 16)) (ps : Bool) (fmt : Fmt) (rm : Rm) :
    CopyForm :=
  let far := farFmt k p fmt load
  ⟨load, t, row, cnt, p, ps, if load then fmt else far, if load then far else fmt, rm, unitElems fmt, unitBytes fmt,
    1536 / far.width, 0⟩

/-- TLD issues (R202). -/
def issueTld (s0 : State) (i : Instr) (f : CopyForm) (bar : Option Nat) (base : Nat) (ws : List Nat) (s : State) :
    State :=
  let c := s0.issue.core
  let x := s0.issue.ctx
  let n := nestIters ws
  let addrs := nestAddrs base ws n
  let step := f.per / f.epu
  let chunks := (n + step - 1) / step
  enqueueWork s c x { freshCmd s0 i bar { f with total := n * f.epu } base with
    nest := ws
    chunks := chunks
    units := (List.range chunks).flatMap fun k => unitsOf (k + 1) (nestPieces addrs f.u (k * step) step)
    tileW := [s0.tile f.t] }

/-- TLD (R202). -/
def opTld (gd : Guard) (t : Fin 32) (row cnt : Fin 64) (a : GSrc) (n : Fin 8) (bar : Fin 1024) (p : Option (Fin 16))
    (fmt : Fmt) (rm : Rm) (ps : Bool) : Op where
  slot := 10
  guard := gd
  srcs := [gs a]
  binds := p.toList
  reads := fun _ => nestKeys n
  tileW := fun s => [s.tile t.val]
  decode := portsDecode [p]
  empty := fun s _ => rowsPending s.me (s.tile t.val) row.val (row.val + cnt.val)
  traps := fun s v =>
    let b := (operand v 0).toNat
    let ws := nWords s.me n
    copyTraps s t.val row.val cnt.val b fmt rm p true
      ++ trapIf (!(copyFits ws cnt.val (farFmt s.myCore p fmt true) (unitElems fmt))) (combo 10 5 0)
      ++ trapIf (!(nestAligned b ws (unitBytes fmt))) ⟨7, causeALIGN, b⟩
      ++ extentTraps s s.issue.core s.issue.ctx b ws (unitBytes fmt) none
  block := fun s _ => copyBlock s
  effect := fun s0 v s =>
    issueTld s0 (.tld gd t row cnt a n bar p fmt rm ps)
      (nestForm s0.myCore true t.val row.val cnt.val p ps fmt rm) (barOf bar) (operand v 0).toNat (nWords s0.me n) s

/-- TLD (R202). -/
def execTld (gd : Guard) (t : Fin 32) (row cnt : Fin 64) (a : GSrc) (n : Fin 8) (bar : Fin 1024) (p : Option (Fin 16))
    (fmt : Fmt) (rm : Rm) (ps : Bool) (s : State) : Host.Outcome State Fault Refusal :=
  runOne (opTld gd t row cnt a n bar p fmt rm ps) s

/-- Rows of a tile read at issue (R92, R454). -/
def tileRows (s : State) (tile first n : Nat) : List Row :=
  (List.range n).map fun r => readRow s s.myCore tile (first + r)

/-- TST issues (R202): the rows are read here. -/
def issueTst (s0 : State) (i : Instr) (f : CopyForm) (bar : Option Nat) (base : Nat) (ws : List Nat) (s : State) :
    State :=
  let c := s0.issue.core
  let x := s0.issue.ctx
  let n := nestIters ws
  let total := n * f.epu
  let chunks := (total + f.per - 1) / f.per
  let s := enqueueWork s c x { freshCmd s0 i bar { f with total := total } base with
    nest := ws
    chunks := chunks
    src := tileRows s0 (s0.tile f.t) f.row chunks
    pos := nestAddrs base ws n
    tileR := [s0.tile f.t] }
  noteBad s c x s0.issue.addr (packedRows (s0.tile f.t) f.row f.per f.inF.width total)

/-- TST (R202). -/
def opTst (gd : Guard) (t : Fin 32) (row cnt : Fin 64) (a : GSrc) (n : Fin 8) (bar : Fin 1024) (p : Option (Fin 16))
    (fmt : Fmt) (rm : Rm) (ps : Bool) : Op where
  slot := 10
  guard := gd
  srcs := [gs a]
  binds := p.toList
  reads := fun _ => nestKeys n
  tileR := fun s => [s.tile t.val]
  decode := portsDecode [p]
  empty := fun s _ => rowsPending s.me (s.tile t.val) row.val (row.val + cnt.val)
  traps := fun s v =>
    let b := (operand v 0).toNat
    let ws := nWords s.me n
    copyTraps s t.val row.val cnt.val b fmt rm p false
      ++ trapIf (!(copyFits ws cnt.val (farFmt s.myCore p fmt false) (unitElems fmt))) (combo 10 5 0)
      ++ trapIf (!(nestAligned b ws (unitBytes fmt))) ⟨7, causeALIGN, b⟩
      ++ extentTraps s s.issue.core s.issue.ctx b ws (unitBytes fmt) none
  block := fun s _ => copyBlock s
  effect := fun s0 v s =>
    issueTst s0 (.tst gd t row cnt a n bar p fmt rm ps)
      (nestForm s0.myCore false t.val row.val cnt.val p ps fmt rm) (barOf bar) (operand v 0).toNat (nWords s0.me n) s

/-- TST (R202). -/
def execTst (gd : Guard) (t : Fin 32) (row cnt : Fin 64) (a : GSrc) (n : Fin 8) (bar : Fin 1024) (p : Option (Fin 16))
    (fmt : Fmt) (rm : Rm) (ps : Bool) (s : State) : Host.Outcome State Fault Refusal :=
  runOne (opTst gd t row cnt a n bar p fmt rm ps) s

/-- BOUND of level 0 and the product of the higher levels in use (R205). -/
def winShape (ws : List Nat) : Nat × Nat :=
  match nestLevels ws with
  | [] => (0, 0)
  | w :: rest => (levelBound w, rest.foldl (fun n w => n * levelBound w) 1)

/-- A unit of a TWIN at an offset lies inside the limit (R205). -/
def winInside (o : Int) (u l : Nat) : Bool := decide (0 ≤ o ∧ o + u ≤ l)

/-- TWIN issues (R205). -/
def issueTwin (s0 : State) (i : Instr) (f : CopyForm) (bar : Option Nat) (base l : Nat) (ws : List Nat) (s : State) :
    State :=
  let sh := winShape ws
  let piece (q j : Nat) : Option Piece :=
    let o := offset ws (q * sh.1 + j)
    if winInside o f.u l then some ⟨addrPlus base o, f.u, j * f.u⟩ else none
  enqueueWork s s0.issue.core s0.issue.ctx
    { freshCmd s0 i bar { f with per := sh.1 * f.epu, total := sh.1 * f.epu * sh.2 } base with
      nest := ws
      chunks := if sh.1 = 0 then 0 else sh.2
      units := if sh.1 = 0 then [] else
        (List.range sh.2).flatMap fun q => unitsOf (q + 1) ((List.range sh.1).filterMap (piece q))
      tileW := [s0.tile f.t] }

/-- TWIN (R205). It traps also where a row of elements at the tile-side width of a widening port would not fit 192 bytes (log
74). -/
def opTwin (gd : Guard) (t : Fin 32) (row cnt : Fin 64) (a : GSrc) (n : Fin 8) (bar : Fin 1024) (p : Option (Fin 16))
    (fmt : Fmt) (rm : Rm) (ps : Bool) : Op where
  slot := 10
  guard := gd
  srcs := [gs a, .g (a.i + 1) a.blk]
  binds := p.toList
  reads := fun _ => nestKeys n
  tileW := fun s => [s.tile t.val]
  decode := portsDecode [p]
  empty := fun s _ => rowsPending s.me (s.tile t.val) row.val (row.val + cnt.val)
  traps := fun s v =>
    let b := (operand v 0).toNat
    let ws := nWords s.me n
    let sh := winShape ws
    copyTraps s t.val row.val cnt.val b fmt rm p true
      ++ trapIf (decide (192 < sh.1 * unitBytes fmt ∨ cnt.val + 1 < sh.2
          ∨ 1536 < sh.1 * unitElems fmt * (farFmt s.myCore p fmt true).width)) (combo 10 5 0)
      ++ trapIf (!(nestAligned b ws (unitBytes fmt))) ⟨7, causeALIGN, b⟩
      ++ extentTraps s s.issue.core s.issue.ctx b ws (unitBytes fmt) (some (operand v 1).toNat)
  block := fun s _ => copyBlock s
  effect := fun s0 v s =>
    issueTwin s0 (.twin gd t row cnt a n bar p fmt rm ps)
      (nestForm s0.myCore true t.val row.val cnt.val p ps fmt rm) (barOf bar) (operand v 0).toNat (operand v 1).toNat
      (nWords s0.me n) s

/-- TWIN (R205). -/
def execTwin (gd : Guard) (t : Fin 32) (row cnt : Fin 64) (a : GSrc) (n : Fin 8) (bar : Fin 1024)
    (p : Option (Fin 16)) (fmt : Fmt) (rm : Rm) (ps : Bool) (s : State) : Host.Outcome State Fault Refusal :=
  runOne (opTwin gd t row cnt a n bar p fmt rm ps) s

/-- TLDC issues (R203): its chunks are blocks. -/
def issueTldc (s0 : State) (i : Instr) (f : CopyForm) (bar : Option Nat) (base : Nat) (ws : List Nat) (s : State) :
    State :=
  let n := nestIters ws
  enqueueWork s s0.issue.core s0.issue.ctx { freshCmd s0 i bar f base with
    nest := ws
    chunks := n
    units := (nestAddrs base ws n).zipIdx.flatMap fun p => unitsOf (p.2 + 1) [⟨p.1, 64, 0⟩]
    tileW := [s0.tile f.t] }

/-- TLDC (R203). -/
def opTldc (gd : Guard) (t : Fin 32) (row cnt : Fin 64) (a : GSrc) (n : Fin 8) (bar : Fin 1024) (p : Option (Fin 16))
    (fmt : Fmt) (rm : Rm) (xr : Fin 8) : Op where
  slot := 10
  guard := gd
  srcs := [gs a]
  binds := p.toList
  reads := fun _ => nestKeys n
  tileW := fun s => [s.tile t.val]
  decode := portsDecode [p]
  empty := fun s _ => rowsPending s.me (s.tile t.val) row.val (row.val + cnt.val)
  traps := fun s v =>
    let b := (operand v 0).toNat
    let ws := nWords s.me n
    tileChecks s 10 t.val (row.val + cnt.val)
      ++ trapIf (!(fmt.isPlain || fmt == .cb4)) (combo 10 3 0)
      ++ addrTraps b true
      ++ trapIf (rm == .sr) (combo 10 10 0)
      ++ bindTraps s 10 .copy p fmt fmt false
      ++ trapIf (!(nestAligned b ws 64)) ⟨7, causeALIGN, b⟩
      ++ extentTraps s s.issue.core s.issue.ctx b ws 64 none
  block := fun s _ => copyBlock s
  effect := fun s0 v s =>
    issueTldc s0 (.tldc gd t row cnt a n bar p fmt rm xr)
      ⟨true, t.val, row.val, cnt.val, p, true, fmt, fmt, rm, 1, 64, 0, 0⟩ (barOf bar) (operand v 0).toNat
      (nWords s0.me n) s

/-- TLDC (R203). -/
def execTldc (gd : Guard) (t : Fin 32) (row cnt : Fin 64) (a : GSrc) (n : Fin 8) (bar : Fin 1024)
    (p : Option (Fin 16)) (fmt : Fmt) (rm : Rm) (xr : Fin 8) (s : State) : Host.Outcome State Fault Refusal :=
  runOne (opTldc gd t row cnt a n bar p fmt rm xr) s

/-! ## TGATH, TGATH2, TSCAT, TRED (R200, R201, R204) -/

/-- The first `n` elements of the index list that starts at a row of a tile (R200). -/
def indexList (s : State) (it irow n : Nat) : List Int :=
  ((List.range ((n + 47) / 48)).flatMap fun r =>
    (elemsOf 32 48 (readRow s s.myCore (s.tile it) (irow + r)).toNat).map fun v => sx v 32).take n

/-- The checks that the gather form shares: `rows` index rows, and a port of one format (R91, R200, R243). -/
def gatherTraps (s : State) (t row cnt it irow rows a : Nat) (vaultOk : Bool) (p : Option (Fin 16)) (f : Fmt) :
    List Trap :=
  tileChecks s 10 t (row + cnt) ++ tileChecks s 10 it (irow + rows - 1) ++ addrTraps a vaultOk
    ++ bindTraps s 10 .copy p f f false

/-- The waits of the gather form on exposed results (R85). -/
def gatherPending (s : State) (t row cnt it irow rows : Nat) : Bool :=
  rowsPending s.me (s.tile t) row (row + cnt) || rowsPending s.me (s.tile it) irow (irow + rows - 1)

/-- The form of a gather, scatter or reduction. -/
def gatherForm (load : Bool) (t row cnt : Nat) (p : Option (Fin 16)) (ps : Bool) (f : Fmt) : CopyForm :=
  ⟨load, t, row, cnt, p, ps, f, f, .rne, 1, 4, 48, 48 * (cnt + 1)⟩

/-- The parity report of an index list of `n` elements (R454). -/
def noteIndex (s0 : State) (it irow n : Nat) (s : State) : State :=
  noteBad s s0.issue.core s0.issue.ctx s0.issue.addr (packedRows (s0.tile it) irow 48 32 n)

/-- TGATH (R200). -/
def opTgath (gd : Guard) (t : Fin 32) (row cnt : Fin 64) (a : GSrc) (it : Fin 32) (irow : Fin 64) (bar : Fin 1024)
    (p : Option (Fin 16)) (ps : Bool) : Op where
  slot := 10
  guard := gd
  srcs := [gs a]
  binds := p.toList
  tileR := fun s => [s.tile it.val]
  tileW := fun s => [s.tile t.val]
  decode := portsDecode [p]
  empty := fun s _ => gatherPending s t.val row.val cnt.val it.val irow.val ((cnt.val + 48) / 48)
  traps := fun s v =>
    let b := (operand v 0).toNat
    gatherTraps s t.val row.val cnt.val it.val irow.val ((cnt.val + 48) / 48) b true p .f32
      ++ trapIf (b % 64 != 0) ⟨7, causeALIGN, b⟩
  block := fun s _ => copyBlock s
  effect := fun s0 v s =>
    let b := (operand v 0).toNat
    let ix := indexList s0 it.val irow.val (cnt.val + 1)
    noteIndex s0 it.val irow.val (cnt.val + 1) (enqueueWork s s0.issue.core s0.issue.ctx
      { freshCmd s0 (.tgath gd t row cnt a it irow bar p ps) (barOf bar)
          (gatherForm true t.val row.val cnt.val p ps .f32) b with
        index := ix
        chunks := cnt.val + 1
        units := ix.zipIdx.flatMap fun q => unitsOf (q.2 + 1) [⟨addrPlus b (q.1 * 64), 192, 0⟩]
        tileW := [s0.tile t.val] })

/-- TGATH (R200). -/
def execTgath (gd : Guard) (t : Fin 32) (row cnt : Fin 64) (a : GSrc) (it : Fin 32) (irow : Fin 64) (bar : Fin 1024)
    (p : Option (Fin 16)) (ps : Bool) (s : State) : Host.Outcome State Fault Refusal :=
  runOne (opTgath gd t row cnt a it irow bar p ps) s

/-- The pieces of row `r` of a TGATH2 (R201). -/
def pairPieces (base rs : Nat) (ix : List Int) (r : Nat) : List Piece :=
  (List.range 12).map fun j =>
    let k := 12 * r + j
    ⟨addrPlus base (ix.getD (2 * k) 0 * rs + ix.getD (2 * k + 1) 0 * 16), 16, 16 * j⟩

/-- TGATH2 (R201); the ALIGN of a stride that is no multiple of 16 reports the base (log 75). -/
def opTgath2 (gd : Guard) (t : Fin 32) (row cnt : Fin 64) (a : GSrc) (it : Fin 32) (irow : Fin 64) (bar : Fin 1024)
    (p : Option (Fin 16)) (ps : Bool) : Op where
  slot := 10
  guard := gd
  srcs := [gs a, .g (a.i + 1) a.blk]
  binds := p.toList
  tileR := fun s => [s.tile it.val]
  tileW := fun s => [s.tile t.val]
  decode := portsDecode [p]
  empty := fun s _ => gatherPending s t.val row.val cnt.val it.val irow.val ((cnt.val + 2) / 2)
  traps := fun s v =>
    let b := (operand v 0).toNat
    gatherTraps s t.val row.val cnt.val it.val irow.val ((cnt.val + 2) / 2) b true p .f32
      ++ trapIf (b % 16 != 0 || (operand v 1).toNat % 16 != 0) ⟨7, causeALIGN, b⟩
  block := fun s _ => copyBlock s
  effect := fun s0 v s =>
    let b := (operand v 0).toNat
    let ix := indexList s0 it.val irow.val (24 * (cnt.val + 1))
    noteIndex s0 it.val irow.val (24 * (cnt.val + 1)) (enqueueWork s s0.issue.core s0.issue.ctx
      { freshCmd s0 (.tgath2 gd t row cnt a it irow bar p ps) (barOf bar)
          (gatherForm true t.val row.val cnt.val p ps .f32) b with
        index := ix
        chunks := cnt.val + 1
        units := (List.range (cnt.val + 1)).flatMap fun r => unitsOf (r + 1) (pairPieces b (operand v 1).toNat ix r)
        tileW := [s0.tile t.val] })

/-- TGATH2 (R201). -/
def execTgath2 (gd : Guard) (t : Fin 32) (row cnt : Fin 64) (a : GSrc) (it : Fin 32) (irow : Fin 64) (bar : Fin 1024)
    (p : Option (Fin 16)) (ps : Bool) (s : State) : Host.Outcome State Fault Refusal :=
  runOne (opTgath2 gd t row cnt a it irow bar p ps) s

/-- A TSCAT or TRED issues: source rows and index list are read here (R200, R204). -/
def issueRows (s0 : State) (i : Instr) (f : CopyForm) (bar : Option Nat) (base it irow : Nat) (s : State) : State :=
  let c := s0.issue.core
  let x := s0.issue.ctx
  let ix := indexList s0 it irow (f.cnt + 1)
  let s := noteIndex s0 it irow (f.cnt + 1) (enqueueWork s c x
    { freshCmd s0 i bar f base with
      index := ix
      chunks := f.cnt + 1
      src := tileRows s0 (s0.tile f.t) f.row (f.cnt + 1)
      pos := ix.flatMap fun v => [addrPlus base (v * 64), addrPlus base (v * 64 + 64), addrPlus base (v * 64 + 128)]
      tileR := [s0.tile f.t] })
  noteBad s c x s0.issue.addr (wholeRows (s0.tile f.t) f.row (f.cnt + 1))

/-- A scatter or reduction as an operation (R200, R204). -/
def rowsOp (i : Instr) (gd : Guard) (t : Fin 32) (row cnt : Fin 64) (a : GSrc) (it : Fin 32) (irow : Fin 64)
    (bar : Fin 1024) (p : Option (Fin 16)) (ps : Bool) (f : Fmt) (vaultOk : Bool) : Op where
  slot := 10
  guard := gd
  srcs := [gs a]
  binds := p.toList
  tileR := fun s => [s.tile t.val, s.tile it.val]
  decode := portsDecode [p]
  empty := fun s _ => gatherPending s t.val row.val cnt.val it.val irow.val ((cnt.val + 48) / 48)
  traps := fun s v =>
    let b := (operand v 0).toNat
    gatherTraps s t.val row.val cnt.val it.val irow.val ((cnt.val + 48) / 48) b vaultOk p f
      ++ trapIf (b % 64 != 0) ⟨7, causeALIGN, b⟩
  block := fun s _ => copyBlock s
  effect := fun s0 v s =>
    issueRows s0 i (gatherForm false t.val row.val cnt.val p ps f) (barOf bar) (operand v 0).toNat it.val irow.val s

/-- TSCAT (R200). -/
def opTscat (gd : Guard) (t : Fin 32) (row cnt : Fin 64) (a : GSrc) (it : Fin 32) (irow : Fin 64) (bar : Fin 1024)
    (p : Option (Fin 16)) (ps : Bool) : Op :=
  rowsOp (.tscat gd t row cnt a it irow bar p ps) gd t row cnt a it irow bar p ps .f32 true

/-- TSCAT (R200). -/
def execTscat (gd : Guard) (t : Fin 32) (row cnt : Fin 64) (a : GSrc) (it : Fin 32) (irow : Fin 64) (bar : Fin 1024)
    (p : Option (Fin 16)) (ps : Bool) (s : State) : Host.Outcome State Fault Refusal :=
  runOne (opTscat gd t row cnt a it irow bar p ps) s

/-- The format that FI of TRED selects (R204). -/
def redFmt (i32 : Bool) : Fmt := if i32 then .i32 else .f32

/-- TRED.add (R204). -/
def opTredAdd (gd : Guard) (t : Fin 32) (row cnt : Fin 64) (a : GSrc) (it : Fin 32) (irow : Fin 64) (bar : Fin 1024)
    (p : Option (Fin 16)) (ps : Bool) (i32 : Bool) : Op :=
  rowsOp (.tredAdd gd t row cnt a it irow bar p ps i32) gd t row cnt a it irow bar p ps (redFmt i32) false

/-- TRED.add (R204). -/
def execTredAdd (gd : Guard) (t : Fin 32) (row cnt : Fin 64) (a : GSrc) (it : Fin 32) (irow : Fin 64) (bar : Fin 1024)
    (p : Option (Fin 16)) (ps : Bool) (i32 : Bool) (s : State) : Host.Outcome State Fault Refusal :=
  runOne (opTredAdd gd t row cnt a it irow bar p ps i32) s

/-- TRED.max (R204). -/
def opTredMax (gd : Guard) (t : Fin 32) (row cnt : Fin 64) (a : GSrc) (it : Fin 32) (irow : Fin 64) (bar : Fin 1024)
    (p : Option (Fin 16)) (ps : Bool) (i32 : Bool) : Op :=
  rowsOp (.tredMax gd t row cnt a it irow bar p ps i32) gd t row cnt a it irow bar p ps (redFmt i32) false

/-- TRED.max (R204). -/
def execTredMax (gd : Guard) (t : Fin 32) (row cnt : Fin 64) (a : GSrc) (it : Fin 32) (irow : Fin 64) (bar : Fin 1024)
    (p : Option (Fin 16)) (ps : Bool) (i32 : Bool) (s : State) : Host.Outcome State Fault Refusal :=
  runOne (opTredMax gd t row cnt a it irow bar p ps i32) s

/-! ## NSET and NCLR (R71, R195) -/

/-- NSET's checks: BOUND first (R195). -/
def nsetTraps (a b : Word) : List Trap :=
  if 16777215 < a.toNat then [⟨4, causeRESERVED, a.toNat⟩]
  else if b.toInt < -(2 ^ 39) ∨ 2 ^ 39 - 1 < b.toInt then [⟨4, causeRESERVED, b.toNat⟩]
  else []

/-- NSET (R195). -/
def opNset (gd : Guard) (n l : Fin 8) (a b : GSrc) : Op where
  slot := 10
  guard := gd
  srcs := [gs a, gs b]
  traps := fun _ v => nsetTraps (operand v 0) (operand v 1)
  effect := fun _ v s =>
    give s 0 (.n n l.val (BitVec.ofNat 64 ((operand v 0).toNat * 2 ^ 40 + bits (operand v 1).toNat 39 0))) 0

/-- NSET (R195). -/
def execNset (gd : Guard) (n l : Fin 8) (a b : GSrc) (s : State) : Host.Outcome State Fault Refusal :=
  runOne (opNset gd n l a b) s

/-- NCLR (R195). -/
def opNclr (gd : Guard) (n : Fin 8) : Op where
  slot := 10
  guard := gd
  effect := fun _ _ s => (List.range 6).foldl (fun s l => give s 0 (.n n l 0) 0) s

/-- NCLR (R195). -/
def execNclr (gd : Guard) (n : Fin 8) (s : State) : Host.Outcome State Fault Refusal := runOne (opNclr gd n) s

/-! ## Slot X (R206 to R210) -/

/-- AQPUSH (R208). -/
def opAqpush (gd : Guard) (sz16 : Bool) (a : Src) : Op where
  slot := 5
  guard := gd
  srcs := [a]
  aqs := 1
  traps := fun _ v =>
    let b := (operand v 0).toNat
    addrTraps b false ++ trapIf (b % (if sz16 then 16 else 8) != 0) ⟨7, causeALIGN, b⟩
  block := fun s _ => if s.myCore.lanternOn then some 9 else none
  effect := fun s0 v s =>
    let u := newUid s s0.issue.core s0.issue.ctx
    u.2.modMe fun t => { t with aq := t.aq ++ [⟨u.1, (operand v 0).toNat, if sz16 then 16 else 8⟩] }

/-- AQPUSH (R208). -/
def execAqpush (gd : Guard) (sz16 : Bool) (a : Src) (s : State) : Host.Outcome State Fault Refusal :=
  runOne (opAqpush gd sz16 a) s

/-- A request leaves the address queue for a reserved data-queue entry (R206). -/
def sendRequest (s : State) (c x : Nat) : State :=
  modCtx s c x fun t =>
    match t.aq with
    | [] => t
    | r :: rest =>
      if t.dq.length < 16 then
        { t with aq := rest, dq := t.dq ++ [⟨r.uid, r.addr, r.n, false, false, false, [], false, none, none⟩] }
      else t

/-- The state that AQSTAT reads (R209). -/
def aqstatVal (t : Ctx) : Nat :=
  t.pseen.toNat * 2 ^ 32 + (t.dq.takeWhile (·.arrived)).length * 2 ^ 16 + t.dq.length * 2 ^ 8 + t.aq.length

/-- AQSTAT (R209). -/
def opAqstat (gd : Guard) (d : Fin 32) : Op where
  slot := 5
  guard := gd
  dsts := [d]
  block := fun s _ => if s.myCore.lanternOn then some 9 else none
  effect := fun s0 _ s =>
    (give s 0 (.g d (BitVec.ofNat 64 (aqstatVal s0.me))) 0).modMe fun t => { t with pseen := false }

/-- AQSTAT (R209). -/
def execAqstat (gd : Guard) (d : Fin 32) (s : State) : Host.Outcome State Fault Refusal := runOne (opAqstat gd d) s

/-- A pop finds no entry that has arrived, or the Lantern runs (R206, R278). -/
def popBlock (s : State) : Option Nat :=
  match s.me.dq.head? with
  | some e => if e.arrived then (if s.myCore.lanternOn then some 9 else none) else some 3
  | none => some 3

/-- The pop of a poisoned entry: PSEEN, and the report where it was not set (R210). -/
def popPoison (s0 : State) (e : DqEnt) (s : State) : State :=
  if e.poison && !s0.me.pseen then
    report (s.modMe fun t => { t with pseen := true }) s0.issue.core s0.issue.ctx
      ⟨causeGPOISON, s0.issue.addr, e.addr, none, none⟩
  else s

/-- The bytes that stand at the head of an entry: the 8 that are left after a first DQPOP, else all. -/
def DqEnt.bytes (e : DqEnt) : List Byte :=
  let b := if e.poison then List.replicate e.n 0 else e.data
  if e.half then b.drop 8 else b

/-- The data queue after a DQPOP (R210). -/
def popEight (dq : List DqEnt) : List DqEnt :=
  match dq with
  | [] => []
  | e :: rest => if e.n = 16 ∧ e.half = false then { e with half := true } :: rest else rest

/-- DQPOP (R210). -/
def opDqpop (gd : Guard) (d : Reg) : Op where
  slot := 5
  guard := gd
  dsts := Dest.full d
  pushes := Dest.push d
  block := fun s _ => popBlock s
  effect := fun s0 _ s =>
    match s0.me.dq.head? with
    | none => s
    | some e =>
      let v := BitVec.ofNat 64 (leNat (e.bytes.take 8))
      popPoison s0 e ((give s 0 (Dest.write d v) 0).modMe fun t => { t with dq := popEight t.dq })

/-- DQPOP (R210). -/
def execDqpop (gd : Guard) (d : Reg) (s : State) : Host.Outcome State Fault Refusal := runOne (opDqpop gd d) s

/-- The tiles that a parameter block lends to a sequence (R275, R278). -/
def lentTiles (params : List Byte) : List Nat :=
  let f (i : Nat) : Nat := (params.getD i 0).toNat
  [f 51, f 51 + 1, f 51 + 2, f 52, f 53, f 53 + 1, f 53 + 2, f 54, f 55, f 56]

/-- The parameter block of the sequence that runs on a core: until the Lantern has read it, as it stands in memory, where a
program does not rewrite it (R277, R278). -/
def lentParams (s : State) (c : Nat) : List Byte :=
  let l := (getCore s c).lantern
  if l.phase = .starting then readBytes s.mem (placeKey s c l.owner l.base 64) 64 else l.params

/-- An operation that names a lent tile is held back while a sequence runs (R278). The tiles are physical. -/
def lentBlock (s : State) (tiles : List Nat) : Bool :=
  let k := s.myCore
  k.lanternOn && (lentTiles (lentParams s s.issue.core)).any fun t => tiles.contains ((k.get k.lantern.owner).tbase + t)

/-- DQPOPT (R210). -/
def opDqpopt (gd : Guard) (t : Fin 32) (row : Fin 64) (seg : Fin 16) : Op where
  slot := 5
  guard := gd
  tileW := fun s => [s.tile t.val]
  traps := fun s _ => tileChecks s 5 t.val row.val
  block := fun s _ => popBlock s
  effect := fun s0 _ s =>
    match s0.me.dq.head? with
    | none => s
    | some e =>
      let b := e.bytes ++ List.replicate (16 - e.bytes.length) 0
      popPoison s0 e ((give s 0 (.tile (s0.tile t.val) row.val (16 * seg.val) b) 0).modMe fun t =>
        { t with dq := t.dq.drop 1 })

/-- DQPOPT (R210). -/
def execDqpopt (gd : Guard) (t : Fin 32) (row : Fin 64) (seg : Fin 16) (s : State) :
    Host.Outcome State Fault Refusal := runOne (opDqpopt gd t row seg) s

/-- A request reads its bytes at their home, or a poisoned entry arrives, or the request waits for a page (R207); one in the
pod aperture is sent on a port first (R440), and 16 bytes of host memory are read as two words, in either order (R304). -/
def arriveData (s : State) (c x i : Nat) : State :=
  let t := getCtx s c x
  match t.dq[i]? with
  | none => s
  | some e =>
    let set (e : DqEnt) (s : State) : State := modCtx s c x fun t => { t with dq := t.dq.set i e }
    let bad := { e with arrived := true, poison := true, data := List.replicate e.n 0 }
    let whole (key : Nat) : State :=
      if poisoned s key e.n then set bad (countBad s key)
      else set { e with arrived := true, data := readBytes s.mem key e.n } s
    let word (key : Nat) : State :=
      let high := match e.got with | some g => !g.1 | none => bitAt (openVal s) 0
      let k := if high then key + 8 else key
      let s' := { s with freeCtr := s.freeCtr + 1 }
      let b := readBytes s.mem k 8
      if poisoned s k 8 then set bad (countBad s k)
      else match e.got with
        | none => set { e with got := some (high, b) } s'
        | some g => set { e with arrived := true, got := none, data := if high then g.2 ++ b else b ++ g.2 } s'
    let read (key : Nat) : State := if isHost key ∧ e.n = 16 then word key else whole key
    if e.arrived || e.parked || earlierMeets s c x e.uid (homeAt s c x e.addr) then s
    else match e.sent with
      | some q =>
        if 16 ≤ q.port then set bad s else if linkAlive s q.port then read q.key else s
      | none =>
        match placeOf s c x e.addr e.n with
        | .miss | .range | .link _ | .unreached _ => set bad s
        | .hole _ => s
        | .park id => parkAt (set { e with parked := true } s) c x e.uid id
        | .at_ key _ obj page _ =>
          if isAperture key then
            match portTo s (bits key 38 33) with
            | some p => set { e with sent := some ⟨0, e.addr, key, some (obj, page), p⟩ } s
            | none => s
          else read key

/-- The physical address of a unit that the spec says does not exist, where there is one. -/
def holeOf (s : State) (c x a : Nat) : Option Nat :=
  match placeOf s c x a with
  | .hole k => some k
  | _ => none

/-- DATA_QUEUE_ARRIVAL (R207). -/
def execDataQueueArrival (core ctx idx : Nat) (s : State) : Host.Outcome State Fault Refusal :=
  match ((getCtx s core ctx).dq[idx]?).bind fun e => if e.arrived then none else holeOf s core ctx e.addr with
  | some k => .fault (.physicalHole k)
  | none => .next (arriveData s core ctx idx)

end Sys2Proof.Machine
end

