-- ==== Sys2Proof/Machine/Kernel.lean ====
section
/-!
DEFINITION. Kernel images, code segments and the fetch of an issue group (spec 14 R344 to R349; 03 R88; 04 R96 to R103).
-/
namespace Sys2Proof.Machine

/-! ## The image header (R344) -/

def imgNseg (b : List Byte) : Nat := leAt b 10 2
def imgEntry (b : List Byte) : Nat := leAt b 12 4
def imgCpc (b : List Byte) : Nat := leAt b 7 1
def imgTpc (b : List Byte) : Nat := leAt b 8 1
def imgVwin (b : List Byte) : Nat := leAt b 16 4
def imgMwin (b : List Byte) : Nat := leAt b 20 4
def imgPmask (b : List Byte) : Nat := leAt b 40 2
def imgLnBase (b : List Byte) : Nat := leAt b 42 2
def imgLnLen (b : List Byte) : Nat := leAt b 44 2
def imgSegOff (b : List Byte) : Nat := leAt b 48 8
def imgPortOff (b : List Byte) : Nat := leAt b 56 8
def imgSeqOff (b : List Byte) : Nat := leAt b 64 8
def imgDataOff (b : List Byte) : Nat := leAt b 72 8
def imgDataLen (b : List Byte) : Nat := leAt b 80 8
def imgNestOff (b : List Byte) : Nat := leAt b 88 8
def imgLinkOff (b : List Byte) : Nat := leAt b 96 8
def imgLen (b : List Byte) : Nat := leAt b 104 8

/-- The latency table (R344). -/
def imgLat (b : List Byte) : List Nat := (List.range 16).map fun c => leAt b (24 + c) 1

/-- The classes that run interlocked (R351). -/
def imgIlk (b : List Byte) : BitVec 16 :=
  BitVec.ofNat 16 (((List.range 12).map fun c =>
    if (imgLat b).getD c 1 < partLatency.getD c 1 then 2 ^ c else 0).sum)

/-- A section of the image. -/
def imgBytes (b : List Byte) (off n : Nat) : List Byte := (b.drop off).take n

/-- The port slots an image loads, with their records (R344). -/
def imgPorts (b : List Byte) : List (Nat × List Byte) :=
  let ns := (List.range 16).filter fun n => bitAt (imgPmask b) n
  ns.zipIdx.map fun p => (p.1, imgBytes b (imgPortOff b + 128 * p.2) 128)

/-- The microwords an image loads, with their addresses (R344). -/
def imgMicro (b : List Byte) : List (Nat × Nat) :=
  (List.range (imgLnLen b)).map fun i => (imgLnBase b + i, leAt b (imgSeqOff b + 8 * i) 8)

/-- Word L of launch nest n (R344). -/
def imgNest (b : List Byte) (n l : Nat) : Nat := leAt b (imgNestOff b + 48 * n + 8 * l) 8

/-! ## Segments (R346, R347) -/

/-- CADDR, PLEN and NEXT of a segment (R346). -/
structure SegEnt where
  idx : Nat
  caddr : Nat
  plen : Nat
  next : Nat
deriving DecidableEq, Repr

/-- The segment table of an image (R346). -/
def imgSegs (b : List Byte) : List SegEnt :=
  (List.range (imgNseg b)).map fun k =>
    let o := imgSegOff b + 16 * k
    ⟨k, leAt b o 4, leAt b (o + 4) 2, leAt b (o + 6) 2⟩

/-- Parcels of `n` literal pairs of bytes (R347). -/
def literals : Nat → List Byte → List Nat
  | n + 1, b0 :: b1 :: bs => (b0.toNat + 256 * b1.toNat) :: literals n bs
  | _, _ => []

/-- Copy `n` parcels, each from `d` places before the current end; `out` holds the parcels so far, newest first
(R347). -/
def copyBack (d : Nat) : Nat → List Nat → List Nat
  | 0, out => out
  | n + 1, out => copyBack d n (out.getD (d - 1) 0 :: out)

/-- Expand a compressed stream (R347): the parcels, newest first; none where a token is cut off or reaches before the
start. `fuel` bounds the tokens. -/
def expandTokens : Nat → List Byte → List Nat → Option (List Nat)
  | _, [], out => some out
  | 0, _ :: _, _ => none
  | fuel + 1, b :: bs, out =>
    if b.toNat < 128 then
      let n := b.toNat + 1
      if bs.length < 2 * n then none
      else expandTokens fuel (bs.drop (2 * n)) ((literals n (bs.take (2 * n))).reverse ++ out)
    else match bs with
      | d0 :: d1 :: rest =>
        let d := d0.toNat + 256 * d1.toNat
        if 1 ≤ d ∧ d ≤ 2047 ∧ d ≤ out.length then expandTokens fuel rest (copyBack d (b.toNat - 0x7E) out) else none
      | _ => none

/-- The expanded parcels of segment `k` of an image (R347). -/
def imgParcels (b : List Byte) (k : Nat) : Option (List Nat) :=
  let o := imgSegOff b + 16 * k
  let cs := imgBytes b (leAt b (o + 8) 4) (leAt b (o + 12) 4)
  (expandTokens cs.length cs []).map List.reverse

/-- Whether bundles, by their masks, end exactly after `n` parcels, and whether the last of them has S = 1 (R96,
R346). -/
def wholeBundles : Nat → Nat → List Nat → Bool
  | _, 0, _ => false
  | 0, _, _ => false
  | fuel + 1, n, h :: ps =>
    let len := (Header.parcels ⟨h / 16, bitAt h 3, bitAt h 2⟩)
    if n < len then false
    else if n = len then bitAt h 3
    else wholeBundles fuel (n - len) (ps.drop (len - 1))
  | _, _, [] => false

/-- Bundles, by their masks, have a boundary after `n` parcels (R154). -/
def bundleBoundary : Nat → Nat → List Nat → Bool
  | _, 0, _ => true
  | 0, _, _ => false
  | fuel + 1, n, h :: ps =>
    let len := (Header.parcels ⟨h / 16, bitAt h 3, bitAt h 2⟩)
    if n < len then false else bundleBoundary fuel (n - len) (ps.drop (len - 1))
  | _, _, [] => false

/-! ## The checks of R345 -/

/-- A section of `n` bytes at `off` lies inside the image. -/
def inImage (b : List Byte) (off n : Nat) : Bool := decide (off + n ≤ imgLen b)

/-- Code 1: MAGIC, VER, CHIP and the zero fields. -/
def imgBad1 (b : List Byte) : Bool :=
  leAt b 0 4 != 0x4D494B56 || leAt b 4 1 != 1 || leAt b 5 1 != 3 || bits (leAt b 9 1) 7 2 != 0 || leAt b 46 2 != 0
    || leAt b 112 16 != 0 || decide (b.length < 128)

/-- Code 2, as far as the header shows it: ranges, and sections past IMGLEN. -/
def imgBadHead (b : List Byte) : Bool :=
  let pkg := leAt b 6 1
  let w := imgVwin b
  let m := imgMwin b
  (decide (63 < pkg) && pkg != 0xFF)
    || decide (imgCpc b < 1 ∨ 4 < imgCpc b ∨ 32 < imgTpc b ∨ imgNseg b < 1 ∨ 4096 < imgNseg b ∨ 2 ^ 23 < w ∨ w < m
        ∨ 511 < imgLnBase b ∨ 512 < imgLnLen b ∨ w < imgDataLen b ∨ 32 < imgCpc b * imgTpc b)
    || w % 4096 != 0 || m % 4096 != 0
    || !(inImage b (imgSegOff b) (16 * imgNseg b)) || !(inImage b (imgPortOff b) (128 * (imgPorts b).length))
    || !(inImage b (imgSeqOff b) (8 * imgLnLen b)) || !(inImage b (imgDataOff b) (imgDataLen b))
    || !(inImage b (imgNestOff b) 384) || (imgLinkOff b != 0 && !(inImage b (imgLinkOff b) 32))

/-- Code 2: ranges, and sections past IMGLEN, the streams of the segments among them. -/
def imgBad2 (b : List Byte) : Bool :=
  imgBadHead b || (List.range (imgNseg b)).any fun k =>
        !(inImage b (leAt b (imgSegOff b + 16 * k + 8) 4) (leAt b (imgSegOff b + 16 * k + 12) 4))

/-- The refusal code that an image's first 128 bytes give, 0 for none: codes 1 and 2 come before all others. -/
def headerRefusal (b : List Byte) : Nat := if imgBad1 b then 1 else if imgBadHead b then 2 else 0

/-- An entry of the latency table is one R349 accepts. -/
def latOk (c v : Nat) : Bool :=
  if c ≤ 5 then decide (1 ≤ v ∧ v ≤ 32)
  else if c ≤ 11 then decide (1 ≤ v ∧ v ≤ 96)
  else if c = 12 then v == 9
  else decide (1 ≤ v ∧ v ≤ 255)

/-- Code 3. -/
def imgBad3 (b : List Byte) : Bool := (imgLat b).zipIdx.any fun p => !(latOk p.2 p.1)

/-- Code 4: a segment breaks R346 or R347. -/
def imgBad4 (b : List Byte) : Bool :=
  let segs := imgSegs b
  segs.any fun g =>
    g.caddr % 2 != 0 || decide (g.plen < 1 ∨ 2048 < g.plen ∨ 2 ^ 32 < g.caddr + 2 * g.plen)
      || (g.next != 0xFFFF && decide (imgNseg b ≤ g.next))
      || (match imgParcels b g.idx with
          | some ps => ps.length != g.plen || !(wholeBundles g.plen g.plen ps)
          | none => true)
      || segs.any fun h => h.idx != g.idx && decide (g.caddr < h.caddr + 2 * h.plen ∧ h.caddr < g.caddr + 2 * g.plen)

/-- Code 5: a port record breaks R239, or a word of it is reserved. -/
def imgBad5 (b : List Byte) : Bool :=
  (imgPorts b).any fun p => !(portRecordOk p.2) ||
    (match decodeWords 0 (PortSlot.load p.2).words with | .ok _ => false | .error _ => true)

/-- Code 6. -/
def imgBad6 (b : List Byte) : Bool := decide (512 < imgLnBase b + imgLnLen b)

/-- The peer a link-use table gives a port: 0xFF for none (R355). -/
def imgPeer (b : List Byte) (port : Nat) : Nat := if imgLinkOff b = 0 then 0xFF else leAt b (imgLinkOff b + 2 * port) 1

/-- Code 7: PKG, or the link-use table breaks R355. -/
def imgBad7 (pkg : Nat) (b : List Byte) : Bool :=
  (leAt b 6 1 != 0xFF && leAt b 6 1 != pkg) || (imgLinkOff b != 0 && (List.range 16).any fun p =>
    leAt b (imgLinkOff b + 2 * p + 1) 1 != 0 || (decide (63 < imgPeer b p) && imgPeer b p != 0xFF))

/-- The first refusal code of R345 that an image gets, 0 for none; code 8 is the loading supervisor's. -/
def imageCheck (pkg : Nat) (b : List Byte) : Nat :=
  if imgBad1 b then 1 else if imgBad2 b then 2 else if imgBad3 b then 3 else if imgBad4 b then 4
  else if imgBad5 b then 5 else if imgBad6 b then 6 else if imgBad7 pkg b then 7 else 0

/-! ## Code of a context (R88, R348) -/

/-- The image of the kernel a context runs. -/
def kernelImage (s : State) (kid : Nat) : List Byte :=
  match s.kernels.find? fun k => k.kid == kid with
  | some k => k.image
  | none => []

/-- The segment of an image that covers a code address. -/
def segAt (b : List Byte) (a : Nat) : Option SegEnt :=
  (imgSegs b).find? fun g => decide (g.caddr ≤ a ∧ a < g.caddr + 2 * g.plen)

/-- The half of a loop buffer that covers a code address. -/
def halfAt (t : Ctx) (a : Nat) : Option Half :=
  ([t.half0, t.half1].filterMap id).find? fun h => decide (h.base ≤ a ∧ a < h.base + 2 * h.parcels.length)

/-- The kernel's code covers an address (R102). -/
def codeCovers (s : State) (t : Ctx) (a : Nat) : Bool :=
  (halfAt t a).isSome || (segAt (kernelImage s t.kernel) a).isSome

/-- The parcels of a half from an address on. -/
def Half.from_ (h : Half) (a : Nat) : List Nat := h.parcels.drop ((a - h.base) / 2)

/-- The parcels from an address to the end of its segment, from a loop-buffer half or from the image. -/
def codeFrom (s : State) (t : Ctx) (a : Nat) : List Nat :=
  match halfAt t a with
  | some h => h.from_ a
  | none =>
    let b := kernelImage s t.kernel
    match segAt b a with
    | some g => ((imgParcels b g.idx).getD []).drop ((a - g.caddr) / 2)
    | none => []

/-- The body of `len` parcels from an address breaks a rule of R154: it lies in more than one half, or does not end at
the end of a bundle. -/
def bodyBroken (s : State) (t : Ctx) (a len : Nat) : Bool :=
  let ps := codeFrom s t a
  decide (ps.length < len) || !(bundleBoundary len len ps)

/-! ## Fetch of a group (R96 to R103) -/

/-- What the fetch of a group gives. -/
inductive Fetch where
  /-- the segment is in no half yet: the context waits for the prefetch engine (R88) -/
  | wait
  /-- no segment covers the address (R102) -/
  | uncovered
  /-- a decode check fails; whether in the second bundle -/
  | bad (e : DecodeError) (b2 : Bool)
  /-- the operations of the group in slot order, D of its first header, the address of the second bundle and of the
  group after, and the slots of the second bundle -/
  | group (ops : List Instr) (d : Bool) (addr2 next second : Nat)

/-- An address is the end of an active LOOP or LOOPN body (R100). -/
def loopEnd (t : Ctx) (a : Nat) : Bool :=
  (match t.loop with | some l => l.start + l.len == a | none => false)
    || (match t.loopn with | some l => l.start + l.len == a | none => false)

/-- The header of a bundle read for its structure only. -/
def headerOf (ps : List Nat) : Option Header :=
  match ps with
  | [] => none
  | h :: _ => decodeHeader (h % 65536)

/-- The header of the next group of a context has D = 1 (R332, R339). -/
def nextIsDrainPoint (s : State) (c x : Nat) : Bool :=
  match headerOf (codeFrom s (getCtx s c x) (getCtx s c x).pc) with
  | some hd => hd.d
  | none => false

/-- Operations in ascending slot order, from two bundles each in slot order. -/
def mergeSlots (hd1 hd2 : Header) (a b : List Instr) : List Instr :=
  (((hd1.slots.zip a) ++ (hd2.slots.zip b)).foldl (fun acc p =>
    acc.takeWhile (fun q => decide (q.1 < p.1)) ++ p :: acc.dropWhile (fun q => decide (q.1 < p.1))) []).map (·.2)

/-- The second bundle of a group, at `a2`, whose parcels are `ps2` (R100, R103). `b1` is the first bundle as decoded. A failure
of the group's structure is reported with B2 = 0, whichever bundle breaks it (log 84). -/
def fetchSecond (super : Bool) (hd : Header) (b1 : Except DecodeError Bundle) (a2 : Nat) (ps2 : List Nat) : Fetch :=
  match headerOf ps2, decodeBundle super ps2 with
  | none, _ | some _, .error .header => .bad .header true
  | some hd2, r2 =>
    if !hd2.s || hd2.d || hd.mask &&& hd2.mask != 0 then .bad .structure false
    else match b1, r2 with
      | .error e, _ => .bad e false
      | .ok _, .error e => .bad e true
      | .ok b, .ok b2 => .group (mergeSlots hd hd2 b.ops b2.ops) hd.d a2 (a2 + 2 * hd2.parcels) hd2.mask

/-- The group at an address of a context on a core (R96 to R103). An odd address is a header failure (log 83); an S = 0 bundle
at the end of its segment or of a LOOP or LOOPN body is a structure failure, whatever follows it (log 85). -/
def fetch (s : State) (super : Bool) (t : Ctx) (a : Nat) : Fetch :=
  match halfAt t a with
  | none => if (segAt (kernelImage s t.kernel) a).isSome then .wait else .uncovered
  | some h =>
    let ps := h.from_ a
    match headerOf ps, decodeBundle super ps with
    | none, _ | some _, .error .header => .bad .header false
    | some hd, b1 =>
      if a % 2 = 1 then .bad .header false
      else if hd.s then
        match b1 with
        | .error e => .bad e false
        | .ok b => .group b.instrs hd.d a (a + 2 * hd.parcels) 0
      else
        let a2 := a + 2 * hd.parcels
        if (ps.drop hd.parcels).isEmpty || loopEnd t a2 then .bad .structure false
        else fetchSecond super hd b1 a2 (ps.drop hd.parcels)

end Sys2Proof.Machine
end

