-- ==== Sys2Proof/Machine/Context.lean ====
section
/-!
DEFINITION. Freezing and resuming contexts: what the freeze unit captures, the save image and its bytes, and CTXRES (spec
13; 16 R387, R389; 14 R348).
-/
namespace Sys2Proof.Machine

/-! ## Capture (R333) -/

/-- The bytes of chunk `k` that stand in units still to perform. -/
def Cmd.bytesLeft (m : Cmd) (k : Nat) : Nat :=
  ((m.units.filter fun u => u.chunk == k + 1).map fun u => (u.pieces.map (·.n)).sum).sum

/-- Chunk `k` of a command has begun to perform. -/
def Cmd.begun (m : Cmd) (k : Nat) : Bool :=
  let n := (alGet [] m.got k).length
  if m.form.load then decide (0 < n) else decide (k < m.ported ∧ m.bytesLeft k < n)

/-- The first chunk of a command that has still to perform: the next chunk of a saved command (R333, R338). -/
def Cmd.nextChunk (m : Cmd) : Nat :=
  (m.units.filter fun u => decide (0 < u.chunk ∧ u.chunk ≤ m.chunks)).foldl (fun a u => min a (u.chunk - 1))
    (if m.form.load then m.chunks else m.ported)

/-- A command does not stand at a chunk boundary: a chunk has performed in part, or out of order, or a unit of it has been
sent. The capture waits until the chunks that have begun have performed in full (R333). -/
def Cmd.midChunk (m : Cmd) : Bool :=
  !m.runsOn && (!m.sent.isEmpty || (List.range m.chunks).any fun k =>
    m.begun k && (decide (0 < m.bytesLeft k) || (m.parkedAt.isNone && decide (m.nextChunk < k))))

/-- A SLABGROW of the context is in flight (R333). -/
def Cmd.isGrow (m : Cmd) : Bool := match m.kind with | .bundle (.slabgrow ..) => true | _ => false

/-- The context started the running sequence (R280). -/
def lanternOf (k : Core) (x : Nat) : Bool := k.lanternOn && k.lantern.owner == x

/-- The freeze unit may capture the context: everything R333 waits for has come about (log 11: it waits for far scalar
accesses too). -/
def captureReady (s : State) (c x : Nat) : Bool :=
  let k := getCore s c
  let t := k.get x
  t.st == .freezing && t.frzPoint.isSome && t.longs.isEmpty && t.far.isEmpty && (t.dq.all fun d => d.arrived)
    && !(t.cmds.any fun m => m.isGrow || m.midChunk)
    && (!(lanternOf k x) || (match k.lantern.phase with | .copying _ => false | _ => true))

/-- Every queue of the context is empty (R339). -/
def queuesEmpty (t : Ctx) : Bool :=
  t.aq.isEmpty && t.dq.isEmpty && t.cmds.isEmpty && (List.finRange 8).all fun i => (t.q[i]).isEmpty

/-- The write is that of a row which has entered an engine by issue cycle `icyc`: its flags fold as it is captured (R333). -/
def Write.rowOf (icyc : Nat) : Write → Bool
  | .accAdd .. | .accOut .. => true
  | .rowFlags entry _ => decide (entry < icyc)
  | _ => false

/-- A captured write: the flags of its row have been folded, so they do not fold again (R333). -/
def Write.folded : Write → Write
  | .accAdd row vals _ => .accAdd row vals none
  | .accOut row vals zt zf pz op epc last _ => .accOut row vals zt zf pz op epc last none
  | w => w

/-- The flags of a context with those that its rows still finishing raise (R333). -/
def finishedFlags (s : State) (c x : Nat) (t : Ctx) : Flags :=
  (getCtx ((t.flights.filter fun f => f.w.rowOf t.icyc).foldl (fun s f => applyWrite s c x f.w) s) c x).flags

/-- A flight that a capture drops: it would only fold the flags of a row that the capture has folded (R333). -/
def Flight.spent (icyc : Nat) (f : Flight) : Bool :=
  match f.w with
  | .rowFlags .. => f.w.rowOf icyc
  | _ => false

/-- The row that a flight comes from has entered its engine: a continuation gives the others (R333). -/
def Flight.entered (f : Flight) (t : Ctx) : Bool := decide (f.entry < t.icyc)

/-- The context is captured (R333, R334): its exposed results are delivered at their offsets after the resume, whatever ck
pass; the flags of rows still finishing are folded. -/
def captureCtx (s : State) (c x : Nat) (t : Ctx) : Ctx :=
  { t with
    flags := finishedFlags s c x t
    flights := (t.flights.filter fun f => !(f.spent t.icyc)).map fun f =>
      { f with ready := 0, out := if f.entered t then 0 else f.out, w := f.w.folded }
    rows := t.rows.map fun r => { r with saved := some r.next }
    mark := none
    frzN := t.frzPoint.getD s.ck - t.frzAt.getD s.ck
    frzDp := nextIsDrainPoint s c x && t.flights.isEmpty && t.rows.isEmpty && queuesEmpty t }

/-- A context's engines accept operations of others: what it had given them is captured, or it uses them no more. -/
def clearBooks (k : Core) (x : Nat) : Core :=
  let k := if k.mUser = x then { k with mFree := 0 } else k
  let k := if k.tUser = x then { k with tFree := 0 } else k
  if k.rUser = x then { k with rFree := 0 } else k

/-- The context's engines, and the Lantern if it started the running sequence, are given back to the core (R280, R333):
a captured operation goes on after the resume. -/
def releaseEngines (k : Core) (x : Nat) : Core :=
  let k := clearBooks k x
  let k := if lanternOf k x then { k with lantern := { k.lantern with phase := .idle }, owner := .none } else k
  if k.owner = .ctx x then { k with owner := .none } else k

/-- What a save image holds of a context (R337, R338). -/
def savedOf (s : State) (c x : Nat) : Saved :=
  let k := getCore s c
  let t := k.get x
  let ln := lanternOf k x
  { rank := t.rank
    hw := x
    ctx := captureCtx s c x t
    now := captureCtx s c x t
    tiles := (List.range (64 * t.tcnt)).map fun i => (i, k.row (t.tbase + i / 64) (i % 64))
    mu := k.owner == .ctx x || ln
    banks := k.banks
    acc := k.acc
    live := k.live
    latA := k.latA
    latB := k.latB
    ln := ln
    lantern := k.lantern
    ports := k.ports
    serving := k.serving.filter fun v => v.ctx == x
    mFree := if k.mUser = x then k.mFree else 0
    tFree := if k.tUser = x then k.tFree else 0
    rFree := if k.rUser = x then k.rFree else 0 }

/-- A context's record in its group replaced. -/
def putSaved (g : Group) (v : Saved) : Group :=
  { g with saved := v :: g.saved.filter fun w => w.rank != v.rank }

/-- CONTEXT_FREEZE: the freeze unit captures a context (R333). -/
def captureContext (s : State) (c x : Nat) : State :=
  if captureReady s c x && !(isSup c) && !((groupOf s (getCtx s c x).group).any fun g =>
      g.saved.any fun w => w.rank == (getCtx s c x).rank) then
    let v := savedOf s c x
    let s := modGroup s (getCtx s c x).group fun g => putSaved g v
    modCore (setCtx s c x v.ctx) c fun k => releaseEngines k x
  else s

/-- CONTEXT_FREEZE (R333). -/
def execContextFreeze (core ctx : Nat) (s : State) : Host.Outcome State Fault Refusal := .next (captureContext s core ctx)

/-- FREEZE_LIMIT: 10,000 ck after the freeze reached it as it was Current, a context stops before its next group, also where
it has blocked since (R332). -/
def freezeLimit (s : State) (c x : Nat) : State :=
  modCtx s c x fun t =>
    match t.frzAt with
    | some a =>
      if isSup c = false ∧ (t.st = .current ∨ t.st = .ready ∨ t.st = .blocked) ∧ a + 10000 ≤ s.ck then
        { t with st := .freezing, frzPoint := some s.ck, frzCause := causePREEMPT, frzForced := true }
      else t
    | none => t

/-- FREEZE_LIMIT (R332). -/
def execFreezeLimit (core ctx : Nat) (s : State) : Host.Outcome State Fault Refusal := .next (freezeLimit s core ctx)

/-! ## The bytes of the save image (R334, R337 to R340) -/

/-- The image address of a context (R337). -/
def saveAddr (g : Group) (rank : Nat) : Nat := g.saves.getD rank 0

/-- The captured results: those of the rows of continuations are none (R333, R334; log 88). -/
def Saved.results (v : Saved) : List Flight := v.ctx.flights.filter fun f => f.entered v.ctx

/-- RPLN (R339). -/
def Saved.rpln (v : Saved) : Nat := (v.results.map fun f => f.w.entries).sum + v.ctx.rows.length

/-- HDR (R339). -/
def Saved.header (v : Saved) : Nat :=
  2 ^ 56 + v.ctx.frzCause % 256 * 2 ^ 48 + v.rpln % 1024 * 2 ^ 38 + v.mu.toNat * 2 ^ 37 + v.ln.toNat * 2 ^ 36
    + v.ctx.frzDp.toNat * 2 ^ 35 + v.ctx.frzForced.toNat * 2 ^ 34 + v.ctx.tcnt % 256

/-- 8 bytes of a word. -/
def w64 (w : Word) : List Byte := leBytes 8 w.toNat

/-- 8 bytes of a number. -/
def n64 (n : Nat) : List Byte := leBytes 8 n

/-- The 12 bytes of a y register (R72, R338). -/
def yBytes (y : YReg) : List Byte := leBytes 12 (y.path.toNat * 2 ^ 40 + y.depth.toNat * 2 ^ 32 + y.node.toNat)

/-- Zero bytes. -/
def zeros (n : Nat) : List Byte := List.replicate n 0

/-- A list of bytes made `n` long. -/
def fit (n : Nat) (bs : List Byte) : List Byte := bs.take n ++ zeros (n - bs.length)

/-- The operation of slot R in progress binds a slot with special functions, so that it takes a row in four issue cycles
(R248). -/
def Saved.slowR (v : Saved) : Bool := v.serving.any fun w => w.special && w.until_.any fun u => decide (v.ctx.icyc < u)

/-- Rows still to enter, for ENG of the snapshot (R340): those of an operation of slot R that needs the exponent engine, and
the chunks still to pass of a copy in it, stand in its field too. -/
def engWord (v : Saved) : Nat :=
  let left (f : Nat) : Nat := f - v.ctx.icyc
  let r := if v.slowR then (left v.rFree + 3) / 4 else left v.rFree
  let copy := (v.ctx.cmds.filter fun m =>
    v.serving.any fun w => w.seq == m.seq && w.special && w.inExp && !w.left && w.until_.isNone).map fun m => m.chunks - m.ported
  ((v.ctx.rows.filter RowsOp.inUnit).map fun r => rowCount r.ins - r.next).sum % 65536 + left v.tFree % 65536 * 2 ^ 16 + r % 65536 * 2 ^ 32
    + ((if v.slowR then r else 0) + copy.sum) % 65536 * 2 ^ 48

/-- The snapshot section (R340). -/
def snapshot (v : Saved) : List Byte :=
  let t := v.ctx
  n64 1 ++ n64 t.lastGroup ++ n64 (engWord v) ++ n64 (t.cmds.length * 2 ^ 32 + aqstatVal t % 2 ^ 21) ++ n64 t.blk
    ++ n64 t.frzN ++ zeros 80

/-- LOOP and LOOPN state (R338; log 12: the spec does not lay these 64 bytes out). -/
def loopBytes (t : Ctx) : List Byte :=
  (match t.loop with | some l => n64 l.start ++ n64 l.len ++ n64 l.left | none => zeros 24)
    ++ (match t.loopn with | some l => n64 l.start ++ n64 l.len ++ n64 (l.iters - l.t) ++ n64 l.stages ++ n64 l.t | none => zeros 40)

/-- A saved copy command: slot field, n register copy, next chunk (R338). -/
def cmdBytes (m : Cmd) : List Byte :=
  let field := match m.kind with | .bundle i => ((encode i).map (·.2)).getD 0 | _ => 0
  n64 field ++ fit 48 (m.nest.flatMap n64) ++ n64 m.nextChunk

/-- An address-queue or data-queue entry in 32 bytes (R338; log 12). -/
def queueBytes (t : Ctx) : List Byte :=
  (t.aq.flatMap fun r => n64 r.addr ++ n64 r.n ++ zeros 16)
    ++ t.dq.flatMap fun d => n64 d.addr ++ n64 (d.n + 32 * d.poison.toNat + 64 * d.half.toNat) ++ fit 16 d.data

/-- xstatus as the record holds it (R69, R338). -/
def savedStatus (v : Saved) : Nat :=
  (v.ctx.flags &&& flagsWritable).toNat * 2 ^ 8 + v.ctx.rplp.toNat * 2 ^ 4 + (v.ctx.ilk != 0).toNat * 2 ^ 3 + (v.mu && !v.ln).toNat * 4

/-- The context record (R338). -/
def recordBytes (v : Saved) : List Byte :=
  let t := v.ctx
  n64 v.header ++ n64 t.pc ++ n64 t.icyc ++ n64 t.full.toNat ++ t.g.toList.flatMap w64 ++ t.h.toList.flatMap w64
    ++ (t.q.toList.flatMap fun q => fit 32 (q.flatMap w64))
    ++ fit 8 (t.q.toList.flatMap fun q => leBytes 1 q.length)
    ++ n64 t.p.toNat ++ t.k.toList.flatMap w64 ++ (t.n.toList.flatMap fun ws => ws.toList.flatMap w64)
    ++ t.y.toList.flatMap yBytes
    ++ n64 (savedStatus v) ++ n64 t.xcause ++ w64 t.xepc ++ w64 t.xtval ++ w64 t.xport ++ w64 t.xelem ++ w64 t.xfwdo
    ++ w64 t.xfwdn ++ w64 t.xfwdw ++ n64 (xctxVal t v.hw)
    ++ loopBytes t ++ (t.codebook.flatMap (leBytes 2)) ++ snapshot v ++ fit 1024 (queueBytes t)
    ++ fit 1024 ((t.cmds.filter fun m => !m.runsOn).flatMap cmdBytes) ++ zeros 3936

/-- KIND, DEST, FIRST and the data of the entries that a key of a write makes, as they stand once the write has been applied
(R334): an acc row takes four entries, and one that the write empties takes none. -/
def entriesOf (s : State) (c x : Nat) (w : Write) (k : Nat × Nat × Nat) : List (Nat × Nat × Nat × List Byte) :=
  let t := getCtx s c x
  let core := getCore s c
  match w, k with
  | .tile t' r first bs, _ => [(4, (t' - t.tbase) * 64 + r, first, bs)]
  | .q i v, _ => [(1, 0x30 + i.val, 0, w64 v)]
  | .accOut .., (12, _, _) => []
  | .flags f, _ | .rowFlags _ f, _ => [(8, 0, 0, leBytes 2 f.toNat)]
  | .xstatus f, _ => [(8, 1, 0, leBytes 2 f.toNat)]
  | .n i l v, _ => [(0, 0x40 + 8 * i.val + l, 0, w64 v)]
  | .xepc v, _ => [(0, 0x80, 0, w64 v)]
  | _, (0, i, _) => [(0, i, 0, w64 (t.g[Fin.ofNat 32 i]))]
  | _, (1, i, _) => [(0, 0x20 + i, 0, w64 (t.h[Fin.ofNat 16 i]))]
  | _, (3, i, _) => [(2, i, 0, leBytes 1 (t.p.getLsbD i).toNat)]
  | _, (4, i, _) => [(3, i, 0, w64 (t.k[Fin.ofNat 8 i]))]
  | _, (6, i, _) => [(6, i, 0, yBytes (t.y[Fin.ofNat 64 i]))]
  | _, (7, t', r) => [(4, (t' - t.tbase) * 64 + r, 0, Row.toBytes (core.row t' r))]
  | _, (8, sd, i) => [(7, 16 * sd + i, 0, leBytes 1 ((if sd = 1 then core.latB else core.latA).getD i 0))]
  | _, (12, r, _) =>
    (List.range 4).map fun j =>
      (5, r, 192 * j, (List.range 48).flatMap fun e => leBytes 4 ((alGet [] core.acc r).getD (48 * j + e) 0))
  | _, _ => []

/-- One replay entry of 208 bytes (R334). -/
def entryBytes (off kind dest first : Nat) (bs : List Byte) : List Byte :=
  leBytes 2 off ++ leBytes 1 kind ++ zeros 1 ++ leBytes 2 dest ++ leBytes 2 first ++ leBytes 2 bs.length ++ zeros 6
    ++ fit 192 bs

/-- The replay entries of the results in flight, in landing order; each holds its data as they stand when it has been
applied (R334, R335). -/
def flightEntries (s : State) (c x icyc : Nat) : List Flight → List Byte
  | [] => []
  | f :: fs =>
    let s' := applyWrite s c x f.w
    (f.w.keys.flatMap fun k =>
      (entriesOf s' c x f.w k).flatMap fun e => entryBytes (f.due - icyc) e.1 e.2.1 e.2.2.1 e.2.2.2) ++ flightEntries s' c x icyc fs

/-- An engine continuation (R334 KIND 9). -/
def rowEntryBytes (icyc : Nat) (r : RowsOp) : List Byte :=
  entryBytes 0 9 0 0 (n64 (((encode r.ins).map (·.2)).getD 0) ++ leBytes 2 r.next ++ leBytes 2 (entryCycle r - icyc)
    ++ zeros 164)

/-- The package with a context's registers, its port slots and the matrix unit as they were captured: others may have used the
unit since (R333). -/
def asCaptured (s : State) (c x : Nat) (v : Saved) : State :=
  modCore s c fun k =>
    { k.put x v.ctx with
      banks := v.banks, acc := v.acc, live := v.live, latA := v.latA, latB := v.latB, ports := v.ports, serving := v.serving }

/-- The whole image up to the tiles (R337); the replay entries that are not valid hold free bytes (log 3). -/
def imageHead (s : State) (c x : Nat) (v : Saved) : List Byte :=
  let es := flightEntries (asCaptured s c x v) c x v.ctx.icyc v.results ++ v.ctx.rows.flatMap (rowEntryBytes v.ctx.icyc)
  recordBytes v ++ es ++ (freeBytes s (186368 - es.length))

/-- The tiles of an image (R337). -/
def tileBytes (v : Saved) : List Byte := v.tiles.flatMap fun p => Row.toBytes p.2

/-- The save image is written at its address (R337): record, replay entries and tiles; the matrix unit image and the
Lantern image are opaque, so free bytes (log 3). -/
def writeImage (s : State) (c x : Nat) (g : Group) (v : Saved) : State :=
  let a := saveAddr g v.rank
  let s1 := storeBytes (storeBytes s a (imageHead s c x v)) (a + 0x32000) (tileBytes v)
  let s2 := if v.mu then storeBytes s1 (a + 0x92000) (freeBytes { s1 with freeCtr := s1.freeCtr + 971 } 196672) else s1
  let s3 := if v.ln then storeBytes s2 (a + 0xC3000) (freeBytes { s2 with freeCtr := s2.freeCtr + 1996 } 20480) else s2
  { s3 with freeCtr := s3.freeCtr + 2103 }

/-- Every context of a group that has not retired is Frozen (R387). -/
def allFrozen (s : State) (g : Group) : Bool :=
  g.places.all fun p => match (getCtx s p.core p.ctx).st with | .frozen | .retired => true | _ => false

/-- Every context of a group has retired (R157). -/
def allRetired (g : Group) : Bool := (List.range g.ctxs).all fun r => g.retired.contains r

/-- The contexts of a group stand where it was last placed. -/
def inPlace (s : State) (g : Group) : Bool :=
  !g.places.isEmpty && g.places.zipIdx.all fun p =>
    let t := getCtx s p.1.core p.1.ctx
    t.group == g.gid && t.rank == p.2

/-- A group whose contexts are not all frozen, and that is none of `ev`, stands on a core (R415). -/
def coreRuns (s : State) (ev : List Nat) (c : Nat) : Bool :=
  s.groups.any fun g => g.st != .frozen && g.st != .assigned && !(ev.contains g.gid) && inPlace s g
    && g.places.any fun p => p.core == c

/-- Once every context of a group that has not retired is Frozen, its node is suspended and its supervisor interrupted once
(R331, R371, R387, R392); a group that has no such context left ends (R157). -/
def groupFrozen (s : State) (gid : Nat) : State :=
  match groupOf s gid with
  | none => s
  | some g =>
    if g.st = .freezing ∧ allFrozen s g = true ∧ allRetired g = false then
      let s := modGroup s gid fun g => { g with st := .frozen }
      let s := nodeState s gid .suspended
      { s with supIrq := s.supIrq ++ [(g.die, 0x101, gid)] }
    else s
where
  /-- The node of a group, of KIND 0, enters a state (R371). -/
  nodeState (s : State) (gid : Nat) (st : NodeSt) : State :=
    { s with nodes := s.nodes.map fun n => if n.kind = 0 ∧ n.group = gid ∧ n.st ≠ .done then { n with st := st } else n }

/-- SAVE_IMAGE_WRITTEN: the context is Frozen once every byte of its image has performed (R337). -/
def saveImage (s : State) (c x : Nat) : State :=
  let t := getCtx s c x
  match groupOf s t.group with
  | none => s
  | some g =>
    match g.saved.find? fun v => v.rank == t.rank with
    | none => s
    | some v =>
      if t.st = .freezing then
        groupFrozen (modCtx (writeImage s c x g v) c x fun t => { t with st := .frozen }) t.group
      else s

/-- SAVE_IMAGE_WRITTEN (R337). -/
def execSaveImageWritten (core ctx : Nat) (s : State) : Host.Outcome State Fault Refusal := .next (saveImage s core ctx)

/-! ## Resume (R341, R342) -/

/-- A replay entry that is undefined (R342): its KIND, its destination and its data are free (log 3). `f` gives its free values, `row`
those of its rows. -/
def freeWrite (f : Nat → Word) (row : Nat → Row) (t : Ctx) : Write :=
  let m (i : Nat) : Nat := (f i).toNat
  match m 0 % 12 with
  | 0 => .g (Fin.ofNat 32 (m 1)) (f 2)
  | 1 => .h (Fin.ofNat 16 (m 1)) (f 2)
  | 2 => .n (Fin.ofNat 8 (m 1)) (m 3 % 6) (f 2)
  | 3 => .xepc (f 2)
  | 4 => .q (Fin.ofNat 8 (m 1)) (f 2)
  | 5 => .p (Fin.ofNat 8 (m 1)) (bitAt (m 2) 0)
  | 6 => .k (Fin.ofNat 8 (m 1)) (f 2)
  | 7 => .y (m 1 % 64) ⟨(f 2).setWidth _, (f 3).setWidth _, (f 4).setWidth _⟩
  | 8 => .latch (bitAt (m 2) 0) (m 1 % 12) (m 3 % 256)
  | 9 => .accAdd (m 1 % 64) ((List.range 4).flatMap fun j => elemsOf 32 48 (row j).toNat) none
  | 10 =>
    if t.tcnt = 0 then .flags 0
    else .tile (t.tbase + m 1 % t.tcnt) (m 2 % 64) (m 3 % 192) (((Row.toBytes (row 0)).drop (m 3 % 192)).take (1 + m 4 % 192))
  | _ => .flags ((f 2).setWidth 10 &&& 0x3F)

/-- An engine continuation that is undefined (R342): a free operation of slot T, M or R, where it decodes to one (log 3). -/
def freeRowsOp (f : Nat → Word) (row : Row) (icyc op slot : Nat) : Option RowsOp :=
  let m (i : Nat) : Nat := (f i).toNat
  (decodeSlot slot (m 0)).bind fun i =>
    if rowCount i = 0 then none
    else
      let n := m 1 % rowCount i
      some ⟨op, i, icyc + m 2 % 65536, 0, n, m 3, row, some n, 1⟩

/-- What a record holds that the supervisor changed elsewhere than at RPC is undefined (R342; log 3): registers, queues, loops,
system registers, the issue cycle, results in flight and continuations are free, and of the saved copy commands a free choice
runs on. `op` is the first number for a continuation. -/
def undefinedRegs (s : State) (op : Nat) (t : Ctx) : Ctx :=
  let f (i : Nat) : Word := Config.freeValue (s.freeCtr + i)
  let m (i : Nat) : Nat := (f i).toNat
  let icyc := m 479
  { t with
    g := Vector.ofFn fun i => f i.val
    h := Vector.ofFn fun i => f (32 + i.val)
    k := Vector.ofFn fun i => f (48 + i.val)
    n := Vector.ofFn fun i => Vector.ofFn fun l => f (56 + 6 * i.val + l.val)
    p := (f 104).setWidth 8 ||| 1
    flags := (f 105).setWidth 10 &&& flagsWritable
    full := (f 106).setWidth 32
    q := Vector.ofFn fun i => (List.range (m (107 + i.val) % 5)).map fun j => f (115 + 4 * i.val + j)
    y := Vector.ofFn fun i => ⟨(f (147 + 3 * i.val)).setWidth _, (f (148 + 3 * i.val)).setWidth _, (f (149 + 3 * i.val)).setWidth _⟩
    codebook := (List.range 16).map fun i => m (339 + i) % 65536
    xcause := m 355 % 256
    xepc := f 356
    xtval := f 357
    xport := f 358 &&& 0xFFF0F3
    xelem := f 359
    xfwdo := f 360 &&& 0xFFFFFFFFFFFF
    xfwdn := f 361 &&& 0xFFFFFFFFFFFF
    xfwdw := f 362 &&& 0x80FF00FFFFFFFFFF
    loop := if bitAt (m 363) 0 then some ⟨m 364, m 365, m 366⟩ else none
    loopn := if bitAt (m 363) 1 then
        some ⟨m 367, m 368, (List.range 6).map fun i => m (369 + i), m 375, m 376 % 4 + 1, m 377, Fin.ofNat 32 (m 378), Fin.ofNat 32 (m 379)⟩
      else none
    aq := (List.range (m 380 % 17)).map fun i => ⟨t.uid + i, bits (m (381 + i)) 47 0, 8 + 8 * (m (397 + i) % 2)⟩
    dq := (List.range (m 413 % 17)).map fun i =>
      ⟨t.uid + 16 + i, m (414 + i), 16, true, bitAt (m (430 + i)) 0, bitAt (m (430 + i)) 1,
        leBytes 8 (m (446 + i)) ++ leBytes 8 (m (462 + i)), false, none, none⟩
    cmds := (t.cmds.zipIdx.filter fun p => p.1.runsOn || bitAt (m 478) p.2).map (·.1)
    uid := t.uid + 32
    icyc := icyc
    rplLast := m 480 % 897
    rplp := bitAt (m 481) 0
    rows := ([7, 8, 9].zipIdx.filter fun p => bitAt (m 482) p.2).filterMap fun p =>
      freeRowsOp (fun i => f (483 + 4 * p.2 + i)) (Config.freeRow (s.freeCtr + p.2)) icyc (op + p.2) p.1
    flights := ((List.range (m 495 % 897)).map fun i =>
        (⟨icyc + m (496 + 6 * i) % 65536, 0, 0, 0, 0, 0,
          freeWrite (fun j => f (497 + 6 * i + j)) (fun j => Config.freeRow (s.freeCtr + 3 + 4 * i + j)) t⟩ : Flight)).foldl
      (fun fs w => insertFlight w fs) [] }

/-- The matrix unit and the Lantern of a context whose record was changed (R342; log 3): whether it brings them is free, where they
are free, and so is what they hold. -/
def undefinedUnits (s : State) (k : Core) (v : Saved) : Saved :=
  let f (i : Nat) : Word := Config.freeValue (s.freeCtr + 6000 + i)
  let m (i : Nat) : Nat := (f i).toNat
  let row (i : Nat) : Row := Config.freeRow (s.freeCtr + 6000 + i)
  let mu := bitAt (m 0) 0 && k.owner == .none
  { v with
    mu := mu
    ln := mu && bitAt (m 0) 1 && !k.lanternOn
    banks := Vector.ofFn fun b => ⟨(Fmt.ofCode (m (1 + b.val) % 256)).getD .bf16, (List.range 192).map fun i => row (192 * b.val + i)⟩
    acc := (List.range 64).map fun r => (r, (List.range 4).flatMap fun j => elemsOf 32 48 (row (768 + 4 * r + j)).toNat)
    live := f 5
    latA := (List.range 16).map fun i => m (6 + i) % 256
    latB := (List.range 16).map fun i => m (22 + i) % 256
    lantern := { v.lantern with
      phase := .running, pc := m 38 % 512, s := (List.range 16).map fun i => m (39 + i)
      params := (List.range 8).flatMap fun i => leBytes 8 (m (55 + i)) } }

/-- A write in flight with its physical tiles moved by `d` (R341). -/
def moveWrite (d : Int) (w : Write) : Write :=
  match w with
  | .tile t r f bs => .tile ((t : Int) + d).toNat r f bs
  | .accOut row vs zt zf pz op e l fl => .accOut row vs ((zt : Int) + d).toNat zf pz op e l fl
  | w => w

/-- Numbers of port-slot services moved by `n` (R244). -/
def moveOps (n : Nat) (t : Ctx) : Ctx :=
  { t with
    rows := t.rows.map fun r => { r with op := r.op + n }
    cmds := t.cmds.map fun m => { m with seq := m.seq + n }
    flights := t.flights.map fun f => match f.w with
      | .accOut row vs zt zf pz op e l fl => { f with w := .accOut row vs zt zf pz (op + n) e l fl }
      | _ => f }

/-- A saved command issues again, by the grants as they now stand (R341, R385); its tiles have moved. One that has run on
goes on as it is (R333). -/
def Cmd.reissued (grants : List ((Nat × Nat × Nat) × Nat)) (mv : List Nat → List Nat) (m : Cmd) : Cmd :=
  { m with
    tileR := mv m.tileR
    tileW := mv m.tileW
    parkedAt := none
    grants := if m.runsOn then m.grants else grants }

/-- A context as it resumes at a place in ck `ck` (R341). -/
def resumedCtx (v : Ctx) (grants : List ((Nat × Nat × Nat) × Nat)) (rpc tbase gsc ck : Nat) : Ctx :=
  let d : Int := (tbase : Int) - v.tbase
  { v with
    st := .ready
    pc := rpc
    tbase := tbase
    gsc := gsc
    flights := v.flights.map fun f => { f with w := moveWrite d f.w }
    cmds := v.cmds.map (Cmd.reissued grants fun ts => ts.map fun (t : Nat) => (((t : Nat) : Int) + d).toNat)
    dq := v.dq.map fun e => { e with parked := false, sent := none }
    barWait := none
    mark := none
    since := ck
    frzAt := none
    frzPoint := none
    frzForced := false
    frzDp := false
    blk := 0 }

/-- The record stands in memory as it was written, but for RPC, and for the queues where DP = 1 lets them be dropped (R342,
R343). -/
def recordSame (s : State) (a : Nat) (v : Saved) : Bool :=
  let old := recordBytes v
  let same (i n : Nat) : Bool := readBytes s.mem (a + i) n == (old.drop i).take n
  same 0 8 && same 16 0x890 && (v.ctx.frzDp || same 0x8A0 0x800) && same 0x10A0 3936

/-- A context's tiles are written back from its image (R341). -/
def restoreTiles (s : State) (k : Core) (a tbase tcnt : Nat) : Core :=
  (List.range (64 * tcnt)).foldl (fun k i =>
    k.setRow (tbase + i / 64) (i % 64) (rowOfBytes (readBytes s.mem (a + 0x32000 + 192 * i) 192))) k

/-- A service entered among those of a core, by its number (R244). -/
def insertServe (v : Serve) : List Serve → List Serve
  | [] => [v]
  | w :: ws => if w.seq < v.seq then w :: insertServe v ws else v :: w :: ws

/-- The captured context still stands where it was captured, with what its running commands have done since (R333). -/
def standsCaptured (t : Ctx) : Bool := t.frzPoint.isSome

/-- The port-slot services of a context that has moved join those of its core, their numbers moved by `n` (R244, R341). -/
def joinServes (v : Saved) (x n : Nat) (k : Core) : Core :=
  { k with
    serving := v.serving.foldl (fun ws w => insertServe { w with ctx := x, seq := w.seq + n } ws) k.serving
    opSeq := v.serving.foldl (fun m w => max m (w.seq + n + 1)) k.opSeq }

/-- The engines that a context's continuations hold are its own again (R341). -/
def holdBooks (v : Saved) (x icyc : Nat) (k : Core) : Core :=
  let k := if icyc < v.mFree then { k with mFree := v.mFree, mUser := x } else k
  let k := if icyc < v.tFree then { k with tFree := v.tFree, tUser := x } else k
  if icyc < v.rFree then { k with rFree := v.rFree, rUser := x } else k

/-- The matrix unit and the Lantern as a save image holds them (R280, R341): END and CAUSE are those of the core. -/
def restoreUnits (v : Saved) (x : Nat) (k : Core) : Core :=
  let k := if v.mu then
      { k with banks := v.banks, acc := v.acc, live := v.live, latA := v.latA, latB := v.latB
               owner := if v.ln then .lantern else .ctx x }
    else k
  if v.ln then
    { k with lantern := { v.lantern with owner := x, endCode := k.lantern.endCode, cause := k.lantern.cause } }
  else k

/-- A context resumes on a core (R341): where it was captured, or where it has moved to. -/
def resumeCtx (s : State) (g : Group) (v : Saved) (p : Place) (gsc : Nat) : State :=
  let a := saveAddr g v.rank
  let here := getCtx s p.core p.ctx
  let moved := !(standsCaptured here)
  let n := if moved then (getCore s p.core).opSeq else 0
  let t := moveOps n (resumedCtx (if moved then v.now else here) (s.tables.filter fun e => e.1.1 == 2) (memLe s (a + 8) 8)
    p.tbase gsc s.ck)
  let t := { t with rplLast := v.rpln, rplp := v.rpln != 0 }
  let s := modCore s p.core fun k =>
    let k := if moved then joinServes v p.ctx n k else k
    if recordSame s a v then (holdBooks v p.ctx t.icyc (restoreUnits v p.ctx (restoreTiles s k a p.tbase t.tcnt))).put p.ctx t
    else
      let k := restoreUnits (undefinedUnits s k v) p.ctx (restoreTiles s k a p.tbase t.tcnt)
      { k.put p.ctx (undefinedRegs s k.opSeq t) with opSeq := k.opSeq + 3 }
  { s with freeCtr := s.freeCtr + 8192 }

/-- The lowest of co, dl and ch that encloses the cores of a group (R17). -/
def resolveScope (ps : List Place) : Nat :=
  match ps with
  | [] => 1
  | p :: rest =>
    if rest.all fun q => q.core == p.core then 1
    else if rest.all fun q => dieOf q.core == dieOf p.core then 2
    else 3

/-- A group whose record shows another version: the save address (R342). -/
def badVersion (s : State) (g : Group) : Option Nat :=
  (g.saved.map fun v => saveAddr g v.rank).find? fun a => bits (memLe s a 8) 63 56 != 1

/-- A core that a context resumes on is not free for it yet: one that brings a Lantern sequence needs the Lantern idle, one
that brings the matrix unit needs it unowned, and one with an engine continuation needs its engine (R280, R341, R380; log
35). -/
def resumeBusy (s : State) (v : Saved) (p : Place) : Bool :=
  let k := getCore s p.core
  let inUse (user free : Nat) : Bool := decide ((k.get user).icyc < free)
  (v.ln && k.lanternOn) || (v.mu && k.owner != .none)
    || (decide (v.ctx.icyc < v.mFree) && inUse k.mUser k.mFree)
    || (decide (v.ctx.icyc < v.tFree) && inUse k.tUser k.tFree)
    || (decide (v.ctx.icyc < v.rFree) && inUse k.rUser k.rFree)

/-- A frozen group and its contexts are Resuming (R329, R392): what is saved is restored at a later turn. -/
def beginResume (s : State) (gid : Nat) : State :=
  match groupOf s gid with
  | none => s
  | some g =>
    if g.st = .frozen then
      modGroup (g.places.foldl (fun s p => modCtx s p.core p.ctx fun t =>
        if t.group = gid ∧ t.st = .frozen then { t with st := .resuming } else t) s) gid fun g => { g with st := .resuming }
    else s

/-- A node goes to the head of the queue of its PRIO level, for its group to be resumed (R371). -/
def backInQueue (s : State) (n : Node) : Node :=
  { n with st := .ready, level := leAt n.record 7 1 % 8, since := s.ck, seq := s.nodeSeq + 1 }

/-- CTXRES: the group resumes where it stands, and its node is Ready until it has (R149, R341, R371, R376). -/
def resumeGroup (s : State) (gid : Nat) : State :=
  let s1 := beginResume s gid
  { s1 with
    nodes := s1.nodes.map fun n => if n.group = gid ∧ n.st = .suspended then backInQueue s n else n
    nodeSeq := s1.nodeSeq + 1 }

/-- The contexts of a resuming group are restored at its places (R341), all in one step. -/
def restoreGroup (s : State) (g : Group) : State :=
  let gsc := resolveScope g.places
  modGroup (g.saved.foldl (fun s v =>
    match g.places[v.rank]? with
    | some p => resumeCtx s g v p gsc
    | none => s) s) g.gid fun g => { g with saved := [], gsc := gsc }

/-! ## Expansion of code segments (R88, R348) -/

/-- The half of the loop buffer that holds a segment of the image. -/
def loadHalf (b : List Byte) (g : SegEnt) : Half := ⟨g.idx, g.caddr, (imgParcels b g.idx).getD []⟩

/-- A half holds the segment with an index. -/
def holdsSeg (h : Option Half) (i : Nat) : Bool := match h with | some h => h.seg == i | none => false

/-- The prefetch engine expands the segment that the context waits for, else the one that NEXT of the executing segment
names (R348). -/
def expandSegment (s : State) (c x : Nat) : State :=
  let t := getCtx s c x
  let b := kernelImage s t.kernel
  match halfAt t t.pc with
  | none =>
    match segAt b t.pc with
    | some g => setCtx s c x (if holdsSeg t.half0 t.seg then { t with half1 := some (loadHalf b g) }
        else { t with half0 := some (loadHalf b g) })
    | none => s
  | some h =>
    match (imgSegs b)[h.seg]? with
    | some g =>
      if g.next = 0xFFFF ∨ holdsSeg t.half0 g.next ∨ holdsSeg t.half1 g.next then s
      else match (imgSegs b)[g.next]? with
        | some n => setCtx s c x (if holdsSeg t.half0 h.seg then { t with half1 := some (loadHalf b n) }
            else { t with half0 := some (loadHalf b n) })
        | none => s
    | none => s

/-- SEGMENT_EXPANSION (R348). -/
def execSegmentExpansion (core ctx : Nat) (s : State) : Host.Outcome State Fault Refusal := .next (expandSegment s core ctx)

/-! ## Deliveries, landings, reports and the watchdog as events -/

/-- EXPOSED_RESULT_DELIVERY: the results due in an empty issue cycle, or while the context waits, reach their
destinations when the context next starts a group (R61); those whose issue cycle has come may be delivered as soon as
the context could issue. -/
def execExposedResultDelivery (core ctx : Nat) (s : State) : Host.Outcome State Fault Refusal :=
  .next (if (getCtx s core ctx).st = .current then deliver s core ctx else s)

/-- LONG_LATENCY_LANDING (R75): results for one register land in order (R84). -/
def execLongLatencyLanding (core ctx idx : Nat) (s : State) : Host.Outcome State Fault Refusal :=
  .next (match (getCtx s core ctx).longs[idx]? with
    | some r => if r.due ≤ s.ck ∧ landsNext (getCtx s core ctx).longs r = true then landLong s core ctx r else s
    | none => s)

/-- WATCHDOG: 2^32 ck Blocked, or stalled in place (R68). -/
def execWatchdog (core ctx : Nat) (s : State) : Host.Outcome State Fault Refusal :=
  .next (
    let t := getCtx s core ctx
    if !(isSup core) && (decide (t.blk ≠ 0) && (t.st == .blocked || t.st == .current)) && decide (t.since + 2 ^ 32 ≤ s.ck) then
      takeTrap s core ctx causeWATCHDOG t.blk t.pc
    else s)

/-- ASYNC_TRAP: the Current context takes its oldest report, at a bundle boundary; one that is switched out takes it at its next
issue cycle (R138, R189). -/
def execAsyncTrap (core ctx : Nat) (s : State) : Host.Outcome State Fault Refusal :=
  .next (
    let t := getCtx s core ctx
    match t.asyncs with
    | [] => s
    | a :: rest =>
      if t.st = .current then
        takeAsync (modCtx s core ctx fun t => { t with asyncs := rest }) core ctx a
      else s)

end Sys2Proof.Machine
end

