-- ==== Sys2Proof/Machine/Branch.lean ====
section
/-!
DEFINITION. Slot BR: barriers, branches, traps, freezing, fences, the Lantern's start, loops, node submission, tables and
system registers (spec 05 R145 to R159; 09 R277; 14 R354; 17 R401, R404).
-/
namespace Sys2Proof.Machine

/-! ## NOP, BARA, BARW, BARP (R98, R145, R146) -/

/-- NOP: a group with no operation (R98). S of its header says only whether the next bundle joins the group. -/
def execNop (_ d : Bool) (s : State) : Host.Outcome State Fault Refusal :=
  .next (runGroup [] { s with issue := { s.issue with d := d } })

/-- The scope code of an operation of the issuing context (R14, R17). -/
def scopeCode (s : State) (sc : Fin 8) : Nat := if sc = 7 then s.me.gsc else sc.val

/-- A BARA counts once the accesses that stand within its scope have performed (R145, R318). -/
def arrive (s0 : State) (sc : Fin 8) (b : Nat) (s : State) : State :=
  let need := outstandingIn s0 (scopeCode s0 sc) s0.issue.core s0.issue.ctx
  if need.isEmpty then countArrival s s0.issue.core s0.issue.ctx b
  else s.modMe fun t => { t with arrivals := t.arrivals ++ [⟨b, scopeCode s0 sc, need⟩] }

/-- BARA (R145, R404). -/
def opBara (gd : Guard) (sc : Fin 8) (bar : Fin 1024) : Op where
  slot := 0
  guard := gd
  traps := fun s _ =>
    let v := getSlot s s.chiplet bar.val
    grantTraps s sc bar.val ++ trapIf (v.on && v.ring && v.free == v.depth) ⟨4, causeRESERVED, bar.val⟩
  effect := fun s0 _ s => arrive s0 sc bar.val s

/-- BARA (R145, R404). -/
def execBara (gd : Guard) (sc : Fin 8) (bar : Fin 1024) (s : State) : Host.Outcome State Fault Refusal :=
  runOne (opBara gd sc bar) s

/-- The traps of a BARW (R146, R401, R405). -/
def barwTraps (s : State) (sc : Fin 8) (b : Nat) : List Trap :=
  if cfgReleased s b then [⟨9, causeCHECKSUM, b⟩]
  else grantTraps s sc b ++ trapIf (waitOutcome s b true == .fail) ⟨9, causeCHECKSUM, b⟩

/-- BARW (R146, R401, R404, R405): one that has blocked waits until its slot ends the wait. -/
def opBarw (gd : Guard) (sc : Fin 8) (bar : Fin 1024) : Op where
  slot := 0
  guard := gd
  traps := fun s _ => barwTraps s sc bar.val
  block := fun s _ => if s.me.barWait = some bar.val ∨ waitOutcome s bar.val true = .hold then some 4 else none
  onBlock := holdWait bar.val
  onTrap := fun cause s => if cause = causeCHECKSUM then failWait bar.val s else s
  effect := fun s0 _ s => passWait s0 bar.val s

/-- BARW (R146, R401, R404, R405). -/
def execBarw (gd : Guard) (sc : Fin 8) (bar : Fin 1024) (s : State) : Host.Outcome State Fault Refusal :=
  runOne (opBarw gd sc bar) s

/-- BARP (R146, R401, R404). -/
def opBarp (gd : Guard) (sc : Fin 8) (bar : Fin 1024) (pd : Fin 8) : Op where
  slot := 0
  guard := gd
  traps := fun s _ =>
    grantTraps s sc bar.val ++ trapIf (waitOutcome s bar.val false == .fail) ⟨9, causeCHECKSUM, bar.val⟩
  onTrap := fun cause s => if cause = causeCHECKSUM then failWait bar.val s else s
  effect := fun s0 _ s =>
    if waitOutcome s0 bar.val false = .pass then give (passWait s0 bar.val s) 3 (.p pd true) 0
    else give s 3 (.p pd false) 0

/-- BARP (R146, R401, R404). -/
def execBarp (gd : Guard) (sc : Fin 8) (bar : Fin 1024) (pd : Fin 8) (s : State) : Host.Outcome State Fault Refusal :=
  runOne (opBarp gd sc bar pd) s

/-! ## Branches (R147) -/

/-- The address of the header of the bundle that holds slot BR. -/
def ownHeader (s : State) : Nat := if inSecond s 0 then s.issue.addr2 else s.issue.addr

/-- The target of a branch with an offset in parcels (R147); an address below 0 is one that no code covers. -/
def branchTarget (s : State) (off : BitVec 23) : Nat := wrapN ((ownHeader s : Int) + 2 * off.toInt) 64

/-- A target outside the code (R102, R147). -/
def targetTraps (s : State) (tgt : Nat) : List Trap :=
  trapIf (!(codeCovers s s.me tgt)) (illegalAt s 0)

/-- BRA (R147). -/
def opBra (gd : Guard) (off : BitVec 23) : Op where
  slot := 0
  guard := gd
  traps := fun s _ => targetTraps s (branchTarget s off)
  goto := fun s _ => some (true, branchTarget s off)

/-- BRA (R147). -/
def execBra (gd : Guard) (off : BitVec 23) (s : State) : Host.Outcome State Fault Refusal := runOne (opBra gd off) s

/-- BRI (R147). -/
def opBri (gd : Guard) (a : GSrc) : Op where
  slot := 0
  guard := gd
  srcs := [gs a]
  traps := fun s v =>
    let tgt := (operand v 0).toNat
    if tgt % 2 = 1 then [⟨7, causeALIGN, tgt⟩] else targetTraps s tgt
  goto := fun _ v => some (true, (operand v 0).toNat)

/-- BRI (R147). -/
def execBri (gd : Guard) (a : GSrc) (s : State) : Host.Outcome State Fault Refusal := runOne (opBri gd a) s

/-- CALL (R147). -/
def opCall (gd : Guard) (off : BitVec 23) : Op where
  slot := 0
  guard := gd
  dsts := [31]
  traps := fun s _ => targetTraps s (branchTarget s off)
  goto := fun s _ => some (true, branchTarget s off)
  effect := fun s0 _ s => give s 0 (.g 31 (BitVec.ofNat 64 s0.issue.next)) 0

/-- CALL (R147). -/
def execCall (gd : Guard) (off : BitVec 23) (s : State) : Host.Outcome State Fault Refusal := runOne (opCall gd off) s

/-! ## BREAK, TRAPI (R148) -/

/-- BREAK (R148). -/
def opBreakI (gd : Guard) : Op where
  slot := 0
  guard := gd
  traps := fun _ _ => [⟨12, causeBREAK, 0⟩]

/-- BREAK (R148). -/
def execBreakI (gd : Guard) (s : State) : Host.Outcome State Fault Refusal := runOne (opBreakI gd) s

/-- TRAPI (R148). -/
def opTrapi (gd : Guard) (imm : BitVec 16) : Op where
  slot := 0
  guard := gd
  traps := fun _ _ => [⟨12, causeTRAPI, imm.toNat⟩]

/-- TRAPI (R148). -/
def execTrapi (gd : Guard) (imm : BitVec 16) (s : State) : Host.Outcome State Fault Refusal := runOne (opTrapi gd imm) s

/-! ## CTXFRZ, CTXRES (R149) -/

/-- A context selector's zero fields are zero (R149). -/
def selectorOk (v : Nat) : Bool := bits v 63 26 == 0 && bits v 21 21 == 0 && bits v 14 2 == 0

/-- The core and the context that a selector names (R149). -/
def selected (v : Nat) : Nat × Nat := (bits v 25 22 * 65 + bits v 20 15, bits v 1 0)

/-- The traps that CTXFRZ and CTXRES share (R149; xtval of neither is stated: log 3). -/
def selectorTraps (s : State) (v : Nat) : List Trap :=
  if !(isSup s.issue.core) then [⟨1, causePRIV, openVal s⟩]
  else trapIf (!(selectorOk v)) ⟨4, causeRESERVED, openVal s⟩

/-- The group of a selected context, where it has one. -/
def selectedGroup (s : State) (v : Nat) : Option Group :=
  groupOf s (getCtx s (selected v).1 (selected v).2).group

/-- CTXFRZ has nothing to wait for (R149, R387): the context has no group, or every context of the group that has not retired
is Frozen; or, as the instruction first tries, the named context is frozen or retired already. -/
def freezeDone (s : State) (v : Nat) : Bool :=
  let t := getCtx s (selected v).1 (selected v).2
  match selectedGroup s v with
  | none => true
  | some g => t.st == .free || g.st == .frozen || allFrozen s g
      || (s.me.frzAt.isNone && (t.st == .frozen || t.st == .retired))

/-- CTXFRZ waits: the group freezes as soon as it runs, and is not frozen anew while it is Freezing (R387). -/
def waitFreeze (gid : Nat) (s : State) : State :=
  (freezeGroup s gid).modMe fun t => { t with frzAt := some (t.frzAt.getD s.ck) }

/-- CTXFRZ (R149). -/
def opCtxfrz (gd : Guard) (a : GSrc) : Op where
  slot := 0
  guard := gd
  srcs := [gs a]
  traps := fun s v => selectorTraps s (operand v 0).toNat
  kick := fun s v =>
    let w := (operand v 0).toNat
    if freezeDone s w then none else (selectedGroup s w).map fun g => waitFreeze g.gid
  effect := fun _ _ s => s.modMe fun t => { t with frzAt := none }

/-- CTXFRZ (R149). -/
def execCtxfrz (gd : Guard) (a : GSrc) (s : State) : Host.Outcome State Fault Refusal := runOne (opCtxfrz gd a) s

/-- The frozen group that CTXRES resumes: that of a context which is frozen (R149). -/
def resumable (s : State) (v : Nat) : Option Group :=
  if (getCtx s (selected v).1 (selected v).2).st = .frozen then (selectedGroup s v).filter fun g => g.st == .frozen else none

/-- CTXRES (R149, R341, R342): it completes without waiting. -/
def opCtxres (gd : Guard) (a : GSrc) : Op where
  slot := 0
  guard := gd
  srcs := [gs a]
  traps := fun s v =>
    let w := (operand v 0).toNat
    selectorTraps s w ++
      (match (resumable s w).bind (badVersion s) with | some a => [⟨4, causeRESERVED, a⟩] | none => [])
  effect := fun s0 v s =>
    match resumable s0 (operand v 0).toNat with
    | some g => resumeGroup s g.gid
    | none => s

/-- CTXRES (R149, R341, R342). -/
def execCtxres (gd : Guard) (a : GSrc) (s : State) : Host.Outcome State Fault Refusal := runOne (opCtxres gd a) s

/-! ## DRAIN, ERET, FENCE (R150 to R152) -/

/-- DRAIN (R150). -/
def opDrain (gd : Guard) : Op where
  slot := 0
  guard := gd
  stall := fun s _ => !(drained s s.issue.core s.issue.ctx)

/-- DRAIN (R150). -/
def execDrain (gd : Guard) (s : State) : Host.Outcome State Fault Refusal := runOne (opDrain gd) s

/-- ERET (R151). -/
def opEret (gd : Guard) : Op where
  slot := 0
  guard := gd
  reads := fun _ => [(10, 0, 0)]
  traps := fun s _ => trapIf (!(isSup s.issue.core)) ⟨1, causePRIV, openVal s⟩
  effect := fun s0 _ s => returnTrap s s0.issue.core s0.issue.ctx

/-- ERET (R151). -/
def execEret (gd : Guard) (s : State) : Host.Outcome State Fault Refusal := runOne (opEret gd) s

/-- FENCE (R152, R316). -/
def opFence (gd : Guard) (sc : Fin 8) : Op where
  slot := 0
  guard := gd
  stall := fun s _ => !(outstandingIn s (scopeCode s sc) s.issue.core s.issue.ctx).isEmpty
  traps := fun s _ => trapIf (sc == 7 && scopeCode s sc == 0) ⟨6, causeSCOPE, openVal s⟩

/-- FENCE (R152, R316). -/
def execFence (gd : Guard) (sc : Fin 8) (s : State) : Host.Outcome State Fault Refusal := runOne (opFence gd sc) s

/-! ## LNSTART (R153, R277) -/

/-- Exposed results of the context are still to be delivered. -/
def exposedPending (t : Ctx) : Bool := !t.flights.isEmpty || t.rows.any RowsOp.inUnit

/-- LNSTART is blocked (R277). -/
def lanternBlocked (k : Core) (x : Nat) : Bool :=
  k.lanternOn || ownedElsewhere k x || k.serving.any fun v => v.onExp k

/-- The Lantern takes the engines: step 1 of R277. It reads its parameter block and starts at a later turn; `first` is the
number of the context's next access, so that its commands follow those it issued before LNSTART (R279, R322). -/
def startLantern (e base : Nat) (s0 s : State) : State :=
  modCore s s0.issue.core fun k =>
    { k with
      owner := .lantern
      lantern := { k.lantern with
        phase := .starting, pc := e, owner := s0.issue.ctx, base := base, epc := s0.issue.addr,
        first := (k.get s0.issue.ctx).uid } }

/-- LNSTART (R153, R277). -/
def opLnstart (gd : Guard) (a b : GSrc) : Op where
  slot := 0
  guard := gd
  srcs := [gs a, gs b]
  empty := fun s _ => exposedPending s.me
  traps := fun s v =>
    if isSup s.issue.core then [illegalAt s 0]
    else trapIf (decide (511 < (operand v 0).toNat)) ⟨4, causeRESERVED, (operand v 0).toNat⟩
      ++ check143 s s.issue.core s.issue.ctx (operand v 1).toNat 64
  block := fun s _ => if lanternBlocked s.myCore s.issue.ctx then some 8 else none
  effect := fun s0 v s => startLantern (operand v 0).toNat (operand v 1).toNat s0 s

/-- LNSTART (R153, R277). -/
def execLnstart (gd : Guard) (a b : GSrc) (s : State) : Host.Outcome State Fault Refusal := runOne (opLnstart gd a b) s

/-! ## LOOP, LOOPN (R89, R90, R154, R155) -/

/-- The traps of a LOOP: a broken body, or a LOOP already active (R154). -/
def loopTraps (s : State) (len : Nat) : List Trap :=
  trapIf (bodyBroken s s.me s.issue.next len || s.me.loop.isSome) (illegalAt s 0)

/-- A LOOP as an operation; `count` gives the count. -/
def loopOp (gd : Guard) (len : Fin 256) (srcs : List Src) (count : List Word → Nat) : Op where
  slot := 0
  guard := gd
  srcs := srcs
  traps := fun s _ => loopTraps s (len.val + 1)
  goto := fun s v => if count v = 0 then some (false, s.issue.next + 2 * (len.val + 1)) else none
  effect := fun s0 v s =>
    if count v = 0 then s
    else s.modMe fun t => { t with loop := some ⟨s0.issue.next, 2 * (len.val + 1), count v⟩ }

/-- LOOP with a count register (R154). -/
def opLoop (gd : Guard) (len : Fin 256) (a : GSrc) : Op :=
  loopOp gd len [gs a] fun v => (operand v 0).toNat % 2 ^ 32

/-- LOOP with a count register (R154). -/
def execLoop (gd : Guard) (len : Fin 256) (a : GSrc) (s : State) : Host.Outcome State Fault Refusal :=
  runOne (opLoop gd len a) s

/-- LOOP with a count field (R154). -/
def opLoopImm (gd : Guard) (len : Fin 256) (count : Fin 16384) : Op := loopOp gd len [] fun _ => count.val

/-- LOOP with a count field (R154). -/
def execLoopImm (gd : Guard) (len : Fin 256) (count : Fin 16384) (s : State) : Host.Outcome State Fault Refusal :=
  runOne (opLoopImm gd len count) s

/-- LOOPN (R90, R155). -/
def opLoopn (gd : Guard) (st : Fin 4) (len : Fin 1024) (n : Fin 8) (ga gb : Fin 32) : Op where
  slot := 0
  guard := gd
  reads := fun _ => nestKeys n
  traps := fun s _ =>
    trapIf (bodyBroken s s.me s.issue.next (len.val + 1) || s.me.loop.isSome || s.me.loopn.isSome) (illegalAt s 0)
  goto := fun s _ =>
    if nestIters (nWords s.me n) = 0 then some (false, s.issue.next + 2 * (len.val + 1)) else none
  effect := fun s0 _ s =>
    let ws := nWords s0.me n
    if nestIters ws = 0 then s
    else s.modMe fun t =>
      { t with loopn := some ⟨s0.issue.next, 2 * (len.val + 1), ws, nestIters ws, st.val + 1, 0, ga, gb⟩ }

/-- LOOPN (R90, R155). -/
def execLoopn (gd : Guard) (st : Fin 4) (len : Fin 1024) (n : Fin 8) (ga gb : Fin 32) (s : State) :
    Host.Outcome State Fault Refusal := runOne (opLoopn gd st len n ga gb) s

/-! ## NSUB (R156, R373) -/

/-- An earlier scalar access of the context to a common byte has still to perform (R306). -/
def farOverlaps (s : State) (c x key n : Nat) : Bool :=
  (getCtx s c x).far.any fun f => decide (f.addr < key + n ∧ key < f.addr + f.n)

/-- The client for whom a context works: that of its group's node, or of the node a service context runs (R360, R365). -/
def submitter (s : State) (c x : Nat) : Nat :=
  let n := if isSup c then
      (if x = serviceCtx then s.nodes.find? fun n => n.kind == 1 && n.st == .running && n.group == dieOf c + 1 else none)
    else (groupOf s (getCtx s c x).group).bind fun g => s.nodes.find? fun n => n.index == g.node
  (n.map (·.client)).getD 0

/-- The entries in force in a core's window table, range word and target word; one of a paged object counts where the primary
supervisor's chiplet has the same object (R360; log 78). -/
def tableMaps (s : State) (c : Nat) : List (Nat × Nat) :=
  (List.range 256).filterMap fun e =>
    let w0 := winWord s c e 0
    let w1 := winWord s c e 1
    if bitAt w0 0 && (!(bitAt w0 25) || tabGet s 1 (chipletOf c) (bits w1 11 0) == tabGet s 1 0 (bits w1 11 0)) then
      some (w0, w1)
    else none

/-- NSUB reads the record and hands it over, with what the supervisor maps for it later (R156, R360). -/
def submitNode (s0 : State) (a : Nat) (s : State) : State :=
  let c := s0.issue.core
  let x := s0.issue.ctx
  let key := placeKey s0 c x a 64
  if poisoned s0 key 64 then
    report (countBad s key) c x ⟨causeUNCORR, s0.issue.addr, a + (firstBad s0 key 64 - key), none, none⟩
  else { s with fifo := s.fifo ++ [⟨submitter s0 c x, readBytes s0.mem key 64, tableMaps s0 c⟩] }

/-- NSUB (R156). -/
def opNsub (gd : Guard) (a : GSrc) : Op where
  slot := 0
  guard := gd
  srcs := [gs a]
  stall := fun s v =>
    decide (256 ≤ s.fifo.length) || farOverlaps s s.issue.core s.issue.ctx
      (placeKey s s.issue.core s.issue.ctx (operand v 0).toNat 64) 64
  traps := fun s v => check143 s s.issue.core s.issue.ctx (operand v 0).toNat 64
  effect := fun s0 v s => submitNode s0 (operand v 0).toNat s

/-- NSUB (R156). -/
def execNsub (gd : Guard) (a : GSrc) (s : State) : Host.Outcome State Fault Refusal := runOne (opNsub gd a) s

/-! ## RETIRE (R157) -/

/-- An engine operation of the context has rows still to enter. -/
def engineBusy (k : Core) (x : Nat) : Bool :=
  busySame k x k.mUser k.mFree || busySame k x k.tUser k.tFree || busySame k x k.rUser k.rFree

/-- The context retires (R157): it owns the matrix unit no more, and no bundle of it issues again. The group ends with its last
context, and one whose other contexts are Frozen is then Frozen (R387, R392). -/
def retireCtx (s : State) (c x : Nat) : State :=
  let t := getCtx s c x
  let s := modCore s c fun k => if k.owner = .ctx x then { k with owner := .none } else k
  groupFrozen (modGroup (modCtx s c x fun t => { t with st := .retired }) t.group fun g =>
    let h := { g with retired := t.rank :: g.retired }
    if allRetired h then { h with st := .ended } else h) t.group

/-- RETIRE (R157). -/
def opRetire (gd : Guard) : Op where
  slot := 0
  guard := gd
  empty := fun s _ => exposedPending s.me || engineBusy s.myCore s.issue.ctx
  stall := fun s _ =>
    !(exposedPending s.me || engineBusy s.myCore s.issue.ctx) &&
      (lanternOf s.myCore s.issue.ctx || !(drained s s.issue.core s.issue.ctx))
  traps := fun s _ => trapIf (isSup s.issue.core && s.issue.ctx != serviceCtx) (illegalAt s 0)
  effect := fun s0 _ s => retireCtx s s0.issue.core s0.issue.ctx

/-- RETIRE (R157). -/
def execRetire (gd : Guard) (s : State) : Host.Outcome State Fault Refusal := runOne (opRetire gd) s

/-! ## TBLRD, TBLWR, XRD, XWR (R158, R159) -/

/-- TBLRD (R158). -/
def opTblrd (gd : Guard) (d : Fin 32) (tbl : Fin 16) (a : GSrc) : Op where
  slot := 0
  guard := gd
  srcs := [gs a]
  dsts := [d]
  traps := fun s v => tableTraps s s.issue.core tbl.val (operand v 0).toNat false
  effect := fun s0 v s =>
    give s 0 (.g d (BitVec.ofNat 64 (tableRead s0 s0.issue.core tbl.val (operand v 0).toNat))) 0

/-- TBLRD (R158). -/
def execTblrd (gd : Guard) (d : Fin 32) (tbl : Fin 16) (a : GSrc) (s : State) : Host.Outcome State Fault Refusal :=
  runOne (opTblrd gd d tbl a) s

/-- A context has an access on its way to another package by a translation that a SHOOT names (R420, R440). -/
def sentNamed (t : Ctx) (v : Nat) : Bool :=
  let named (q : Sent) : Bool := q.page.any fun p => namesPage v p.1 p.2
  (t.cmds.any fun m => m.sent.any named) || t.dq.any fun d => !d.arrived && d.sent.any named

/-- A SHOOT waits while a copy engine of the chiplet, or a command at a base die, holds a translation it names (R420). -/
def shootHeld (s : State) (ch v : Nat) : Bool :=
  (s.cores.any fun p => chipletOf p.1 == ch && p.2.ctx.any fun t => sentNamed t v)
    || s.nmq.any fun q => q.2.any fun m => chipletOf m.core == ch && m.objs.any fun o => namesPage v o.1 o.2

/-- TBLWR (R158, R420). -/
def opTblwr (gd : Guard) (tbl : Fin 16) (a b : GSrc) : Op where
  slot := 0
  guard := gd
  srcs := [gs a, gs b]
  traps := fun s v => tableTraps s s.issue.core tbl.val (operand v 0).toNat true
  kick := fun s v =>
    let w := (operand v 1).toNat
    let ch := chipletOf s.issue.core
    if tbl.val = 1 ∧ (operand v 0).toNat = 4096 ∧ shootHeld s ch w then some fun s => shootDown s ch w else none
  effect := fun s0 v s => tableWrite s s0.issue.core tbl.val (operand v 0).toNat (operand v 1).toNat

/-- TBLWR (R158). -/
def execTblwr (gd : Guard) (tbl : Fin 16) (a b : GSrc) (s : State) : Host.Outcome State Fault Refusal :=
  runOne (opTblwr gd tbl a b) s

/-- What XRD of a register reads, for results of interlocked classes (R351). -/
def sysKeys : SysReg → List Key
  | .xstatus => [(9, 0, 0)]
  | .xepc => [(10, 0, 0)]
  | _ => []

/-- XRD (R159). -/
def opXrd (gd : Guard) (d : Fin 32) (xn : SysReg) : Op where
  slot := 0
  guard := gd
  dsts := [d]
  reads := fun _ => sysKeys xn
  effect := fun s0 _ s => give s 0 (.g d (sysRead s0 s0.issue.core s0.issue.ctx xn)) 0

/-- XRD (R159). -/
def execXrd (gd : Guard) (d : Fin 32) (xn : SysReg) (s : State) : Host.Outcome State Fault Refusal :=
  runOne (opXrd gd d xn) s

/-- XWR (R67, R159; xtval of PRIV is not stated: log 3). -/
def opXwr (gd : Guard) (a : GSrc) (xn : SysReg) : Op where
  slot := 0
  guard := gd
  srcs := [gs a]
  traps := fun s _ => trapIf (privReg xn && !(isSup s.issue.core)) ⟨1, causePRIV, openVal s⟩
  effect := fun s0 v s =>
    match xn with
    | .xstatus => give s 0 (.xstatus (BitVec.ofNat 10 (bits (operand v 0).toNat 17 8))) 0
    | .xepc => if isSup s0.issue.core then give s 0 (.xepc (operand v 0)) 0 else s
    | _ => s

/-- XWR (R67, R159; xtval of PRIV is not stated: log 3). -/
def execXwr (gd : Guard) (a : GSrc) (xn : SysReg) (s : State) : Host.Outcome State Fault Refusal :=
  runOne (opXwr gd a xn) s

end Sys2Proof.Machine
end

