-- ==== Sys2Proof/Machine/Group4.lean ====
section
/-!
DEFINITION. The decoding of a CCITT Group 4 stream (spec 06 R190, R191): the code words and the coding modes of ITU-T T.6, which
the spec names and does not repeat (log 4).
-/
namespace Sys2Proof.Machine

/-! ## Code words -/

/-- White runs of 0 to 63 pixels: the length and the value of each code word (ITU-T T.6; log 4). -/
def whiteRuns : List (Nat × Nat) :=
  [(8, 53), (6, 7), (4, 7), (4, 8), (4, 11), (4, 12), (4, 14), (4, 15), (5, 19), (5, 20), (5, 7), (5, 8), (6, 8),
    (6, 3), (6, 52), (6, 53), (6, 42), (6, 43), (7, 39), (7, 12), (7, 8), (7, 23), (7, 3), (7, 4), (7, 40), (7, 43),
    (7, 19), (7, 36), (7, 24), (8, 2), (8, 3), (8, 26), (8, 27), (8, 18), (8, 19), (8, 20), (8, 21), (8, 22),
    (8, 23), (8, 40), (8, 41), (8, 42), (8, 43), (8, 44), (8, 45), (8, 4), (8, 5), (8, 10), (8, 11), (8, 82),
    (8, 83), (8, 84), (8, 85), (8, 36), (8, 37), (8, 88), (8, 89), (8, 90), (8, 91), (8, 74), (8, 75), (8, 50),
    (8, 51), (8, 52)]

/-- White runs of 64, 128, ... 1,728 pixels. -/
def whiteMakeup : List (Nat × Nat) :=
  [(5, 27), (5, 18), (6, 23), (7, 55), (8, 54), (8, 55), (8, 100), (8, 101), (8, 104), (8, 103), (9, 204), (9, 205),
    (9, 210), (9, 211), (9, 212), (9, 213), (9, 214), (9, 215), (9, 216), (9, 217), (9, 218), (9, 219), (9, 152),
    (9, 153), (9, 154), (6, 24), (9, 155)]

/-- Black runs of 0 to 63 pixels. -/
def blackRuns : List (Nat × Nat) :=
  [(10, 55), (3, 2), (2, 3), (2, 2), (3, 3), (4, 3), (4, 2), (5, 3), (6, 5), (6, 4), (7, 4), (7, 5), (7, 7), (8, 4),
    (8, 7), (9, 24), (10, 23), (10, 24), (10, 8), (11, 103), (11, 104), (11, 108), (11, 55), (11, 40), (11, 23),
    (11, 24), (12, 202), (12, 203), (12, 204), (12, 205), (12, 104), (12, 105), (12, 106), (12, 107), (12, 210),
    (12, 211), (12, 212), (12, 213), (12, 214), (12, 215), (12, 108), (12, 109), (12, 218), (12, 219), (12, 84),
    (12, 85), (12, 86), (12, 87), (12, 100), (12, 101), (12, 82), (12, 83), (12, 36), (12, 55), (12, 56), (12, 39),
    (12, 40), (12, 88), (12, 89), (12, 43), (12, 44), (12, 90), (12, 102), (12, 103)]

/-- Black runs of 64, 128, ... 1,728 pixels. -/
def blackMakeup : List (Nat × Nat) :=
  [(10, 15), (12, 200), (12, 201), (12, 91), (12, 51), (12, 52), (12, 53), (13, 108), (13, 109), (13, 74), (13, 75),
    (13, 76), (13, 77), (13, 114), (13, 115), (13, 116), (13, 117), (13, 118), (13, 119), (13, 82), (13, 83),
    (13, 84), (13, 85), (13, 90), (13, 91), (13, 100), (13, 101)]

/-- Runs of 1,792, 1,856, ... 2,560 pixels of either colour. -/
def longMakeup : List (Nat × Nat) :=
  [(11, 8), (11, 12), (11, 13), (12, 18), (12, 19), (12, 20), (12, 21), (12, 22), (12, 23), (12, 28), (12, 29),
    (12, 30), (12, 31)]

/-- The coding modes: pass, horizontal, or vertical with a distance to the right of b1 plus 3. -/
inductive G4Mode where
  | pass
  | horizontal
  | vertical (d : Nat)
deriving DecidableEq, Repr

/-- The code words of the modes (ITU-T T.6). -/
def g4Modes : List ((Nat × Nat) × G4Mode) :=
  [((4, 1), .pass), ((3, 1), .horizontal), ((1, 1), .vertical 3), ((3, 3), .vertical 4), ((6, 3), .vertical 5),
    ((7, 3), .vertical 6), ((3, 2), .vertical 2), ((6, 2), .vertical 1), ((7, 2), .vertical 0)]

/-- The bits of a stream, the most significant of each byte first. -/
def streamBits (bs : List Byte) : List Bool := bs.flatMap fun b => (List.range 8).map fun i => b.getLsbD (7 - i)

/-- The value of bits, the first the most significant. -/
def bitsVal (bs : List Bool) : Nat := bs.foldl (fun v b => 2 * v + b.toNat) 0

/-- A code word stands at the head of the bits. -/
def headIs (bits : List Bool) (code : Nat × Nat) : Bool :=
  (bits.take code.1).length == code.1 && bitsVal (bits.take code.1) == code.2

/-- The index of the word of a table that stands at the head of the bits, and the bits after it. -/
def takeCode (tbl : List (Nat × Nat)) (bits : List Bool) : Option (Nat × List Bool) :=
  (tbl.zipIdx.find? fun p => headIs bits p.1).map fun p => (p.2, bits.drop p.1.1)

/-- The length of a run of a colour: make-up words, and one of 0 to 63 pixels; `fuel` bounds the words. -/
def g4Run (black : Bool) : Nat → List Bool → Option (Nat × List Bool)
  | 0, _ => none
  | fuel + 1, bits =>
    match takeCode (if black then blackRuns else whiteRuns) bits with
    | some r => some r
    | none =>
      match takeCode ((if black then blackMakeup else whiteMakeup) ++ longMakeup) bits with
      | some r => (g4Run black fuel r.2).map fun q => (64 * (r.1 + 1) + q.1, q.2)
      | none => none

/-! ## Lines -/

/-- The changing elements b1 and b2 of a reference line: the first at or after `lo` that changes to the colour opposite to the
current one, and the one after it; a line's even changes are to black. -/
def g4Ref (w : Nat) (ref : List Nat) (lo : Nat) (black : Bool) : Nat × Nat :=
  match ref.zipIdx.find? fun p => decide (lo ≤ p.1) && (p.2 % 2 == 1) == black with
  | some p => (p.1, ref.getD (p.2 + 1) w)
  | none => (w, w)

/-- What a coding line comes to: its changing elements in order and the bits after it, or STATUS 1 or 2 of the record. -/
abbrev G4Line := Except Nat (List Nat × List Bool)

/-- A line of `w` pixels from element `a0` on; `lo` is the least place of a next changing element, `cs` those there are. A stream
that asks for an extension is unsupported, and one that is no coding is corrupt; `fuel` bounds the words. -/
def g4Line (w : Nat) (ref : List Nat) : Nat → List Bool → Nat → Nat → Bool → List Nat → G4Line
  | 0, _, _, _, _, _ => .error 2
  | fuel + 1, bits, a0, lo, black, cs =>
    if w ≤ a0 then .ok (cs, bits)
    else
      let b := g4Ref w ref lo black
      match g4Modes.find? fun m => headIs bits m.1 with
      | none => .error (if headIs bits (7, 1) then 1 else 2)
      | some (code, .pass) => g4Line w ref fuel (bits.drop code.1) b.2 (b.2 + 1) black cs
      | some (code, .vertical d) =>
        let a1 := b.1 + d - 3
        if b.1 + d < lo + 3 ∨ w < a1 then .error 2
        else g4Line w ref fuel (bits.drop code.1) a1 (a1 + 1) (!black) (cs ++ [a1])
      | some (code, .horizontal) =>
        match g4Run black 64 (bits.drop code.1) with
        | none => .error 2
        | some r =>
          match g4Run (!black) 64 r.2 with
          | none => .error 2
          | some q =>
            let a2 := a0 + r.1 + q.1
            if w < a2 then .error 2 else g4Line w ref fuel q.2 a2 (a2 + 1) black (cs ++ [a0 + r.1, a2])

/-- The pixels of a line with given changing elements: 0 black, 255 white (R191). -/
def g4Pixels (w : Nat) (cs : List Nat) : List Byte :=
  (List.range w).map fun i => if (cs.filter fun c => decide (c ≤ i)).length % 2 = 1 then 0 else 255

/-- The changing elements of a line: those that two changes at one place cancel are none. -/
def g4Changes : List Nat → List Nat
  | a :: b :: rest => if a = b then g4Changes rest else a :: g4Changes (b :: rest)
  | l => l

/-- `h` lines of `w` pixels, each coded against the one before it, the first against a white one (ITU-T T.6). What follows them is
not read. -/
def g4Lines (w : Nat) : Nat → List Bool → List Nat → Except Nat (List Byte)
  | 0, _, _ => .ok []
  | h + 1, bits, ref =>
    match g4Line w ref (bits.length + 1) bits 0 0 false [] with
    | .error e => .error e
    | .ok r =>
      let cs := (g4Changes r.1).filter fun c => decide (c < w)
      match g4Lines w h r.2 cs with
      | .error e => .error e
      | .ok px => .ok (g4Pixels w cs ++ px)

/-- The pixels of a Group 4 stream of `w` × `h` pixels, or STATUS 1 or 2 (R191, R192). -/
def g4Image (w h : Nat) (src : List Byte) : Except Nat (List Byte) := g4Lines w h (streamBits src) []

end Sys2Proof.Machine
end

