-- ==== Sys2Proof/Machine/Near.lean ====
section
/-!
DEFINITION. Commands whose operand is a descriptor in the vault (spec 06 R186), the near-memory engines (R196 to R198;
15 R365).
-/
namespace Sys2Proof.Machine

/-! ## Descriptors in the vault (R186) -/

/-- The key of `n` bytes at a vault copy address of the issuing context. -/
def descKey (s : State) (a n : Nat) : Nat := placeKey s s.issue.core s.issue.ctx (bits a 32 0) n

/-- The checks on a descriptor or message operand (R180, R186, R193). -/
def operandTraps (s : State) (a n : Nat) : List Trap :=
  if !(addrFormOk a true && isVaultAddr a) then [⟨4, causeRESERVED, a⟩]
  else (check143 s s.issue.core s.issue.ctx (bits a 32 0) n).map fun t => { t with tval := a }

/-- The command waits until its descriptor can be read: an earlier scalar access to it has still to perform (R63, R308). -/
def operandWait (s : State) (a n : Nat) : Bool :=
  (operandTraps s a n).isEmpty && farOverlapsKey s (descKey s a n) n
where
  /-- An earlier scalar access of the issuing context to a common byte has still to perform (R306). -/
  farOverlapsKey (s : State) (key n : Nat) : Bool :=
    s.me.far.any fun f => decide (f.addr < key + n ∧ key < f.addr + f.n)

/-- The bytes of a descriptor. -/
def descOf (s : State) (a n : Nat) : List Byte := readBytes s.mem (descKey s a n) n

/-- The traps of a command that reads a descriptor: the operand, then a malformed descriptor (R186). -/
def descTraps (s : State) (a n : Nat) (bad : List Byte → Bool) : List Trap :=
  let ts := operandTraps s a n
  if !ts.isEmpty then ts
  else trapIf (!(poisoned s (descKey s a n) n) && bad (descOf s a n)) ⟨4, causeRESERVED, a⟩

/-- A command with a descriptor of `n` bytes. One whose descriptor cannot be corrected does nothing but report (R186,
R453). -/
def descOp (gd : Guard) (a : GSrc) (n : Nat) (bad : State → List Byte → Bool) (wait : State → List Byte → Bool)
    (go : State → Nat → List Byte → State → State) : Op where
  slot := 10
  guard := gd
  srcs := [gs a]
  stall := fun s v =>
    let b := (operand v 0).toNat
    operandWait s b n || ((operandTraps s b n).isEmpty && wait s (descOf s b n))
  traps := fun s v => descTraps s (operand v 0).toNat n (bad s)
  block := fun s _ => copyBlock s
  effect := fun s0 v s =>
    let b := (operand v 0).toNat
    let key := descKey s0 b n
    if poisoned s0 key n then
      report (countBad s key) s0.issue.core s0.issue.ctx ⟨causeUNCORR, s0.issue.addr, b + (firstBad s0 key n - key), none, none⟩
    else go s0 b (descOf s0 b n) s

/-- The form of a command that moves no elements through a port. -/
def plainForm (load : Bool) (per total : Nat) : CopyForm :=
  ⟨load, 0, 0, 0, none, true, .raw, .raw, .rne, 1, 1, per, total⟩

/-- The 64 KiB pages of `n` bytes from a device copy address (R197). -/
def pagesOf (a n : Nat) : List Nat :=
  if n = 0 then []
  else (List.range ((a % 65536 + n + 65535) / 65536)).map fun i =>
    addrPlus (a / 65536 * 65536) (((65536 * i : Nat) : Int))

/-! ## NMC descriptors (R196) -/

/-- The element formats an operation accepts (R196). -/
def nmAccepts (op : Nat) (f : Fmt) : Bool :=
  match op with
  | 1 => f == .f32
  | 2 | 3 => f == .raw || f == .i8 || f == .u8 || f == .i16 || f == .i32 || f == .f32 || f == .bf16 || f == .f16
      || f == .e4m3 || f == .e5m2
  | _ => f == .f32 || f == .bf16

def nmDeva (d : List Byte) : Nat := leAt d 0 8
def nmDevb (d : List Byte) : Nat := leAt d 8 8
def nmStat (d : List Byte) : Nat := leAt d 24 8
def nmCount (d : List Byte) : Nat := leAt d 32 4
def nmFmt (d : List Byte) : Option Fmt := Fmt.ofCode (leAt d 36 1)
def nmS0 (d : List Byte) : Nat := leAt d 40 4
def nmS1 (d : List Byte) : Nat := leAt d 44 4

/-- Bytes of an element. -/
def nmSize (d : List Byte) : Nat := ((nmFmt d).map fun f => f.width / 8).getD 1

/-- SPACE or a zero field of a copy address is reserved (R180). -/
def addrReserved (a : Nat) : Bool :=
  decide (2 ≤ bits a 63 62) || bits a 61 48 != 0 || (isVaultAddr a && bits a 47 33 != 0)

/-- A reserved value, or a field marked zero that is not (R196, R362 code 1). Byte 37 holds the operation in a batch
entry. -/
def nmReserved (op : Nat) (node : Bool) (d : List Byte) : Bool :=
  decide (op < 1 ∨ 5 < op) || (nmFmt d).isNone || leAt d 16 8 != 0 || (!node && leAt d 37 1 != 0) || leAt d 38 2 != 0
    || (op == 2 && nmDevb d != 0) || (op != 1 && nmS1 d != 0) || leAt d 48 16 != 0
    || addrReserved (nmDeva d) || addrReserved (nmDevb d) || addrReserved (nmStat d)

/-- The other failures of a descriptor (R196, R362 code 2); `statOk` says whether the status word may stand there. -/
def nmWrong (op : Nat) (d : List Byte) (statOk : Nat → Bool) : Bool :=
  !((nmFmt d).any (nmAccepts op)) || nmDeva d % nmSize d != 0 || nmDevb d % nmSize d != 0
    || isVaultAddr (nmDeva d) || isVaultAddr (nmDevb d) || !(isVaultAddr (nmStat d)) || nmStat d % 16 != 0
    || !(statOk (nmStat d))

/-- The code of R130 of an NMC operation (R196). -/
def nmCode : Instr → Nat
  | .nmcSgdfade .. => 1
  | .nmcFill .. => 2
  | .nmcCopy .. => 3
  | .nmcScale .. => 4
  | .nmcAccum .. => 5
  | _ => 0

/-- NMC issues: it takes its queue entry (R185, R196). -/
def issueNmc (i : Instr) (bar : Fin 1024) (s0 : State) (_ : Nat) (d : List Byte) (s : State) : State :=
  let n := nmCount d * nmSize d
  enqueue s s0.issue.core s0.issue.ctx { freshCmd s0 i (barOf bar) (plainForm false 1 (nmCount d)) 0 with
    desc := d
    chunks := 1
    base := placeKey s0 s0.issue.core s0.issue.ctx (bits (nmStat d) 32 0) 16
    pos := pagesOf (nmDeva d) n ++ (if nmCode i = 2 then [] else pagesOf (nmDevb d) n) }

/-- An NMC as an operation (R196). -/
def nmcOp (i : Instr) (gd : Guard) (a : GSrc) (bar : Fin 1024) : Op :=
  descOp gd a 64
    (fun s d => nmReserved (nmCode i) false d || nmWrong (nmCode i) d fun st =>
      (vaultPlace s s.issue.core s.issue.ctx (bits st 32 0) 16).isSome)
    (fun _ _ => false)
    (issueNmc i bar)

/-- NMC.sgdfade (R196). -/
def opNmcSgdfade (gd : Guard) (a : GSrc) (bar : Fin 1024) : Op := nmcOp (.nmcSgdfade gd a bar) gd a bar

/-- NMC.sgdfade (R196). -/
def execNmcSgdfade (gd : Guard) (a : GSrc) (bar : Fin 1024) (s : State) : Host.Outcome State Fault Refusal :=
  runOne (opNmcSgdfade gd a bar) s

/-- NMC.fill (R196). -/
def opNmcFill (gd : Guard) (a : GSrc) (bar : Fin 1024) : Op := nmcOp (.nmcFill gd a bar) gd a bar

/-- NMC.fill (R196). -/
def execNmcFill (gd : Guard) (a : GSrc) (bar : Fin 1024) (s : State) : Host.Outcome State Fault Refusal :=
  runOne (opNmcFill gd a bar) s

/-- NMC.copy (R196). -/
def opNmcCopy (gd : Guard) (a : GSrc) (bar : Fin 1024) : Op := nmcOp (.nmcCopy gd a bar) gd a bar

/-- NMC.copy (R196). -/
def execNmcCopy (gd : Guard) (a : GSrc) (bar : Fin 1024) (s : State) : Host.Outcome State Fault Refusal :=
  runOne (opNmcCopy gd a bar) s

/-- NMC.scale (R196). -/
def opNmcScale (gd : Guard) (a : GSrc) (bar : Fin 1024) : Op := nmcOp (.nmcScale gd a bar) gd a bar

/-- NMC.scale (R196). -/
def execNmcScale (gd : Guard) (a : GSrc) (bar : Fin 1024) (s : State) : Host.Outcome State Fault Refusal :=
  runOne (opNmcScale gd a bar) s

/-- NMC.accum (R196). -/
def opNmcAccum (gd : Guard) (a : GSrc) (bar : Fin 1024) : Op := nmcOp (.nmcAccum gd a bar) gd a bar

/-- NMC.accum (R196). -/
def execNmcAccum (gd : Guard) (a : GSrc) (bar : Fin 1024) (s : State) : Host.Outcome State Fault Refusal :=
  runOne (opNmcAccum gd a bar) s

/-! ## NMFENCE (R198) -/

/-- A home may lie on a stack that NMFENCE names. -/
def fenceMeets (stack : Option (Fin 16)) (h : Option (Nat × Nat)) : Bool :=
  match stack, h with
  | some k, some (1, st) => st == k.val
  | some _, some _ => false
  | _, _ => true

/-- An earlier NMC of the context to a named stack has not ended (R198). -/
def nmcPending (s : State) (c x : Nat) (stack : Option (Fin 16)) : Bool :=
  let t := getCtx s c x
  (t.cmds.any fun m => m.isNmc && fenceMeets stack (homeAt s c x (nmDeva m.desc)))
    || t.nmc.any fun p => match stack with | some k => p.2 == k.val | none => true

/-- NMFENCE (R198). -/
def opNmfence (gd : Guard) (stack : Option (Fin 16)) : Op where
  slot := 10
  guard := gd
  stall := fun s _ => nmcPending s s.issue.core s.issue.ctx stack
  block := fun s _ => if s.myCore.lanternOn then some 9 else none

/-- NMFENCE (R198). -/
def execNmfence (gd : Guard) (stack : Option (Fin 16)) (s : State) : Host.Outcome State Fault Refusal :=
  runOne (opNmfence gd stack) s

/-! ## Acceptance by the base die (R197) -/

/-- The key of a page that lies in no HBM stack of the package. -/
def noPlace : Nat := 2 ^ 63

/-- The key a page of an NMC range has at its stack. -/
def pageKey (p : Spot) : Nat :=
  match p with
  | .at_ k _ _ _ _ => if (homeOf k).1 = 1 then k else noPlace
  | _ => noPlace

/-- The translations that a range holds (R420). -/
def heldPages (ps : List Spot) (s : State) (c : Nat) (as_ : List Nat) : List (Nat × Nat) :=
  (ps.zip as_).filterMap fun p =>
    match p.1 with
    | .at_ _ _ obj page _ =>
      (match windowEntry s c (bits p.2 47 0) with
        | some e => if bitAt (winWord s c e 0) 25 then some (obj, page) else none
        | none => none)
    | _ => none

/-- The stack whose base die takes a command: that of DEVA's first byte. A range that starts on no stack goes to queue 16,
which stops it (R197, R440). -/
def nmStack (s : State) (c x : Nat) (d : List Byte) : Nat :=
  match placeOf s c x (nmDeva d) with
  | .at_ k _ _ _ _ => if (homeOf k).1 = 1 then (homeOf k).2 else 16
  | _ => 16

/-- The index of the first element on a page (R189). -/
def nmFirstOn (d : List Byte) (base page : Nat) : Nat := (page - base) / nmSize d

/-- What translating the pages of a command comes to (R197). -/
inductive NmTry where
  | miss (elem : Nat)
  | park (id : Nat)
  | hole (key : Nat)
  /-- a page of DEVA is shared and its frame is not yet the command's own (R423) -/
  | shared (id : Nat) (empty : Bool)
  | ok (a b : List Nat) (objs : List (Nat × Nat))

/-- The copy engine translates every page of both ranges (R197); a miss names the first element that it affects (R189). -/
def nmTranslate (s : State) (c x op : Nat) (d : List Byte) : NmTry :=
  let n := nmCount d * nmSize d
  let pa := pagesOf (nmDeva d) n
  let pb := if op = 2 then [] else pagesOf (nmDevb d) n
  let sa := pa.map (placeOf s c x)
  let sb := pb.map (placeOf s c x)
  let isMiss (p : Spot) : Bool := p == .miss || p == .range
  let missed (ss : List Spot) (ps : List Nat) (base : Nat) : List Nat :=
    ((ss.zip ps).find? fun p => isMiss p.1).toList.map fun p => nmFirstOn d base p.2
  match missed sa pa (nmDeva d) ++ missed sb pb (nmDevb d) with
  | e :: es => .miss (es.foldl min e)
  | [] =>
    match (sa ++ sb).findSome? fun p => match p with | .park i => some i | _ => none with
    | some i => .park i
    | none =>
      match (sa ++ sb).findSome? fun p => match p with | .hole k => some k | _ => none with
      | some k => .hole k
      | none =>
        match sa.findSome? fun p => match p with
          | .at_ k true obj page _ => some (parkId obj page, poolEmpty s k && frameCount s k != 1)
          | _ => none with
        | some r => .shared r.1 r.2
        | none => .ok (sa.map pageKey) (sb.map pageKey) (heldPages sa s c pa ++ heldPages sb s c pb)

/-- A slab of the context is growing (R199): an NMC waits for it to end, so that no write is lost. -/
def growing (t : Ctx) : Bool := bitAt t.xfwdw.toNat 63

/-- An earlier NMC of the context may go to the same stack and has not been accepted (R197). -/
def earlierNmc (s : State) (c x : Nat) (m : Cmd) : Bool :=
  (getCtx s c x).cmds.any fun q =>
    decide (q.uid < m.uid) && q.isNmc && mayMeet (homeAt s c x (nmDeva q.desc)) (homeAt s c x (nmDeva m.desc))

/-- The command's turn has come, but for ring space. -/
def nmTurn (s : State) (c x : Nat) (m : Cmd) : Bool :=
  m.parkedAt.isNone && !(growing (getCtx s c x)) && !(earlierNmc s c x m)
    && !(earlierMeets s c x m.uid (homeAt s c x (nmDeva m.desc)))

/-- The command waits for nothing but its translation. -/
def nmReady (s : State) (c x : Nat) (m : Cmd) : Bool := nmTurn s c x m && m.mayWrite s c 0

/-- The operation code of a command in the queue. -/
def Cmd.nmOp (m : Cmd) : Nat := match m.kind with | .bundle i => nmCode i | _ => 0

/-- A command in the queue is translated and forwarded to a base die, or ends, or parks (R197). -/
def acceptNmc (s : State) (c x : Nat) (m : Cmd) : State :=
  if nmReady s c x m then
    match nmTranslate s c x m.nmOp m.desc with
    | .miss e => dropCmd (failCmd s c x m 0 causeWINDOW e).1 c x m.uid
    | .park i => let r := parkCmd s c x m i; putCmd r.1 c x r.2
    | .hole _ => s
    | .shared i empty => if empty then (let r := parkCmd s c x m i; putCmd r.1 c x r.2) else s
    | .ok a b objs =>
      let st := nmStack s c x m.desc
      let q : NmCmd := ⟨c, x, m.uid, none, m.nmOp, m.desc, m.bar, m.addr, m.base, true, a, b, objs, 0, 0, none⟩
      let s := { s with nmq := alSet s.nmq st (alGet [] s.nmq st ++ [q]) }
      modCtx (dropCmd s c x m.uid) c x fun t => { t with nmc := t.nmc ++ [(m.uid, st)] }
  else s

/-! ## The base die (R197) -/

/-- The key of byte `o` of a range whose pages have the keys `ps`. -/
def nmKey (ps : List Nat) (base o : Nat) : Nat :=
  ps.getD ((base % 65536 + o) / 65536) noPlace + (base % 65536 + o) % 65536

/-- `n` bytes at a key lie on a stack. -/
def onStack (st k n : Nat) : Bool := decide (k < 2 ^ 47) && homeOf k == (1, st) && homeOf (k + n - 1) == (1, st)

/-- The first element of burst `i` (R197). -/
def nmFirst (d : List Byte) (i : Nat) : Nat := (32 * i - nmDeva d % 32) / nmSize d

/-- The elements of burst `i`. -/
def nmElems (d : List Byte) (i : Nat) : List Nat :=
  let f := nmFirst d i
  (List.range (min (nmCount d) (nmFirst d (i + 1)) - f)).map fun k => f + k

/-- Bursts of a command. -/
def nmBursts (d : List Byte) : Nat :=
  if nmCount d = 0 then 0 else (nmDeva d % 32 + nmCount d * nmSize d + 31) / 32

/-- The operation reads the old value of its destination. -/
def nmReadsA (op : Nat) : Bool := op == 1 || op == 5

/-- One element of an operation: `w` the old value, `b` the second operand (R196). -/
def nmElem (op : Nat) (d : List Byte) (w b : Nat) : Nat × Flags :=
  let bf := nmFmt d == some .bf16
  let v (x : Nat) : Val := if bf then bf16Fl.value x else f32v x
  let round (x : Val) : Nat × Flags := if bf then bf16Fl.convert .rne 0 x else rne32 x
  match op with
  | 1 =>
    let t1 := fmul32 (nmS1 d) w
    let t2 := fadd32 b t1.1
    let t3 := fmul32 (nmS0 d) t2.1
    let t4 := fsub32 w t3.1
    (t4.1, t1.2 ||| t2.2 ||| t3.2 ||| t4.2)
  | 2 => (nmS0 d % 2 ^ (8 * nmSize d), 0)
  | 3 => (b, 0)
  | 4 => round ((f32v (nmS0 d)).mul (v b))
  | _ => round ((v w).add (v b))

/-- The status word of a command that has ended (R197). -/
def statusWord (m : NmCmd) (done fail state : Nat) : List Byte :=
  let fl := (bitAt m.flags.toNat 2).toNat + 2 * (bitAt m.flags.toNat 4).toNat + 4 * (bitAt m.flags.toNat 5).toNat
  leBytes 4 done ++ leBytes 4 fail ++ leBytes 1 state ++ leBytes 1 fl ++ List.replicate 6 (0 : Byte)

/-- One of the two words of a status word is written (R304). -/
def storeStatus (s : State) (m : NmCmd) (done fail state : Nat) (high : Bool) : State :=
  let w := statusWord m done fail state
  if high then storeBytes s (m.stat + 8) (w.drop 8) else storeBytes s m.stat (w.take 8)

/-- A command has ended: the first of the two words of its status word is written, which one is open (R197, R304). -/
def endNmc (s : State) (st : Nat) (m : NmCmd) (done fail state : Nat) : State :=
  let high := bitAt (openVal s) 0
  let s := storeStatus { s with freeCtr := s.freeCtr + 1 } m done fail state high
  { s with nmq := alSet s.nmq st ({ m with fin := some ⟨done, fail, state, high⟩ } :: (alGet [] s.nmq st).drop 1) }

/-- A command leaves its stack's queue: the rest of its status word, then the credit, the flags and the report (R197). -/
def finishNmc (s : State) (st : Nat) (m : NmCmd) (q : NmEnd) : State :=
  let s := storeStatus { s with nmq := alSet s.nmq st ((alGet [] s.nmq st).drop 1) } m q.done q.fail q.state (!q.high)
  match m.node with
  | some i =>
    if q.state = 1 then s
    else { s with nodes := s.nodes.map fun n => if n.index = i then { n with cause := causeNMC } else n }
  | none =>
    let s := creditSlot s (chipletOf m.core) m.bar 16 false
    let s := foldAt s m.core m.ctx s.ck (m.flags &&& (flagINV ||| flagOVF ||| flagUNF))
    let s := modCtx s m.core m.ctx fun t => { t with nmc := t.nmc.filter fun p => p.1 != m.uid }
    if q.state = 1 then s else report s m.core m.ctx ⟨causeNMC, m.epc, q.fail, none, none⟩

/-- The next burst of the command at the head of a stack's queue performs, or the command ends (R197). -/
def nmBurst (s : State) (st : Nat) (m : NmCmd) (rest : List NmCmd) : State :=
  let d := m.desc
  let sz := nmSize d
  if nmBursts d ≤ m.burst then endNmc s st m (nmCount d) 0xFFFFFFFF 1
  else
    let es := nmElems d m.burst
    let e0 := nmFirst d m.burst
    let ka (k : Nat) : Nat := nmKey m.a (nmDeva d) (k * sz)
    let kb (k : Nat) : Nat := nmKey m.b (nmDevb d) (k * sz)
    let usesB := m.op != 2
    if !(es.all fun k => onStack st (ka k) sz && (!usesB || onStack st (kb k) sz)) then endNmc s st m e0 e0 3
    else
      let block := ka e0 / 32 * 32
      let part := decide (es.length * sz < 32)
      if (poisoned s block 32 && (nmReadsA m.op || part)) || (usesB && es.any fun k => poisoned s (kb k) sz) then
        endNmc (countBad s block) st m e0 e0 2
      else
        let rs := es.map fun k => nmElem m.op d (memLe s (ka k) sz) (if usesB then memLe s (kb k) sz else 0)
        let fl := rs.foldl (fun f r => f ||| r.2) m.flags
        let s := storeBytes s (ka e0) (rs.flatMap fun r => leBytes sz r.1)
        { s with nmq := alSet s.nmq st ({ m with burst := m.burst + 1, flags := fl } :: rest) }

/-- The supervisor of a chiplet is told once that a page is missing (R419). -/
def tellPage (s : State) (ch id : Nat) : State :=
  let e := (2 * ch, 0x100, id)
  if s.supIrq.contains e then s else { s with supIrq := s.supIrq ++ [e] }

/-- The near-memory engine translates an entry of a KIND 3 node through the table of R360 (R197). -/
def nmNodeTranslate (s : State) (st : Nat) (m : NmCmd) (rest : List NmCmd) : State :=
  match nmTranslate s primary 0 m.op m.desc with
  | .miss _ => endNmc s st m 0 0 3
  | .park i => tellPage s 0 i
  | .hole _ => s
  | .shared i empty => if empty then tellPage s 0 i else s
  | .ok a b objs => { s with nmq := alSet s.nmq st ({ m with ready := true, a := a, b := b, objs := objs } :: rest) }

/-- A step of the near-memory engine of a stack (R197, R365). -/
def nmStep (s : State) (st : Nat) : State :=
  match alGet [] s.nmq st with
  | [] => s
  | m :: rest =>
    match m.fin with
    | some q => finishNmc s st m q
    | none => if m.ready then nmBurst s st m rest else nmNodeTranslate s st m rest

/-- The entry at the head of a stack's queue names an address that R411 says does not exist. -/
def nmHole (s : State) (st : Nat) : Option Nat :=
  match alGet [] s.nmq st with
  | [] => none
  | m :: _ =>
    if m.ready || m.fin.isSome then none
    else match nmTranslate s primary 0 m.op m.desc with
      | .hole k => some k
      | _ => none

/-- NMC_EXECUTION (R197). -/
def execNmcExecution (stack : Nat) (s : State) : Host.Outcome State Fault Refusal :=
  match nmHole s stack with
  | some k => .fault (.physicalHole k)
  | none => .next (nmStep s stack)

end Sys2Proof.Machine
end

