-- ==== Sys2Proof/Machine/Ports.lean ====
section
/-!
DEFINITION. Link ports: their states and messages, and LSEND, LRECV and LSTAT (spec 06 R193, R194; 21 R432 to R438; 24
R456).
-/
namespace Sys2Proof.Machine

/-! ## Ports (R432 to R436) -/

/-- A link port. -/
def getPort (s : State) (p : Nat) : Port := alGet Port.reset s.ports p

/-- A link port changed. -/
def modPort (s : State) (p : Nat) (f : Port → Port) : State := { s with ports := alSet s.ports p (f (getPort s p)) }

/-- The command is an LSEND on a port. -/
def Cmd.sendsOn (m : Cmd) (p : Nat) : Bool :=
  match m.kind with | .bundle (.lsend _ q _ _ _) => q.val == p | _ => false

/-- The command is an LRECV from a port. -/
def Cmd.receivesOn (m : Cmd) (p : Nat) : Bool :=
  match m.kind with | .bundle (.lrecv _ q _ _ _) => q.val == p | _ => false

/-- Commands of a context end with LINK_DOWN on a port: they send no more and write no more, and credit nothing (R188). -/
def endOnLink (s : State) (p : Nat) (which : Cmd → Bool) (c x : Nat) : State :=
  ((getCtx s c x).cmds.filter which).foldl (fun s m => dropCmd (failCmd s c x m 0 causeLINK p).1 c x m.uid) s

/-- The commands of the package that are of a kind end with LINK_DOWN on a port. -/
def endAllOnLink (s : State) (p : Nat) (which : Cmd → Bool) : State :=
  s.cores.foldl (fun s q => (List.range 4).foldl (fun s x => endOnLink s p which q.1 x) s) s

/-- Every LSEND that waits for a port ends with LINK_DOWN (R436). -/
def endAllSends (s : State) (p : Nat) : State := endAllOnLink s p fun m => m.sendsOn p

/-- An access on its way over a port that fails is not answered any more (R440). -/
def Sent.lost (p : Nat) (q : Sent) : Sent := if q.port = p then { q with port := p + 16 } else q

/-- The accesses on their way over a port are lost as it fails (R440). -/
def loseSent (s : State) (p : Nat) : State :=
  { s with
    imgq := s.imgq.map fun q => (q.1, q.2.map fun m =>
      { m with sent := m.sent.map fun e => if e.1 = p then (p + 16, e.2) else e })
    cores := s.cores.map fun q => (q.1, { q.2 with ctx := q.2.ctx.map fun t =>
      { t with
        cmds := t.cmds.map fun m => { m with sent := m.sent.map (Sent.lost p) }
        dq := t.dq.map fun d => { d with sent := d.sent.map (Sent.lost p) } } }) }

/-- A port fails under what uses it: LSENDs that wait and LRECVs that have not performed end with LINK_DOWN, and
the accesses on their way are lost (R188, R436, R440). -/
def linkLost (s : State) (p : Nat) : State := loseSent (endAllOnLink s p fun m => m.sendsOn p || m.receivesOn p) p

/-- A port starts a training attempt: its queues and messages are kept (R435, R436). -/
def startTraining (s : State) (p : Nat) : State :=
  endAllSends (modPort s p fun q => { q with state := 1, lanes := 0, trainStart := some s.ck }) p

/-- A port loses its queues and messages (R436). -/
def Port.discard (q : Port) : Port :=
  { q with recv := Port.reset.recv, unacked := Port.reset.unacked, queued := Port.reset.queued,
           credits := Port.reset.credits, lanes := 0, trainStart := none, fails := 0 }

/-- A port fails (R435, R436). -/
def portFails (s : State) (p : Nat) : State :=
  count (linkLost (modPort s p fun q => { q.discard with state := 5 }) p) lifeLINKFAIL p

/-- A port enters Down, and training starts at once (R435). The messages that LRECVs took from it are in their queues, not its
own, and are still written (R436). -/
def portDown (s : State) (p : Nat) : State :=
  startTraining (loseSent (modPort s p fun q => { q.discard with state := 0 }) p) p

/-- A retrain trigger (R435). -/
def retrain (s : State) (p : Nat) : State :=
  let st := (getPort s p).state
  if st = 2 ∨ st = 3 then count (startTraining s p) lifeRETRAIN p
  else if st = 4 then count (portFails s p) lifeRETRAIN p
  else s

/-- A training attempt has failed: the third in a row makes the port fail, another one starts otherwise (R435). -/
def trainingFailed (s : State) (p : Nat) : State :=
  if 2 ≤ (getPort s p).fails then portFails s p
  else modPort s p fun q => { q with fails := q.fails + 1, trainStart := some s.ck }

/-- A Draining port with nothing left goes Down (R435). -/
def drainCheck (s : State) (p : Nat) : State :=
  let q := getPort s p
  if q.state = 4 ∧ (q.recv.all (·.isEmpty)) = true ∧ (q.unacked.all (·.isEmpty)) = true
      ∧ (q.queued.all (·.isEmpty)) = true then portDown s p
  else s

/-! ## Messages (R433, R434) -/

/-- Traffic passes the port. -/
def Port.running (q : Port) : Bool := q.state == 2 || q.state == 3 || q.state == 4

/-- A message leaves the port against a credit (R433). -/
def sendMessage (s : State) (p l : Nat) : State :=
  let q := getPort s p
  match q.queued.getD l [] with
  | [] => s
  | m :: rest =>
    if q.running ∧ 0 < q.credits.getD l 0 then
      modPort s p fun q =>
        { q with
          queued := q.queued.set l rest
          unacked := q.unacked.set l (q.unacked.getD l [] ++ [m])
          credits := q.credits.set l (q.credits.getD l 0 - 1) }
    else s

/-- A message of the peer enters its receive queue (R434). -/
def receiveMessage (s : State) (p l : Nat) (m : List Byte) : State :=
  let q := getPort s p
  if q.running ∧ l < 4 ∧ m.length = 256 ∧ (q.recv.getD l []).length < 64 then
    modPort s p fun q => { q with recv := q.recv.set l (q.recv.getD l [] ++ [m]) }
  else s

/-- The peer acknowledges the oldest message of a lane (R434). -/
def acknowledge (s : State) (p l : Nat) : State :=
  if (getPort s p).running then
    drainCheck (modPort s p fun q => { q with unacked := q.unacked.set l ((q.unacked.getD l []).drop 1) }) p
  else s

/-- A credit returns: the peer has taken a message from its queue (R433). -/
def creditReturns (s : State) (p l : Nat) : State :=
  modPort s p fun q =>
    if q.credits.getD l 0 + (q.unacked.getD l []).length < 64 then
      { q with credits := q.credits.set l (q.credits.getD l 0 + 1) }
    else q

/-- MESSAGE_SEND (R433). -/
def execMessageSend (port lane : Nat) (s : State) : Host.Outcome State Fault Refusal := .next (sendMessage s port lane)

/-- MESSAGE_RECEIVE (R434). -/
def execMessageReceive (port lane : Nat) (msg : Option (List Byte)) (s : State) : Host.Outcome State Fault Refusal :=
  .next (match msg with
    | some m => receiveMessage s port lane m
    | none => acknowledge s port lane)

/-- LANE_LOSS (R435). -/
def execLaneLoss (port : Nat) (s : State) : Host.Outcome State Fault Refusal := .next (retrain s port)

/-- FLIT_REPLAY_LIMIT (R435). -/
def execFlitReplayLimit (port : Nat) (s : State) : Host.Outcome State Fault Refusal := .next (retrain s port)

/-- TRAINING_FRAME (R435). -/
def execTrainingFrame (port : Nat) (s : State) : Host.Outcome State Fault Refusal := .next (retrain s port)

/-- A training attempt has lasted longer than 5,000,000 ck (R435). -/
def attemptOver (s : State) (p : Nat) : Bool := (getPort s p).trainStart.any fun t => decide (t + 5000000 < s.ck)

/-- A training attempt ends with a number of good lanes; one that has lasted too long has failed (R435). -/
def endTraining (s : State) (p lanes : Nat) : State :=
  if (getPort s p).state = 1 then
    if lanes < 4 ∨ attemptOver s p = true then trainingFailed s p
    else modPort s p fun q =>
      { q with state := if 8 ≤ lanes then 2 else 3, lanes := min 8 lanes, fails := 0, trainStart := none }
  else s

/-- TRAINING_END (R435). -/
def execTrainingEnd (port lanes : Nat) (s : State) : Host.Outcome State Fault Refusal := .next (endTraining s port lanes)

/-- A training attempt has not ended within 5,000,000 ck (R435). -/
def trainingTimeout (s : State) (p : Nat) : State :=
  if (getPort s p).state = 1 ∧ attemptOver s p = true then trainingFailed s p else s

/-- TRAINING_TIMEOUT (R435). -/
def execTrainingTimeout (port : Nat) (s : State) : Host.Outcome State Fault Refusal := .next (trainingTimeout s port)

/-- A management drain (R435). -/
def drainPort (s : State) (p : Nat) : State :=
  let st := (getPort s p).state
  if st = 2 ∨ st = 3 then drainCheck (modPort s p fun q => { q with state := 4 }) p else s

/-- PORT_DRAIN_REQUEST (R435). -/
def execPortDrainRequest (port : Nat) (s : State) : Host.Outcome State Fault Refusal := .next (drainPort s port)

/-- The firmware sets a port's rate limit: it can lower it and not raise it (R458). -/
def limitRate (s : State) (p v : Nat) : State :=
  if s.fwRunning then modPort s p fun q => { q with rate := min q.rate v } else s

/-- A management reset of a Failed port (R435). -/
def resetPort (s : State) (p : Nat) : State := if (getPort s p).state = 5 then portDown s p else s

/-- PORT_RESET_REQUEST (R435). -/
def execPortResetRequest (port : Nat) (s : State) : Host.Outcome State Fault Refusal := .next (resetPort s port)

/-! ## LSEND, LRECV, LSTAT (R193, R194) -/

/-- LINK_DOWN at issue (R193, R436). -/
def linkTraps (s : State) (port : Nat) (send : Bool) : List Trap :=
  let st := (getPort s port).state
  trapIf (st == 0 || st == 1 || st == 5 || (send && st == 4)) ⟨8, causeLINK, port⟩

/-- The units of a 256-byte message (R193). -/
def messageUnits (a : Nat) : List CUnit := unitsOf 1 [⟨a, 256, 0⟩]

/-- LSEND (R193). -/
def opLsend (gd : Guard) (port : Fin 16) (vl : Fin 4) (a : GSrc) (bar : Fin 1024) : Op where
  slot := 10
  guard := gd
  srcs := [gs a]
  traps := fun s v => operandTraps s (operand v 0).toNat 256 ++ linkTraps s port.val true
  block := fun s _ => copyBlock s
  effect := fun s0 v s =>
    let b := (operand v 0).toNat
    enqueue s s0.issue.core s0.issue.ctx
      { freshCmd s0 (.lsend gd port vl a bar) (barOf bar) (plainForm true 256 256) b with
        chunks := 1
        units := messageUnits b }

/-- LSEND (R193). -/
def execLsend (gd : Guard) (port : Fin 16) (vl : Fin 4) (a : GSrc) (bar : Fin 1024) (s : State) :
    Host.Outcome State Fault Refusal := runOne (opLsend gd port vl a bar) s

/-- LRECV takes the head message at issue and writes it to the vault (R193). -/
def takeMessage (s0 : State) (i : Instr) (port lane bar a : Nat) (s : State) : State :=
  match (getPort s0 port).recv.getD lane [] with
  | [] => s
  | m :: rest =>
    let s := modPort s port fun q => { q with recv := q.recv.set lane rest }
    let s := enqueue s s0.issue.core s0.issue.ctx
      { freshCmd s0 i (if bar = 0x3FF then none else some bar) (plainForm false 256 256) a with
        chunks := 1
        ported := 1
        units := messageUnits a
        got := [(0, m)]
        credit := [(0, 256)]
        started := true
        ended := true
        folded := true }
    drainCheck s port

/-- LRECV (R193, R437). -/
def opLrecv (gd : Guard) (port : Fin 16) (vl : Fin 4) (a : GSrc) (bar : Fin 1024) : Op where
  slot := 10
  guard := gd
  srcs := [gs a]
  traps := fun s v => operandTraps s (operand v 0).toNat 256 ++ linkTraps s port.val false
  block := fun s _ =>
    match copyBlock s with
    | some n => some n
    | none => if ((getPort s port.val).recv.getD vl.val []).isEmpty then some 5 else none
  effect := fun s0 v s =>
    takeMessage s0 (.lrecv gd port vl a bar) port.val vl.val bar.val (operand v 0).toNat s

/-- LRECV (R193, R437). -/
def execLrecv (gd : Guard) (port : Fin 16) (vl : Fin 4) (a : GSrc) (bar : Fin 1024) (s : State) :
    Host.Outcome State Fault Refusal := runOne (opLrecv gd port vl a bar) s

/-- Pod enumeration has run (R459 step 7). -/
def enumerated (s : State) : Bool := s.bootStep == 8 || s.mode == .operating || s.mode == .recovery

/-- PEER of a port is open: once enumeration has named the peers, in the states where it is not valid (R194, R438; log 3). -/
def peerOpen (s : State) (p : Nat) : Bool := enumerated s && !(getPort s p).running

/-- What LSTAT reads of a port (R194); before enumeration PEER reads 0 (R438). -/
def lstatVal (s : State) (p : Nat) : Nat :=
  let q := getPort s p
  let peer := if peerOpen s p then openVal s % 64 else if enumerated s then q.peer % 64 else 0
  let rq (l : Nat) : Nat := min 64 (q.recv.getD l []).length
  peer * 2 ^ 48 + rq 3 * 2 ^ 40 + rq 2 * 2 ^ 32 + rq 1 * 2 ^ 24 + rq 0 * 2 ^ 16 + q.lanes % 16 * 2 ^ 4 + q.state % 16

/-- LSTAT (R194). -/
def opLstat (gd : Guard) (d : Fin 32) (port : Fin 16) : Op where
  slot := 10
  guard := gd
  dsts := [d]
  effect := fun s0 _ s =>
    let s := if peerOpen s0 port.val then { s with freeCtr := s.freeCtr + 1 } else s
    give s 0 (.g d (BitVec.ofNat 64 (lstatVal s0 port.val))) 0

/-- LSTAT (R194). -/
def execLstat (gd : Guard) (d : Fin 32) (port : Fin 16) (s : State) : Host.Outcome State Fault Refusal :=
  runOne (opLstat gd d port) s

/-! ## LSEND enters its port (R433) -/

/-- An earlier LSEND of the context on the same port and lane has not entered it (R193). -/
def earlierSend (t : Ctx) (m : Cmd) (port lane : Nat) : Bool :=
  t.cmds.any fun q => decide (q.uid < m.uid) &&
    (match q.kind with | .bundle (.lsend _ p l _ _) => p.val == port && l.val == lane | _ => false)

/-- An LSEND whose message has been read enters its port where it holds a credit; its bytes are credited and it leaves the
queue (R187, R433). -/
def enterPort (s : State) (c x : Nat) (m : Cmd) : State :=
  match m.kind with
  | .bundle (.lsend _ port lane _ _) =>
    let q := getPort s port.val
    if !m.stopped && (q.state == 2 || q.state == 3) && decide ((q.queued.getD lane.val []).length < q.credits.getD lane.val 0)
        && !(earlierSend (getCtx s c x) m port.val lane.val) && m.mayWrite s c 0 then
      let s := modPort s port.val fun q =>
        { q with queued := q.queued.set lane.val (q.queued.getD lane.val [] ++ [alGet [] m.got 0]) }
      dropCmd (creditCmd s c m 256) c x m.uid
    else s
  | _ => s

end Sys2Proof.Machine
end

