-- ==== Sys2Proof/Machine/Intake.lean ====
section
/-!
DEFINITION. The image-intake engine: IMGDEC, the decoding, sizing and patching of an image, and its record (spec 06 R190
to R192; 15 R365).
-/
namespace Sys2Proof.Machine

/-! ## The descriptor (R190) -/

def imSrc (d : List Byte) : Nat := leAt d 0 8
def imLen (d : List Byte) : Nat := leAt d 8 4
def imCodec (d : List Byte) : Nat := leAt d 12 1
def imW (d : List Byte) : Nat := leAt d 16 4
def imH (d : List Byte) : Nat := leAt d 20 4

/-- A reserved value, or a byte marked zero that is not, W and H of a JPEG among them (R190, R362 code 1). -/
def imReserved (d : List Byte) : Bool :=
  decide (3 < imCodec d) || (imCodec d == 0 && (imW d != 0 || imH d != 0)) || leAt d 15 1 != 0 || leAt d 44 4 != 0
    || addrReserved (imSrc d) || addrReserved (imSeq d) || addrReserved (imRec d)

/-- The other failures of a descriptor (R190, R362 code 2). -/
def imWrong (d : List Byte) : Bool :=
  (imPatch d != 14 && imPatch d != 16) || (imCh d != 1 && imCh d != 3) || decide (imBudget d < imPatch d * imPatch d)
    || isVaultAddr (imSrc d) || isVaultAddr (imSeq d) || isVaultAddr (imRec d)
    || imSeq d % 64 != 0 || imRec d % 32 != 0

/-! ## Decoding (R191) -/

/-- A decoded image: width, height, components and samples in row order. -/
structure Pixels where
  w : Nat
  h : Nat
  comps : Nat
  px : List Byte

/-- A big-endian value of two bytes. -/
def be16 (bs : List Byte) (i : Nat) : Nat := (bs.getD i 0).toNat * 256 + (bs.getD (i + 1) 0).toNat

/-- The frame header of a JPEG stream (R191): the code of its marker, the precision, height, width and components. -/
structure JpegFrame where
  code : Nat
  precision : Nat
  h : Nat
  w : Nat
  comps : Nat

/-- The frame header behind a run of JPEG marker segments (R191; ITU-T T.81): none where a scan or the end comes first.
`fuel` bounds the bytes. -/
def jpegFrame : Nat → List Byte → Option JpegFrame
  | fuel + 1, a :: m :: rest =>
    let c := m.toNat
    if a.toNat ≠ 0xFF then none
    else if c = 0xFF then jpegFrame fuel (m :: rest)
    else if c = 0xD8 ∨ c = 1 ∨ (0xD0 ≤ c ∧ c ≤ 0xD7) then jpegFrame fuel rest
    else if c = 0xDA ∨ c = 0xD9 then none
    else if 0xC0 ≤ c ∧ c ≤ 0xCF ∧ c ≠ 0xC4 ∧ c ≠ 0xC8 ∧ c ≠ 0xCC then
      if rest.length < 8 then none
      else some ⟨c, (rest.getD 2 0).toNat, be16 rest 3, be16 rest 5, (rest.getD 7 0).toNat⟩
    else jpegFrame fuel (rest.drop (max 2 (be16 rest 0)))
  | _, _ => none

/-- The samples of a decoded JPEG stream, as many as an image has; the engine's decoding is open (R191; log 4). -/
def openSamples (w h n : Nat) (src : List Byte) : Option (Option (List Byte)) :=
  (Config.imagePixels 0 w h src).map fun r => r.map fun q => (List.range n).map fun i => q.2.2.2.getD i 0

/-- The pixels of a JPEG stream: its size and components are those of the frame header, and a frame that is not baseline or
progressive Huffman coding of 8-bit samples in one or three components is unsupported (R191). -/
def decodeJpeg (src : List Byte) : Except Nat Pixels :=
  match jpegFrame src.length src with
  | none => .error 2
  | some f =>
    if (f.code ≠ 0xC0 ∧ f.code ≠ 0xC2) ∨ f.precision ≠ 8 ∨ (f.comps ≠ 1 ∧ f.comps ≠ 3) then .error 1
    else match openSamples f.w f.h (f.w * f.h * f.comps) src with
      | none => .error 2
      | some none => .error 1
      | some (some px) => .ok ⟨f.w, f.h, f.comps, px⟩

/-- The pixels of a Group 4 stream: W x H of one component, black 0 and white 255 (R191). -/
def decodeG4 (w h : Nat) (src : List Byte) : Except Nat Pixels :=
  match g4Image w h src with
  | .error e => .error e
  | .ok px => .ok ⟨w, h, 1, px⟩

/-- The pixels of an encoded image, or STATUS 1 or 2 of its record (R191, R192). The raw codings are their own pixels; the
samples of a JPEG are the engine's (log 4). -/
def decodeImage (d : List Byte) (src : List Byte) : Except Nat Pixels :=
  match imCodec d with
  | 0 => decodeJpeg src
  | 1 => decodeG4 (imW d) (imH d) src
  | c =>
    let comps := if c = 2 then 1 else 3
    if src.length < imW d * imH d * comps then .error 2 else .ok ⟨imW d, imH d, comps, src⟩

/-- The patch grid: the loop of R191; `fuel` bounds it. -/
def fitGrid (p budget w h : Nat) : Nat → Nat → Nat → Nat × Nat
  | 0, cols, rows => (cols, rows)
  | fuel + 1, cols, rows =>
    if budget < cols * rows * p * p then
      if rows = 1 ∨ (1 < cols ∧ rows * w ≤ cols * h) then fitGrid p budget w h fuel (cols - 1) rows
      else fitGrid p budget w h fuel cols (rows - 1)
    else (cols, rows)

/-- Columns and rows of patches (R191). -/
def patchGrid (d : List Byte) (w h : Nat) : Nat × Nat :=
  let p := imPatch d
  let cols := max 1 ((w + p / 2) / p)
  let rows := max 1 ((h + p / 2) / p)
  fitGrid p (imBudget d) w h (cols + rows) cols rows

/-- `n / d` rounded to nearest, ties to even. -/
def rneDiv (n d : Nat) : Nat :=
  let q := n / d
  let r := n % d
  if 2 * r < d then q else if d < 2 * r then q + 1 else q + q % 2

/-- The source coordinate of output coordinate `x`: the first sample, the weight of the next in 256ths, the next sample
(R191). -/
def sampleAt (x n out : Nat) : Nat × Nat × Nat :=
  let den := 2 * out
  let num := min (((2 * x + 1) * n - out : Nat)) ((n - 1) * den)
  let x0 := num / den
  (x0, rneDiv (num % den * 256) den, min (x0 + 1) (n - 1))

/-- One component of an output pixel (R191). -/
def bilinear (i : Pixels) (c : Nat) (u v : Nat × Nat × Nat) : Nat :=
  let s (x y : Nat) : Nat := (i.px.getD ((y * i.w + x) * i.comps + c) 0).toNat
  let f := u.2.1
  let g := v.2.1
  ((256 - f) * (256 - g) * s u.1 v.1 + f * (256 - g) * s u.2.2 v.1 + (256 - f) * g * s u.1 v.2.2
    + f * g * s u.2.2 v.2.2 + 32768) / 65536

/-- The channels of an output pixel (R191). -/
def outPixel (i : Pixels) (ch wo ho x y : Nat) : List Byte :=
  let u := sampleAt x i.w wo
  let v := sampleAt y i.h ho
  let val (c : Nat) : Nat := bilinear i c u v
  if ch = 3 then
    (List.range 3).map fun c => BitVec.ofNat 8 (val (if i.comps = 1 then 0 else c))
  else if i.comps = 1 then [BitVec.ofNat 8 (val 0)]
  else [BitVec.ofNat 8 ((77 * val 0 + 150 * val 1 + 29 * val 2 + 128) / 256)]

/-- The bytes of a patch (R192). -/
def patchAt (d : List Byte) (i : Pixels) (cols rows pr pc : Nat) : List Byte :=
  let p := imPatch d
  fit (patchBytes d) ((List.range p).flatMap fun y => (List.range p).flatMap fun x =>
    outPixel i (imCh d) (cols * p) (rows * p) (pc * p + x) (pr * p + y))

/-- The record (R192). -/
def imageRecord (d : List Byte) (status rows cols w h : Nat) : List Byte :=
  (d.drop 48).take 8 ++ leBytes 2 rows ++ leBytes 2 cols ++ leBytes 4 (imFirst d) ++ leBytes 4 w ++ leBytes 4 h
    ++ leBytes 1 status ++ leBytes 1 (imPatch d) ++ leBytes 1 (imCh d) ++ List.replicate 5 (0 : Byte)

/-- What the engine writes for a source: the bytes of its patches, from the first on, and the record (R191, R192). W and H
of an image that did not decode are open: they come from `o` (log 3). -/
def intake (o : Nat) (d : List Byte) (src : List Byte) : List Byte × List Byte :=
  match decodeImage d src with
  | .error st => ([], imageRecord d st 0 0 (bits o 31 0) (bits o 63 32))
  | .ok i =>
    if i.w = 0 ∨ i.h = 0 ∨ 65535 < i.w ∨ 65535 < i.h then ([], imageRecord d 4 0 0 i.w i.h)
    else
      let g := patchGrid d i.w i.h
      if imCap d < imFirst d + g.1 * g.2 then ([], imageRecord d 3 0 0 i.w i.h)
      else
        ((List.range g.2).flatMap fun pr => (List.range g.1).flatMap fun pc => patchAt d i g.1 g.2 pr pc,
          imageRecord d 0 g.2 g.1 i.w i.h)

/-! ## IMGDEC (R190) -/

/-- The pages the engine may write: those of the patches that fit the budget and the buffer, and of the record. -/
def intakePages (d : List Byte) : List Nat :=
  pagesOf (patchAddr d (imFirst d)) (patchRoom d * patchBytes d) ++ pagesOf (imRec d) 32

/-- IMGDEC issues: its queue entry, and its place at the engine of the chiplet (R185, R190). -/
def issueImage (i : Instr) (bar : Fin 1024) (s0 : State) (_ : Nat) (d : List Byte) (s : State) : State :=
  let c := s0.issue.core
  let x := s0.issue.ctx
  let uid := (getCtx s c x).uid
  let s := enqueue s c x { freshCmd s0 i (barOf bar) (plainForm true 0 (imLen d)) 0 with
    desc := d
    chunks := 1
    units := unitsOf 1 [⟨imSrc d, imLen d, 0⟩]
    pos := intakePages d
    started := true }
  { s with imgq := alSet s.imgq (chipletOf c) (alGet [] s.imgq (chipletOf c) ++ [⟨c, x, uid, none, d, []⟩]) }

/-- IMGDEC (R190). -/
def opImgdec (gd : Guard) (a : GSrc) (bar : Fin 1024) : Op :=
  descOp gd a 64 (fun _ d => imReserved d || imWrong d) (fun _ _ => false) (issueImage (.imgdec gd a bar) bar)

/-- IMGDEC (R190). -/
def execImgdec (gd : Guard) (a : GSrc) (bar : Fin 1024) (s : State) : Host.Outcome State Fault Refusal :=
  runOne (opImgdec gd a bar) s

/-! ## IMAGE_DECODE (R191, R192, R365) -/

/-- The source of an IMGDEC has been read: what it writes is known, patches first and then the record (R187). -/
def decodeCmd (o : Nat) (m : Cmd) : Cmd :=
  let r := intake o m.desc (m.bytesOf 0 (imLen m.desc))
  { m with
    form := { m.form with load := false }
    chunks := 2
    ported := 2
    ended := true
    folded := true
    got := [(0, r.1), (1, r.2)]
    pos := []
    units := unitsOf 1 [⟨patchAddr m.desc (imFirst m.desc), r.1.length, 0⟩] ++ unitsOf 2 [⟨imRec m.desc, 32, 0⟩] }

/-- The command at the head of the engine's queue leaves it. -/
def popImage (s : State) (ch : Nat) : State := { s with imgq := alSet s.imgq ch ((alGet [] s.imgq ch).drop 1) }

/-- A descriptor of a KIND 2 node ends with an event of R188: its node fails with the cause (R369). -/
def failImageNode (s : State) (ch node cause : Nat) : State :=
  popImage { s with nodes := s.nodes.map fun n => if n.index = node then { n with cause := cause } else n } ch

/-- `n` bytes from a device copy address as runs that lie each in one page: their addresses and lengths. -/
def pageRuns (a n : Nat) : List (Nat × Nat) :=
  (pagesOf a n).zipIdx.map fun q =>
    let lo := if q.2 = 0 then a % 65536 else 0
    let before := if q.2 = 0 then 0 else 65536 * q.2 - a % 65536
    (q.1 + lo, min (65536 - lo) (n - before))

/-- The keys of `n` bytes from a device copy address, page by page, as an engine of the package reads them through the
table of R360: what stops it, or the runs of bytes. -/
def nodeRange (s : State) (a n : Nat) : Except Spot (List (Nat × Nat)) :=
  let rs := pageRuns a n
  let at_ (r : Nat × Nat) : Spot := placeOf s primary 0 r.1 r.2
  match (rs.map at_).find? fun q => match q with | .at_ .. => false | _ => true with
  | some q => .error q
  | none => .ok (rs.map fun r => (match at_ r with | .at_ k _ _ _ _ => k | _ => noPlace, r.2))

/-- The bytes of runs of memory. -/
def readRuns (s : State) (rs : List (Nat × Nat)) : List Byte := rs.flatMap fun r => readBytes s.mem r.1 r.2

/-- Bytes stored over runs of memory. -/
def storeRuns (s : State) : List (Nat × Nat) → List Byte → State
  | [], _ => s
  | r :: rs, bs => storeRuns (storeBytes s r.1 (bs.take r.2)) rs (bs.drop r.2)

/-- A page of a range is shared and its frame is not yet the range's own: its number and whether POOL is empty (R423). -/
def nodeShared (s : State) (a n : Nat) : Option (Nat × Bool) :=
  (pagesOf a n).findSome? fun p => match placeOf s primary 0 p with
    | .at_ k true obj page _ => some (parkId obj page, poolEmpty s k && frameCount s k != 1)
    | _ => none

/-- CRC32C checks a page of a range (R188, R412). -/
def nodeChecked (s : State) (a n : Nat) : Bool :=
  (pagesOf a n).any fun p => match placeOf s primary 0 p with | .at_ _ _ _ _ crc => crc | _ => false

/-- What stops an engine that works for a node. -/
def nodeStop (s : State) (ch node : Nat) : Spot → State
  | .park i => tellPage s 0 i
  | .link _ => failImageNode s ch node causeLINK
  | .unreached _ => failImageNode s ch node causeUNCORR
  | .hole _ | .at_ .. => s
  | .miss | .range => failImageNode s ch node causeWINDOW

/-- The first unit beneath runs of memory that holds an uncorrectable error. -/
def badRun (s : State) (rs : List (Nat × Nat)) : Option Nat := rs.findSome? fun r => badUnit s r.1 r.2

/-- The ports that carry the accesses of runs to the pod aperture, and whether they read (R440). -/
def runPorts (s : State) (rs : List (Nat × Nat)) (reads : Bool) : List (Nat × Bool) :=
  (rs.filterMap fun r => if isAperture r.1 then (portTo s (bits r.1 38 33)).map fun p => (p, reads) else none).eraseDups

/-- The descriptor at the head of an engine's queue keeps the ports its accesses are on. -/
def sendImage (s : State) (ch : Nat) (ps : List (Nat × Bool)) : State :=
  { s with imgq := alSet s.imgq ch (match alGet [] s.imgq ch with
    | q :: rest => { q with sent := ps } :: rest
    | [] => []) }

/-- A descriptor of a node ends with a CRC32C failure: what it would write is undefined (R188; log 3). -/
def failNodeCrc (s : State) (ch node : Nat) (d : List Byte) : State :=
  failImageNode (freeUnits s primary 0 (imageDest d)) ch node causeCHECKSUM

/-- A descriptor of a node whose source and destination have places performs: its bytes in the pod aperture are carried by ports,
one of which may fail (R440); a write whose acknowledgement is lost may have performed and is sent again (log 73). -/
def runNodeImage (s : State) (ch node : Nat) (q : ImgCmd) (src out rec : List (Nat × Nat)) (r : List Byte × List Byte) :
    State :=
  let d := q.desc
  let s' := { s with freeCtr := s.freeCtr + 1 }
  let done (s : State) : State := storeRuns (storeRuns s out r.1) rec r.2
  let ps := runPorts s src true ++ runPorts s (out ++ rec) false
  match q.sent.find? fun p => decide (16 ≤ p.1) with
  | some (_, true) => failImageNode s ch node causeLINK
  | some (_, false) => sendImage (if bitAt (openVal s) 0 then done s' else s') ch []
  | none =>
    if q.sent.isEmpty && !ps.isEmpty then sendImage s ch ps
    else if q.sent.any fun p => !(linkAlive s p.1) then s
    else if (nodeChecked s (imSrc d) (imLen d) || nodeChecked s (patchAddr d (imFirst d)) r.1.length
        || nodeChecked s (imRec d) 32) && Config.crcFails s.freeCtr then failNodeCrc s' ch node d
    else popImage (done s') ch

/-- The engine runs one descriptor of a KIND 2 node, whole (R365). -/
def nodeImage (s : State) (ch node : Nat) (q : ImgCmd) : State :=
  let d := q.desc
  match nodeRange s (imSrc d) (imLen d) with
  | .error e => nodeStop s ch node e
  | .ok src =>
    match badRun s src with
    | some u => failImageNode (countBad s u) ch node causeUNCORR
    | none =>
      let r := intake (openVal s) d (readRuns s src)
      let pa := patchAddr d (imFirst d)
      match nodeRange s pa r.1.length, nodeRange s (imRec d) 32 with
      | .error e, _ | .ok _, .error e => nodeStop s ch node e
      | .ok out, .ok rec =>
        match (nodeShared s pa r.1.length).orElse fun _ => nodeShared s (imRec d) 32 with
        | some (i, empty) => if empty then tellPage s 0 i else s
        | none => runNodeImage s ch node q src out rec r

/-- A step of the image engine of a chiplet. -/
def imageStep (s : State) (ch : Nat) : State :=
  match (alGet [] s.imgq ch).head? with
  | none => s
  | some q =>
    match q.node with
    | some n => nodeImage s ch n q
    | none =>
      match (getCtx s q.core q.ctx).cmds.find? fun m => m.uid == q.uid with
      | none => popImage s ch
      | some m =>
        if m.form.load && m.units.isEmpty && !m.stopped && m.parkedAt.isNone then
          putCmd { s with freeCtr := s.freeCtr + 1 } q.core q.ctx (decodeCmd (openVal s) m)
        else s

/-- The address that R411 says does not exist which the descriptor of a node names. -/
def imageHole (s : State) (ch : Nat) : Option Nat :=
  match (alGet [] s.imgq ch).head? with
  | none => none
  | some q =>
    if q.node.isNone then none
    else
      let d := q.desc
      (pagesOf (imSrc d) (imLen d) ++ intakePages d).findSome? fun p =>
        match placeOf s primary 0 p with | .hole k => some k | _ => none

/-- IMAGE_DECODE (R191). -/
def execImageDecode (chiplet : Nat) (s : State) : Host.Outcome State Fault Refusal :=
  match imageHole s chiplet with
  | some k => .fault (.physicalHole k)
  | none => .next (imageStep s chiplet)

end Sys2Proof.Machine
end

