-- ==== Sys2Proof/Machine/Slab.lean ====
section
/-!
DEFINITION. SLABGROW and the growth of a slab (spec 06 R199; 19 R424, R425), and the chunks of copy commands as they
perform (06 R187).
-/
namespace Sys2Proof.Machine

/-! ## SLABGROW (R199) -/

def slEntry (d : List Byte) : Nat := leAt d 0 1
def slUsed (d : List Byte) : Nat := leAt d 8 8

/-- S of a window-table entry of a core (R412). -/
def winSize (s : State) (c e : Nat) : Nat := bits (winWord s c e 0) 31 26

/-- A malformed descriptor (R199). A USED that is not a multiple of 64 is not among the traps and is taken as it stands (log
76). -/
def slabBad (s : State) (d : List Byte) : Bool :=
  let w0 := winWord s s.issue.core (slEntry d) 0
  !(bitAt w0 0) || bitAt w0 25 || !(bitAt w0 24) || decide (2 ^ bits w0 31 26 < slUsed d)
    || leAt d 1 7 != 0 || leAt d 17 7 != 0

/-- A SLABGROW of the same entry is in flight on the core (R199). -/
def growInFlight (k : Core) (e : Nat) : Bool :=
  (List.range 4).any fun x => (k.get x).cmds.any fun m => m.isGrow && slEntry m.desc == e

/-- SLABGROW issues: `base` keeps the key of its descriptor. -/
def issueGrow (i : Instr) (bar : Fin 1024) (s0 : State) (a : Nat) (d : List Byte) (s : State) : State :=
  enqueue s s0.issue.core s0.issue.ctx { freshCmd s0 i (barOf bar) (plainForm false 0 0) (descKey s0 a 32) with
    desc := d
    chunks := (slUsed d + 4095) / 4096
    pos := [a] }

/-- SLABGROW (R199). -/
def opSlabgrow (gd : Guard) (a : GSrc) (bar : Fin 1024) : Op :=
  descOp gd a 32 slabBad (fun s d => !(slabBad s d) && growInFlight s.myCore (slEntry d))
    (issueGrow (.slabgrow gd a bar) bar)

/-- SLABGROW (R199). -/
def execSlabgrow (gd : Guard) (a : GSrc) (bar : Fin 1024) (s : State) : Host.Outcome State Fault Refusal :=
  runOne (opSlabgrow gd a bar) s

/-! ## Device memory that the supervisor gives out (R199, R345, R380, R443) -/

/-- A range of HBM lies in one stack and meets no range given out; `align` divides its base. -/
def rangeFree (s : State) (base len align : Nat) : Bool :=
  base % align == 0 && decide (base + len ≤ 2 ^ 40) && bits base 39 36 == bits (base + len - 1) 39 36
    && !(s.allocs.any fun r => decide (r.2.1 < base + len ∧ base < r.2.1 + r.2.2))

/-- A range is given out to an owner. -/
def giveRange (s : State) (owner base len : Nat) : State := { s with allocs := s.allocs ++ [(owner, base, len)] }

/-- The range that starts at a base is free again. -/
def freeRange (s : State) (base : Nat) : State := { s with allocs := s.allocs.filter fun r => r.2.1 != base }

/-- Owner of slabs among the ranges given out; clients are 0 to 7. -/
def ownSlab : Nat := 8
/-- Owner of kernel images. -/
def ownKernel : Nat := 9
/-- Owner of save areas. -/
def ownSave : Nat := 10

/-- Bytes of a range become zero. -/
def clearBytes (s : State) (a n : Nat) : State :=
  { s with
    mem := s.mem.takeWhile (fun c => decide (c.1 < a)) ++ s.mem.dropWhile (fun c => decide (c.1 < a + n))
    poison := s.poison.filter fun u => !(decide (a ≤ u ∧ u + unitSize u ≤ a + n)) }

/-! ## The growth engine (R199, R425) -/

/-- The forwarding registers of a context. -/
def setForward (s : State) (c x old new w : Nat) : State :=
  modCtx s c x fun t =>
    { t with xfwdo := BitVec.ofNat 64 old, xfwdn := BitVec.ofNat 64 new, xfwdw := BitVec.ofNat 64 w }

/-- xfwdw while entry `e` grows, with watermark `wm` (R425). -/
def forwardWord (e wm : Nat) : Nat := 2 ^ 63 + e * 2 ^ 48 + wm

/-- The device base that an entry maps (R413). -/
def winBase (s : State) (c e : Nat) : Nat := bits (winWord s c e 1) 47 16 * 2 ^ 16

/-- A word of an entry of a core's table, set by the growth engine in one step with the others (R199). -/
def putWinWord (s : State) (c e w v : Nat) : State := tabSet s 0 (dieOf c) (1024 * (c % 65) + 4 * e + w) v

/-- The growth ends: STATUS, NEWBASE where it has grown, the credit (R187, R199). A STATUS byte in a word that cannot be
corrected is not written, and that is reported as of a store (R453). -/
def endGrow (s : State) (c x : Nat) (m : Cmd) (status : Nat) (newBase : Option Nat) : State :=
  let s := if poisoned s (m.base + 16) 1 then
      report (countBad s (m.base + 16)) c x ⟨causeUNCORR, m.addr, m.pos.headD 0 + 16, none, none⟩
    else storeBytes s (m.base + 16) (leBytes 1 status)
  let s := match newBase with | some b => storeBytes s (m.base + 24) (leBytes 8 b) | none => s
  dropCmd (creditCmd s c m 32) c x m.uid

/-- The turn of a growth has come, but for ring space: no other growth of the context runs (R425), nothing accepted at a base
die may still write the slab, and the earlier accesses to the home of its descriptor have performed (R187, R199). -/
def growTurn (s : State) (c x : Nat) (m : Cmd) : Bool :=
  !(growing (getCtx s c x)) && (getCtx s c x).nmc.isEmpty && !(earlierMeets s c x m.uid (some (homeOf m.base)))

/-- The growth may start (R199, R403). -/
def growReady (s : State) (c x : Nat) (m : Cmd) : Bool := growTurn s c x m && m.mayWrite s c 0

/-- The growth starts, or ends at once (R199). -/
def startGrow (s : State) (c x : Nat) (m : Cmd) (newBase : Option Nat) : State :=
  let e := slEntry m.desc
  let sz := winSize s c e
  let virt := bits (winWord s c e 0) 63 32 * 2 ^ 16
  if sz = 40 ∨ virt % 2 ^ (sz + 1) ≠ 0 then endGrow s c x m 3 none
  else match newBase with
    | none => endGrow s c x m 2 none
    | some b =>
      if rangeFree s b (2 ^ (sz + 1)) (2 ^ (sz + 1)) then
        putCmd (setForward (giveRange s ownSlab b (2 ^ (sz + 1))) c x (winBase s c e) b (forwardWord e 0)) c x
          { m with started := true }
      else s

/-- A growth ends with a cause in a chunk of its source: the new slab is free again (R188). -/
def failGrow (s : State) (c x : Nat) (m : Cmd) (cause tval : Nat) : State :=
  let s := setForward (freeRange s (getCtx s c x).xfwdn.toNat) c x 0 0 0
  dropCmd (report s c x ⟨cause, m.addr, tval, none, none⟩) c x m.uid

/-- The next 4 KiB chunk is copied to the new slab, and the watermark moves on (R199); one in the pod aperture is read over a
port first (R440). A source that cannot be corrected, that no host window reaches, or that lies beyond a failed link ends the
growth (R188, R440, R445); which index xtval then holds is not stated (log 3). -/
def growChunk (s : State) (c x : Nat) (m : Cmd) : State :=
  let e := slEntry m.desc
  let t := getCtx s c x
  let o := 4096 * m.ported
  let n := min 4096 (slUsed m.desc - o)
  let old := t.xfwdo.toNat
  let new := t.xfwdn.toNat
  let bad (s : State) : State := failGrow { s with freeCtr := s.freeCtr + 1 } c x m causeUNCORR (openVal s)
  let copy (s : State) : State :=
    if poisoned s (old + o) n then bad (countBad s (old + o))
    else
      let s := storeBytes s (new + o) (readBytes s.mem (old + o) n)
      putCmd (setForward s c x old new (forwardWord e (o + n))) c x { m with ported := m.ported + 1, sent := [] }
  match m.sent.head? with
  | some q =>
    if 16 ≤ q.port then failGrow s c x m causeLINK (q.port - 16) else if linkAlive s q.port then copy s else s
  | none =>
    match spotOf s (old + o) n none none false false with
    | .link port => failGrow s c x m causeLINK port
    | .unreached _ => bad s
    | .at_ key _ _ _ _ =>
      if isAperture key then
        match portTo s (bits key 38 33) with
        | some p => putCmd s c x { m with sent := [⟨m.ported + 1, old + o, key, none, p⟩] }
        | none => s
      else copy s
    | _ => s

/-- The address that R411 says does not exist from which a growth would copy. -/
def growHole (s : State) (c x ci : Nat) : Option Nat :=
  match (getCtx s c x).cmds[ci]? with
  | none => none
  | some m =>
    let k := (getCtx s c x).xfwdo.toNat + 4096 * m.ported
    if m.isGrow && m.started && decide (m.ported < m.chunks) && !(keyExists k) then some k else none

/-- The swap takes effect when the last chunk is done, unless a sequence of the context runs: then EWAIT or DONE performs
it (R199, R290). -/
def swapReady (k : Core) (x : Nat) : Bool := !(k.lanternOn && k.lantern.owner == x)

/-- The rest of the new slab is zero, the entry is swapped and the descriptor written (R199). The old slab is freed once no
other entry maps it (R424). -/
def swapSlab (s : State) (c x : Nat) (m : Cmd) : State :=
  let e := slEntry m.desc
  let sz := winSize s c e
  let old := (getCtx s c x).xfwdo.toNat
  let new := (getCtx s c x).xfwdn.toNat
  let s := clearBytes s (new + slUsed m.desc) (2 ^ (sz + 1) - slUsed m.desc)
  let s := putWinWord s c e 0 (setBits (winWord s c e 0) 31 26 (sz + 1))
  let s := putWinWord s c e 1 (setBits (winWord s c e 1) 47 16 (new / 2 ^ 16))
  endGrow (setForward { s with oldSlabs := s.oldSlabs ++ [⟨old, new, sz + 1⟩] } c x 0 0 0) c x m 1 (some new)

/-- A word 0 of a window-table entry in force that maps a slab from a device base (R412, R424). -/
def mapsSlab (s : State) (base : Nat) (e : (Nat × Nat × Nat) × Nat) : Bool :=
  e.1.1 == 0 && e.1.2.2 % 4 == 0 && bitAt e.2 0 && !(bitAt e.2 25) && bitAt e.2 24
    && bits (tabGet s 0 e.1.2.1 (e.1.2.2 + 1)) 47 16 * 2 ^ 16 == base

/-- The next entry that maps the old base of a grown slab, on a core where no group runs (R415, R424). -/
def slabStale (s : State) (old : Nat) (e : (Nat × Nat × Nat) × Nat) : Bool :=
  mapsSlab s old e && !(coreRuns s [] (e.1.2.1 * 65 + e.1.2.2 / 1024))

/-- The supervisor rewrites the next entry that maps the old base of a grown slab to the new base, with the new size where the
entry's range allows it (log 77), once no group runs on its core (R415); with none left it frees the old slab (R424). -/
def slabEntry (s : State) : State :=
  match s.oldSlabs with
  | [] => s
  | q :: rest =>
    match s.tables.find? (slabStale s q.old) with
    | none => if s.tables.any (mapsSlab s q.old) then s else { freeRange s q.old with oldSlabs := rest }
    | some e =>
      let fits := bits e.2 63 32 * 2 ^ 16 % 2 ^ q.sz == 0
      let w1 := tabGet s 0 e.1.2.1 (e.1.2.2 + 1)
      tabSet (tabSet s 0 e.1.2.1 e.1.2.2 (if fits then setBits e.2 31 26 q.sz else e.2)) 0 e.1.2.1 (e.1.2.2 + 1)
        (setBits w1 47 16 (q.new / 2 ^ 16))

/-- A step of the growth engine. -/
def growStep (s : State) (c x ci : Nat) (newBase : Option Nat) : State :=
  match (getCtx s c x).cmds[ci]? with
  | none => s
  | some m =>
    if !m.isGrow then s
    else if !m.started then (if growReady s c x m then startGrow s c x m newBase else s)
    else if m.ported < m.chunks then growChunk s c x m
    else if swapReady (getCore s c) x then swapSlab s c x m
    else s

/-- SLABGROW_CHUNK (R199). -/
def execSlabgrowChunk (core ctx cmd : Nat) (newBase : Option Nat) (s : State) : Host.Outcome State Fault Refusal :=
  match growHole s core ctx cmd with
  | some k => .fault (.physicalHole k)
  | none => .next (growStep s core ctx cmd newBase)

/-! ## A chunk performs (R187) -/

/-- A command is put back, or leaves the queue when it is complete; a GLIM stays for its word, while its sequence runs. -/
def settle (s : State) (c x : Nat) (m : Cmd) : State :=
  if m.done && (!m.isGlim || m.stopped || !(lanternLive (getCore s c) x m)) then dropCmd s c x m.uid else putCmd s c x m

/-- An IMGDEC whose record has performed is credited and leaves its queues (R187, R190, R192), as does one that has stopped,
without a credit (R188). -/
def settleImage (s : State) (c x : Nat) (m : Cmd) : State :=
  if m.stopped then popImage (dropCmd s c x m.uid) (chipletOf c)
  else if !m.form.load && m.units.isEmpty then popImage (dropCmd (creditCmd s c m 32) c x m.uid) (chipletOf c)
  else putCmd s c x m

/-- A unit of a command that has no stream through a port performs; `f` says what follows. -/
def performPlain (s : State) (c x : Nat) (m : Cmd) (ui : Nat) (f : State → Cmd → State) : State :=
  if unitReady s c x m ui then (let r := performUnit s c x m ui; f r.1 r.2) else s

/-- An LSEND whose message has been read stays until it enters its port; one that fails leaves. -/
def settleSend (s : State) (c x : Nat) (m : Cmd) : State := if m.stopped then dropCmd s c x m.uid else putCmd s c x m

/-- Unit `ui` of a stream performs, with what its chunk does before and after. -/
def performStream (s : State) (c x : Nat) (m : Cmd) (ui : Nat) : State :=
  let p := pump s c x m
  if unitReady p.1 c x p.2 ui then
    let q := performUnit p.1 c x p.2 ui
    let r := pump q.1 c x q.2
    settle r.1 c x r.2
  else settle p.1 c x p.2

/-- The command of a context may go on: a captured one only where it runs on (R333). -/
def goesOn (s : State) (c x : Nat) (m : Cmd) : Bool := !m.isGrow && (m.runsOn || !(isCaptured s c x))

/-- Unit `ui` of a command of a context performs, where its turn has come (R187). -/
def performChunk (s : State) (c x ci ui : Nat) : State :=
  match (getCtx s c x).cmds[ci]? with
  | none => s
  | some m =>
    if !(goesOn s c x m) then s
    else match m.kind with
      | .bundle (.nmcSgdfade ..) | .bundle (.nmcFill ..) | .bundle (.nmcCopy ..) | .bundle (.nmcScale ..)
      | .bundle (.nmcAccum ..) => acceptNmc s c x m
      | .bundle (.imgdec ..) => performPlain s c x m ui fun s m => settleImage s c x m
      | .bundle (.lsend ..) =>
        if m.units.isEmpty then enterPort s c x m else performPlain s c x m ui fun s m => settleSend s c x m
      | _ => performStream s c x m ui

/-- The address that R411 says does not exist at which the unit would perform, or a page of an NMC stands. -/
def chunkHole (s : State) (c x ci ui : Nat) : Option Nat :=
  match (getCtx s c x).cmds[ci]? with
  | none => none
  | some m =>
    if !(goesOn s c x m) then none
    else if m.isNmc then
      (if nmReady s c x m then match nmTranslate s c x m.nmOp m.desc with | .hole k => some k | _ => none else none)
    else
      let p := match m.kind with
        | .bundle (.imgdec ..) | .bundle (.lsend ..) => (s, m)
        | _ => pump s c x m
      match p.2.units[ui]? with
      | some u => if unitReady p.1 c x p.2 ui then holeOf p.1 c x u.addr else none
      | none => none

/-- CHUNK_PERFORM (R187). -/
def execChunkPerform (core ctx cmd unit : Nat) (s : State) : Host.Outcome State Fault Refusal :=
  match chunkHole s core ctx cmd unit with
  | some k => .fault (.physicalHole k)
  | none => .next (performChunk s core ctx cmd unit)

/-! ## Ring claims (R403) -/

/-- The bytes chunk `k` of a command credits: those it will write (R187); those of a TST are known once the chunk has left its
port. -/
def Cmd.chunkBytes (m : Cmd) (k : Nat) : Option Nat :=
  match m.kind with
  | .bundle (.tst ..) => (m.credit.find? fun p => p.1 == k).map (·.2)
  | .bundle (.lsend ..) | .bundle (.lrecv ..) => some 256
  | .bundle (.imgdec ..) | .bundle (.slabgrow ..) => some 32
  | .bundle (.nmcSgdfade ..) | .bundle (.nmcFill ..) | .bundle (.nmcCopy ..) | .bundle (.nmcScale ..)
  | .bundle (.nmcAccum ..) => some 16
  | _ => some 192

/-- Chunks a command may claim for: its rows, or its chunks; an image, a growth and an NMC are one (R187). -/
def Cmd.claimChunks (m : Cmd) : Nat :=
  if m.kind.fills then m.form.cnt + 1 else if m.isImg || m.isGrow || m.isNmc then 1 else m.chunks

/-- The next chunk that a command claims for, past those that have already been credited (R403): a slot may have become a ring
since they performed. -/
def Cmd.nextClaim (m : Cmd) : Nat :=
  if m.isImg || m.isGrow || m.isNmc then m.claimed
  else if m.kind.fills then max m.claimed m.rows
  else
    (((List.range m.claimChunks).drop m.claimed).find? fun k =>
      decide (m.ported ≤ k) || m.credit.any fun p => p.1 == k).getD (max m.claimed m.claimChunks)

/-- A unit of chunk `k` waits for nothing but ring space; none where the chunk has no unit to perform. -/
def Cmd.unitsTurn (s : State) (c x : Nat) (m : Cmd) (k : Nat) : Option Bool :=
  let us := m.units.zipIdx.filter fun p => m.isImg || p.1.chunk == k + 1
  if us.isEmpty || m.kind.isTldc then none else some (us.any fun p => unitTurn s c x m p.2)

/-- A command has reached the claim for its next chunk (R403): nothing but ring space keeps the chunk from writing. -/
def Cmd.claimTurn (s : State) (c x : Nat) (m : Cmd) : Bool :=
  if m.isNmc then nmTurn s c x m
  else if m.isGrow then growTurn s c x m
  else match m.unitsTurn s c x m.nextClaim with
    | some b => b
    | none =>
      if m.kind.fills then
        m.rows == m.nextClaim && (decide (m.rowElems ≤ m.outs.length) || (m.ended && !m.stopped))
      else decide (m.nextClaim < m.ported)

/-- The command of a claim is still in its context's queue. -/
def claimLive (s : State) (q : Claim) : Bool := (getCtx s q.core q.ctx).cmds.any fun m => m.uid == q.uid

/-- A command reaches the claim for its next chunk, or goes on with it; claims are made in the order the commands reach
them, and each is whole (R403; log 19). -/
def claimRing (s : State) (c x i : Nat) : State :=
  match (getCtx s c x).cmds[i]?, ((getCtx s c x).cmds[i]?).bind (·.bar) with
  | some m, some b =>
    let v := (getSlot s (chipletOf c) b).prune (claimLive s)
    let mine (q : Claim) : Bool := q.core == c && q.ctx == x && q.uid == m.uid
    let k := m.nextClaim
    match m.chunkBytes k with
    | none => s
    | some n =>
      if v.on && v.ring && decide (k < m.claimChunks) && m.claimTurn s c x && (m.runsOn || !(isCaptured s c x)) then
        let v := if v.claiming.any mine then v else { v with claiming := v.claiming ++ [⟨c, x, m.uid, 0⟩] }
        if (v.claiming.head?.any mine) = true then
          let r := v.advance n
          let s := setSlot s (chipletOf c) b r.1
          if r.2 then putCmd s c x { m with claimed := k + 1 } else s
        else setSlot s (chipletOf c) b v
      else s
  | _, _ => s

/-- RING_CLAIM (R403). -/
def execRingClaim (core ctx cmd : Nat) (s : State) : Host.Outcome State Fault Refusal := .next (claimRing s core ctx cmd)

end Sys2Proof.Machine
end

