-- ==== Sys2Proof/Machine/Pages.lean ====
section
/-!
DEFINITION. What supervisors and page units do as events: writes of tables, the service of page faults, eviction and
copy-on-write (spec 01 R22; 17 R405; 19 R416 to R423).
-/
namespace Sys2Proof.Machine

/-! ## Table writes as events -/

/-- SHOOT: the translations named leave the chiplet's cache (R420). -/
def execShoot (chiplet : Nat) (v : BitVec 64) (s : State) : Host.Outcome State Fault Refusal :=
  .next (if chiplet < 8 then shootDown s chiplet v.toNat else s)

/-- WAKE: parked chunks translate again (R421). -/
def execWake (chiplet : Nat) (v : BitVec 64) (s : State) : Host.Outcome State Fault Refusal :=
  .next (if chiplet < 8 then wakeChunks s chiplet v.toNat else s)

/-- BARRIER_CFG_WRITE (R395, R405). -/
def execBarrierCfgWrite (chiplet slot : Nat) (v : BitVec 64) (s : State) : Host.Outcome State Fault Refusal :=
  .next (if chiplet < 8 ∧ slot < 1023 then writeCfg s chiplet slot v.toNat else s)

/-- BARRIER_FORCE (R405). -/
def execBarrierForce (chiplet slot : Nat) (v : BitVec 64) (s : State) : Host.Outcome State Fault Refusal :=
  .next (if chiplet < 8 ∧ slot < 1023 then writeStateWord s chiplet slot v.toNat else s)

/-- PKG_WORD_WRITE (R22). -/
def execPkgWordWrite (v : BitVec 64) (s : State) : Host.Outcome State Fault Refusal := .next (writePkg s v.toNat)

/-- SCOPE_WORD_WRITE (R22). -/
def execScopeWordWrite (v : BitVec 64) (s : State) : Host.Outcome State Fault Refusal := .next (writeScope6 s v.toNat)

/-! ## Page tables (R416, R423) -/

/-- The key of the page table entry of a page of an object; none where the object has no such page (R415, R416). -/
def pteKey (s : State) (ch obj page : Nat) : Option Nat :=
  let d := tabGet s 1 ch obj
  if obj < 4096 ∧ bitAt d 0 = true ∧ page < bits d 63 40 then some (bits d 39 3 * 8 + 8 * page) else none

/-- The key of the count of an HBM frame, in the array that FRAMES of its chiplet names (R416, R423). -/
def countAt (s : State) (key : Nat) : Nat :=
  bits (tabGet s 1 (stackChiplet (bits key 39 36)) 4099) 39 3 * 8 + 4 * bits key 39 16

/-- The key of the count that a supervisor keeps of a frame it maps or evicts: none of host memory, and none where it has
named no array (R416; log 92). -/
def countKey (s : State) (key : Nat) : Option Nat :=
  if isHost key ∨ bits (tabGet s 1 (stackChiplet (bits key 39 36)) 4099) 39 3 = 0 then none else some (countAt s key)

/-- The count of a frame set by a supervisor, where it keeps one. -/
def setCount (s : State) (key n : Nat) : State :=
  match countKey s key with
  | some k => storeBytes s k (leBytes 4 n)
  | none => s

/-- The count of a frame set by the page unit (R423). -/
def putCount (s : State) (key n : Nat) : State := storeBytes s (countAt s key) (leBytes 4 n)

/-- The pages of a descriptor's object whose entries name a frame as present (R416). -/
def pagesOn (s : State) (d frame : Nat) : List Nat :=
  let b := bits d 39 3 * 8
  ((s.mem.filter fun c => decide (b ≤ c.1 ∧ c.1 < b + 8 * bits d 63 40) && c.1 % 8 == 0).map fun c => (c.1 - b) / 8).filter
    fun p =>
      let pte := memLe s (b + 8 * p) 8
      bitAt pte 0 && bits pte 47 16 * 65536 == frame

/-- The pages that map a frame: chiplet, object and page, of every chiplet whose table names the object (R416, R422). -/
def mappersOf (s : State) (frame : Nat) : List (Nat × Nat × Nat) :=
  (s.tables.filter fun e => e.1.1 == 1 && decide (e.1.2.2 < 4096) && bitAt e.2 0).flatMap fun e =>
    (pagesOn s e.2 frame).map fun p => (e.1.2.1, e.1.2.2, p)

/-- A group that has not ended was placed on a core last (R418). -/
def coreUsed (s : State) (c : Nat) : Bool := s.groups.any fun g => g.st != .assigned && g.places.any fun p => p.core == c

/-- A page of an object of a chiplet lies in a locked range of a core whose groups have not ended (R412, R418, R427). -/
def lockedPage (s : State) (ch obj page : Nat) : Bool :=
  s.tables.any fun e =>
    e.1.1 == 0 && e.1.2.1 / 2 == ch && e.1.2.2 % 4 == 0 && bitAt e.2 0 && bitAt e.2 25 && bitAt e.2 23 &&
      coreUsed s (e.1.2.1 * 65 + e.1.2.2 / 1024) &&
      (let w1 := tabGet s 0 e.1.2.1 (e.1.2.2 + 1)
       bits w1 11 0 == obj && decide (bits w1 39 16 ≤ page ∧ page < bits w1 39 16 + 2 ^ (bits e.2 31 26 - 16)))

/-- The layout of SHOOT and WAKE for one page (R420). -/
def pageWord (obj page : Nat) : Nat := obj * 2 ^ 52 + page * 2 ^ 28

/-- Owner of page frames among the ranges given out. -/
def ownPage : Nat := 11

/-- Bytes copied from one place to another; an error beneath them goes with them. -/
def copyRange (s : State) (src dst n : Nat) : State :=
  let bad := (s.poison.filter fun u => decide (src ≤ u ∧ u < src + n)).flatMap fun u =>
    (List.range (unitSize u / 8)).map fun i => unitOf (dst + (u - src) + 8 * i)
  let s := storeBytes s dst (readBytes s.mem src n)
  { s with poison := (bad.filter fun u => !(s.poison.contains u)).eraseDups ++ s.poison }

/-! ## PAGE_FAULT_SERVICE (R419) -/

/-- The bytes that a frame gets from backing memory, by their offsets. -/
def fillFrame (s : State) (base : Nat) (content : List Host.Cell) : State :=
  content.foldl (fun s c => if c.1 < 65536 then storeBytes s (base + c.1) [c.2] else s) (clearBytes s base 65536)

/-- The supervisor that owns a chiplet's table 1 makes a page present in a frame that is free, and wakes the chunks parked
on it (R419). -/
def servicePage (s : State) (ch obj page frame : Nat) (content : List Host.Cell) : State :=
  match pteKey s ch obj page with
  | none => s
  | some k =>
    let base := frame * 65536
    if bitAt (memLe s k 8) 0 || !(rangeFree s base 65536 65536) then s
    else
      let s := fillFrame (giveRange s ownPage base 65536) base content
      let s := setCount (storeBytes s k (leBytes 8 (frame * 65536 + 1))) base 1
      let s := { s with supIrq := s.supIrq.filter fun e => e != (2 * ch, 0x100, parkId obj page) }
      wakeChunks s ch (pageWord obj page)

/-- PAGE_FAULT_SERVICE (R419). -/
def execPageFaultService (chiplet obj page frame : Nat) (content : List Host.Cell) (s : State) :
    Host.Outcome State Fault Refusal := .next (servicePage s chiplet obj page frame content)

/-! ## PAGE_EVICTION (R422) -/

/-- A frame can be copied out to a place. -/
def goodDest (k : Nat) : Bool := decide (k < 2 ^ 48) && k % 65536 == 0 && keyExists k

/-- P of a page's entry is cleared, and the page is shot down (R422). -/
def unmapPage (s : State) (m : Nat × Nat × Nat) : State :=
  match pteKey s m.1 m.2.1 m.2.2 with
  | none => s
  | some k => shootDown (storeBytes s k (leBytes 8 (setBits (memLe s k 8) 0 0 0))) m.1 (pageWord m.2.1 m.2.2)

/-- A page is evicted: P is cleared in every object that maps its frame, those pages are shot down on every chiplet whose
table names one, and the frame is copied out and free again (R418, R422). -/
def evictPage (s : State) (ch obj page dest : Nat) : State :=
  match pteKey s ch obj page with
  | none => s
  | some k =>
    let pte := memLe s k 8
    let frame := bits pte 47 16 * 65536
    let ms := mappersOf s frame
    if bitAt pte 0 = false || !(goodDest dest)
        || ms.any fun m => lockedPage s m.1 m.2.1 m.2.2 || shootHeld s m.1 (pageWord m.2.1 m.2.2) then s
    else freeRange (setCount (copyRange (ms.foldl unmapPage s) frame dest 65536) frame 0) frame

/-- PAGE_EVICTION (R422). -/
def execPageEviction (chiplet obj page dest : Nat) (s : State) : Host.Outcome State Fault Refusal :=
  .next (evictPage s chiplet obj page dest)

/-! ## COPY_ON_WRITE (R423) -/

/-- The writes to shared pages for which units of a copy command of a context wait, their turn having come (R423). -/
def sharedWrites (s : State) (c x : Nat) (m : Cmd) : List CowReq :=
  if m.isNmc then
    if nmReady s c x m then
      match nmTranslate s c x m.nmOp m.desc with
      | .shared i _ => [⟨i / 2 ^ 24, chipletOf c, i % 2 ^ 24, c, x, m.uid, none, 0, 0⟩]
      | _ => []
    else []
  else
    m.units.zipIdx.filterMap fun p =>
      if !(m.readsUnit p.1) && unitReady s c x m p.2 then
        match placeUnit (m.view s) c x p.1 with
        | .at_ _ true obj page _ => some ⟨obj, chipletOf c, page, c, x, m.uid, none, p.1.chunk, p.1.addr⟩
        | _ => none
      else none

/-- The entries of a node that no engine has begun to write. -/
def entriesLeft (s : State) (node : Nat) : Nat :=
  ((s.nmq.flatMap (·.2)).filter fun m => m.node == some node && m.burst == 0).length
    + ((s.imgq.flatMap (·.2)).filter fun m => m.node == some node).length

/-- The page that the engine of a KIND 2 or KIND 3 node waits to write, with the node (R360, R423). -/
def nodeWrites (s : State) : List (Nat × Nat) :=
  (s.nmq.filterMap fun q => match q.2 with
    | m :: _ =>
      if m.ready || m.fin.isSome then none
      else (match nmTranslate s primary 0 m.op m.desc with | .shared i _ => some ((m.node).getD 0, i) | _ => none)
    | [] => none)
  ++ s.imgq.filterMap fun q => match q.2 with
    | m :: _ =>
      match m.node, nodeRange s (imSrc m.desc) (imLen m.desc) with
      | some n, .ok src =>
        let r := intake (openVal s) m.desc (readRuns s src)
        ((nodeShared s (patchAddr m.desc (imFirst m.desc)) r.1.length).orElse fun _ => nodeShared s (imRec m.desc) 32).map
          fun i => (n, i.1)
      | _, _ => none
    | [] => none

/-- The writes to shared pages that wait at page units (R423). -/
def cowRequests (s : State) : List CowReq :=
  (s.cores.flatMap fun p => (List.range 4).flatMap fun x => (p.2.get x).cmds.flatMap (sharedWrites s p.1 x))
    ++ (nodeWrites s).map fun q =>
      ⟨q.2 / 2 ^ 24, 0, q.2 % 2 ^ 24, primary, 0, entriesLeft s q.1, some q.1, 0, 0⟩

/-- The write that waits to a shared page of an object, from a chiplet (R423). -/
def cowRequest (s : State) (ch obj page : Nat) : Option CowReq :=
  (cowRequests s).find? fun q => q.obj == obj && q.ch == ch && q.page == page

/-- A write to a shared page of an object waits for a chiplet's context (R423). -/
def writeWaits (s : State) (ch obj page : Nat) : Bool := (cowRequest s ch obj page).isSome

/-- A write that a page unit serves has still to perform, and can (R423). -/
def cowLive (s : State) (q : CowReq) : Bool :=
  match q.node with
  | some n => entriesLeft s n == q.uid
  | none =>
    match (getCtx s q.core q.ctx).cmds.find? fun m => m.uid == q.uid with
    | some m => m.isNmc || (goesOn s q.core q.ctx m && m.units.any fun u => u.chunk == q.chunk && u.addr == q.addr)
    | none => (s.nmq.flatMap (·.2)).any fun m =>
        m.node.isNone && m.core == q.core && m.ctx == q.ctx && m.uid == q.uid && m.burst == 0

/-- The write that a chiplet's page unit is serving, where there is one (R423). -/
def unitServes (s : State) (u : Nat) : Option CowReq := (s.cow.find? fun e => e.1 == u && cowLive s e.2).map (·.2)

/-- Two writes are of one command or node. -/
def CowReq.same (a b : CowReq) : Bool := a.core == b.core && a.ctx == b.ctx && a.uid == b.uid && a.node == b.node

/-- The frame that the page unit takes next from the POOL of a chiplet (R423). -/
def poolFrame (s : State) (ch : Nat) : Nat :=
  let w := tabGet s 1 ch 4098
  memLe s (bits w 39 3 * 8 + 4 * (bits w 63 40 - 1)) 4 * 65536

/-- COUNT of POOL goes down by one. -/
def takePool (s : State) (ch : Nat) : State :=
  let w := tabGet s 1 ch 4098
  tabSet s 1 ch 4098 (setBits w 63 40 (bits w 63 40 - 1))

/-- The page unit can serve a write to a shared frame: no base die holds a translation of the page, and there is a frame to
copy to where one is needed (R420, R423). -/
def cowReady (s : State) (ch obj page : Nat) : Bool :=
  match pteKey s ch obj page with
  | none => false
  | some k =>
    let frame := bits (memLe s k 8) 47 16 * 65536
    !(shootHeld s ch (pageWord obj page)) && (frameCount s frame == 1 || !(poolEmpty s frame))

/-- The page unit of the frame's chiplet makes the frame of a page the page's own (R423). -/
def ownFrame (s : State) (ch obj page : Nat) : State :=
  match pteKey s ch obj page with
  | none => s
  | some k =>
    let pte := memLe s k 8
    let frame := bits pte 47 16 * 65536
    let home := stackChiplet (bits frame 39 36)
    let n := frameCount s frame
    let w := pageWord obj page
    if n = 1 then shootDown (storeBytes s k (leBytes 8 (setBits pte 2 2 0))) ch w
    else
      let g := poolFrame s home
      let s := copyRange (takePool s home) frame g 65536
      let s := putCount (putCount s g 1) frame ((n + (2 ^ 32 - 1)) % 2 ^ 32)
      shootDown (storeBytes s k (leBytes 8 (g + 1))) ch w

/-- The chiplet whose page unit serves a page: that of the stack that homes its frame (R423). -/
def pageUnit (s : State) (ch obj page : Nat) : Option Nat :=
  (pteKey s ch obj page).map fun k => stackChiplet (bits (bits (memLe s k 8) 47 16 * 65536) 39 36)

/-- A request that the same page unit can serve comes first: the lower object number, then the lower issuing chiplet (R423;
log 47). -/
def servedBefore (s : State) (ch obj page : Nat) (r : CowReq) : Bool :=
  decide (r.obj < obj ∨ (r.obj = obj ∧ r.ch < ch)) && cowReady s r.ch r.obj r.page
    && pageUnit s r.ch r.obj r.page == pageUnit s ch obj page

/-- The page unit of a page serves nothing: the write that it served last has performed (R423). -/
def unitIdle (s : State) (ch obj page : Nat) : Bool := ((pageUnit s ch obj page).bind (unitServes s)).isNone

/-- The page unit comes to the write to a page next: no waiting write is served before it, or the command that is being served
writes on (R423). -/
def cowFirst (s : State) (ch obj page : Nat) : Bool :=
  match (pageUnit s ch obj page).bind (unitServes s) with
  | some b => (cowRequest s ch obj page).any b.same
  | none => !((cowRequests s).any (servedBefore s ch obj page))

/-- The page unit takes up a write to a shared page; it is served until it has performed (R423). -/
def serveCow (s : State) (ch obj page : Nat) : State :=
  if writeWaits s ch obj page && cowReady s ch obj page && cowFirst s ch obj page then
    let s' := ownFrame s ch obj page
    match pageUnit s ch obj page, cowRequest s ch obj page with
    | some u, some q => { s' with cow := (s.cow.filter fun e => cowLive s e.2) ++ [(u, q)] }
    | _, _ => s'
  else s

/-- COPY_ON_WRITE (R423). -/
def execCopyOnWrite (chiplet obj page : Nat) (s : State) : Host.Outcome State Fault Refusal :=
  .next (serveCow s chiplet obj page)

end Sys2Proof.Machine
end

