-- ==== Sys2Proof/Machine/Pool.lean ====
section
/-!
DEFINITION. The node table: the checks and the acceptance of nodes, dependences, queues, aging, completion and the replies
of graphs (spec 15).
-/
namespace Sys2Proof.Machine

/-! ## Records (R359 to R361) -/

def ndGid (r : List Byte) : Nat := leAt r 0 4
def ndNode (r : List Byte) : Nat := leAt r 4 2
def ndKind (r : List Byte) : Nat := leAt r 6 1
def ndPrio (r : List Byte) : Nat := leAt r 7 1
def ndCtxs (r : List Byte) : Nat := leAt r 8 2
def ndNops (r : List Byte) : Nat := leAt r 10 1
def ndSeal (r : List Byte) : Nat := leAt r 11 1
def ndCount (r : List Byte) : Nat := leAt r 12 4
def ndWork (r : List Byte) : Nat := leAt r 16 8
def ndOps (r : List Byte) : Nat := leAt r 24 8
def ndArgs (r : List Byte) : Nat := leAt r 32 8
def ndDonew (r : List Byte) : Nat := leAt r 40 8

/-- What reading a list of a record comes to (R360, R362). -/
inductive Got where
  | ok (bs : List Byte)
  /-- it has no place, or a unit that holds an uncorrectable error -/
  | bad (unit : Option Nat)
  | park (id : Nat)
  | hole (key : Nat)

/-- `n` bytes at a copy address of a record, as the supervisor reads them (R360, R362). -/
def nodeGet (s : State) (a n : Nat) : Got :=
  if n = 0 then .ok []
  else match nodeRange s a n with
    | .error (.park i) => .park i
    | .error (.hole k) => .hole k
    | .error _ => .bad none
    | .ok rs => match badRun s rs with
      | some u => .bad (some u)
      | none => .ok (readRuns s rs)

/-- The uncorrectable error that a read met. -/
def Got.unit : Got → Option Nat
  | .bad u => u
  | _ => none

/-- The uncorrectable errors that reads of lists met are counted (R456). -/
def countUnits (s : State) (gs : List Got) : State := (gs.filterMap Got.unit).foldl countBad s

/-- The kernel with an identifier. -/
def kernelOf (s : State) (kid : Nat) : Option Kernel := s.kernels.find? fun k => k.kid == kid

/-- The image uses the Lantern (R344 FLAGS). -/
def imgLantern (b : List Byte) : Bool := bitAt (leAt b 9 1) 0

/-- The kernel a record names, where it is Loaded or Placed (R362 code 3). -/
def ndKernel (s : State) (r : List Byte) : Option Kernel :=
  (kernelOf s (ndWork r)).filter fun k => k.state == 3 || k.state == 4

/-- Parts of a list of bytes, `n` bytes each. -/
def partsOf (n k : Nat) (bs : List Byte) : List (List Byte) := (List.range k).map fun i => (bs.drop (n * i)).take n

/-! ## The checks of R362 -/

/-- Fields of the record itself that give code 1. -/
def ndReserved (r : List Byte) : Bool :=
  let k := ndKind r
  decide (3 < k) || bits (ndPrio r) 7 3 != 0 || bits (ndSeal r) 7 1 != 0 || leAt r 48 16 != 0
    || (k != 0 && ndCtxs r != 0) || (decide (k < 2) && ndCount r != 0) || (decide (k < 2) && bits (ndWork r) 63 32 != 0)
    || (ndNops r == 0 && ndOps r != 0) || (decide (2 ≤ k) && ndArgs r != 0)
    || addrReserved (ndOps r) || addrReserved (ndArgs r) || addrReserved (ndDonew r)
    || (decide (2 ≤ k) && addrReserved (ndWork r))

/-- Fields of the record itself that give code 2; R378 bounds CTXS by the kernel's shape. -/
def ndWrong (s : State) (r : List Byte) : Bool :=
  let k := ndKind r
  decide (32 < ndNops r) || ndOps r % 16 != 0 || ndArgs r % 8 != 0 || ndDonew r % 16 != 0
    || (k == 0 && decide (ndCtxs r < 1 ∨ 512 < ndCtxs r))
    || (decide (2 ≤ k) && decide (ndCount r < 1 ∨ 4096 < ndCount r))
    || (decide (2 ≤ k) && isVaultAddr (ndWork r) && ndWork r % 64 != 0)
    || (k == 0 && (match ndKernel s r with
        | some q =>
          let cpc := imgCpc q.image
          decide (128 * cpc < ndCtxs r) || (imgMwin q.image != 0 && decide (64 * cpc < ndCtxs r))
        | none => false))

/-- An operand descriptor (R361): base, length, mode. -/
def operandOf (e : List Byte) : Nat × Nat × Nat := (leAt e 0 8, leAt e 8 6, leAt e 14 1)

/-- An operand descriptor gives code 1. -/
def operandReserved (e : List Byte) : Bool :=
  addrReserved (leAt e 0 8) || leAt e 15 1 != 0 || decide (leAt e 14 1 < 1 ∨ 3 < leAt e 14 1)

/-- An operand descriptor gives code 2. -/
def operandWrong (e : List Byte) : Bool :=
  isVaultAddr (leAt e 0 8) || decide (leAt e 8 6 < 1 ∨ 2 ^ 48 - bits (leAt e 0 8) 47 0 < leAt e 8 6)

/-- The first entry of a near-memory batch misses every window or translates outside HBM (R362); what its page waits
for. -/
def firstEntry (s : State) (e : List Byte) : Got :=
  match placeOf s primary 0 (nmDeva e) with
  | .at_ k _ _ _ _ => if (homeOf k).1 = 1 then .ok [] else .bad none
  | .park i => .park i
  | .hole k => .hole k
  | _ => .bad none

/-- What the lists of a node come to, read once (R361): operand list, argument block or batch list. -/
structure NodeLists where
  ops : Got
  args : Got
  batch : Got
  first : Got

/-- The lists of a record; one whose size is out of range or whose address is misaligned is not read (log 20). -/
def readLists (s : State) (r : List Byte) : NodeLists :=
  let batch := if 2 ≤ ndKind r ∧ ndKind r ≤ 3 ∧ 1 ≤ ndCount r ∧ ndCount r ≤ 4096 ∧ (isVaultAddr (ndWork r) && ndWork r % 64 != 0) = false then nodeGet s (ndWork r) (64 * ndCount r)
    else .ok []
  { ops := if ndNops r ≤ 32 ∧ ndOps r % 16 = 0 then nodeGet s (ndOps r) (16 * ndNops r) else .ok []
    args := if ndArgs r = 0 ∨ 2 ≤ ndKind r ∨ ndArgs r % 8 ≠ 0 then .ok (List.replicate 224 0) else nodeGet s (ndArgs r) 224
    batch := batch
    first := match ndKind r, batch with
      | 3, .ok bs => if nmReserved (leAt bs 37 1) true (bs.take 64) || isVaultAddr (nmDeva (bs.take 64)) then .ok []
          else firstEntry s (bs.take 64)
      | _, _ => .ok [] }

/-- What a list waits for, or the hole it names. -/
def Got.stops : Got → Option (Sum Nat Nat)
  | .park i => some (.inl i)
  | .hole k => some (.inr k)
  | _ => none

/-- The bytes of a list, where it could be read. -/
def Got.bytes : Got → List Byte
  | .ok bs => bs
  | _ => []

/-- A list could not be read. -/
def Got.isBad : Got → Bool
  | .bad _ => true
  | _ => false

/-- The operand descriptors of a record. -/
def NodeLists.operands (l : NodeLists) : List (List Byte) := partsOf 16 (l.ops.bytes.length / 16) l.ops.bytes

/-- The batch entries of a record. -/
def NodeLists.entries (l : NodeLists) : List (List Byte) := partsOf 64 (l.batch.bytes.length / 64) l.batch.bytes

/-- The reads of the lists of a record. -/
def NodeLists.got (l : NodeLists) : List Got := [l.ops, l.args, l.batch]

/-- A list gives code 1. -/
def listsReserved (r : List Byte) (l : NodeLists) : Bool :=
  (l.operands).any operandReserved
    || (ndKind r == 2 && l.entries.any imReserved)
    || (ndKind r == 3 && l.entries.any fun e => nmReserved (leAt e 37 1) true e)

/-- A list gives code 2. -/
def listsWrong (r : List Byte) (l : NodeLists) : Bool :=
  l.ops.isBad || l.args.isBad || l.batch.isBad || l.first.isBad
    || (l.operands).any operandWrong
    || (ndKind r == 2 && l.entries.any imWrong)
    || (ndKind r == 3 && l.entries.any fun e => nmWrong (leAt e 37 1) e fun _ => true)

/-- KID names no usable kernel (R362 code 3). -/
def kernelWrong (s : State) (r : List Byte) : Bool :=
  decide (ndKind r < 2) && (match ndKernel s r with
    | none => true
    | some k => ndKind r == 1 && (imgTpc k.image != 0 || imgLantern k.image))

/-- What the checks of a node come to. -/
inductive Check where
  | accept (ops : List (Nat × Nat × Nat)) (lists : List (List Byte))
  | refuse (code : Nat)
  | park (id : Nat)
  | hole (key : Nat)

/-- What the record keeps of its lists: 28 argument words, or the descriptors (R354, R361). -/
def keptLists (r : List Byte) (l : NodeLists) : List (List Byte) :=
  if ndKind r < 2 then partsOf 8 28 l.args.bytes else l.entries

/-- The checks of R362 on a record; `wrongPlace` says that GID or NODE is not what acceptance asks for, `taken` how many
words of the node table are in use. -/
def checkNode (s : State) (r : List Byte) (wrongPlace : Bool) (taken : Nat) : Check :=
  let l := readLists s r
  match [l.ops, l.args, l.batch, l.first].findSome? Got.stops with
  | some (.inl i) => .park i
  | some (.inr k) => .hole k
  | none =>
    if ndReserved r || listsReserved r l then .refuse 1
    else if ndWrong s r || listsWrong r l then .refuse 2
    else if kernelWrong s r then .refuse 3
    else if wrongPlace then .refuse 4
    else if 262144 ≤ taken then .refuse 5
    else .accept ((l.operands).map operandOf) (keptLists r l)

/-! ## Acceptance (R363, R366, R373) -/

/-- Two declared operands of earlier and later node make a dependence (R363). -/
def operandsMeet (a b : Nat × Nat × Nat) : Bool :=
  decide (a.1 < b.1 + b.2.1 ∧ b.1 < a.1 + a.2.1) && (bitAt a.2.2 1 || bitAt b.2.2 1)

/-- Node `b` depends on node `a` (R363). -/
def dependsOn (a : Node) (ops : List (Nat × Nat × Nat)) : Bool :=
  a.st != .done && a.ops.any fun x => ops.any fun y => operandsMeet x y

/-- The lowest free word of the node table. -/
def freeNodeWord (s : State) : Nat :=
  ((List.range (s.nodes.length + 1)).find? fun i => !(s.nodes.any fun n => n.index == i)).getD s.nodes.length

/-- A node enters the table, Waiting or Ready (R363, R376). -/
def addNode (s : State) (r : List Byte) (gid id client : Nat) (ops : List (Nat × Nat × Nat)) (lists : List (List Byte)) :
    State :=
  let deps := if gid = 0 then [] else ((s.nodes.filter fun n => n.gid == gid && dependsOn n ops).map (·.index))
  { s with
    nodes := s.nodes ++ [{
      index := freeNodeWord s, record := r, ops := ops, lists := lists, gid := gid, id := id,
      st := if deps.isEmpty then .ready else .waiting, deps := deps, level := ndPrio r % 8, since := s.ck, group := 0,
      status := 0, cause := 0, seq := 0, client := client }]
    graphs := s.graphs.map fun g =>
      if g.gid = gid ∧ g.done = false then { g with pending := g.pending + 1, total := g.total + 1 } else g }

/-! ## Replies (R441, R443) -/

/-- A channel. -/
def getChannel (s : State) (c : Nat) : Channel := alGet Channel.reset s.channels c

/-- A channel changed. -/
def modChannel (s : State) (c : Nat) (f : Channel → Channel) : State :=
  { s with channels := alSet s.channels c (f (getChannel s c)) }

/-- A reply enters the outbox of a channel; the interrupt is raised where it was empty (R441). -/
def pushReply (s : State) (c : Nat) (bs : List Byte) : State :=
  modChannel s c fun h => { h with outbox := h.outbox ++ [bs], irq := h.irq || (h.outbox.isEmpty && h.irqe) }

/-- A reply (R443). -/
def replyBytes (seq op status code : Nat) (results : List Byte) : List Byte :=
  fit 64 (leBytes 4 seq ++ leBytes 1 op ++ leBytes 1 status ++ leBytes 1 code ++ leBytes 1 0 ++ results)

/-- The reply of a completed graph (R372, R443). -/
def graphReply (g : Graph) : List Byte :=
  replyBytes 0 0x80 1 0 (leBytes 8 g.tag ++ leBytes 4 g.gid ++ leBytes 4 (g.total - g.bad) ++ leBytes 4 g.bad)

/-- A graph that is not Open and has no node left completes, and its nodes go (R372, R376, R377). -/
def completeGraph (s : State) (g : Graph) : State :=
  if !g.isOpen && g.pending == 0 && !g.done then
    { s with
      graphs := s.graphs.map fun h => if h = g then { g with done := true } else h
      nodes := s.nodes.filter fun n => n.gid != g.gid }
  else s

/-- The reply of a completed graph is written where its client's outbox has room, and the graph goes (R372, R377). -/
def replyGraph (s : State) (g : Graph) : State :=
  if g.done && decide ((getChannel s g.client).outbox.length < 256) then
    { pushReply s g.client (graphReply g) with graphs := s.graphs.erase g }
  else s

/-- Graphs complete and are replied to; complete nodes of no graph go (R372, R376, R377). -/
def closeGraphs (s : State) : State :=
  let s := { s with nodes := s.nodes.filter fun n => !(n.gid == 0 && n.st == NodeSt.done) }
  let s := s.graphs.foldl completeGraph s
  s.graphs.foldl replyGraph s

/-! ## Completion (R369, R370) -/

/-- A page unit cannot take up a write to a shared page from the primary supervisor's chiplet yet: the page for which the owner
of the table is told, where POOL is empty, or nothing but time (R419, R423). -/
def shareWaits (s : State) (obj page : Nat) : Option (Option Nat) :=
  if !(cowReady s 0 obj page) then some (some (parkId obj page))
  else if !(unitIdle s 0 obj page) then some none
  else none

/-- Why the completion word of a record cannot be written yet: the page it waits for, or a page unit (R360, R419, R423). -/
def wordWaits (s : State) (r : List Byte) : Option (Option Nat) :=
  let a := ndDonew r
  if a = 0 then none
  else match placeOf s primary 0 a 16 with
    | .park i => some (some i)
    | .at_ _ true obj page _ => shareWaits s obj page
    | _ => none

/-- What waits, waits; the owner of the table is told of a page that is missing (R419). -/
def tellWait (s : State) : Option Nat → State
  | some i => tellPage s 0 i
  | none => s

/-- The completion word is written (R369). One that has no place is lost (log 13). -/
def writeWord (s : State) (r : List Byte) (status cause : Nat) : State :=
  let a := ndDonew r
  if a = 0 then s
  else
    let s := match placeOf s primary 0 a 16 with
      | .at_ _ true obj page _ => ownFrame s 0 obj page
      | _ => s
    match placeOf s primary 0 a 16 with
    | .at_ k _ _ _ _ =>
      storeBytes s k (leBytes 2 (ndNode r) ++ leBytes 2 0 ++ leBytes 1 status ++ leBytes 1 cause ++ leBytes 2 0
        ++ leBytes 8 s.ck)
    | _ => s

/-- One node completes (R369). -/
def completeOne (s : State) (i status cause : Nat) : State :=
  match s.nodes.find? fun n => n.index == i && n.st != .done with
  | none => s
  | some n =>
    let s := writeWord s n.record status cause
    let done (m : Node) : Node :=
      if m.index = i then { m with st := .done, status := status, cause := cause }
      else if status = 1 ∧ m.deps.contains i then
        let ds := m.deps.filter fun d => d != i
        { m with deps := ds, st := if ds.isEmpty ∧ m.st = .waiting then .ready else m.st
                 since := if ds.isEmpty ∧ m.st = .waiting then s.ck else m.since }
      else m
    { s with
      nodes := s.nodes.map done
      graphs := s.graphs.map fun g =>
        if g.gid = n.gid ∧ n.gid ≠ 0 ∧ g.done = false then
          { g with pending := g.pending - 1, bad := g.bad + (if status = 1 then 0 else 1) }
        else g }

/-- Nodes that wait for a node. -/
def dependents (s : State) (i : Nat) : List Nat :=
  (s.nodes.filter fun n => n.st == .waiting && n.deps.contains i).map (·.index)

/-- Nodes complete, and with those that did not succeed the nodes that depend on them (R370); `fuel` bounds them. -/
def completeAll : Nat → List (Nat × Nat × Nat) → State → State
  | 0, _, s => s
  | _, [], s => s
  | fuel + 1, (i, status, cause) :: rest, s =>
    let next := if status = 1 then []
      else ((dependents s i).filter fun j => !(rest.any fun q => q.1 == j)).map fun j => (j, 3, 0)
    completeAll fuel (rest ++ next) (completeOne s i status cause)

/-- The nodes that complete when these do: those that depend on them, in turn; `fuel` bounds the rounds. -/
def affected (s : State) : Nat → List Nat → List Nat
  | 0, is => is
  | fuel + 1, is => affected s fuel (is ++ ((is.flatMap (dependents s)).filter fun j => !(is.contains j)).eraseDups)

/-- What the completion words of nodes wait for. -/
def wordsWait (s : State) (status : Nat) (is : List Nat) : Option (Option Nat) :=
  let all := if status = 1 then is else affected s s.nodes.length is
  (s.nodes.filter fun n => all.contains n.index).findSome? fun n => wordWaits s n.record

/-- Nodes complete with a status and a cause; `f` is what ends with them. While a page of a completion word is missing the
owner of its table is told, and nothing else happens (R369, R419). -/
def completeNodes (s : State) (is : List Nat) (status cause : Nat) (f : State → State) : State :=
  match wordsWait s status is with
  | some w => tellWait s w
  | none =>
    let s := f s
    closeGraphs (completeAll (s.nodes.length * (s.nodes.length + 1) + 1) (is.map fun i => (i, status, cause)) s)

/-! ## NODE_ACCEPT (R362, R373) -/

/-- The graph with an identifier that is not yet completed (R359). -/
def graphOf (s : State) (gid : Nat) : Option Graph := s.graphs.find? fun g => g.gid == gid && !g.done

/-- GID names no Open graph, or NODE is not the next index (R362 code 4). -/
def appendWrong (s : State) (r : List Byte) : Bool :=
  if ndGid r = 0 then ndNode r != 0
  else match graphOf s (ndGid r) with
    | some g => !g.isOpen || ndNode r != g.total
    | none => true

/-- A record with SEAL = 1 seals its graph (R373). -/
def sealGraph (s : State) (r : List Byte) : State :=
  if bitAt (ndSeal r) 0 then
    { s with graphs := s.graphs.map fun g => if g.gid = ndGid r ∧ g.done = false then { g with isOpen := false } else g }
  else s

/-! ## Ranges that a kernel's records name (R360) -/

/-- The ranges that the batch list of a record names: address and bytes. -/
def batchRanges (s : State) (r : List Byte) : List (Nat × Nat) :=
  let es := partsOf 64 (ndCount r) (nodeGet s (ndWork r) (64 * ndCount r)).bytes
  match ndKind r with
  | 2 => es.flatMap fun e => [(imSrc e, imLen e), (patchAddr e (imFirst e), patchRoom e * patchBytes e), (imRec e, 32)]
  | 3 => es.flatMap fun e => [(nmDeva e, nmCount e * nmSize e), (nmDevb e, nmCount e * nmSize e)]
  | _ => []

/-- The ranges of device space that a record names, those in its lists among them: operands and batch entries. -/
def namedRanges (s : State) (r : List Byte) : List (Nat × Nat) :=
  let ops := (partsOf 16 (ndNops r) (nodeGet s (ndOps r) (16 * ndNops r)).bytes).map fun e => ((operandOf e).1, (operandOf e).2.1)
  ((if 2 ≤ ndKind r ∧ ndKind r ≤ 3 ∧ ndCount r ≤ 4096 then (ndWork r, 64 * ndCount r) :: batchRanges s r else [])
    ++ (if ndNops r ≤ 32 then (ndOps r, 16 * ndNops r) :: ops else [])
    ++ [(ndArgs r, 224), (ndDonew r, 16)]).filter fun q => q.1 != 0 && bits q.1 63 48 == 0 && q.2 != 0

/-- A virtual range meets one that the primary supervisor's table maps. -/
def mapped (s : State) (va n : Nat) : Bool :=
  (List.range 256).any fun e =>
    let w0 := winWord s primary e 0
    bitAt w0 0 && decide (va < bits w0 63 32 * 2 ^ 16 + 2 ^ bits w0 31 26 ∧ bits w0 63 32 * 2 ^ 16 < va + n)

/-- The next entry that the primary supervisor's table lacks for the ranges a kernel names in a record it submits by NSUB: one of
its own that meets such a range, and meets nothing that is mapped there (R360; log 78). -/
def lackedEntry (s : State) (q : Submission) : Option (Nat × Nat) :=
  (namedRanges s q.record).findSome? fun a => q.maps.find? fun w =>
    let va := bits w.1 63 32 * 2 ^ 16
    let n := 2 ^ bits w.1 31 26
    decide (a.1 < va + n ∧ va < a.1 + a.2) && !(mapped s va n)

/-- The lowest entry of the primary supervisor's table that is not in force. -/
def freeEntry (s : State) : Option Nat := (List.range 256).find? fun e => !(bitAt (winWord s primary e 0) 0)

/-- The words of an entry of a core's table are written, the word with V last. -/
def putEntry (s : State) (c e : Nat) (w : Nat × Nat) : State :=
  putWinWord (putWinWord (putWinWord (putWinWord s c e 1 w.2) c e 2 0) c e 3 0) c e 0 w.1

/-- The record at the head of the submission FIFO: what its kernel names is mapped first (R360), then it is checked, and
accepted or refused (R362, R373). -/
def acceptNext (s : State) : Host.Outcome State Fault Refusal :=
  match s.fifo with
  | [] => .next s
  | q :: rest =>
    let r := q.record
    match lackedEntry s q, freeEntry s with
    | some w, some e => .next (putEntry s primary e w)
    | _, _ =>
    match checkNode s r (appendWrong s r) s.nodes.length with
    | .hole k => .fault (.physicalHole k)
    | .park i => .next (tellPage s 0 i)
    | .refuse code =>
      .next (match wordWaits s r with
        | some w => tellWait s w
        | none => writeWord (countUnits { s with fifo := rest } (readLists s r).got) r 4 code)
    | .accept ops lists =>
      let client := ((graphOf s (ndGid r)).map (·.client)).getD q.client
      .next (sealGraph (addNode { s with fifo := rest } r (ndGid r) (ndNode r) client ops lists) r)

/-- NODE_ACCEPT (R362, R373). -/
def execNodeAccept (s : State) : Host.Outcome State Fault Refusal := acceptNext s

/-! ## Queues and aging (R366 to R368) -/

/-- Node `a` stands before node `b` in their queue: those put back at the head, the latest first; then by the ck in which
they entered, and (GID, NODE) (R366, R371). -/
def queueLt (a b : Node) : Bool :=
  if a.seq ≠ b.seq then decide (b.seq < a.seq)
  else if a.since ≠ b.since then decide (a.since < b.since)
  else if a.gid ≠ b.gid then decide (a.gid < b.gid)
  else decide (a.id < b.id)

/-- The first of nodes in queue order; of two that the rules do not order, the earlier accepted. -/
def firstNode : List Node → Option Node
  | [] => none
  | n :: ns => match firstNode ns with
    | none => some n
    | some m => if queueLt m n then some m else some n

/-- The node that dispatch looks at for a KIND: the head of its highest level that is not empty (R368). -/
def headNode (s : State) (kind : Nat) : Option Node :=
  let ready := s.nodes.filter fun n => n.st == .ready && ndKind n.record == kind
  ((List.range 8).map fun i => 7 - i).findSome? fun lv => firstNode (ready.filter fun n => n.level == lv)

end Sys2Proof.Machine
end

