-- ==== Sys2Proof/Machine/Place.lean ====
section
/-!
DEFINITION. Groups: which cores can take one, placement, pre-emption, resume on the same or on other cores, and the words
of kernels (spec 14 R353 to R358; 16).
-/
namespace Sys2Proof.Machine

/-! ## Kernel words (R357, R358) -/

/-- Groups of a kernel that are placed or frozen. -/
def placedGroups (s : State) (kid : Nat) : Nat := (s.groups.filter fun g => g.kernel == kid && g.st != .assigned).length

/-- The index of a kernel's word in table 7: the one that names it, else the lowest free one. -/
def kernelIndex (s : State) (kid : Nat) : Nat :=
  let n := s.tables.length + 1
  match (List.range n).find? fun i => bits (tabGet s 7 0 i) 2 0 != 0 && bits (tabGet s 7 0 i) 63 32 == kid with
  | some i => i
  | none => ((List.range n).find? fun i => bits (tabGet s 7 0 i) 2 0 == 0).getD n

/-- The word of a kernel is brought up to date (R358). -/
def putKernelWord (s : State) (kid : Nat) : State :=
  let i := kernelIndex s kid
  tabSet s 7 0 i (match kernelOf s kid with
    | some k => kid % 2 ^ 32 * 2 ^ 32 + k.refuse % 256 * 2 ^ 24 + placedGroups s kid % 65536 * 2 ^ 8 + k.state % 8
    | none => 0)

/-- A kernel follows its groups: Loaded or Placed (R357). -/
def refreshKernel (s : State) (kid : Nat) : State :=
  match kernelOf s kid with
  | none => s
  | some k =>
    let st := if k.state = 3 ∨ k.state = 4 then (if placedGroups s kid = 0 then 3 else 4) else k.state
    putKernelWord { s with kernels := s.kernels.map fun q => if q.kid = kid then { q with state := st } else q } kid

/-! ## What stands on a core (R353, R380, R387) -/

/-- No group uses a context, or is being placed on it. -/
def unused (t : Ctx) : Bool := t.st == .free && t.group == 0

/-- Every access of a context has performed, but for copy commands saved with it (R389, R390). -/
def quietCtx (s : State) (c x : Nat) : Bool :=
  let t := getCtx s c x
  t.far.isEmpty && (t.dq.all fun d => d.arrived) && !(t.cmds.any Cmd.runsOn) && t.nmc.isEmpty
    && !(s.mcasts.any fun m => m.core == c && m.ctx == x)
    && t.arrivals.all fun a => t.cmds.any fun m => a.need.contains m.uid

/-- Every access of a frozen group has performed (R389). -/
def quiet (s : State) (g : Group) : Bool := !(inPlace s g) || g.places.all fun p => quietCtx s p.core p.ctx

/-- The groups whose contexts may make room: they are Frozen, and every access of theirs has performed. -/
def evictable (s : State) : List Nat :=
  (s.groups.filter fun g => g.st == .frozen && inPlace s g && quiet s g).map (·.gid)

/-- A context that a placement must leave alone. -/
def taken (ev : List Nat) (t : Ctx) : Bool := !(unused t) && !(t.group != 0 && ev.contains t.group)

/-- Tile runs in use on a core: first tile, count. -/
def tilesTaken (s : State) (ev : List Nat) (c : Nat) : List (Nat × Nat) :=
  (List.range 4).filterMap fun x =>
    let t := getCtx s c x
    if taken ev t && t.tcnt != 0 then some (t.tbase, t.tcnt) else none

/-- A run of `n` places from `b`, of `size`, meets no run in use. -/
def runFree (used : List (Nat × Nat)) (size b n : Nat) : Bool :=
  decide (b + n ≤ size) && used.all fun u => decide (b + n ≤ u.1 ∨ u.1 + u.2 ≤ b)

/-- There is a free run of `n` places. -/
def hasRun (used : List (Nat × Nat)) (size n : Nat) : Bool :=
  (0 :: used.map fun u => u.1 + u.2).any fun b => runFree used size b n

/-- Window pages in use in the vault above a core: first page, count (R382). -/
def pagesTaken (s : State) (c : Nat) : List (Nat × Nat) :=
  s.groups.flatMap fun g => (g.windows.filter fun w => coreOfVault w == c && g.vwin != 0).map fun w =>
    (bits w 22 12, g.vwin / 4096)

/-- The kernels whose groups stand on a core (R353). -/
def residents (s : State) (ev : List Nat) (c : Nat) : List Nat :=
  (List.range 4).filterMap fun x =>
    let t := getCtx s c x
    if taken ev t && t.group != 0 then some t.kernel else none

/-- The port-program and control-store conditions of R353. -/
def codeFits (s : State) (ks : List Nat) (b : List Byte) : Bool :=
  ks.all fun k =>
    let q := kernelImage s k
    ((imgPorts b).all fun p => (imgPorts q).all fun r => p.1 != r.1 || p.2 == r.2)
      && (imgMicro b).all fun p => (imgMicro q).all fun r => p.1 != r.1 || p.2 == r.2

/-- What a placement asks of its cores (R378, R380). `ln` and `mu` say whether a context brings a Lantern sequence or the
matrix unit. -/
structure Shape where
  k : Nat
  cpc : Nat
  tpc : Nat
  vwin : Nat
  mwin : Nat
  image : List Byte
  ln : Bool
  mu : Bool

/-- A compute core qualifies (R380); `room` says whether it must hold a new window. -/
def qualifies (s : State) (ev : List Nat) (sh : Shape) (room : Bool) (c : Nat) : Bool :=
  let k := getCore s c
  decide (sh.cpc ≤ ((List.range 4).filter fun x => !(taken ev (k.get x))).length)
    && hasRun (tilesTaken s ev c) 32 (sh.cpc * sh.tpc)
    && codeFits s (residents s ev c) sh.image
    && (!room || sh.vwin == 0 || hasRun (pagesTaken s c) 2048 (sh.vwin / 4096))
    && (!sh.ln || !k.lanternOn)
    && (!sh.mu || k.owner == .none)

/-- The compute cores of a die layer, ascending (R10, R381). -/
def coresOf (die : Nat) : List Nat := (List.range 64).map fun c => die * 65 + c

/-- The first `k` of a list, where there are so many. -/
def takeAll (k : Nat) (cs : List Nat) : Option (List Nat) := if k ≤ cs.length then some (cs.take k) else none

/-- The cores that R381 gives a group with no previous ones; `only` bounds the spans to one die layer (R391). -/
def searchCores (s : State) (ev : List Nat) (sh : Shape) (only : Option Nat) : Option (List Nat) :=
  let q (ds : List Nat) : List Nat := (ds.flatMap coresOf).filter (qualifies s ev sh true)
  let dies := match only with | some d => [d] | none => List.range 16
  (if sh.k = 1 then dies.findSome? fun d => takeAll 1 (q [d]) else none).orElse fun _ =>
    (dies.findSome? fun d => takeAll sh.k (q [d])).orElse fun _ =>
      if only.isSome ∨ sh.mwin ≠ 0 then none
      else (List.range 8).findSome? fun p => takeAll sh.k (q [2 * p, 2 * p + 1])

/-- The cores of a group by core index. -/
def groupCores (g : Group) : List Nat :=
  (List.range ((g.ctxs + g.cpc - 1) / g.cpc)).map fun i => (g.places[i * g.cpc]?.map (·.core)).getD 0

/-- What a frozen group asks of cores (R380). -/
def resumeShape (s : State) (g : Group) : Shape :=
  ⟨(g.ctxs + g.cpc - 1) / g.cpc, g.cpc, g.tpc, g.vwin, g.mwin, kernelImage s g.kernel, g.saved.any (·.ln), g.saved.any (·.mu)⟩

/-- What a new group asks of cores. -/
def newShape (b : List Byte) (ctxs : Nat) : Shape :=
  ⟨(ctxs + imgCpc b - 1) / imgCpc b, imgCpc b, imgTpc b, imgVwin b, imgMwin b, b, false, false⟩

/-- The groups that a resume may displace of those that may go: the group itself among them. -/
def evictFor (ev : List Nat) (g : Group) : List Nat := ev ++ [g.gid]

/-- The die layer to which a group is bound (R391). -/
def boundTo (s : State) (die : Nat) : Option Nat := if s.mode = .operating then none else some die

/-- The cores on which a frozen group resumes when the groups of `ev` may go, and whether they are its previous ones (R381). -/
def resumeCores (s : State) (ev : List Nat) (g : Group) : Option (List Nat × Bool) :=
  let sh := resumeShape s g
  let prev := groupCores g
  if prev.all (qualifies s (evictFor ev g) sh false) then some (prev, true)
  else (searchCores s (evictFor ev g) sh (boundTo s g.die)).map fun cs => (cs, false)

/-- The used ports of an image are trained to their peers (R355). -/
def linksReady (s : State) (b : List Byte) : Bool :=
  (List.range 16).all fun p => imgPeer b p == 0xFF ||
    (let q := getPort s p; (q.state == 2 || q.state == 3) && q.peer == imgPeer b p)

/-- Every page of a locked range of a core is present (R381, R418). -/
def locksPresent (s : State) (c : Nat) : Bool :=
  (List.range 256).all fun e =>
    let w0 := winWord s c e 0
    let w1 := winWord s c e 1
    !(bitAt w0 0 && bitAt w0 25 && bitAt w0 23) ||
      (List.range (2 ^ (bits w0 31 26 - 16))).all fun i =>
        match readPte s (chipletOf c) (bits w1 11 0) (bits w1 39 16 + i) with
        | some p => bitAt p 0
        | none => false

/-- The node of a group. -/
def nodeOf (s : State) (g : Group) : Option Node := s.nodes.find? fun n => n.index == g.node

/-! ## Ranges of clients (R443) -/

/-- The entries of the primary supervisor's table that map what a client was given by ALLOC: range word and target word. -/
def clientEntries (s : State) (client : Nat) : List (Nat × Nat) :=
  (List.range 256).filterMap fun e =>
    let w0 := winWord s primary e 0
    let w1 := winWord s primary e 1
    if bitAt w0 0 && !(bitAt w0 25) && s.allocs.contains (client, bits w1 47 16 * 2 ^ 16, 2 ^ bits w0 31 26)
    then some (w0, w1) else none

/-- Entries that a core's table lacks. -/
def lacking (s : State) (c : Nat) (es : List (Nat × Nat)) : List (Nat × Nat) :=
  es.filter fun p => !((List.range 256).any fun e => winWord s c e 0 == p.1 && winWord s c e 1 == p.2)

/-- The supervisor may map a client's ranges in a core's table: nothing is lacking, or no group runs there (R415). -/
def mayMap (s : State) (ev : List Nat) (client c : Nat) : Bool :=
  (lacking s c (clientEntries s client)).isEmpty || !(coreRuns s ev c)

/-- An entry takes the lowest word of a core's table that is not in force. -/
def mapEntry (c : Nat) (s : State) (p : Nat × Nat) : State :=
  match (List.range 256).find? fun e => !(bitAt (winWord s c e 0) 0) with
  | none => s
  | some e =>
    let o := 1024 * (c % 65) + 4 * e
    let t (s : State) (w v : Nat) : State := tabSet s 0 (dieOf c) (o + w) v
    t (t (t (t s 1 p.2) 2 0) 3 0) 0 p.1

/-- A client's ranges are mapped on a core where its node is placed (R443). -/
def mapClient (client : Nat) (s : State) (c : Nat) : State := (lacking s c (clientEntries s client)).foldl (mapEntry c) s

/-! ## Grants (R384 to R386) -/

/-- The lowest grant of a die layer that is not in force. -/
def freeGrant (s : State) (die : Nat) : Option Nat := (List.range 512).find? fun e => !(bitAt (tabGet s 2 die (2 * e)) 0)

/-- A grant is written: the window of core index `i` of a group stands at a place (R384, R385). -/
def putGrant (s : State) (gid i place vwin : Nat) : Option State :=
  if vwin = 0 then some s
  else
    let die := dieOf (coreOfVault place)
    (freeGrant s die).map fun e =>
      tabSet (tabSet s 2 die (2 * e) (gid * 2 ^ 48 + vwin / 4096 * 2 ^ 33 + i * 2 ^ 23 + 1)) 2 die (2 * e + 1) place

/-- The grants of a group, in the order of its core indices. -/
def putGrants (gid vwin : Nat) : Nat → List Nat → State → Option State
  | _, [], s => some s
  | i, p :: ps, s => (putGrant s gid i p vwin).bind (putGrants gid vwin (i + 1) ps)

/-- The multicast window of a group is written (R386). -/
def putMcast (s : State) (gid die mwin : Nat) : Option State :=
  if mwin = 0 then some s
  else ((List.range 256).find? fun i => !(bitAt (tabGet s 3 die i) 0)).map fun i =>
    tabSet s 3 die i (gid * 2 ^ 48 + mwin / 4096 * 2 ^ 33 + die / 8 * 2 ^ 32 + die / 2 % 4 * 2 ^ 30 + die % 2 * 2 ^ 29 + 1)

/-- The grants and the multicast window of a group are cleared. -/
def dropGrants (s : State) (gid : Nat) : State :=
  { s with tables := s.tables.filter fun e =>
      let mine (w : Nat) : Bool := bitAt w 0 && bits w 63 48 == gid
      !((e.1.1 == 2 && mine (tabGet s 2 e.1.2.1 (e.1.2.2 / 2 * 2))) || (e.1.1 == 3 && mine e.2)) }

/-! ## Contexts leave and enter cores -/

/-- A context of a core is Free again, and what served it is (R390). -/
def freeCtx (s : State) (c x : Nat) : State :=
  modCore s c fun k => { clearBooks (k.put x Ctx.reset) x with serving := k.serving.filter fun v => v.ctx != x }

/-- A context of a group leaves its core; what it is, where it was captured there, and what the port slots of the core carry
stay with the group (R241, R333). -/
def evictCtx (s : State) (gid : Nat) (p : Place) (rank : Nat) : State :=
  let k := getCore s p.core
  let t := k.get p.ctx
  let keep (v : Saved) : Saved :=
    if standsCaptured t then { v with now := t, serving := k.serving.filter fun w => w.ctx == p.ctx, ports := k.ports }
    else { v with ports := k.ports }
  freeCtx (modGroup s gid fun g => { g with saved := g.saved.map fun v => if v.rank = rank then keep v else v }) p.core p.ctx

/-- A frozen group leaves its cores (R381, R389). -/
def evictGroup (s : State) (gid : Nat) : State :=
  match groupOf s gid with
  | none => s
  | some g => if inPlace s g then g.places.zipIdx.foldl (fun s p => evictCtx s gid p.1 p.2) s else s

/-- The frozen groups that may go leave the cores of a list. -/
def clearCores (s : State) (ev cs : List Nat) : State :=
  (s.groups.filter fun g => ev.contains g.gid && g.places.any fun p => cs.contains p.core).foldl
    (fun s g => evictGroup s g.gid) s

/-- The places of the contexts of a group on cores, with first tiles (R378). -/
def placesOn (s : State) (ctxs cpc tpc : Nat) (cores bases : List Nat) : List Place :=
  (List.range ctxs).map fun r =>
    let c := cores.getD (r / cpc) 0
    let free := (List.range 4).filter fun x => unused (getCtx s c x)
    ⟨c, free.getD (r % cpc) 0, bases.getD (r / cpc) 0 + r % cpc * tpc⟩

/-- The port slots of an image that no resident kernel of a core uses. -/
def freshSlots (s : State) (ks : List Nat) (b : List Byte) : List (Nat × List Byte) :=
  (imgPorts b).filter fun p => !(ks.any fun k => bitAt (imgPmask (kernelImage s k)) p.1)

/-- The microwords of an image are written to a core's control store (R353). -/
def loadMicro (b : List Byte) (k : Core) : Core :=
  { k with control := (imgMicro b).foldl (fun m p => alSet m p.1 p.2) k.control }

/-- The port slots and microwords of an image are loaded on a core, where they are not resident (R241, R353). -/
def loadCode (s : State) (c : Nat) (b : List Byte) : State :=
  let fresh := freshSlots s (residents s [] c) b
  modCore s c fun k => loadMicro b { k with ports := fresh.foldl (fun ps p => alSet ps p.1 (PortSlot.load p.2)) k.ports }

/-- A context with its launch values, before it becomes Ready (R66, R348, R354). -/
def launchCtx (ck kid gid rank tbase gsc : Nat) (b : List Byte) (args : List (List Byte)) : Ctx :=
  { Ctx.reset with
    g := Vector.ofFn fun i =>
      if i.val = 0 then BitVec.ofNat 64 rank
      else if 4 ≤ i.val then BitVec.ofNat 64 (leNat (args.getD (i.val - 4) [])) else 0
    n := Vector.ofFn fun i => Vector.ofFn fun l => BitVec.ofNat 64 (imgNest b i.val l.val)
    group := gid
    rank := rank
    tbase := tbase
    tcnt := imgTpc b
    gsc := gsc
    lat := imgLat b
    ilk := imgIlk b
    kernel := kid
    pc := imgEntry b
    since := ck }

/-- A window with the data section at its start and zero after it (R354). -/
def fillWindow (s : State) (b : List Byte) (vwin place : Nat) : State :=
  storeBytes (clearBytes s (vaultKey place) vwin) (vaultKey place) (imgBytes b (imgDataOff b) (imgDataLen b))

/-! ## Placement (R380, R381) -/

/-- The places of windows that the supervisor picks, page by page. -/
def windowPlaces (cores pages : List Nat) : List Nat := (cores.zip pages).map fun p => vaultOfCore p.1 + p.2 * 4096

/-- First tiles and window pages that the supervisor picks are free (R380). -/
def picksFree (s : State) (ev : List Nat) (cpc tpc vwin : Nat) (cores bases pages : List Nat) : Bool :=
  ((cores.zip bases).all fun p => if cpc * tpc = 0 then p.2 == 0 else runFree (tilesTaken s ev p.1) 32 p.2 (cpc * tpc))
    && (cores.zip pages).all fun p => if vwin = 0 then p.2 == 0 else runFree (pagesTaken s p.1) 2048 p.2 (vwin / 4096)

/-- The save areas that the supervisor picks are free, and apart from one another (R337, R380). -/
def savesFree (s : State) : List Nat → Bool
  | [] => true
  | a :: as => rangeFree s a 0xD0000 65536 && savesFree (giveRange s ownSave a 0xD0000) as

/-- The lowest range of `n` bytes of HBM that is free, at a multiple of 64 KiB (log 15). -/
def firstFit (s : State) (n : Nat) : Option Nat :=
  let up (a : Nat) : Nat := (a + 65535) / 65536 * 65536
  let cs := ((List.range 16).map fun st => st * 2 ^ 36) ++ s.allocs.map fun r => up (r.2.1 + r.2.2)
  (cs.filter fun b => rangeFree s b n 65536).foldl (fun m b => match m with | none => some b | some a => some (min a b)) none

/-- Save areas for `n` contexts are to be had (R380). -/
def savesRoom : Nat → State → Bool
  | 0, _ => true
  | n + 1, s => match firstFit s 0xD0000 with
    | none => false
    | some a => savesRoom n (giveRange s ownSave a 0xD0000)

/-- A node's group is placed on cores, and its contexts get their launch values; a `groupReady` turn makes them Ready. None
where a choice of the supervisor does not fit, or a grant is not to be had (R381). -/
def placeOn (s : State) (n : Node) (gid kid : Nat) (b : List Byte) (cores picks : List Nat) (ev : List Nat) : Option State :=
  let sh := newShape b (ndCtxs n.record)
  let ctxs := ndCtxs n.record
  let bases := picks.take sh.k
  let pages := (picks.drop sh.k).take sh.k
  let saves := picks.drop (2 * sh.k)
  if picks.length ≠ 2 * sh.k + ctxs || !(picksFree s ev sh.cpc sh.tpc sh.vwin cores bases pages) || !(savesFree s saves)
      || !(cores.all (locksPresent s)) || !(cores.all (mayMap s ev n.client)) then none
  else
    let s1 := clearCores s ev cores
    let windows := windowPlaces cores pages
    let die := dieOf (cores.headD 0)
    ((putGrants gid sh.vwin 0 windows s1).bind fun s2 => putMcast s2 gid die sh.mwin).map fun s3 =>
      let places := placesOn s3 ctxs sh.cpc sh.tpc cores bases
      let gsc := resolveScope places
      let s4 := saves.foldl (fun s a => giveRange s ownSave a 0xD0000) s3
      let s5 := windows.foldl (fun s w => fillWindow s b sh.vwin w) s4
      let s6 := cores.foldl (fun s c => loadCode (mapClient n.client s c) c b) s5
      let s7 := places.zipIdx.foldl (fun s p =>
        setCtx s p.1.core p.1.ctx (launchCtx s.ck kid gid p.2 p.1.tbase gsc b n.lists)) s6
      let g : Group :=
        { gid := gid, st := .placing, node := n.index, kernel := kid, ctxs := ctxs, cpc := sh.cpc, tpc := sh.tpc,
          vwin := sh.vwin, mwin := sh.mwin, gsc := gsc, places := places, windows := windows, saves := saves, saved := [],
          retired := [], tick := s.nodeSeq, die := die }
      refreshKernel { s7 with
        groups := (s7.groups.filter fun h => h.gid != gid) ++ [g]
        nodes := s7.nodes.map fun m => if m.index = n.index then { m with st := .running, group := gid } else m
        nodeSeq := s7.nodeSeq + 1 } kid

/-! ## Resume on other cores (R341, R389, R391) -/

/-- The windows of a group move to new places: the bytes are copied, and the grants rewritten (R385, R386, R389). -/
def moveWindows (s : State) (g : Group) (places : List Nat) : Option State :=
  let s1 := (g.windows.zip places).foldl (fun s p => copyRange s (vaultKey p.1) (vaultKey p.2) g.vwin) s
  let s2 := modGroup (dropGrants s1 g.gid) g.gid fun h => { h with windows := places }
  (putGrants g.gid g.vwin 0 places s2).bind fun s3 => putMcast s3 g.gid (dieOf (coreOfVault (places.headD 0))) g.mwin

/-- A retired context keeps its tiles until its group ends (R387). -/
def retiredCtx (b : List Byte) (g : Group) (rank : Nat) (p : Place) : Ctx :=
  { Ctx.reset with
    st := .retired, group := g.gid, rank := rank, tbase := p.tbase, tcnt := imgTpc b, kernel := g.kernel }

/-- A context of a frozen group that has a place, but has not been restored there. -/
def savedCtx (st : CtxSt) (g : Group) (v : Saved) (p : Place) : Ctx :=
  { Ctx.reset with
    st := st, group := g.gid, rank := v.rank, tbase := p.tbase, tcnt := v.ctx.tcnt, kernel := g.kernel, lat := v.ctx.lat,
    ilk := v.ctx.ilk }

/-- The port slots that a core loads for a group carry what they carried where the group stood (R241). -/
def carrySlots (g : Group) (c i : Nat) (fresh : List Nat) (s : State) : State :=
  match g.saved.find? fun v => v.rank / g.cpc == i with
  | none => s
  | some v => modCore s c fun k =>
    { k with ports := fresh.foldl (fun ps n => alSet ps n (alGet PortSlot.empty v.ports n)) k.ports }

/-- A group's core, by core index, holds its code, its client's ranges and its port slots (R241, R353, R443). -/
def setUpCore (g : Group) (client : Nat) (s : State) (p : Nat × Nat) : State :=
  let b := kernelImage s g.kernel
  let fresh := (freshSlots s (residents s [] p.1) b).map (·.1)
  carrySlots g p.1 p.2 fresh (loadCode (mapClient client s p.1) p.1 b)

/-- A frozen group that stands on no core takes places on cores; its contexts enter a state there (R341, R391). -/
def standOn (s : State) (g : Group) (cores bases : List Nat) (st : CtxSt) : State :=
  let b := kernelImage s g.kernel
  let places := placesOn s g.ctxs g.cpc g.tpc cores bases
  let client := ((nodeOf s g).map (·.client)).getD 0
  let s1 := cores.zipIdx.foldl (setUpCore g client) s
  let s2 := places.zipIdx.foldl (fun s p =>
    setCtx s p.1.core p.1.ctx (match g.saved.find? fun v => v.rank == p.2 with
      | some v => savedCtx st g v p.1
      | none => retiredCtx b g p.2 p.1)) s1
  modGroup s2 g.gid fun h => { h with places := places, die := dieOf (cores.headD 0) }

/-- The node of a group that is dispatched for resume runs, and the group is Resuming (R371, R392). -/
def resumeNode (s : State) (g : Group) : State :=
  let s := modGroup s g.gid fun h => { h with st := .resuming, tick := s.nodeSeq }
  { s with
    nodes := s.nodes.map fun m => if m.index = g.node then { m with st := .running, seq := 0 } else m
    nodeSeq := s.nodeSeq + 1 }

/-- What a resume on cores asks for apart from room: its client's ranges can be mapped, its locked pages are present, and there
is a grant for each window that moves (R381, R384, R415). -/
def resumeFits (s : State) (ev : List Nat) (g : Group) (cores : List Nat) : Bool :=
  cores.all (mayMap s (evictFor ev g) (((nodeOf s g).map (·.client)).getD 0)) && cores.all (locksPresent s)

/-- A frozen group resumes on cores: its previous ones with new first tiles, or others with new windows too (R389). -/
def resumeOn (s : State) (g : Group) (cores : List Nat) (same : Bool) (picks : List Nat) : State :=
  let k := cores.length
  let ev := evictable s
  let bases := picks.take k
  let pages := picks.drop k
  let sh := resumeShape s g
  if picks.length ≠ (if same then k else 2 * k) || !(picksFree s (evictFor ev g) sh.cpc sh.tpc sh.vwin cores bases pages)
      || !(resumeFits s ev g cores) then s
  else
    let s1 := clearCores (evictGroup s g.gid) (evictFor ev g) cores
    let s2 := if same then some s1 else moveWindows s1 g (windowPlaces cores pages)
    match s2, s2.bind fun st => groupOf st g.gid with
    | some st, some h => resumeNode (standOn st h cores bases .resuming) h
    | _, _ => s

/-! ## Recovery (R459) -/

/-- The package leaves Recovery once no group is left to resume. -/
def leaveRecovery (s : State) : State :=
  if s.mode = .recovery ∧ (s.groups.all fun g => g.st != .frozen && g.st != .freezing && g.st != .resuming) = true then
    { s with mode := .operating }
  else s

/-- HALT (R374). -/
def halted (s : State) : Bool := bitAt (tabGet s 5 0 0) 16

/-- The package enters Recovery: HALT is set, and every running group freezes (R459). -/
def enterRecovery (s : State) : State :=
  let s := { s with mode := .recovery, tables := alSet s.tables (5, 0, 0) (2 ^ 16) }
  (s.groups.filter fun g => g.st == .running).foldl (fun s g => freezeGroup s g.gid) s

/-! ## DISPATCH of KIND 0 (R368, R371, R381, R388, R391) -/

/-- A group that a window-table miss ends is not resumed (R188, R390). -/
def mustEnd (g : Group) : Bool := g.saved.any fun v => v.ctx.frzCause == causeWINDOW

/-- A frozen group's node goes to the head of the queue of its PRIO level (R371). -/
def putBack (s : State) (n : Node) : State :=
  { s with
    nodes := s.nodes.map fun m => if m.index = n.index then backInQueue s m else m
    nodeSeq := s.nodeSeq + 1 }

/-- A frozen group whose node is dispatched resumes (R371, R381, R389). -/
def resumeDispatched (s : State) (g : Group) (picks : List Nat) : State :=
  if !(quiet s g) || (badVersion s g).isSome then s
  else match resumeCores s (evictable s) g with
    | none => s
    | some (cores, same) =>
      if same && inPlace s g && picks.isEmpty then resumeNode (beginResume s g.gid) g else resumeOn s g cores same picks

/-- The contexts of a group that has been placed become Ready in one step, and those of one that resumes are restored, once
every access it had issued has performed and its cores are free for it (R341, R380, R381, R389, R392; log 35). -/
def groupReady (s : State) (gid : Nat) : State :=
  match groupOf s gid with
  | none => s
  | some g =>
    match g.st with
    | .placing =>
      modGroup (g.places.foldl (fun s p => modCtx s p.core p.ctx fun t =>
        if t.group = gid then { t with st := .ready, since := s.ck } else t) s) gid fun g => { g with st := .running }
    | .resuming =>
      if !(quiet s g) || g.saved.any (fun v => g.places[v.rank]?.any (resumeBusy s v)) then s
      else
        let s := modGroup (restoreGroup s g) gid fun g => { g with st := .running }
        leaveRecovery { s with nodes := s.nodes.map fun n => if n.kind = 0 ∧ n.group = gid ∧ n.st = .ready then { n with st := .running, seq := 0 } else n }
    | _ => s

/-- The cores that a node's new group gets when the groups of `ev` may go (R381): none where its save areas are not to be had
(R380), or its links are not trained (R355). -/
def newCores (s : State) (ev : List Nat) (n : Node) (only : Option Nat) : Option (List Nat) :=
  let b := kernelImage s (ndWork n.record)
  if linksReady s b && savesRoom (ndCtxs n.record) s then searchCores s ev (newShape b (ndCtxs n.record)) only else none

/-- A group that no die layer has placed yet (R391, R392). -/
def assignedGroup (n : Node) (gid die : Nat) (b : List Byte) : Group :=
  { gid := gid, st := .assigned, node := n.index, kernel := ndWork n.record, ctxs := ndCtxs n.record, cpc := imgCpc b,
    tpc := imgTpc b, vwin := imgVwin b, mwin := imgMwin b, gsc := 1, places := [], windows := [], saves := [], saved := [],
    retired := [], tick := 0, die := die }

/-- The head node of KIND 0 becomes a group with an identifier (R379, R381, R391). -/
def newGroup (s : State) (n : Node) (gid : Nat) (picks : List Nat) : State :=
  let kid := ndWork n.record
  let b := kernelImage s kid
  if gid < 1 ∨ 65535 < gid then s
  else if s.mode ≠ .operating then
    match picks with
    | [die] =>
      if die < 16 then
        { s with
          groups := s.groups ++ [assignedGroup n gid die b]
          nodes := s.nodes.map fun m => if m.index = n.index then { m with st := .running, group := gid, seq := 0 } else m }
      else s
    | _ => s
  else match newCores s (evictable s) n none with
    | none => s
    | some cores => (placeOn s n gid kid b cores picks (evictable s)).getD s

/-- A die-layer supervisor places a group that was assigned to it, unless its kernel is Unloading (R357, R391). -/
def placeAssigned (s : State) (g : Group) (picks : List Nat) : State :=
  match (nodeOf s g).filter fun n => (ndKernel s n.record).isSome with
  | none => s
  | some n =>
    match newCores s (evictable s) n (some g.die) with
    | none => s
    | some cores => (placeOn s n g.gid g.kernel (kernelImage s g.kernel) cores picks (evictable s)).getD s

/-- Words of table 2 of a die layer, or of table 3, that are not in force. -/
def freeWords (s : State) (tbl die : Nat) : Nat :=
  if tbl = 2 then ((List.range 512).filter fun e => !(bitAt (tabGet s 2 die (2 * e)) 0)).length
  else ((List.range 256).filter fun i => !(bitAt (tabGet s 3 die i) 0)).length

/-- There are grants for the windows of a group on cores, and a multicast window (R384, R386). -/
def grantsRoom (s : State) (vwin mwin : Nat) (cores : List Nat) : Bool :=
  (vwin == 0 || cores.all fun c => decide ((cores.filter fun d => dieOf d == dieOf c).length ≤ freeWords s 2 (dieOf c)))
    && (mwin == 0 || cores.all fun c => decide (0 < freeWords s 3 (dieOf c)))

/-- There is room for a node's group, new or put back for resume, once the groups of `ev` have gone (R380, R381, R384, R415). -/
def hasRoom (s : State) (ev : List Nat) (n : Node) : Bool :=
  match groupOf s n.group with
  | none =>
    let b := kernelImage s (ndWork n.record)
    s.mode != .operating || (match newCores s ev n none with
      | some cores => grantsRoom s (imgVwin b) (imgMwin b) cores && cores.all (mayMap s ev n.client)
      | none => false)
  | some g =>
    match resumeCores s ev g with
    | some (cores, same) =>
      (same && inPlace s g) || ((same || grantsRoom (dropGrants s g.gid) g.vwin g.mwin cores) && cores.all (mayMap s (evictFor ev g) n.client))
    | none => false

/-- The node can be placed or resumed now. -/
def canPlace (s : State) (n : Node) : Bool :=
  hasRoom s (evictable s) n && (match groupOf s n.group with
    | none => s.mode != .operating || ((newCores s (evictable s) n none).any fun cs => cs.all (locksPresent s))
    | some g => g.st == .frozen && quiet s g && (badVersion s g).isNone && ((resumeCores s (evictable s) g).any fun r =>
        (r.2 && inPlace s g) || r.1.all (locksPresent s)))

/-- The group that pre-emption takes before another: the lower level of its node, then the later dispatch (R388). -/
def preemptFirst (s : State) (gs : List Group) : Option Group :=
  let lv (g : Group) : Nat := ((nodeOf s g).map (·.level)).getD 0
  gs.foldl (fun b g => match b with
    | none => some g
    | some h => if lv g < lv h ∨ (lv g = lv h ∧ h.tick < g.tick) then some g else some h) none

/-- The groups that have made room, or will: frozen ones, and those on their way to it. -/
def leaving (s : State) : List Nat := (s.groups.filter fun g => (g.st == .frozen || g.st == .freezing) && inPlace s g).map (·.gid)

/-- Pre-emption for a node at the head of level 6 or 7 that has no room: one more group of a lower level freezes, where the
freezing of such groups makes room, unless those that are frozen or freezing already do (R388). -/
def preempt (s : State) : State :=
  match headNode s 0 with
  | none => s
  | some h =>
    let lower := s.groups.filter fun g => g.st == .running && (nodeOf s g).any fun n => decide (n.level < h.level)
    if h.level < 6 || ((groupOf s h.group).any fun g => g.st != .frozen) || hasRoom s (leaving s) h
        || !(hasRoom s (leaving s ++ lower.map (·.gid)) h) then s
    else match preemptFirst s lower with
      | some g => freezeGroup s g.gid
      | none => s

/-- A choice of the supervisor about groups: none named, pre-emption; a new identifier, the head node's group; an assigned
group, its placement; a frozen one, its return to the pool or its resume. -/
def dispatchGroup (s : State) : List Nat → State
  | [] => if s.mode = .recovery then leaveRecovery s else if halted s then s else preempt s
  | gid :: picks =>
    match groupOf s gid with
    | none =>
      (match headNode s 0 with
        | some h => if halted s = false ∧ h.group = 0 then newGroup s h gid picks else s
        | none => s)
    | some g =>
      match g.st, nodeOf s g with
      | .assigned, _ => placeAssigned s g picks
      | .frozen, some n =>
        if n.st = .suspended then (if mustEnd g then s else putBack s n)
        else if halted s = false ∧ (headNode s 0).any (fun h => h.index == n.index) = true then resumeDispatched s g picks
        else s
      | _, _ => s

/-! ## The other KINDs (R157, R365) -/

/-- The nodes that run on a unit of a KIND; the unit's number plus one stands in their field `group`. -/
def unitBusy (s : State) (kind unit : Nat) : Bool :=
  s.nodes.any fun n => n.st == .running && ndKind n.record == kind && n.group == unit + 1

/-- The supervisor core of a die layer. -/
def supervisorOf (die : Nat) : Nat := die * 65 + 64

/-- A node runs on a unit. -/
def runNode (s : State) (n : Node) (unit : Nat) : State :=
  { s with nodes := s.nodes.map fun m => if m.index = n.index then { m with st := .running, group := unit + 1, seq := 0 } else m }

/-- A KIND 1 node starts its kernel in the lowest idle service context, whose core's table maps its client's ranges (R157,
R354, R365, R443). -/
def dispatchService (s : State) (n : Node) : State :=
  match (List.range 16).find? fun d => !(unitBusy s 1 d) with
  | none => s
  | some d =>
    let kid := ndWork n.record
    let t := { launchCtx s.ck kid 0 0 0 0 (kernelImage s kid) n.lists with st := .ready }
    runNode (setCtx (mapClient n.client s (supervisorOf d)) (supervisorOf d) serviceCtx t) n d

/-- A KIND 2 node hands its descriptors to the lowest image engine idle of nodes (R365). -/
def dispatchImage (s : State) (n : Node) : State :=
  match (List.range 8).find? fun c => !(unitBusy s 2 c) with
  | none => s
  | some c =>
    let q := n.lists.map fun d => (⟨primary, 0, 0, some n.index, d, []⟩ : ImgCmd)
    runNode { s with imgq := alSet s.imgq c (alGet [] s.imgq c ++ q) } n c

/-- The stack whose engine takes a KIND 3 node: the one that homes the first entry's DEVA (R365). -/
def nodeStack (s : State) (n : Node) : Nat := nmStack s primary 0 (n.lists.headD [])

/-- The page of the first entry's DEVA is not present: its stack is not known yet (R365, R419). -/
def nodeParks (s : State) (n : Node) : Option Nat :=
  match placeOf s primary 0 (nmDeva (n.lists.headD [])) with
  | .park i => some i
  | _ => none

/-- A KIND 3 node hands its entries to the engine of its stack, once that is known (R365, R419). -/
def dispatchNear (s : State) (n : Node) : State :=
  let st := nodeStack s n
  if let some i := nodeParks s n then tellPage s 0 i
  else if unitBusy s 3 st then s
  else
    let q := n.lists.map fun d =>
      (⟨primary, 0, 0, some n.index, leAt d 37 1, d, none, 0, vaultKey (bits (nmStat d) 32 0), false, [], [], [], 0, 0, none⟩ : NmCmd)
    runNode { s with nmq := alSet s.nmq st (alGet [] s.nmq st ++ q) } n st

/-- The head node of a KIND other than 0 is dispatched (R368). -/
def dispatchOther (s : State) (kind : Nat) : State :=
  if halted s then s
  else match headNode s kind with
    | none => s
    | some n =>
      match kind with
      | 1 => dispatchService s n
      | 2 => dispatchImage s n
      | 3 => dispatchNear s n
      | _ => s

/-- DISPATCH (R368). -/
def execDispatch (kind : Nat) (picks : List Nat) (s : State) : Host.Outcome State Fault Refusal :=
  .next (if kind = 0 then dispatchGroup s picks else dispatchOther s kind)

/-- The head of a KIND's queues can be dispatched in this ck (R368). -/
def canDispatch (s : State) (kind : Nat) : Bool :=
  !(halted s) && (match headNode s kind with
    | none => false
    | some n => match kind with
      | 0 => canPlace s n
      | 1 => (List.range 16).any fun d => !(unitBusy s 1 d)
      | 2 => (List.range 8).any fun c => !(unitBusy s 2 c)
      | _ => (nodeParks s n).isNone && !(unitBusy s 3 (nodeStack s n)))

/-- A node that has waited its level's aging interval moves up, once nothing of its KIND can be dispatched in the ck: dispatch
comes first (R367, R368). -/
def ageNode (s : State) (i : Nat) : State :=
  { s with nodes := s.nodes.map fun n =>
      let a := ageOf s n.level
      if n.index = i ∧ n.st = .ready ∧ n.level ≤ 5 ∧ a ≠ 0 ∧ n.since + a ≤ s.ck ∧ canDispatch s (ndKind n.record) = false then
        { n with level := n.level + 1, since := s.ck, seq := 0 }
      else n }

/-- NODE_AGING (R367). -/
def execNodeAging (node : Nat) (s : State) : Host.Outcome State Fault Refusal := .next (ageNode s node)

/-! ## Ends (R365, R369, R390) -/

/-- What a group held is free again (R390). -/
def releaseGroup (g : Group) (s : State) : State :=
  let s := if inPlace s g then
      g.places.foldl (fun s p => freeCtx s p.core p.ctx) s
    else s
  let s := clearGrants (dropGrants s g.gid) g.gid
  let s := g.saves.foldl freeRange s
  refreshKernel { s with groups := s.groups.filter fun h => h.gid != g.gid } g.kernel

/-- A group ends, and its node completes (R370, R390). -/
def endGroup (s : State) (g : Group) (status cause : Nat) : State :=
  leaveRecovery (completeNodes s [g.node] status cause (releaseGroup g))

/-- The saved copy commands of a context are dropped, and what waited for them (R390). -/
def dropCmds (t : Ctx) : Ctx :=
  { t with
    cmds := t.cmds.filter Cmd.runsOn
    aq := []
    arrivals := t.arrivals.filter fun a => t.cmds.any fun m => m.runsOn && a.need.contains m.uid }

/-- The saved copy commands of a frozen group are dropped (R390). -/
def dropSaved (s : State) (g : Group) : State :=
  if inPlace s g then g.places.foldl (fun s p => modCtx s p.core p.ctx dropCmds) s else s

/-- The cause with which a frozen group ends: the first of its contexts' own (R331, R369). -/
def groupCause (g : Group) : Nat :=
  (((List.range g.ctxs).filterMap fun r => (g.saved.find? fun v => v.rank == r).map fun v => v.ctx.frzCause).find?
    fun c => c != causePREEMPT).getD causePREEMPT

/-- The supervisor ends a group: one whose contexts have all retired, or a frozen one, which is Ended at once and resumes no more;
its other accesses perform before it goes (R390, R392). -/
def endIf (s : State) (gid : Nat) : State :=
  match groupOf s gid with
  | none => s
  | some g =>
    if allRetired g && g.st != .assigned then (if quiet s g then endGroup s g 1 0 else s)
    else if g.st = .frozen ∧ (nodeOf s g).any (fun n => n.st == .suspended) = true then
      modGroup (dropSaved s g) gid fun g => { g with st := .ended }
    else if g.st = .ended ∧ quiet s g = true then endGroup s g 2 (groupCause g)
    else s

/-- GROUP_END (R390). -/
def execGroupEnd (gid : Nat) (s : State) : Host.Outcome State Fault Refusal := .next (endIf s gid)

/-- A KIND 2 or KIND 3 node has nothing left at its engine (R365). -/
def engineDone (s : State) (n : Node) : Bool :=
  !(s.imgq.any fun q => q.2.any fun m => m.node == some n.index)
    && !(s.nmq.any fun q => q.2.any fun m => m.node == some n.index)

/-- The unit of a node has ended, and the node completes (R365, R369). -/
def completeNode (s : State) (i : Nat) : State :=
  match s.nodes.find? fun n => n.index == i && n.st == .running with
  | none => s
  | some n =>
    match ndKind n.record with
    | 0 => (match groupOf s n.group with
        | some g => if allRetired g then endIf s n.group else s
        | none => s)
    | 1 =>
      let c := supervisorOf (n.group - 1)
      if (getCtx s c serviceCtx).st = .retired then
        completeNodes s [i] 1 0 fun s => setCtx s c serviceCtx Ctx.reset
      else s
    | _ =>
      if engineDone s n then (if n.cause = 0 then completeNodes s [i] 1 0 id else completeNodes s [i] 2 n.cause id) else s

/-- NODE_COMPLETE (R369). -/
def execNodeComplete (node : Nat) (s : State) : Host.Outcome State Fault Refusal := .next (completeNode s node)

/-! ## GROUP_MIGRATION (R391) -/

/-- The free contexts that a die layer advertises. -/
def freeContexts (s : State) (die : Nat) : Nat :=
  ((coresOf die).map fun c => ((List.range 4).filter fun x => unused (getCtx s c x)).length).sum

/-- The modes in which groups may migrate. -/
def mayMigrate (s : State) : Bool := s.mode != .operating

/-- The save areas of a group move: the images are copied, and the old areas are free again (R391). -/
def moveSaves (s : State) (g : Group) (saves : List Nat) : State :=
  let s1 := (g.saves.zip saves).foldl (fun s p => copyRange (giveRange s ownSave p.2 0xD0000) p.1 p.2 0xD0000) s
  modGroup (g.saves.foldl freeRange s1) g.gid fun h => { h with saves := saves }

/-- A frozen group goes to a die layer, with its windows and its save images, and stays Frozen (R389, R391). The cores are
those R381 gives it there; `picks` holds first tiles, the places of its windows in their vaults, and its save areas. -/
def migrateFrozen (s : State) (g : Group) (die : Nat) (picks : List Nat) : State :=
  match searchCores s (evictable s) (resumeShape s g) (some die) with
  | none => s
  | some cores =>
    let k := cores.length
    let bases := picks.take k
    let pages := (picks.drop k).take k
    let saves := picks.drop (2 * k)
    let ev := evictFor (evictable s) g
    if picks.length ≠ 2 * k + g.ctxs || !(picksFree s ev g.cpc g.tpc g.vwin cores bases pages) || !(savesFree s saves)
        || !(resumeFits s (evictable s) g cores) then s
    else
      let s1 := clearCores (evictGroup s g.gid) ev cores
      match moveWindows s1 g (windowPlaces cores pages) with
      | none => s
      | some s2 =>
        match groupOf (moveSaves s2 g saves) g.gid with
        | none => s
        | some h => standOn (moveSaves s2 g saves) h cores bases .frozen

/-- GROUP_MIGRATION (R391). -/
def migrate (s : State) (gid die : Nat) (picks : List Nat) : State :=
  match groupOf s gid with
  | none => s
  | some g =>
    if !(mayMigrate s) || decide (15 < die) || decide (freeContexts s die < g.ctxs) then s
    else match g.st with
      | .assigned => modGroup s gid fun h => { h with die := die }
      | .frozen => if quiet s g then migrateFrozen s g die picks else s
      | _ => s

/-- GROUP_MIGRATION (R391). -/
def execGroupMigration (gid die : Nat) (picks : List Nat) (s : State) : Host.Outcome State Fault Refusal :=
  .next (migrate s gid die picks)

end Sys2Proof.Machine
end

