-- ==== Sys2Proof/Machine/Host.lean ====
section
/-!
DEFINITION. The host channels: requests, their replies and the registers of a channel (spec 21 R441 to R445; 14 R345, R357;
15 R359, R362).
-/
namespace Sys2Proof.Machine

/-! ## Requests (R441, R443) -/

/-- The host writes a request into an inbox (R441). -/
def inboxWrite (s : State) (c : Nat) (bs : List Byte) : State :=
  if c < 8 ∧ (getChannel s c).en = true ∧ s.pciUp = true then
    modChannel s c fun h =>
      if bs.length = 64 ∧ h.inbox.length < 256 then { h with inbox := h.inbox ++ [bs] } else { h with ovf := true }
  else s

def rqSeq (r : List Byte) : Nat := leAt r 0 4
def rqOp (r : List Byte) : Nat := leAt r 4 1
/-- The first argument of 8 bytes. -/
def rqA (r : List Byte) : Nat := leAt r 8 8
def rqB (r : List Byte) : Nat := leAt r 16 8
def rqC (r : List Byte) : Nat := leAt r 24 8
def rqWhat (r : List Byte) : Nat := leAt r 8 1

/-- The arguments of QUERY break R443. -/
def queryMalformed (r : List Byte) : Bool :=
  match rqWhat r with
  | 0 => leAt r 9 3 != 0 || leAt r 18 46 != 0
  | 1 => leAt r 9 3 != 0 || leAt r 16 48 != 0
  | 2 => decide (15 < leAt r 9 1) || leAt r 10 54 != 0
  | 3 => leAt r 9 55 != 0
  | _ => true

/-- A request gets STATUS 3 (R443); a VA of more than 48 bits is out of range (log 86). -/
def malformed (r : List Byte) : Bool :=
  leAt r 5 3 != 0 ||
    (match rqOp r with
      | 1 => decide (15 < leAt r 16 1) && leAt r 16 1 != 0xFF
      | 2 | 5 | 7 => bits (rqA r) 63 48 != 0
      | 3 | 4 => bits (rqA r) 63 39 != 0 || bits (rqB r) 63 48 != 0
      | 6 => false
      | 8 => queryMalformed r
      | _ => true)

/-- The request at the head of an inbox that an event of an operation serves: well formed, with room for its reply
(R441, R444). -/
def pending (s : State) (c op : Nat) : Option (List Byte) :=
  let h := getChannel s c
  if 8 ≤ c ∨ 256 ≤ h.outbox.length then none
  else h.inbox.head?.filter fun r => rqOp r == op && !(malformed r)

/-- A request has finished: it leaves the inbox, and its reply is written (R444). -/
def finish (s : State) (c : Nat) (r : List Byte) (status code : Nat) (results : List Byte) : State :=
  pushReply (modChannel s c fun h => { h with inbox := h.inbox.drop 1 }) c
    (replyBytes (rqSeq r) (rqOp r) status code results)

/-- A request is refused; it has no effect (R443). -/
def refuse (s : State) (c : Nat) (r : List Byte) : State := finish s c r 2 0 []

/-- MALFORMED_REQUEST (R443). -/
def execMalformedRequest (ch : Nat) (s : State) : Host.Outcome State Fault Refusal :=
  .next (
    let h := getChannel s ch
    match h.inbox with
    | r :: _ => if ch < 8 ∧ h.outbox.length < 256 ∧ malformed r = true then finish s ch r 3 0 [] else s
    | [] => s)

/-- REQUEST_DROPPED: a request that is not one aligned 64-byte write, or that finds no room, is dropped (R441). -/
def execRequestDropped (ch : Nat) (s : State) : Host.Outcome State Fault Refusal :=
  .next (if ch < 8 ∧ (getChannel s ch).en = true then modChannel s ch fun h => { h with ovf := true } else s)

/-! ## ALLOC, FREE (R443) -/

/-- The size exponent of the window entry that maps `n` bytes (R412). -/
def sizeExp (n : Nat) : Nat := ((List.range 25).find? fun i => decide (n ≤ 2 ^ (16 + i))).map (16 + ·) |>.getD 41

/-- A range word and a target word that map a device range at its own address (log 15). -/
def allocWords (base e : Nat) : Nat × Nat := (base / 2 ^ 16 * 2 ^ 32 + e * 2 ^ 26 + 1, base)

/-- ALLOC with the range that the supervisor picks (R443). -/
def allocRange (s : State) (c : Nat) (r : List Byte) (base : Nat) : State :=
  let e := sizeExp (rqA r)
  let st := leAt r 16 1
  if rqA r = 0 ∨ 40 < e then refuse s c r
  else if !(rangeFree s base (2 ^ e) (2 ^ e)) || (st != 0xFF && bits base 39 36 != st) || mapped s base (2 ^ e) then s
  else match freeEntry s with
    | none => refuse s c r
    | some i =>
      finish (giveRange (putEntry s primary i (allocWords base e)) c base (2 ^ e)) c r 1 0 (leBytes 8 base)

/-- ALLOC: with no range picked it is refused (R443). -/
def execAlloc (ch : Nat) (pick : Option Nat) (s : State) : Host.Outcome State Fault Refusal :=
  .next (match pending s ch 1, pick with
    | none, _ => s
    | some r, none => refuse s ch r
    | some r, some base => allocRange s ch r base)

/-- The entry of a core's table that maps a range word and a target word goes out of force. -/
def unmapEntry (w : Nat × Nat) (s : State) (c : Nat) : State :=
  (List.range 256).foldl (fun s e =>
    if winWord s c e 0 = w.1 ∧ winWord s c e 1 = w.2 then putWinWord s c e 0 (setBits w.1 0 0 0) else s) s

/-- Every core whose table may map a range. -/
def mappingCores (s : State) (w : Nat × Nat) : List Nat :=
  ((List.range 1040).filter fun c => (lacking s c [w]).isEmpty)

/-- FREE: once no group runs on a core that maps the range (R415, R443). -/
def freeRequest (s : State) (c : Nat) (r : List Byte) : State :=
  match (clientEntries s c).find? fun w => bits w.1 63 32 * 2 ^ 16 == rqA r with
  | none => refuse s c r
  | some w =>
    let cs := mappingCores s w
    if cs.any (coreRuns s []) then s
    else finish (freeRange (cs.foldl (unmapEntry w) s) (bits w.2 47 16 * 2 ^ 16)) c r 1 0 []

/-- FREE (R443). -/
def execFree (ch : Nat) (s : State) : Host.Outcome State Fault Refusal :=
  .next (match pending s ch 2 with
    | none => s
    | some r => freeRequest s ch r)

/-! ## COPYIN, COPYOUT (R443 to R445) -/

/-- One bit step of CRC32C. -/
def crcStep (c : Nat) : Nat := if c % 2 = 1 then (c / 2) ^^^ 0x82F63B78 else c / 2

/-- CRC32C of bytes. -/
def crc32c (bs : List Byte) : Nat :=
  (bs.foldl (fun c b => crcStep (crcStep (crcStep (crcStep (crcStep (crcStep (crcStep (crcStep (c ^^^ b.toNat)))))))))
    0xFFFFFFFF) ^^^ 0xFFFFFFFF

/-- `n` bytes at a host channel offset lie within a host window that is set (R439, R445). -/
def hostRange (s : State) (off n : Nat) : Bool :=
  s.pciUp && (n == 0 || (hostReached s (2 ^ 47 + off) n && bits off 38 36 == bits (off + n - 1) 38 36 && decide (off + n ≤ 2 ^ 39)))

/-- The results of a copy: its CRC32C when the request asks for it (R443). -/
def crcResult (r bs : List Byte) : List Byte :=
  if bitAt (leAt r 32 1) 0 then List.replicate 24 0 ++ leBytes 4 (crc32c bs) else []

/-- What a copy request comes to: the runs of its device range, or why there are none yet. -/
inductive CopyTry where
  | ok (rs : List (Nat × Nat))
  | fails
  | park (id : Nat)
  | hole (key : Nat)

/-- The device range of a copy request (R360, R443). -/
def copyRuns (s : State) (r : List Byte) : CopyTry :=
  if !(hostRange s (rqA r) (rqC r)) then .fails
  else match nodeRange s (rqB r) (rqC r) with
    | .error (.park i) => .park i
    | .error (.hole k) => .hole k
    | .error _ => .fails
    | .ok rs => .ok rs

/-- The pages of a device range that are shared: object and page (R423). -/
def sharedPages (s : State) (a n : Nat) : List (Nat × Nat) :=
  (pagesOf a n).filterMap fun p => match placeOf s primary 0 p with
    | .at_ _ true obj page _ => some (obj, page)
    | _ => none

/-- A request meets an uncorrectable error in one of the runs of its range, which is counted, and is refused (R443, R456). -/
def refuseBad (s : State) (c : Nat) (r : List Byte) (rs : List (Nat × Nat)) : State :=
  refuse (countBad s (((rs.find? fun q => poisoned s q.1 q.2).map (·.1)).getD 0)) c r

/-- COPYIN writes its bytes; a unit that would keep an uncorrectable error beneath part of it fails (R428, R443). -/
def copyInBytes (s : State) (c : Nat) (r : List Byte) (rs : List (Nat × Nat)) : State :=
  let src := 2 ^ 47 + rqA r
  let bs := readBytes s.mem src (rqC r)
  if poisoned s src (rqC r) then refuse s c r
  else if partialBad s (rs.map fun q => (q.1, List.replicate q.2 0)) then refuseBad s c r rs
  else finish (storeRuns s rs bs) c r 1 0 (crcResult r bs)

/-- The page units make the frames of shared pages the range's own, one after another; or what the first that cannot waits for
(R423). -/
def ownAll : List (Nat × Nat) → State → Except (Option Nat) State
  | [], s => .ok s
  | p :: ps, s => match shareWaits s p.1 p.2 with
    | some w => .error w
    | none => ownAll ps (ownFrame s 0 p.1 p.2)

/-- COPYIN once its pages are present: those that are shared become its own as it writes (R423, R443). -/
def copyIn (s : State) (c : Nat) (r : List Byte) (rs : List (Nat × Nat)) : State :=
  match ownAll (sharedPages s (rqB r) (rqC r)) s with
  | .error w => tellWait s w
  | .ok s' => match nodeRange s' (rqB r) (rqC r) with
    | .ok rs' => copyInBytes s' c r rs'
    | .error _ => copyInBytes s' c r rs

/-- COPYIN (R443). -/
def execCopyin (ch : Nat) (s : State) : Host.Outcome State Fault Refusal :=
  match pending s ch 3 with
  | none => .next s
  | some r => match copyRuns s r with
    | .fails => .next (refuse s ch r)
    | .park i => .next (tellPage s 0 i)
    | .hole k => .fault (.physicalHole k)
    | .ok rs => .next (copyIn s ch r rs)

/-- COPYOUT writes its bytes to the host (R443). -/
def copyOut (s : State) (c : Nat) (r : List Byte) (rs : List (Nat × Nat)) : State :=
  let bs := readRuns s rs
  if rs.any fun q => poisoned s q.1 q.2 then refuseBad s c r rs
  else finish (storeBytes s (2 ^ 47 + rqA r) bs) c r 1 0 (crcResult r bs)

/-- COPYOUT (R443). -/
def execCopyout (ch : Nat) (s : State) : Host.Outcome State Fault Refusal :=
  match pending s ch 4 with
  | none => .next s
  | some r => match copyRuns s r with
    | .fails => .next (refuse s ch r)
    | .park i => .next (tellPage s 0 i)
    | .hole k => .fault (.physicalHole k)
    | .ok rs => .next (copyOut s ch r rs)

/-! ## LOAD, UNLOAD (R345, R357, R443) -/

/-- A kernel leaves the package, and its word of table 7 is free. -/
def dropKernel (s : State) (kid : Nat) : State :=
  putKernelWord { s with kernels := s.kernels.filter fun k => k.kid != kid } kid

/-- A kernel changes, and its word with it (R358). -/
def setKernel (s : State) (k : Kernel) : State :=
  putKernelWord { s with kernels := s.kernels.map fun q => if q.kid = k.kid then k else q } k.kid

/-- The kernel for which a LOAD of a channel is under way. -/
def loadingKernel (s : State) (c : Nat) (r : List Byte) : Option Kernel :=
  s.kernels.find? fun k => (k.state == 1 || k.state == 2) && k.client == c && k.tag == rqSeq r + 1

/-- A LOAD request makes a kernel in Loading, with the identifier that the supervisor picks; without a free word of table 7 it
is refused (R345, R357; log 79). -/
def startLoad (s : State) (c : Nat) (r : List Byte) (kid : Nat) : State :=
  if Config.kernelWords ≤ kernelIndex s kid then refuse s c r
  else putKernelWord { s with kernels := s.kernels ++ [⟨kid, 1, 0, [], 0, c, rqSeq r + 1⟩] } kid

/-- A kernel is refused with a code of R345. -/
def refuseKernel (s : State) (k : Kernel) (code : Nat) : State := setKernel s { k with state := 2, refuse := code }

/-- A kernel whose image passes the checks takes memory and becomes Loaded (R345, R357). -/
def addKernel (s : State) (c : Nat) (r img : List Byte) (k : Kernel) : State :=
  match firstFit s img.length with
  | none => refuseKernel s k 8
  | some a =>
    let s1 := storeBytes (giveRange s ownKernel a img.length) a img
    finish (setKernel s1 { k with state := 3, image := img, addr := a, client := 0, tag := 0 }) c r 1 0 (leBytes 4 k.kid)

/-- The image of a kernel in Loading is checked (R345). -/
def checkImage (s : State) (c : Nat) (r img : List Byte) (k : Kernel) : State :=
  let code := imageCheck (pkgIndex s) img
  if code ≠ 0 then refuseKernel s k code else addKernel s c r img k

/-- The image that a LOAD names: its header, and all of it where the header passes its checks (R344, R345). -/
def imageAt (s : State) (a : Nat) : Got :=
  match nodeGet s a 128 with
  | .ok h => if headerRefusal h ≠ 0 ∨ imgLen h < 128 then .ok h else nodeGet s a (imgLen h)
  | g => g

/-- A LOAD goes on: a kernel enters Loading, its image is checked, or its refusal is answered and it goes (R345, R357). -/
def loadStep (s : State) (c : Nat) (r : List Byte) (kid : Option Nat) : Host.Outcome State Fault Refusal :=
  match loadingKernel s c r with
  | none => .next (match kid with
    | some k => if k < 2 ^ 32 ∧ (kernelOf s k).isNone = true then startLoad s c r k else s
    | none => s)
  | some k =>
    if k.state = 2 then .next (finish (dropKernel s k.kid) c r 2 k.refuse [])
    else match imageAt s (rqA r) with
      | .bad u => .next (refuse (dropKernel (countUnits s [.bad u]) k.kid) c r)
      | .park i => .next (tellPage s 0 i)
      | .hole key => .fault (.physicalHole key)
      | .ok img => .next (checkImage s c r img k)

/-- LOAD (R345, R443). -/
def execLoad (ch : Nat) (kid : Option Nat) (s : State) : Host.Outcome State Fault Refusal :=
  match pending s ch 5 with
  | none => .next s
  | some r => loadStep s ch r kid

/-- A group or a service node of a kernel has not ended. -/
def kernelInUse (s : State) (kid : Nat) : Bool :=
  (s.groups.any fun g => g.kernel == kid)
    || s.nodes.any fun n => ndKind n.record == 1 && n.st == .running && ndWork n.record == kid

/-- A node that names a kernel has not been dispatched: it is Waiting or Ready, put back for resume or not, or no die layer has
placed its group (R357, R370, R391). One whose group is Resuming has been (R392). -/
def undispatchedNode (s : State) (kid : Nat) (n : Node) : Bool :=
  decide (ndKind n.record < 2) && ndWork n.record == kid &&
    (match groupOf s n.group with
      | some g => ndKind n.record == 0 && n.group != 0 && n.st != .done
          && (g.st == .assigned || (n.st == .ready && g.st == .frozen))
      | none => n.st == .waiting || n.st == .ready)

/-- Nodes that name a kernel and have not been dispatched. -/
def undispatched (s : State) (kid : Nat) : List Nat := (s.nodes.filter (undispatchedNode s kid)).map (·.index)

/-- The groups of those nodes, which end with them. -/
def undispatchedGroups (s : State) (kid : Nat) : List Group :=
  s.groups.filter fun g => s.nodes.any fun n => undispatchedNode s kid n && n.group == g.gid && ndKind n.record == 0

/-- The kernel enters Unloading: the nodes not dispatched complete with STATUS 5, and a frozen group put back for resume goes
once its accesses have performed (R357, R370, R390). -/
def startUnload (s : State) (c : Nat) (r : List Byte) (k : Kernel) : State :=
  let gs := undispatchedGroups s k.kid
  let left := gs.foldl dropSaved s
  if gs.all fun g => g.st == .assigned || quiet left g then
    completeNodes s (undispatched s k.kid) 5 0 fun s =>
      setKernel (gs.foldl (fun s g => releaseGroup g s) (gs.foldl dropSaved s))
        { k with state := 5, client := c, tag := rqSeq r + 1 }
  else s

/-- The memory of a kernel that nothing uses is freed, and the request has finished (R357, R444). -/
def endUnload (s : State) (c : Nat) (r : List Byte) (k : Kernel) : State :=
  if kernelInUse s k.kid then s
  else finish (dropKernel (freeRange s k.addr) k.kid) c r 1 0 []

/-- UNLOAD (R357, R443). -/
def unloadRequest (s : State) (c : Nat) (r : List Byte) : State :=
  let kid := leAt r 8 4
  match kernelOf s kid with
  | none => refuse s c r
  | some k =>
    if k.state = 3 ∨ k.state = 4 then startUnload s c r k
    else if k.state = 5 ∧ k.client = c ∧ k.tag = rqSeq r + 1 then endUnload s c r k
    else refuse s c r

/-- UNLOAD (R357, R443). -/
def execUnload (ch : Nat) (s : State) : Host.Outcome State Fault Refusal :=
  .next (match pending s ch 6 with
    | none => s
    | some r => unloadRequest s ch r)

/-! ## SUBMIT (R359, R362, R443) -/

/-- The code of a graph header, 0 where it is good (R359, R362). -/
def headerCode (s : State) (h : List Byte) : Nat :=
  let gid := leAt h 0 4
  let nn := leAt h 4 4
  if bits (leAt h 8 1) 7 1 ≠ 0 ∨ leAt h 9 7 ≠ 0 ∨ leAt h 24 40 ≠ 0 then 1
  else if gid = 0 ∨ (graphOf s gid).isSome = true ∨ nn < 1 ∨ 65535 < nn then 2
  else 0

/-- What the nodes of a graph record come to. -/
inductive GraphCheck where
  | ok (ns : List (List Byte × List (Nat × Nat × Nat) × List (List Byte)))
  | refuse (node code : Nat)
  | park (id : Nat)
  | hole (key : Nat)

/-- The nodes of a graph record from index `k` on, in order; `n` are left (R362). -/
def checkNodes (s : State) (a gid : Nat) : Nat → Nat → GraphCheck
  | 0, _ => .ok []
  | n + 1, k =>
    match nodeGet s (addrPlus a ((64 + 64 * k : Nat) : Int)) 64 with
    | .bad _ => .refuse k 2
    | .park i => .park i
    | .hole h => .hole h
    | .ok r =>
      match checkNode s r (ndGid r != gid || ndNode r != k) (s.nodes.length + k) with
      | .refuse code => .refuse k code
      | .park i => .park i
      | .hole h => .hole h
      | .accept ops lists =>
        match checkNodes s a gid n (k + 1) with
        | .ok ns => .ok ((r, ops, lists) :: ns)
        | g => g

/-- What reading node `k` of a graph record and its lists comes to. -/
def recordReads (s : State) (a k : Nat) : List Got :=
  let g := nodeGet s (addrPlus a ((64 + 64 * k : Nat) : Int)) 64
  g :: (match g with | .ok r => (readLists s r).got | _ => [])

/-- A graph is accepted, with all its nodes (R362, R377). -/
def addGraph (s : State) (c : Nat) (h : List Byte) (ns : List (List Byte × List (Nat × Nat × Nat) × List (List Byte))) :
    State :=
  let gid := leAt h 0 4
  let s := { s with graphs := s.graphs ++ [⟨gid, c, leAt h 16 8, bitAt (leAt h 8 1) 0, 0, 0, 0, false⟩] }
  ns.foldl (fun s n => addNode s n.1 gid (ndNode n.1) c n.2.1 n.2.2) s

/-- The reply of a SUBMIT that is refused (R443). -/
def refuseGraph (s : State) (c : Nat) (r : List Byte) (node code : Nat) : State := finish s c r 2 code (leBytes 2 node)

/-- SUBMIT (R362, R443). -/
def execSubmit (ch : Nat) (s : State) : Host.Outcome State Fault Refusal :=
  match pending s ch 7 with
  | none => .next s
  | some r => match nodeGet s (rqA r) 64 with
    | .bad u => .next (refuseGraph (countUnits s [.bad u]) ch r 0xFFFF 2)
    | .park i => .next (tellPage s 0 i)
    | .hole k => .fault (.physicalHole k)
    | .ok h =>
      if headerCode s h ≠ 0 then .next (refuseGraph s ch r 0xFFFF (headerCode s h))
      else match checkNodes s (rqA r) (leAt h 0 4) (leAt h 4 4) 0 with
        | .refuse k code => .next (refuseGraph (countUnits s (recordReads s (rqA r) k)) ch r k code)
        | .park i => .next (tellPage s 0 i)
        | .hole k => .fault (.physicalHole k)
        | .ok ns => .next (finish (addGraph s ch h ns) ch r 1 0 [])

/-! ## QUERY (R443) -/

/-- A QUERY of a kind of word: the word, or STATUS 2 where there is no such thing. -/
def query (s : State) (c what : Nat) (w : List Byte → Option Nat) : State :=
  match (pending s c 8).filter fun r => rqWhat r == what with
  | none => s
  | some r => match w r with
    | none => refuse s c r
    | some v => finish s c r 1 0 (leBytes 8 v)

/-- QUERY of a node word (R375, R443). -/
def execQueryNode (ch : Nat) (s : State) : Host.Outcome State Fault Refusal :=
  .next (query s ch 0 fun r => (s.nodes.find? fun n => n.gid == leAt r 12 4 && n.id == leAt r 16 2).map nodeWord)

/-- QUERY of a kernel word (R358, R443). -/
def execQueryKernel (ch : Nat) (s : State) : Host.Outcome State Fault Refusal :=
  .next (query s ch 1 fun r =>
    (kernelOf s (leAt r 12 4)).map fun k => tabGet s 7 0 (kernelIndex s k.kid))

/-- QUERY of a port word (R194, R443). -/
def execQueryPort (ch : Nat) (s : State) : Host.Outcome State Fault Refusal :=
  .next (query { s with freeCtr := s.freeCtr + 1 } ch 2 fun r => some (lstatVal s (leAt r 9 1)))

/-- QUERY of pool word 0 (R374, R443). -/
def execQueryPool (ch : Nat) (s : State) : Host.Outcome State Fault Refusal :=
  .next (query s ch 3 fun _ => some (poolWord s 0))

/-! ## Registers of a channel (R441, R442, R445) -/

/-- OUTBOX_READ: the oldest reply is popped; graphs whose reply waited for room complete (R441). -/
def execOutboxRead (ch : Nat) (s : State) : Host.Outcome State Fault Refusal :=
  .next (if ch < 8 ∧ s.pciUp = true then
      closeGraphs (modChannel s ch fun h =>
        { h with outbox := h.outbox.drop 1, irq := h.irq && decide (1 < h.outbox.length) })
    else s)

/-- What a read of OUTBOX returns (R441). -/
def outboxVal (s : State) (c : Nat) : List Byte := (getChannel s c).outbox.headD (List.replicate 64 0)

/-- What CSTAT reads as (R442). -/
def cstatVal (s : State) (c : Nat) : Nat :=
  let h := getChannel s c
  h.outbox.length % 512 * 2 ^ 32 + (256 - h.inbox.length) * 2 ^ 16 + h.ovf.toNat * 4 + h.irqe.toNat * 2 + h.en.toNat

/-- CSTAT_WRITE (R442). -/
def execCstatWrite (ch : Nat) (v : BitVec 64) (s : State) : Host.Outcome State Fault Refusal :=
  .next (if ch < 8 ∧ s.pciUp = true then
      modChannel s ch fun h => { h with irqe := v.getLsbD 1, ovf := h.ovf && !(v.getLsbD 2) }
    else s)

/-! ## BAR0 (R441) -/

/-- The host writes `bs` at an offset of BAR0: a request into INBOX, or 8 bytes to CSTAT; a write that is neither, and lies at
INBOX, is dropped with OVF (R441, R442); other writes are lost (log 80). -/
def barWrite (s : State) (offset : Nat) (bs : List Byte) : Host.Outcome State Fault Refusal :=
  let c := offset / 0x1000
  let o := offset % 0x1000
  if s.pciUp = false ∨ 8 ≤ c ∨ (getChannel s c).en = false then .next s
  else if o = 0 then .next (inboxWrite s c bs)
  else if o < 0x40 then execRequestDropped c s
  else if o = 0x80 ∧ bs.length = 8 then execCstatWrite c (BitVec.ofNat 64 (leNat bs)) s
  else .next s

/-- The host reads `n` bytes at an offset of BAR0: a reply, which is popped, CSTAT, or 0 (R441, R442); INBOX is write only, and
other offsets hold no register (log 80). -/
def barRead (s : State) (offset n : Nat) : Host.Outcome State Fault Refusal :=
  let c := offset / 0x1000
  let o := offset % 0x1000
  let give (bs : List Byte) : State := { s with barData := bs }
  if s.pciUp = false ∨ 8 ≤ c then .next s
  else if o = 0x40 ∧ n = 64 then execOutboxRead c (give (outboxVal s c))
  else if o = 0x80 ∧ n = 8 then .next (give (leBytes 8 (cstatVal s c)))
  else .next (give (List.replicate n 0))

/-- PCIE_LINK_LOSS (R445). -/
def execPcieLinkLoss (s : State) : Host.Outcome State Fault Refusal := .next { s with pciUp := false }

end Sys2Proof.Machine
end

