-- ==== Sys2Proof/Machine/Matrix.lean ====
section
/-!
DEFINITION. Slot K, and slot M: the matrix unit and tree descent (spec 07 R211 to R226; 03 R93, R94).
-/
namespace Sys2Proof.Machine

/-! ## Ownership (R93, R278) -/

/-- The blocks of an operation that needs the matrix unit's ownership (R62, R93, R278). -/
def ownBlock (s : State) : Option Nat :=
  if s.myCore.lanternOn then some 9 else if ownedElsewhere s.myCore s.issue.ctx then some 6 else none

/-- The context takes ownership of the matrix unit (R93). -/
def takeUnit (x : Nat) (k : Core) : Core := { k with owner := .ctx x }

/-! ## Slot K (R219) -/

/-- A latch index of 12 to 15 (R219). -/
def latchTraps (lat : Fin 16) : List Trap := trapIf (decide (12 ≤ lat.val)) (combo 6 6 0)

/-- An operation of slot K. -/
def latchOp (gd : Guard) (srcs : List Src) (traps : List Trap) (f : List Word → State → State) : Op where
  slot := 6
  guard := gd
  srcs := srcs
  traps := fun _ _ => traps
  block := fun s _ => ownBlock s
  effect := fun s0 v s => f v (modCore s s0.issue.core (takeUnit s0.issue.ctx))

/-- KSET (R219). -/
def opKset (gd : Guard) (side : Bool) (lat : Fin 16) (a : Src) : Op :=
  latchOp gd [a] (latchTraps lat) fun v s => give s 5 (.latch side lat.val ((operand v 0).toNat % 256)) 0

/-- KSET (R219). -/
def execKset (gd : Guard) (side : Bool) (lat : Fin 16) (a : Src) (s : State) : Host.Outcome State Fault Refusal :=
  runOne (opKset gd side lat a) s

/-- KSETI (R219). -/
def opKseti (gd : Guard) (side : Bool) (lat : Fin 16) (imm : BitVec 8) : Op :=
  latchOp gd [] (latchTraps lat) fun _ s => give s 5 (.latch side lat.val imm.toNat) 0

/-- KSETI (R219). -/
def execKseti (gd : Guard) (side : Bool) (lat : Fin 16) (imm : BitVec 8) (s : State) :
    Host.Outcome State Fault Refusal := runOne (opKseti gd side lat imm) s

/-- KCLR (R219). -/
def opKclr (gd : Guard) (side : Bool) : Op :=
  latchOp gd [] [] fun _ s => (List.range 16).foldl (fun s l => give s 5 (.latch side l 0x7F) 0) s

/-- KCLR (R219). -/
def execKclr (gd : Guard) (side : Bool) (s : State) : Host.Outcome State Fault Refusal := runOne (opKclr gd side) s

/-! ## The matrix unit (R217, R220 to R223) -/

/-- An operation of slot M waits in place, counting issue cycles, for the unit and for its port slots (R94, R244). -/
def unitWait (s : State) (ps : List (Option (Fin 16))) : Bool :=
  let k := s.myCore
  busySame k s.issue.ctx k.mUser k.mFree
    || ps.any fun p => match p with | some n => slotBusySame k s.issue.ctx n.val | none => false

/-- The blocks of an MLDB, MMUL or MMULS (R62, R93, R94, R244, R278). -/
def unitBlock (s : State) (ps : List (Option (Fin 16))) : Option Nat :=
  let k := s.myCore
  match ownBlock s with
  | some n => some n
  | none =>
    if busyOther k s.issue.ctx k.mUser k.mFree then some 6
    else ps.findSome? fun p => match p with | some n => slotBlock k s.issue.ctx n.val | none => none

/-- The context's copies that a slot has still to serve have an operation of the same group behind them, which has gone through
the slot: the slot's state as they end is that operation's (R244; log 67). -/
def passCopies (c x : Nat) (p : Option (Fin 16)) (s : State) : State :=
  match p with
  | none => s
  | some n => modCore s c fun k =>
    { k with serving := k.serving.map fun v =>
        if v.slot = n.val ∧ v.ctx = x ∧ v.until_ = none then { v with passed := true } else v }

/-- The unit accepts an operation with `rows` rows to enter: the last one enters in cycle `last` after this one, and
those of this cycle enter now (R217). -/
def acceptRows (s0 : State) (i : Instr) (sel : Row) (last : Nat) (ports : List (Option (Fin 16))) (s : State) : State :=
  let c := s0.issue.core
  let x := s0.issue.ctx
  let t := s0.me
  let o := newOp s c
  let s := ports.foldl (fun s p => serve s c x o.1 p true none) (ports.foldl (fun s p => passCopies c x p s) o.2)
  let s := modCore s c fun k => { takeUnit x k with mFree := t.icyc + last + 1, mUser := x }
  let s := modCtx s c x fun u => { u with rows := u.rows ++ [⟨o.1, i, t.icyc, s0.ck, 0, s0.issue.addr, sel, none, 0⟩] }
  enterOp c x o.1 192 s

/-- Rows first .. first + n - 1 of a physical tile, as reads (R351). -/
def rowKeys (tile first n : Nat) : List Key := (List.range n).map fun i => (7, tile, first + i)

/-- The latches, as reads (R351). -/
def latchKeys : List Key := (List.range 32).map fun i => (8, i / 16, i % 16)

/-- MLDB (R212, R220). -/
def opMldb (gd : Guard) (bk : Fin 4) (bt : Fin 32) (fb : Fmt) (pb : Option (Fin 16)) : Op where
  slot := 8
  guard := gd
  binds := pb.toList
  reads := fun s => rowKeys (s.tile bt.val) 0 3 ++ portKeys [pb]
  tileR := fun s => [s.tile bt.val, s.tile bt.val + 1, s.tile bt.val + 2]
  decode := portsDecode [pb]
  empty := fun s _ => unitWait s [pb]
  traps := fun s _ =>
    trapIf (decide (s.me.tcnt ≤ bt.val + 2)) (combo 8 1 0)
      ++ trapIf (!fb.isMatrix) (combo 8 3 0)
      ++ bindTraps s 8 .slotM pb fb fb false
  block := fun s _ => unitBlock s [pb]
  effect := fun s0 _ s =>
    acceptRows s0 (.mldb gd bk bt fb pb) 0 63 [pb]
      (modCore s s0.issue.core fun k => k.modBank bk fun b => { b with fmt := fb })

/-- MLDB (R212, R220). -/
def execMldb (gd : Guard) (bk : Fin 4) (bt : Fin 32) (fb : Fmt) (pb : Option (Fin 16)) (s : State) :
    Host.Outcome State Fault Refusal := runOne (opMldb gd bk bt fb pb) s

/-- The number of result tiles (R213). -/
def resultTiles (zf : Zf) : Nat := if zf = .bf16 then 2 else 4

/-- The checks that MMUL and MMULS share (R91, R213, R221, R242, R243). ARG is 0 for an MMULS whose A row count is odd, which
names no select field (R214; log 71). -/
def mulTraps (s : State) (bk : Fin 4) (at_ : Fin 32) (arow acnt : Fin 64) (fa : Fmt) (acc : Bool) (zt : Fin 32)
    (zf : Zf) (pa pz : Option (Fin 16)) (sparse : Bool) : List Trap :=
  let b := s.myCore.banks[bk].fmt
  let twice := pa.isSome && pa == pz
  tileChecks s 8 at_.val (arow.val + acnt.val)
    ++ trapIf (!acc && decide (s.me.tcnt < zt.val + resultTiles zf)) (combo 8 1 0)
    ++ trapIf (!fa.isMatrix) (combo 8 3 0)
    ++ trapIf (if sparse then b.isWide || !(fa.width == 4 || fa.width == 8) else fa.isWide != b.isWide) (combo 8 4 0)
    ++ trapIf (!acc && zf == .i32 && !(fa.isMatInt && b.isMatInt)) (combo 8 4 0)
    ++ trapIf (sparse && fa.width == 8 && acnt.val % 2 == 0) (combo 8 5 0)
    ++ bindTraps s 8 .slotM pa fa fa twice
    ++ bindTraps s 8 .slotM pz .f32 zf.toFmt twice

/-- The physical result tiles, for the scoreboard. -/
def resultTileList (s : State) (acc : Bool) (zt : Fin 32) (zf : Zf) : List Nat :=
  if acc then [] else (List.range (resultTiles zf)).map fun j => s.tile zt.val + j

/-- A rows that enter in the cycle of acceptance (R217): those of the result rows below 8 / p. -/
def firstRows (fa : Fmt) : Nat := (8 + fa.pA - 1) / fa.pA

/-- The package as it is once every row of an operation of slot M has entered and been delivered: an operation of slot R of
the same group goes through a slot after it (R244; log 67). -/
def afterM (s : State) (c x op : Nat) : State :=
  let s := enterOp c x op 192 (modCtx s c x fun t => { t with icyc := t.icyc + 4096 })
  ((getCtx s c x).flights.filter fun f => f.w.keys.any fun k => k.1 == 12).foldl (fun s f => applyWrite s c x f.w) s

/-- MMUL (R222). -/
def opMmul (gd : Guard) (bk : Fin 4) (at_ : Fin 32) (arow acnt : Fin 64) (fa : Fmt) (acc : Bool)
    (zt : Fin 32) (zf : Zf) (pa pz : Option (Fin 16)) : Op where
  slot := 8
  guard := gd
  binds := pa.toList ++ pz.toList
  reads := fun s => latchKeys ++ rowKeys (s.tile at_.val) arow.val (firstRows fa) ++ portKeys [pa]
  tileR := fun s => [s.tile at_.val]
  tileW := fun s => resultTileList s acc zt zf
  decode := portsDecode [pa, pz]
  empty := fun s _ => unitWait s [pa, pz]
  traps := fun s _ => mulTraps s bk at_ arow acnt fa acc zt zf pa pz false
  block := fun s _ => unitBlock s [pa, pz]
  effect := fun s0 _ s =>
    acceptRows s0 (.mmul gd bk at_ arow acnt fa acc zt zf pa pz) 0 (acnt.val * fa.pA / 8) [pa, pz] s

/-- MMUL (R222). -/
def execMmul (gd : Guard) (bk : Fin 4) (at_ : Fin 32) (arow acnt : Fin 64) (fa : Fmt) (acc : Bool)
    (zt : Fin 32) (zf : Zf) (pa pz : Option (Fin 16)) (s : State) : Host.Outcome State Fault Refusal :=
  runOne (opMmul gd bk at_ arow acnt fa acc zt zf pa pz) s

/-- The first select field that fails (R223). -/
def badField (sel : Row) : Option Nat := (selFields sel).zipIdx.findSome? fun p => if selOk p.1 then none else some p.2

/-- MMULS (R223). -/
def opMmuls (gd : Guard) (bk : Fin 4) (at_ : Fin 32) (arow acnt : Fin 64) (fa : Fmt) (acc : Bool)
    (zt : Fin 32) (zf : Zf) (pa pz : Option (Fin 16)) (st : Fin 32) (srow : Fin 64) : Op where
  slot := 8
  guard := gd
  binds := pa.toList ++ pz.toList
  reads := fun s =>
    latchKeys ++ rowKeys (s.tile at_.val) arow.val 2 ++ rowKeys (s.tile st.val) srow.val 1 ++ portKeys [pa]
  tileR := fun s => [s.tile at_.val, s.tile st.val]
  tileW := fun s => resultTileList s acc zt zf
  decode := portsDecode [pa, pz]
  empty := fun s _ => unitWait s [pa, pz]
  traps := fun s _ =>
    mulTraps s bk at_ arow acnt fa acc zt zf pa pz true ++ tileChecks s 8 st.val srow.val
      ++ (match badField (readRow s s.myCore (s.tile st.val) srow.val) with
          | some g => [⟨5, causeSPARSE, g⟩]
          | none => [])
  block := fun s _ => unitBlock s [pa, pz]
  effect := fun s0 _ s =>
    let n := resultRows fa acnt true
    noteBad (acceptRows s0 (.mmuls gd bk at_ arow acnt fa acc zt zf pa pz st srow)
        (readRow s0 s0.myCore (s0.tile st.val) srow.val) ((n - 1) * fa.pA / 8) [pa, pz] s)
      s0.issue.core s0.issue.ctx s0.issue.addr [(s0.tile st.val, srow.val, 96)]

/-- MMULS (R223). -/
def execMmuls (gd : Guard) (bk : Fin 4) (at_ : Fin 32) (arow acnt : Fin 64) (fa : Fmt) (acc : Bool)
    (zt : Fin 32) (zf : Zf) (pa pz : Option (Fin 16)) (st : Fin 32) (srow : Fin 64) (s : State) :
    Host.Outcome State Fault Refusal := runOne (opMmuls gd bk at_ arow acnt fa acc zt zf pa pz st srow) s

/-! ## Tree descent (R224 to R226) -/

/-- y register `y0 + r` of the issuing context. -/
def yAt (s : State) (y0 : Fin 64) (r : Nat) : YReg := s.me.y[Fin.ofNat 64 (y0.val + r)]

/-- A y range past y63 (R224). -/
def yTraps (slot : Nat) (y0 cnt : Fin 64) : List Trap := trapIf (decide (63 < y0.val + cnt.val)) (combo slot 8 0)

/-- The y registers of a range, as reads. -/
def yKeys (y0 cnt : Fin 64) : List Key := (List.range (cnt.val + 1)).map fun r => (6, y0.val + r, 0)

/-- A write of a tree-descent operation for batch row `r`: delivered at issue + 25 + r (R224). -/
def giveRow (s : State) (r : Nat) (w : Write) : State := expose s s.issue.core s.issue.ctx 6 (r + 1) w

/-- The block of a tree-descent operation (R278). -/
def treeBlock (s : State) : Option Nat := if s.myCore.lanternOn then some 9 else none

/-- Bytes of INT32 elements of batch row `r`, written packed 48 to a row from row `row` of a tile: `e` is the first
element (R224, R226). -/
def giveElems (s : State) (tile row e r : Nat) (vs : List Nat) : State :=
  giveRow s r (.tile tile (row + e / 48) (4 * (e % 48)) (vs.flatMap (leBytes 4)))

/-- rd(A) + node(r) x rd(B) (R224). -/
def nodeAddr (a b : Word) (n : Word32) : Nat := wrapN ((a.toNat + n.toNat * b.toNat : Nat) : Int) 64

/-- TDADDR to a tile (R224). -/
def opTdaddr (gd : Guard) (y0 cnt : Fin 64) (t : Fin 32) (row : Fin 64) (a b : GSrc) : Op where
  slot := 8
  guard := gd
  srcs := [gs a, gs b]
  reads := fun _ => yKeys y0 cnt
  tileW := fun s => [s.tile t.val]
  traps := fun s _ => tileChecks s 8 t.val (row.val + cnt.val / 48) ++ yTraps 8 y0 cnt
  block := fun s _ => treeBlock s
  effect := fun s0 v s =>
    (List.range (cnt.val + 1)).foldl (fun s r =>
      giveElems s (s0.tile t.val) row.val r r
        [nodeAddr (operand v 0) (operand v 1) (yAt s0 y0 r).node % 2 ^ 32]) s

/-- TDADDR to a tile (R224). -/
def execTdaddr (gd : Guard) (y0 cnt : Fin 64) (t : Fin 32) (row : Fin 64) (a b : GSrc) (s : State) :
    Host.Outcome State Fault Refusal := runOne (opTdaddr gd y0 cnt t row a b) s

/-- The traps of one address of TDADDR.aq (R208, R224): the first that fails. -/
def requestTraps (m : Nat) : List Trap :=
  (addrTraps m false ++ trapIf (m % 16 != 0) ⟨7, causeALIGN, m⟩).take 1

/-- TDADDR to the address queue (R224). -/
def opTdaddrAq (gd : Guard) (y0 cnt : Fin 64) (a b : GSrc) : Op where
  slot := 8
  guard := gd
  srcs := [gs a, gs b]
  reads := fun _ => yKeys y0 cnt
  aqs := cnt.val + 1
  traps := fun s v =>
    trapIf (decide (16 < cnt.val + 1)) (combo 8 5 0) ++ yTraps 8 y0 cnt
      ++ (((List.range (cnt.val + 1)).flatMap fun r =>
          requestTraps (nodeAddr (operand v 0) (operand v 1) (yAt s y0 r).node)).take 1)
  block := fun s _ => treeBlock s
  effect := fun s0 v s =>
    (List.range (cnt.val + 1)).foldl (fun s r =>
      let u := newUid s s0.issue.core s0.issue.ctx
      u.2.modMe fun t =>
        { t with aq := t.aq ++ [⟨u.1, nodeAddr (operand v 0) (operand v 1) (yAt s0 y0 r).node, 16⟩] }) s

/-- TDADDR to the address queue (R224). -/
def execTdaddrAq (gd : Guard) (y0 cnt : Fin 64) (a b : GSrc) (s : State) : Host.Outcome State Fault Refusal :=
  runOne (opTdaddrAq gd y0 cnt a b) s

/-- Tiles that a level's dot products lie in (R225). -/
def levelTiles (lv : Nat) : Nat := if lv ≤ 5 then 1 else if lv = 6 then 2 else 4

/-- The column of a node at a level (R225). -/
def nodeCol (lv n : Nat) : Nat := (n - (2 ^ lv - 1)) % 192

/-- The first batch row whose node lies outside the level (R225). -/
def nodeTraps (s : State) (y0 cnt : Fin 64) (lv : Nat) : List Trap :=
  ((List.range (cnt.val + 1)).filterMap fun r =>
    let n := (yAt s y0 r).node.toNat
    if n < 2 ^ lv - 1 ∨ 2 ^ (lv + 1) - 2 < n then some (combo 8 9 r) else none).take 1

/-- The row and the element that batch row `r` of a TDESC reads: physical tile, row, element. -/
def descentPlace (s : State) (t : Fin 32) (row : Fin 64) (lv r : Nat) (y : YReg) : Nat × Nat × Nat :=
  let col := nodeCol lv y.node.toNat
  (s.tile t.val + col / 48, row.val + r, col % 48)

/-- One batch row of a TDESC (R225). -/
def descendRow (s0 : State) (y0 : Fin 64) (t : Fin 32) (row : Fin 64) (lv r : Nat) (s : State) : State :=
  let y := yAt s0 y0 r
  let p := descentPlace s0 t row lv r y
  let v := elemAt 32 (readRow s0 s0.myCore p.1 p.2.1).toNat p.2.2
  let d := descend lv y v
  let s := giveRow s r (.y (y0.val + r) d.1)
  if d.2 = 0 then s else giveRow s r (.rowFlags (s.me.icyc + r) d.2)

/-- TDESC (R225). The row of each dot product counts as read whole for the parity report (log 89). -/
def opTdesc (gd : Guard) (y0 cnt : Fin 64) (t : Fin 32) (row : Fin 64) (lv : Fin 32) : Op where
  slot := 8
  guard := gd
  reads := fun s =>
    yKeys y0 cnt ++ (List.range (levelTiles lv.val)).flatMap fun i =>
      rowKeys (s.tile t.val + i) row.val (cnt.val + 1)
  tileR := fun s => (List.range (levelTiles lv.val)).map fun i => s.tile t.val + i
  traps := fun s _ =>
    trapIf (decide (s.me.tcnt < t.val + levelTiles lv.val)) (combo 8 1 0)
      ++ trapIf (decide (63 < row.val + cnt.val)) (combo 8 2 0)
      ++ trapIf (lv == 31) (combo 8 5 0)
      ++ yTraps 8 y0 cnt
      ++ nodeTraps s y0 cnt lv.val
  block := fun s _ => treeBlock s
  effect := fun s0 _ s =>
    noteBad ((List.range (cnt.val + 1)).foldl (fun s r => descendRow s0 y0 t row lv.val r s) s)
      s0.issue.core s0.issue.ctx s0.issue.addr ((List.range (cnt.val + 1)).map fun r =>
        let p := descentPlace s0 t row lv.val r (yAt s0 y0 r)
        (p.1, p.2.1, 192))

/-- TDESC (R225). -/
def execTdesc (gd : Guard) (y0 cnt : Fin 64) (t : Fin 32) (row : Fin 64) (lv : Fin 32) (s : State) :
    Host.Outcome State Fault Refusal := runOne (opTdesc gd y0 cnt t row lv) s

/-- The index of a node within its leaf level, as INT32 (R226). -/
def leafIndex (y : YReg) : Nat := wrapN ((y.node.toNat : Int) - (2 ^ y.depth.toNat - 1)) 32

/-- TDLEAF (R226). -/
def opTdleaf (gd : Guard) (y0 cnt : Fin 64) (t : Fin 32) (row : Fin 64) : Op where
  slot := 8
  guard := gd
  reads := fun _ => yKeys y0 cnt
  tileW := fun s => [s.tile t.val]
  traps := fun s _ => tileChecks s 8 t.val (row.val + cnt.val / 48) ++ yTraps 8 y0 cnt
  block := fun s _ => treeBlock s
  effect := fun s0 _ s =>
    (List.range (cnt.val + 1)).foldl (fun s r =>
      giveElems s (s0.tile t.val) row.val r r [leafIndex (yAt s0 y0 r)]) s

/-- TDLEAF (R226). -/
def execTdleaf (gd : Guard) (y0 cnt : Fin 64) (t : Fin 32) (row : Fin 64) (s : State) :
    Host.Outcome State Fault Refusal := runOne (opTdleaf gd y0 cnt t row) s

/-- TDPATH (R226). -/
def opTdpath (gd : Guard) (y0 cnt : Fin 64) (t : Fin 32) (row : Fin 64) : Op where
  slot := 8
  guard := gd
  reads := fun _ => yKeys y0 cnt
  tileW := fun s => [s.tile t.val]
  traps := fun s _ => tileChecks s 8 t.val (row.val + (2 * cnt.val + 1) / 48) ++ yTraps 8 y0 cnt
  block := fun s _ => treeBlock s
  effect := fun s0 _ s =>
    (List.range (cnt.val + 1)).foldl (fun s r =>
      giveElems s (s0.tile t.val) row.val (2 * r) r [(yAt s0 y0 r).path.toNat, (yAt s0 y0 r).depth.toNat]) s

/-- TDPATH (R226). -/
def execTdpath (gd : Guard) (y0 cnt : Fin 64) (t : Fin 32) (row : Fin 64) (s : State) :
    Host.Outcome State Fault Refusal := runOne (opTdpath gd y0 cnt t row) s

end Sys2Proof.Machine
end

