-- ==== Sys2Proof/Machine/Lantern.lean ====
section
/-!
DEFINITION. The Lantern: its start, its microinstructions and its end (spec 04 R138; 09 R272 to R301).
-/
namespace Sys2Proof.Machine

/-! ## The parameter block (R275, R276) -/

/-- A field of the parameter buffer. -/
def Lantern.field (l : Lantern) (i n : Nat) : Nat := leAt l.params i n

def Lantern.kbase (l : Lantern) : Nat := l.field 0 8
def Lantern.vbase (l : Lantern) : Nat := l.field 8 8
def Lantern.sbase (l : Lantern) : Nat := l.field 16 8
def Lantern.out (l : Lantern) : Nat := l.field 24 8
def Lantern.len (l : Lantern) : Nat := l.field 32 4
def Lantern.scale (l : Lantern) : Nat := l.field 36 4
def Lantern.sink (l : Lantern) : Nat := l.field 40 2
def Lantern.recent (l : Lantern) : Nat := l.field 42 2
def Lantern.rho (l : Lantern) : Nat := l.field 44 1
def Lantern.heads (l : Lantern) : Nat := l.field 45 1
def Lantern.dim (l : Lantern) : Nat := l.field 46 1
def Lantern.tq (l : Lantern) : Nat := l.field 51 1
def Lantern.tk (l : Lantern) : Nat := l.field 52 1
def Lantern.tv (l : Lantern) : Nat := l.field 53 1
def Lantern.tp (l : Lantern) : Nat := l.field 54 1
def Lantern.ti (l : Lantern) : Nat := l.field 55 1
def Lantern.tg (l : Lantern) : Nat := l.field 56 1

/-- The tiles that each tile field names, with the field's offset (R275). -/
def lentFields (l : Lantern) : List (Nat × List Nat) :=
  [(51, [l.tq, l.tq + 1, l.tq + 2]), (52, [l.tk]), (53, [l.tv, l.tv + 1, l.tv + 2]), (54, [l.tp]), (55, [l.ti]),
    (56, [l.tg])]

/-- A tile field breaks R276: a reserved bit, a tile the context does not have, or one that another field names too, by its whole
byte (log 102). -/
def tileFieldBad (l : Lantern) (tcnt : Nat) (f : Nat × List Nat) : Bool :=
  decide (31 < l.field f.1 1) || f.2.any (fun t => decide (tcnt ≤ t))
    || (lentFields l).any fun g => g.1 != f.1 && g.2.any f.2.contains

/-- A copy address breaks R276, or is not a multiple of `n`. -/
def lanternAddrBad (a n : Nat) : Bool := !(addrFormOk a true) || addrField a % n != 0

/-- The byte offset of the lowest field that breaks R276. -/
def paramFault (l : Lantern) (tcnt : Nat) : Option Nat :=
  let bad : List (Nat × Bool) :=
    [(0, lanternAddrBad l.kbase 64), (8, lanternAddrBad l.vbase 64), (16, lanternAddrBad l.sbase 8),
      (24, lanternAddrBad l.out 4), (44, decide (64 < l.rho)), (45, l.heads == 0 || decide (64 < l.heads)),
      (46, l.dim == 0 || decide (96 < l.dim)), (47, l.field 47 1 != 0x11), (48, bits (l.field 48 2) 15 10 != 0),
      (50, decide (7 < l.field 50 1))]
      ++ (lentFields l).map (fun f => (f.1, tileFieldBad l tcnt f)) ++ [(57, l.field 57 7 != 0)]
  (bad.find? (·.2)).map (·.1)

/-! ## State changes -/

/-- The Lantern of the issuing core. -/
def State.ln (s : State) : Lantern := s.myCore.lantern

/-- The context that started the sequence. -/
def State.lnCtx (s : State) : Ctx := s.myCore.get s.ln.owner

/-- The Lantern changed. -/
def lnSet (s : State) (f : Lantern → Lantern) : State :=
  modCore s s.issue.core fun k => { k with lantern := f k.lantern }

/-- The next word follows (R285). -/
def lnNext (s : State) (f : Lantern → Lantern) : State := lnSet s fun l => { f l with pc := l.pc + 1 }

/-- A value of an s register. -/
def Lantern.reg (l : Lantern) (i : Fin 16) : Nat := l.s.getD i.val 0

/-- An s register set, modulo 2^32 (R273). -/
def Lantern.put (l : Lantern) (i : Fin 16) (v : Nat) : Lantern := { l with s := l.s.set i.val (v % 2 ^ 32) }

/-- The sequence stops (R284). -/
def lnStop (s : State) (cause tval : Nat) : State := lanternStop s s.issue.core cause tval

/-- An operand value breaks its entry: WHY 13 (R276). -/
def lnBad (s : State) : State := lnStop s causeRESERVED (s.ln.pc * 65536 + 13 * 256)

/-- Flags of a step are folded into the starting context (R284). -/
def lnFold (s : State) (f : Flags) : State := foldAt s s.issue.core s.ln.owner s.ck f

/-- A word runs while the sequence runs. -/
def runWordOf (f : State → State) (s : State) : Host.Outcome State Fault Refusal :=
  .next (if s.ln.phase = .running then f s else s)

/-- The physical tile of a tile field. -/
def State.lnTile (s : State) (t : Nat) : Nat := s.lnCtx.tbase + t

/-- Row `r` of the tiles from a field's tile on. -/
def lnRow (s : State) (t r : Nat) : Row := readRow s s.myCore (s.lnTile t + r / 64) (r % 64)

/-- Rows read with a parity failure are reported to the starting context (R454). -/
def lnNote (s0 : State) (t : Nat) (rows : List Nat) (s : State) : State :=
  noteBad s s0.issue.core s0.ln.owner s0.ln.epc (rows.map fun r => (s0.lnTile t + r / 64, r % 64, 192))

/-- A row of the tiles from a field's tile on is written. -/
def lnPutRow (s : State) (t r : Nat) (v : Row) : State :=
  modCore s s.issue.core fun k => k.setRow (s.lnTile t + r / 64) (r % 64) v

/-! ## LANTERN_START (R277) -/

/-- A copy command in flight reads or writes a lent tile (R277 step 3). -/
def lentInFlight (k : Core) (l : Lantern) : Bool :=
  let tb := (k.get l.owner).tbase
  (List.range 4).any fun x => (k.get x).cmds.any fun m =>
    (lentTiles l.params).any fun t => m.tileR.contains (tb + t) || m.tileW.contains (tb + t)

/-- The state of R273 at the start of a sequence. -/
def Lantern.fresh (l : Lantern) : Lantern :=
  { l with
    phase := .running
    s := List.replicate 16 0
    qsig := 0
    m := List.replicate 64 0xFF800000
    l := List.replicate 64 0
    alpha := List.replicate 64 0
    score := List.replicate 64 (List.replicate 64 0)
    poisoned := false }

/-- Steps 2 to 6 of R277: the block is read and checked, and the first word can be fetched. -/
def lanternStart (s : State) : State :=
  let c := s.issue.core
  let x := s.ln.owner
  let key := placeKey s c x s.ln.base 64
  if s.ln.phase ≠ .starting ∨ farOverlaps s c x key 64 then s
  else if poisoned s key 64 then lnStop (countBad s key) causeUNCORR s.ln.base
  else
    let s := lnSet s fun l => { l with params := readBytes s.mem key 64, bar := leAt (readBytes s.mem key 64) 48 2 % 1024 }
    if lentInFlight s.myCore s.ln then s
    else match paramFault s.ln s.lnCtx.tcnt with
      | some off => lnStop s causeRESERVED (off * 65536 + 12 * 256)
      | none =>
        modCore s c fun k =>
          { k with acc := [], live := 0, lantern := k.lantern.fresh }

/-- LANTERN_START (R277). -/
def execLanternStart (s : State) : Host.Outcome State Fault Refusal := .next (lanternStart s)

/-! ## PLD, SADDI, SMOVI, BRC, LOOPS (R287, R293, R296, R300) -/

/-- PLD (R296). -/
def execPld (sd w : Fin 16) (s : State) : Host.Outcome State Fault Refusal :=
  runWordOf (fun s => lnNext s fun l => l.put sd (l.field (4 * w.val) 4)) s

/-- SADDI (R300). -/
def execSaddi (sd sa : Fin 16) (imm : BitVec 32) (s : State) : Host.Outcome State Fault Refusal :=
  runWordOf (fun s => lnNext s fun l => l.put sd (l.reg sa + imm.toNat)) s

/-- SMOVI (R300). -/
def execSmovi (sd : Fin 16) (imm : BitVec 32) (s : State) : Host.Outcome State Fault Refusal :=
  runWordOf (fun s => lnNext s fun l => l.put sd imm.toNat) s

/-- The condition of a BRC (R287). -/
def brcTaken (cond : Fin 4) (a b : Nat) : Bool :=
  match cond.val with
  | 0 => a == b
  | 1 => a != b
  | 2 => decide (a < b)
  | _ => decide (b ≤ a)

/-- BRC (R287). -/
def execBrc (cond : Fin 4) (sa sb : Fin 16) (tgt : Fin 512) (s : State) : Host.Outcome State Fault Refusal :=
  runWordOf (fun s => lnSet s fun l =>
    { l with pc := if brcTaken cond (l.reg sa) (l.reg sb) then tgt.val else l.pc + 1 }) s

/-- LOOPS (R293). -/
def execLoops (sa : Fin 16) (tgt : Fin 512) (s : State) : Host.Outcome State Fault Refusal :=
  runWordOf (fun s => lnSet s fun l =>
    if l.reg sa = 0 then { l with pc := l.pc + 1 }
    else { l.put sa (l.reg sa - 1) with pc := if 1 < l.reg sa then tgt.val else l.pc + 1 }) s

/-! ## SGLD, SGAP (R281, R301) -/

/-- The signature packed from row `r` of TG (R281). -/
def signature (s : State) (r : Nat) : Nat :=
  let es := (elemsOf 32 48 (lnRow s s.ln.tg r).toNat) ++ (elemsOf 32 16 (lnRow s s.ln.tg (r + 1)).toNat)
  (es.zipIdx.map fun p => if bitAt p.1 31 then 2 ^ p.2 else 0).sum

/-- SGLD (R301). -/
def execSgld (sa : Fin 16) (s : State) : Host.Outcome State Fault Refusal :=
  runWordOf (fun s =>
    let r := s.ln.reg sa
    if 62 < r then lnBad s
    else lnNote s s.ln.tg [r, r + 1] (lnNext s fun l => { l with qsig := signature s r })) s

/-- A copy command of the sequence (R279). -/
def lnCmd (s : State) (kind : CmdKind) (f : CopyForm) (base : Nat) : Cmd :=
  { freshCmd s .done none f base with kind := kind, addr := s.ln.epc, start := s.ln.first, poison := s.ln.poisoned }

/-- A command of the sequence enters the queue of the starting context; the word waits while all 16 entries are held
(R279). -/
def lnIssue (s : State) (m : Cmd) (after : State → State) : State :=
  if 16 ≤ s.lnCtx.cmds.length then s
  else after (enqueue s s.issue.core s.ln.owner m)

/-- A store of the sequence: `rows` are its chunks, each written from its address on. -/
def lnStore (s : State) (kind : CmdKind) (rows : List (Nat × List Byte)) : Cmd :=
  { lnCmd s kind (plainForm false 1 rows.length) 0 with
    chunks := rows.length
    ported := rows.length
    units := rows.zipIdx.flatMap fun p => unitsOf (p.2 + 1) [⟨p.1.1, p.1.2.length, 0⟩]
    got := rows.zipIdx.map fun p => (p.2, p.1.2)
    started := true
    ended := true
    folded := true }

/-- SGAP (R301). -/
def execSgap (sa sb : Fin 16) (s : State) : Host.Outcome State Fault Refusal :=
  runWordOf (fun s =>
    let r := s.ln.reg sb
    if 62 < r then lnBad s
    else
      let bs := leBytes 8 (signature s r)
      let a := addrPlus s.ln.sbase ((8 * s.ln.reg sa : Nat) : Int)
      lnIssue s (lnStore s (.sgap bs) [(a, bs)]) fun s' => lnNote s s.ln.tg [r, r + 1] (lnNext s' id)) s

/-! ## GLIM (R282, R291) -/

/-- Token `t` passes the filter (R282). -/
def glimPass (l : Lantern) (t sig : Nat) : Bool :=
  decide (popcN 64 (l.qsig ^^^ sig) ≤ l.rho) || decide (t < l.sink) || decide (l.len - l.recent ≤ t)

/-- A list written over the first elements of a row of TI. -/
def listRow (old : Row) (vs : List Nat) : Row :=
  rowOf 32 ((elemsOf 32 48 old.toNat).zipIdx.map fun p => vs.getD p.2 p.1)

/-- The list in TI (R291): 48 elements per row. -/
def putList (s : State) (vs : List Nat) : State :=
  (List.range ((vs.length + 47) / 48)).foldl (fun s r =>
    modCore s s.issue.core fun k =>
      k.setRow (s.lnTile s.ln.ti) r (listRow (k.row (s.lnTile s.ln.ti) r) ((vs.drop (48 * r)).take 48))) s

/-- The signatures have been read: the passing tokens go to TI and their number to s[SD] (R291). -/
def glimEnd (s : State) (sd : Fin 16) (a : Nat) (m : Cmd) : State :=
  let ts := (m.outs.zipIdx.filter fun p => glimPass s.ln (a + p.2) p.1).map fun p => a + p.2
  lnNext (dropCmd (putList s ts) s.issue.core s.ln.owner m.uid) fun l =>
    { l.put sd ts.length with phase := .running }

/-- GLIM reads the signatures as one command (R279, R291). -/
def glimStart (s : State) (sd : Fin 16) (a n : Nat) : State :=
  if 3072 < n ∨ s.ln.len < a + n then lnBad s
  else if n = 0 then lnNext s fun l => l.put sd 0
  else
    let uid := s.lnCtx.uid
    lnIssue s
      { lnCmd s (.glim sd n) (plainForm true 1 n) s.ln.sbase with
        chunks := n
        units := (List.range n).flatMap fun k =>
          unitsOf (k + 1) [⟨addrPlus s.ln.sbase ((8 * (a + k) : Nat) : Int), 8, 0⟩] }
      fun s => lnSet s fun l => { l with phase := .copying uid }

/-- A step of GLIM: its start, or its end once its command has read every signature (R291). -/
def glimStep (s : State) (sd sa sb : Fin 16) : State :=
  match s.ln.phase with
  | .running => glimStart s sd (s.ln.reg sa) (s.ln.reg sb)
  | .copying uid =>
    (match s.lnCtx.cmds.find? fun m => m.uid == uid with
      | some m => if m.ended && m.units.isEmpty && !m.stopped then glimEnd s sd (s.ln.reg sa) m else s
      | none => s)
  | _ => s

/-- GLIM (R291). -/
def execGlim (sd sa sb : Fin 16) (s : State) : Host.Outcome State Fault Refusal := .next (glimStep s sd sa sb)

/-! ## KGTH, VGTH (R292) -/

/-- Elements a to a + n - 1 of the list in TI. -/
def listAt (s : State) (a n : Nat) : List Nat :=
  (List.range n).map fun i => elemAt 32 (lnRow s s.ln.ti ((a + i) / 48)).toNat ((a + i) % 48)

/-- The units of a gather: token row `t` of the slab at a base. -/
def gatherUnits (base : Nat) (ts : List Nat) : List CUnit :=
  ts.zipIdx.flatMap fun p => unitsOf (p.2 + 1) [⟨addrPlus base ((192 * p.1 : Nat) : Int), 192, 0⟩]

/-- A gather of the sequence: checks, then the rows that no token fills become zero and the command issues (R292). -/
def gatherStep (s : State) (kind : CmdKind) (base tile tiles a n : Nat) (zero : List Nat) : State :=
  if 64 < n ∨ 3072 < a + n then lnBad s
  else
    let ts := listAt s a n
    if ts.any fun t => decide (s.ln.len ≤ t) then lnBad s
    else
      let fill (s : State) : State := zero.foldl (fun s r => lnPutRow s tile r 0) s
      let note (s' : State) : State := lnNote s s.ln.ti ((List.range n).map fun i => (a + i) / 48) s'
      if n = 0 then lnNext (fill s) id
      else
        lnIssue s
          { lnCmd s kind { plainForm true s.ln.dim n with t := tile } base with
            chunks := n
            units := gatherUnits base ts
            tileW := (List.range tiles).map fun j => s.lnTile tile + j }
          fun s' => note (lnNext (fill s') id)

/-- KGTH (R292). -/
def execKgth (sa sb : Fin 16) (s : State) : Host.Outcome State Fault Refusal :=
  runWordOf (fun s =>
    let n := s.ln.reg sb
    gatherStep s (.kgth n) s.ln.kbase s.ln.tk 1 (s.ln.reg sa) n ((List.range 64).filter fun r => decide (n ≤ r))) s

/-- VGTH (R292). -/
def execVgth (sa sb : Fin 16) (s : State) : Host.Outcome State Fault Refusal :=
  runWordOf (fun s =>
    let n := s.ln.reg sb
    gatherStep s (.vgth n) s.ln.vbase s.ln.tv 3 (s.ln.reg sa) n
      ((List.range 192).filter fun r => r % 2 == 1 || decide (2 * n ≤ r))) s

/-! ## QKMM, OSMX, PVMM, RSCL (R294, R297 to R299) -/

/-- The codes of BF16 row `r` of the tiles from a field's tile on. -/
def lnCodes (s : State) (t r : Nat) : List Nat := elemsOf 16 96 (lnRow s t r).toNat

/-- MLDB.bf16 of a bank from three tiles, by the Lantern (R220, R297, R298). -/
def lnLoadBank (s : State) (bk : Fin 4) (t : Nat) : State :=
  let rows := (List.range 192).map fun r => rowOf 16 (lnCodes s t r)
  let s1 := modCore s s.issue.core fun k => k.modBank bk fun _ => ⟨.bf16, rows⟩
  let s2 := lnNote s t (List.range 192) s1
  bankParity s2 s.issue.core s.ln.owner ⟨0, .done, 0, 0, 0, s.ln.epc, 0, none, 0⟩ bk

/-- The scores of QKMM (R298). -/
def qkScores (s : State) (n : Nat) : State :=
  let k := s.myCore
  let b := k.banks[(2 : Fin 4)]
  let rs := (List.range n).map fun i => denseRow .bf16 (lnCodes s s.ln.tk i) k.latA b k.latB s.ln.heads
  let fl := (rs.flatMap id).foldl (fun f r => f ||| r.2) 0
  let s1 := lnNext s fun l =>
    { l with score := l.score.zipIdx.map fun p =>
        if p.2 < n then p.1.zipIdx.map fun q => if q.2 < l.heads then ((rs.getD p.2 []).getD q.2 (0, 0)).1 else q.1
        else p.1 }
  lnNote s s.ln.tk (List.range n) (lnFold s1 fl)

/-- QKMM (R298). -/
def execQkmm (q : Bool) (sa : Fin 16) (s : State) : Host.Outcome State Fault Refusal :=
  runWordOf (fun s =>
    let n := s.ln.reg sa
    let s1 := if q then lnLoadBank s 2 s.ln.tq else s
    if 64 < n ∨ s1.myCore.banks[(2 : Fin 4)].fmt.isWide = false then lnBad s1 else qkScores s1 n) s

/-- What OSMX leaves of head `j` (R294): the maximum, the rescale factor, the sum, the probabilities, the flags. -/
structure HeadStep where
  m : Nat
  alpha : Nat
  l : Nat
  p : List Nat
  fl : Flags

/-- One head of OSMX over the first `n` score rows (R294; log 101 for a maximum that stays minus infinity). -/
def softmaxHead (l : Lantern) (n j : Nat) : HeadStep :=
  let xs := (List.range n).map fun i => fmul32 ((l.score.getD i []).getD j 0) l.scale
  let mc := match xs with
    | [] => (0, 0)
    | x :: rest => rest.foldl (fun a b => FV.max a b) x
  let m0 := l.m.getD j 0
  let mn := fminmax32 true m0 mc.1
  let da := fsub32 m0 mn.1
  let al := fexp232 da.1
  let ps := xs.map fun x =>
    let d := fsub32 x.1 mn.1
    let e := fexp232 d.1
    (e.1, x.2 ||| d.2 ||| e.2)
  let sum := treeSum ps
  let al' := fmul32 al.1 (l.l.getD j 0)
  let ln := fadd32 al'.1 sum.1
  let cs := ps.map fun p => bf16Fl.convert .rne 0 (f32v p.1)
  { m := mn.1
    alpha := al.1
    l := ln.1
    p := cs.map (·.1)
    fl := mc.2 ||| mn.2 ||| da.2 ||| al.2 ||| sum.2 ||| al'.2 ||| ln.2 ||| cs.foldl (fun f c => f ||| c.2) 0 }

/-- OSMX (R294). -/
def execOsmx (sa : Fin 16) (s : State) : Host.Outcome State Fault Refusal :=
  runWordOf (fun s =>
    let n := s.ln.reg sa
    let h := s.ln.heads
    if n = 0 ∨ 64 < n then lnBad s
    else
      let hs := (List.range h).map (softmaxHead s.ln n)
      let s1 := hs.zipIdx.foldl (fun st p => lnPutRow st s.ln.tp p.2 (rowOf 16 p.1.p)) s
      let s2 := lnNext s1 fun l =>
        { l with
          m := hs.map (·.m) ++ l.m.drop h
          alpha := hs.map (·.alpha) ++ l.alpha.drop h
          l := hs.map (·.l) ++ l.l.drop h }
      lnFold s2 (hs.foldl (fun f p => f ||| p.fl) 0)) s

/-- PVMM (R297). -/
def execPvmm (s : State) : Host.Outcome State Fault Refusal :=
  runWordOf (fun s =>
    let s1 := lnLoadBank s 3 s.ln.tv
    let k := s1.myCore
    let b := k.banks[(3 : Fin 4)]
    let s2 := (List.range s.ln.heads).foldl (fun st j =>
      let ts := denseRow .bf16 (lnCodes s s.ln.tp j) k.latA b k.latB 192
      let sums := accSums st.myCore j (ts.map (·.1))
      applyAccAdd (lnFold st ((ts ++ sums).foldl (fun f v => f ||| v.2) 0)) s.issue.core s.ln.owner j (ts.map (·.1)) none) s1
    lnNote s s.ln.tp (List.range s.ln.heads) (lnNext s2 id)) s

/-- An element of the acc array. -/
def accAt (k : Core) (j c : Nat) : Nat := (alGet [] k.acc j).getD c 0

/-- RSCL (R299). -/
def execRscl (s : State) : Host.Outcome State Fault Refusal :=
  runWordOf (fun s =>
    let k := s.myCore
    let rows := (List.range s.ln.heads).map fun j =>
      (List.range 192).map fun c => fmul32 (s.ln.alpha.getD j 0) (accAt k j c)
    let s1 := modCore s s.issue.core fun k =>
      { k with acc := rows.zipIdx.foldl (fun acc p => alSet acc p.2 (p.1.map (·.1))) k.acc }
    lnFold (lnNext s1 id) ((rows.flatMap id).foldl (fun f v => f ||| v.2) 0)) s

/-! ## OWRT (R295) -/

/-- The output row of head `j`, with flags (R295). -/
def outRow (s : State) (j : Nat) : List Byte × Flags :=
  let r := frcp32 (s.ln.l.getD j 0)
  let es := (List.range s.ln.dim).map fun d => fmul32 (accAt s.myCore j d) r.1
  (es.flatMap fun e => leBytes 4 e.1, es.foldl (fun f e => f ||| e.2) r.2)

/-- OWRT (R295). -/
def execOwrt (s : State) : Host.Outcome State Fault Refusal :=
  runWordOf (fun s =>
    let rows := (List.range s.ln.heads).map (outRow s)
    let chunks := rows.zipIdx.map fun p => (addrPlus s.ln.out ((384 * p.2 : Nat) : Int), p.1.1)
    lnIssue s (lnStore s (.owrt (rows.map (·.1))) chunks) fun s' =>
      lnFold (lnNext s' id) (rows.foldl (fun f r => f ||| r.2) 0)) s

/-! ## EWAIT, BSIG, DONE (R283, R288, R290) -/

/-- Every Lantern copy command of the starting context has performed. -/
def lnDrained (s : State) : Bool := !(s.lnCtx.cmds.any fun m => m.kind.isLantern)

/-- A growth has copied its last chunk (R290). -/
def Cmd.grown (m : Cmd) : Bool := m.isGrow && m.started && decide (m.chunks ≤ m.ported)

/-- The swaps that wait for an engine wait are performed (R199, R283, R290). -/
def lnSwaps (s : State) : State :=
  (s.lnCtx.cmds.filter Cmd.grown).foldl (fun st m => swapSlab st s.issue.core s.ln.owner m) s

/-- EWAIT (R290). -/
def execEwait (g : Bool) (s : State) : Host.Outcome State Fault Refusal :=
  runWordOf (fun s =>
    if lnDrained s && (!g || s.lnCtx.cmds.all fun m => !m.isGrow || m.grown) then lnNext (lnSwaps s) id else s) s

/-- What an arrival of the Lantern meets: the cause and xtval of a failed check, or nothing (R283, R288, R394, R402,
R404). -/
def lnArriveFault (s : State) (sc b : Nat) : Option (Nat × Nat) :=
  let v := getSlot s s.chiplet b
  let t := s.lnCtx
  let code := if sc = 7 then t.gsc else sc
  if v.on = false ∨ (v.party t.group t.rank).isNone then some (causePRIV, b)
  else if slotScope s v ≠ some code then some (causeSCOPE, b)
  else if v.ring && v.free == v.depth then some (causeRESERVED, s.ln.pc * 65536 + 13 * 256)
  else none

/-- One arrival at a slot, which has no party (R394). -/
def lnArrive (s : State) (b : Nat) : State := modSlot s s.chiplet b fun v => v.arrive none

/-- BSIG (R288). -/
def execBsig (sc : Fin 8) (sa : Fin 16) (s : State) : Host.Outcome State Fault Refusal :=
  runWordOf (fun s =>
    let v := s.ln.reg sa
    if 1022 < v then lnBad s
    else match lnArriveFault s sc.val v with
      | some f => lnStop s f.1 f.2
      | none => lnNext (lnArrive s v) id) s

/-- The sequence ends by DONE (R283 step 5). -/
def lnEnd (s : State) : State := lanternRelease s s.issue.core 1 0

/-- DONE once every command has performed (R283). -/
def lnDone (s : State) : State :=
  let s := lnSwaps s
  if s.ln.bar = 0x3FF then lnEnd s
  else match lnArriveFault s (s.ln.field 50 1) s.ln.bar with
    | some f => lnStop s f.1 f.2
    | none => lnEnd (lnArrive s s.ln.bar)

/-- DONE (R283, R289). -/
def execDone (s : State) : Host.Outcome State Fault Refusal :=
  runWordOf (fun s => if lnDrained s then lnDone s else s) s

/-! ## The Lantern's turn (R138, R272) -/

/-- The control-store word at an address; a word that no image has loaded is reserved (R272). -/
def controlWord (k : Core) (a : Nat) : Nat := alGet 0xF800000000000000 k.control a

/-- What the Lantern of a core does in its turn: an instruction to run, or a state. -/
def lanternTurn (s : State) (c : Nat) : Option Instr × State :=
  let s := { s with issue := { s.issue with core := c } }
  match s.ln.phase with
  | .idle => (none, s)
  | .starting => (some .lanternStart, s)
  | _ =>
    if 511 < s.ln.pc then (none, lnStop s causeILLEGAL (illegalVal 512 false 15))
    else match decodeMicro (controlWord s.myCore s.ln.pc) with
      | some i => (some i, s)
      | none => (none, lnStop s causeILLEGAL (illegalVal s.ln.pc false 15))

end Sys2Proof.Machine
end

