-- ==== Sys2Proof/Machine/Transform.lean ====
section
/-!
DEFINITION. Slot T: conversion, expansion, codebook, transposition and the keyed Hadamard (spec 07 R227 to R232).
-/
namespace Sys2Proof.Machine

/-- A result element: its code and the flags its computation raised. -/
abbrev Elem := Nat × Flags

/-- The source elements of an operation: rows first .. first + n - 1 of a tile name, in row order (R227). -/
def sourceCodes (s : State) (st first n : Nat) (f : Fmt) : List Nat :=
  (List.range n).flatMap fun r => elemsOf f.width (perRow f.width) (readRow s s.myCore (s.tile st) (first + r)).toNat

/-- Elements cut into result rows of format `f` (R227). -/
def resultRowsOf (f : Fmt) (es : List Elem) : List (List Elem) := chunks (perRow f.width) (es.length + 1) es

/-- The flags of a list of elements. -/
def elemFlags (es : List Elem) : Flags := es.foldl (fun a e => a ||| e.2) 0

/-- Result row `j` of an operation of slot T: delivered `j` issue cycles after row 0, with the flags of its elements (R227). It
counts as that of source row `j`, or of the last one, `last` (log 88). -/
def giveTileRow (cls tile row last j : Nat) (f : Fmt) (s : State) (es : List Elem) : State :=
  let give (s : State) (w : Write) : State := exposeFrom (min j last) s s.issue.core s.issue.ctx cls j w
  let s := give s (.tile tile (row + j) 0 (Row.toBytes (rowOf f.width (es.map (·.1)))))
  if elemFlags es = 0 then s else give s (.rowFlags (s.me.icyc + min j last) (elemFlags es))

/-- The transform engine takes an operation for `n` issue cycles (R94). -/
def takeTransform (s0 : State) (n : Nat) (s : State) : State :=
  modCore s s0.issue.core fun k => { k with tFree := s0.me.icyc + n, tUser := s0.issue.ctx }

/-- The engine's waits and blocks (R62, R94, R278); `tiles` are the physical tiles named. -/
def transformBlock (s : State) (tiles : List Nat) : Option Nat :=
  if lentBlock s tiles then some 9
  else if busyOther s.myCore s.issue.ctx s.myCore.tUser s.myCore.tFree then some 6 else none

/-- The row range of the results ends past row 63, or starts at a tile above TCNT (R91, R227). -/
def destTraps (s : State) (slot dt row n : Nat) : List Trap := tileChecks s slot dt (row + n - 1)

/-- An operation of slot T: `rows` gives the result rows from the source elements. -/
def transformOp (i : Instr) (gd : Guard) (srcs : List Src) (dt st : Fin 32) (row cnt : Fin 64) (fs fd : Fmt) (cls n : Nat)
    (traps : List Trap) (rows : State → List Word → List Nat → List (List Elem)) : Op where
  slot := 7
  guard := gd
  srcs := srcs
  reads := fun s => rowKeys (s.tile st.val) row.val (cnt.val + 1)
  tileR := fun s => [s.tile st.val]
  tileW := fun s => [s.tile dt.val]
  empty := fun s _ => busySame s.myCore s.issue.ctx s.myCore.tUser s.myCore.tFree
  traps := fun s _ => tileChecks s 7 st.val (row.val + cnt.val) ++ destTraps s 7 dt.val row.val n ++ traps
  block := fun s _ => transformBlock s [s.tile st.val, s.tile dt.val]
  effect := fun s0 v s =>
    let rs := rows s0 v (sourceCodes s0 st.val row.val (cnt.val + 1) fs)
    let o := newOp (takeTransform s0 (cnt.val + 1) s) s0.issue.core
    let s := rs.zipIdx.foldl (fun s p => giveTileRow cls (s0.tile dt.val) row.val cnt.val p.2 fd s p.1) (startRows s0 i o.1 1 o.2)
    noteBad s s0.issue.core s0.issue.ctx s0.issue.addr (wholeRows (s0.tile st.val) row.val (cnt.val + 1))

/-- Result rows that a source range gives at another width (R228). -/
def convertedRows (cnt : Fin 64) (fs fd : Fmt) : Nat := ((cnt.val + 1) * perRow fs.width * fd.width + 1535) / 1536

/-- XCVT (R228). -/
def opXcvt (gd : Guard) (dt st : Fin 32) (row cnt : Fin 64) (fs fd : Fmt) (rm : Rm) : Op :=
  transformOp (.xcvt gd dt st row cnt fs fd rm) gd [] dt st row cnt fs fd 7 (convertedRows cnt fs fd)
    (trapIf (!(fs.isPlain && fd.isPlain)) (combo 7 3 0) ++ trapIf (rm == .sr) (combo 7 10 0))
    fun _ _ xs => resultRowsOf fd (xs.map fun x => fd.convert rm 0 (fs.value x))

/-- XCVT (R228). -/
def execXcvt (gd : Guard) (dt st : Fin 32) (row cnt : Fin 64) (fs fd : Fmt) (rm : Rm) (s : State) :
    Host.Outcome State Fault Refusal := runOne (opXcvt gd dt st row cnt fs fd rm) s

/-- The pairs XEXP accepts (R229). -/
def expandPair (fs fd : Fmt) : Bool :=
  match fs with
  | .cb4 => fd == .bf16 || fd == .f32
  | .i4 => fd == .i8 || fd == .i16 || fd == .i32 || fd == .bf16 || fd == .f16 || fd == .f32
  | .i8 | .u8 => fd == .i16 || fd == .i32 || fd == .bf16 || fd == .f32
  | .e2m1 | .e2m3 | .e3m2 => fd == .e4m3 || fd == .f16 || fd == .bf16 || fd == .f32
  | .e4m3 | .e5m2 => fd == .f16 || fd == .bf16 || fd == .f32
  | _ => false

/-- An element expanded by XEXP (R229): a CB4 code gives its codebook entry as it stands, widened by zeros below where FD is
FP32, and sets no flag (R46; log 64); every other value is converted exactly. -/
def expandCode (book : List Nat) (fs fd : Fmt) (x : Nat) : Nat × Flags :=
  if fs = .cb4 then (book.getD x 0 * 2 ^ (fd.width - 16), 0) else fd.convert .rne 0 (fs.value x)

/-- XEXP (R229). -/
def opXexp (gd : Guard) (dt st : Fin 32) (row cnt : Fin 64) (fs fd : Fmt) : Op :=
  transformOp (.xexp gd dt st row cnt fs fd) gd [] dt st row cnt fs fd 8 (convertedRows cnt fs fd) (trapIf (!(expandPair fs fd)) (combo 7 4 0))
    fun s _ xs => resultRowsOf fd (xs.map fun x => expandCode s.me.codebook fs fd x)

/-- XEXP (R229). -/
def execXexp (gd : Guard) (dt st : Fin 32) (row cnt : Fin 64) (fs fd : Fmt) (s : State) :
    Host.Outcome State Fault Refusal := runOne (opXexp gd dt st row cnt fs fd) s

/-- XTBL (R231). -/
def opXtbl (gd : Guard) (st : Fin 32) (row : Fin 64) : Op where
  slot := 7
  guard := gd
  reads := fun s => rowKeys (s.tile st.val) row.val 1
  tileR := fun s => [s.tile st.val]
  empty := fun s _ => busySame s.myCore s.issue.ctx s.myCore.tUser s.myCore.tFree
  traps := fun s _ => tileChecks s 7 st.val row.val
  block := fun s _ => transformBlock s [s.tile st.val]
  effect := fun s0 _ s =>
    let es := elemsOf 16 16 (readRow s0 s0.myCore (s0.tile st.val) row.val).toNat
    noteBad (modCtx (takeTransform s0 1 s) s0.issue.core s0.issue.ctx fun t => { t with codebook := es })
      s0.issue.core s0.issue.ctx s0.issue.addr [(s0.tile st.val, row.val, 32)]

/-- XTBL (R231). -/
def execXtbl (gd : Guard) (st : Fin 32) (row : Fin 64) (s : State) : Host.Outcome State Fault Refusal :=
  runOne (opXtbl gd st row) s

/-- The rows of a transposed block of `m` rows of `e` elements (R232). -/
def transposed (m e : Nat) (xs : List Nat) : List (List Elem) :=
  (List.range m).map fun j => (List.range m).map fun i => (xs.getD (i * e + j) 0, 0)

/-- XTRN (R232). -/
def opXtrn (gd : Guard) (dt st : Fin 32) (row cnt : Fin 64) (fs fd : Fmt) : Op :=
  transformOp (.xtrn gd dt st row cnt fs fd) gd [] dt st row cnt fs fd 9 (cnt.val + 1)
    (trapIf (!(fs.isPlain)) (combo 7 3 0) ++ trapIf (fs != fd) (combo 7 4 0)
      ++ trapIf (decide (perRow fs.width < cnt.val + 1)) (combo 7 5 0))
    fun _ _ xs => transposed (cnt.val + 1) (perRow fs.width) xs

/-- XTRN (R232). -/
def execXtrn (gd : Guard) (dt st : Fin 32) (row cnt : Fin 64) (fs fd : Fmt) (s : State) :
    Host.Outcome State Fault Refusal := runOne (opXtrn gd dt st row cnt fs fd) s

/-- The vector length that N names (R230). -/
def hadLen (n : Fin 4) : Nat := 32 * 2 ^ n.val

/-- The transforms of a stream of FP32, BF16 or FP16 codes, rounded back to the format (R54, R230). -/
def hadStream (seed n : Nat) (f : Fmt) (xs : List Nat) : List Elem :=
  (chunks n (xs.length + 1) xs).flatMap fun v =>
    let ins : List Elem := v.map fun x => if f = .f32 then (x, 0) else rne32 (f.value x)
    let zs := (hadamard seed (ins.map (·.1))).map fun z =>
      let r := f.convert .rne 0 (f32v z.1)
      ((r.1, z.2 ||| r.2) : Elem)
    (ins.zip zs).map fun p => (p.2.1, p.1.2 ||| p.2.2)

/-- XHAD (R230). -/
def opXhad (gd : Guard) (dt st : Fin 32) (row cnt : Fin 64) (n : Fin 4) (seed : Fin 32) (fd : Fmt) : Op :=
  transformOp (.xhad gd dt st row cnt n seed fd) gd [.g seed false] dt st row cnt fd fd 10 (cnt.val + 1)
    (trapIf (!(fd == .f32 || fd == .bf16 || fd == .f16)) (combo 7 3 0)
      ++ trapIf ((cnt.val + 1) * perRow fd.width % hadLen n != 0) (combo 7 5 0))
    fun _ v xs => resultRowsOf fd (hadStream (operand v 0).toNat (hadLen n) fd xs)

/-- XHAD (R230). -/
def execXhad (gd : Guard) (dt st : Fin 32) (row cnt : Fin 64) (n : Fin 4) (seed : Fin 32) (fd : Fmt) (s : State) :
    Host.Outcome State Fault Refusal := runOne (opXhad gd dt st row cnt n seed fd) s

end Sys2Proof.Machine
end

