-- ==== Sys2Proof/Machine/Reduce.lean ====
section
/-!
DEFINITION. Slot R: reductions, RMS normalisation, sorting and pruning (spec 07 R233 to R237; 08 R248, R249).
-/
namespace Sys2Proof.Machine

/-! ## Reductions (R233, R235) -/

/-- The three reductions. -/
inductive RedKind where
  | sum | max | ssq
deriving DecidableEq, Repr

/-- A source element as a reduction sees it: whether its mask bit is set, its code after port A (none: dropped), and
its flags. -/
structure RedIn where
  on : Bool
  code : Option Nat
  flags : Flags

/-- The code contributed; none where the element takes the identity (R233). -/
def RedIn.used (e : RedIn) : Option Nat := if e.on then e.code else none

/-- The FP32 value an element contributes (R235). -/
def redFloat (k : RedKind) (f : Fmt) (e : RedIn) : FV :=
  match e.used with
  | none => (if k = .max then 0xFF800000 else 0x80000000, e.flags)
  | some c =>
    let x := recvPattern f c
    match k with
    | .ssq => let p := fmul32 x x; (p.1, e.flags ||| p.2)
    | _ => (x, e.flags)

/-- The integer an element contributes (R235). -/
def redInt (k : RedKind) (f : Fmt) (e : RedIn) : Int × Flags :=
  match e.used with
  | none => (if k = .max then (intRange f.width true).1 else 0, e.flags)
  | some c => (sx c f.width, e.flags)

/-- Elements combined along a row by the lane tree, or across rows in order (R233). -/
def combine {α : Type} (op : α → α → α) (tree : Bool) (xs : List α) : Option α :=
  if tree then (treeReduce op 16 xs).head?
  else match xs with
    | [] => none
    | x :: rest => some (rest.foldl op x)

/-- The integer operation of a reduction: exact (R235). -/
def intRed (k : RedKind) (a b : Int × Flags) : Int × Flags :=
  (if k = .max then max a.1 b.1 else a.1 + b.1, a.2 ||| b.2)

/-- One result as the input of port Z: INT32 or FP32 (R235). -/
def redResult (k : RedKind) (fs fd : Fmt) (tree : Bool) (xs : List RedIn) : FV :=
  if fs.isInt then
    match combine (intRed k) tree (xs.map (redInt k fs)) with
    | none => (0, 0)
    | some r =>
      if fd = .i32 then let v := satInt 32 true r.1; (wrapN v.1 32, r.2 ||| v.2)
      else let v := rne32 (Val.ofInt r.1); (v.1, r.2 ||| v.2)
  else
    let r := (combine (if k = .max then FV.max else FV.add) tree (xs.map (redFloat k fs))).getD (0, 0)
    let v := Fmt.f32.convert .rne 0 (f32v r.1)
    (v.1, r.2 ||| v.2)

/-! ## Ports A and Z (R215, R242) -/

/-- A port of an operation: its slot, where one is bound, and the state of its stream. -/
structure RPort where
  slot : Option PortSlot
  run : PRun

/-- An operation of slot M of the group being issued is in a slot's stream (R244). -/
def Serve.isM (s : State) (n : Nat) (v : Serve) : Bool :=
  v.slot == n && v.ctx == s.issue.ctx && v.until_.isNone && v.run.isSome

/-- The issuing core as an operation of slot R finds a port's slot: an operation of slot M of its own group that binds it
has left it (R244; log 67). -/
def portCore (s : State) (p : Option (Fin 16)) : Core :=
  match p.bind fun n => s.myCore.serving.find? (Serve.isM s n.val) with
  | none => s.myCore
  | some v => getCore (afterM s s.issue.core s.issue.ctx v.seq) s.issue.core

/-- A port at the start of an operation (R244). -/
def rport (k : Core) (p : Option (Fin 16)) : RPort :=
  match p with
  | none => ⟨none, PRun.start PortSlot.empty []⟩
  | some n => ⟨some (k.port n.val), PRun.start (k.port n.val) (k.port n.val).consts⟩

/-- Patterns through a port: the codes emitted in a format (none: dropped) with their flags, the port after, and the
fault with its index (R246, R252). Where no slot is bound the patterns are encoded as they stand. -/
def RPort.pass (p : RPort) (en : Flags) (f : Fmt) (xs : List FV) :
    List (Option Nat × Flags) × RPort × Option (PFault × Nat) :=
  match p.slot with
  | none => (xs.map fun x => let e := emitCode f .rne 0 x.1; (some e.1, x.2 ||| e.2), p, none)
  | some d =>
    let st := runStream d.prog d.consts en (fun _ => 0) p.run (xs.map (·.1))
    ((st.outs.zip xs).map fun o => match o.1.1 with
        | some v => let e := emitCode f .rne 0 v; (some e.1, o.1.2 ||| o.2.2 ||| e.2)
        | none => (none, o.1.2 ||| o.2.2),
      { p with run := st.run }, st.fault.map fun e => (e, p.run.next + st.outs.length))

/-- Source codes through port A, which receives and emits one format; with no slot bound they are unchanged. -/
def RPort.operand (p : RPort) (en : Flags) (f : Fmt) (xs : List Nat) :
    List (Option Nat × Flags) × RPort × Option (PFault × Nat) :=
  match p.slot with
  | none => (xs.map fun x => (some x, 0), p, none)
  | some _ => p.pass en f (xs.map fun x => (recvPattern f x, 0))

/-- What an operation with ports has come to: result codes so far, both ports, and the fault with the port's number
(R253). -/
structure RRun where
  outs : List (Option Nat × Flags)
  a : RPort
  z : RPort
  fault : Option (Nat × PFault × Nat)

/-- Results appended after port Z. -/
def RRun.emit (r : RRun) (en : Flags) (fd : Fmt) (vs : List FV) : RRun :=
  let q := r.z.pass en fd vs
  { r with outs := r.outs ++ q.1, z := q.2.1, fault := q.2.2.map fun f => (2, f) }

/-- Rows one after the other: each passes port A, and what `f` makes of it passes port Z; the first fault ends it. -/
def rowByRow (en : Flags) (fs fd : Fmt) (f : List (Option Nat × Flags) → List FV) : List (List Nat) → RRun → RRun
  | [], r => r
  | x :: xs, r =>
    let p := r.a.operand en fs x
    match p.2.2 with
    | some e => { r with a := p.2.1, fault := some (0, e) }
    | none =>
      let r := ({ r with a := p.2.1 } : RRun).emit en fd (f p.1)
      if r.fault.isSome then r else rowByRow en fs fd f xs r

/-- All rows through port A first (R235, AX = 0); none where it faults. -/
def allRows (en : Flags) (fs : Fmt) (xs : List (List Nat)) (r : RRun) : List (List (Option Nat × Flags)) × RRun :=
  let w := (xs.head?.map List.length).getD 1
  let p := r.a.operand en fs xs.flatten
  (chunks w (p.1.length + 1) p.1, { r with a := p.2.1, fault := p.2.2.map fun e => (0, e) })

/-- Lane of element `e` of width `w` (R235). -/
def laneOf (e w : Nat) : Nat := e * w / 32

/-- RSUM, RMAX and RSSQ over source rows (R235); `mask` is the k register. -/
def reduceRows (k : RedKind) (ax : Bool) (fs fd : Fmt) (mask : Word) (en : Flags) (rows : List (List Nat))
    (r : RRun) : RRun :=
  if ax then
    rowByRow en fs fd (fun es =>
      [redResult k fs fd true (es.zipIdx.map fun p => ⟨mask.getLsbD (laneOf p.2 fs.width), p.1.1, p.1.2⟩)]) rows r
  else
    let q := allRows en fs rows r
    if q.2.fault.isSome then q.2
    else q.2.emit en fd ((List.range (perRow fs.width)).map fun e =>
      redResult k fs fd false (q.1.zipIdx.map fun p =>
        let v := p.1.getD e (none, 0)
        ⟨mask.getLsbD p.2, v.1, v.2⟩))

/-! ## Delivery (R233, R248) -/

/-- Issue cycles per source row: 4 where a bound slot holds a special function (R248). -/
def rowPace (k : Core) (ps : List (Option (Fin 16))) : Nat :=
  if ps.any fun p => match p with | some n => (k.port n.val).special | none => false then 4 else 1

/-- Writes of one destination row from result codes: a whole row, or, where elements were dropped at port Z, the
kept elements and the zeros after the last (R215, R235; for RNORM log 90). -/
def rowWrites (tile row : Nat) (f : Fmt) (cs : List (Option Nat)) : List Write :=
  if cs.all Option.isSome then [.tile tile row 0 (Row.toBytes (rowOf f.width (cs.filterMap id)))]
  else
    let w := f.width / 8
    let kept := cs.zipIdx.filterMap fun p => p.1.map fun v => Write.tile tile row (w * p.2) (leBytes w v)
    if cs.length * w < 192 then kept ++ [.tile tile row (w * cs.length) (List.replicate (192 - cs.length * w) 0)] else kept

/-- A write of an operation of slot R, `n` issue cycles after the class's base (R233); its results come from the last row
entered, `last` issue cycles after this one (log 88). -/
def giveReduced (n last : Nat) (s : State) (w : Write) : State := exposeFrom last s s.issue.core s.issue.ctx 11 n w

/-- Result rows delivered together, with their flags (R233). -/
def giveRows (n last tile row : Nat) (f : Fmt) (rows : List (List (Option Nat × Flags))) (s : State) : State :=
  rows.zipIdx.foldl (fun s p =>
    let s := (rowWrites tile (row + p.2) f (p.1.map (·.1))).foldl (giveReduced n last) s
    let fl := p.1.foldl (fun a e => a ||| e.2) 0
    if fl = 0 then s else giveReduced n last s (.rowFlags (s.me.icyc + last) fl)) s

/-- The slot of a port keeps its stream's end, and serves the operation until its last issue cycle (R241, R244). An
operation of slot M or C of the group has gone through the slot before it. -/
def holdSlot (c x op : Nat) (p : Option (Fin 16)) (r : RPort) (until_ : Nat) (s : State) : State :=
  match p with
  | none => s
  | some n =>
    modCore (serve (passCopies c x p s) c x op p true (some until_)) c fun k =>
      { k with ports := alSet k.ports n.val ((k.port n.val).keep r.run) }

/-- The flags of summing a port's open group at the end of its stream (R250). -/
def RPort.endFlags (r : RPort) : Flags :=
  match r.slot with
  | none => 0
  | some _ => r.run.endFlags

/-- The reduction engine takes an operation (R94, R233). -/
def takeReduction (s0 : State) (n : Nat) (s : State) : State :=
  modCore s s0.issue.core fun k => { k with rFree := s0.me.icyc + n, rUser := s0.issue.ctx }

/-- An operation of slot R waits in place, counting issue cycles (R94, R244, R249). -/
def reduceWait (s : State) (ps : List (Option (Fin 16))) : Bool :=
  let k := s.myCore
  busySame k s.issue.ctx k.rUser k.rFree
    || ps.any fun p => match p with | some n => slotBusySame k s.issue.ctx n.val | none => false

/-- The blocks of an operation of slot R (R62, R244, R249, R278). -/
def reduceBlock (s : State) (ps : List (Option (Fin 16))) (tiles : List Nat) : Option Nat :=
  let k := s.myCore
  if lentBlock s tiles || lanternSlot k (ps.filterMap fun p => p.map (·.val)) then some 9
  else if busyOther k s.issue.ctx k.rUser k.rFree then some 6
  else ps.findSome? fun p => match p with | some n => slotBlock k s.issue.ctx n.val | none => none

/-- Source rows as lists of codes. -/
def sourceRows (s : State) (st first n : Nat) (f : Fmt) : List (List Nat) :=
  (List.range n).map fun r => elemsOf f.width (perRow f.width) (readRow s s.myCore (s.tile st) (first + r)).toNat

/-- An operation of slot R with ports: `run` computes the results, `cut` says how many make a destination row, and
`dests` how many destination rows there are. -/
def reduceOp (i : Instr) (gd : Guard) (st : Fin 32) (srow cnt : Fin 64) (dt : Fin 32) (drow : Fin 64) (fs fd : Fmt)
    (pa pz : Option (Fin 16)) (km : Fin 4) (dests cut : Nat) (pre : List Trap)
    (run : Word → Flags → List (List Nat) → RRun → RRun) : Op where
  slot := 9
  guard := gd
  binds := pa.toList ++ pz.toList
  reads := fun s => (4, km.val, 0) :: rowKeys (s.tile st.val) srow.val (cnt.val + 1) ++ portKeys [pa, pz]
  tileR := fun s => [s.tile st.val]
  tileW := fun s => [s.tile dt.val]
  decode := portsDecode [pa, pz]
  empty := fun s _ => reduceWait s [pa, pz]
  traps := fun s _ =>
    let twice := pa.isSome && pa == pz
    tileChecks s 9 st.val (srow.val + cnt.val) ++ destTraps s 9 dt.val drow.val dests ++ pre
      ++ bindTraps s 9 .slotR pa fs fs twice
      ++ bindTraps s 9 .slotR pz (if fd = .i32 then .i32 else .f32) fd twice
  block := fun s _ => reduceBlock s [pa, pz] [s.tile st.val, s.tile dt.val]
  effect := fun s0 _ s =>
    let c := s0.issue.core
    let x := s0.issue.ctx
    let k := s0.myCore
    let pace := rowPace k [pa, pz]
    let n := pace * (cnt.val + 1)
    let last := pace * cnt.val
    let r := run s0.me.k[Fin.ofNat 8 km.val] s0.me.flags (sourceRows s0 st.val srow.val (cnt.val + 1) fs)
      ⟨[], rport (portCore s pa) pa, rport (portCore s pz) pz, none⟩
    let rows := chunks cut (r.outs.length + 1) r.outs
    let rows := if r.fault.isSome then rows.take (r.outs.length / cut) else rows
    let o := newOp (takeReduction s0 n s) c
    let s := holdSlot c x o.1 pa r.a (s0.me.icyc + n) (holdSlot c x o.1 pz r.z (s0.me.icyc + n) o.2)
    let s := giveRows n last (s0.tile dt.val) drow.val fd rows s
    let fl := r.a.endFlags ||| r.z.endFlags
    let s := if fl = 0 then s else giveReduced n last s (.rowFlags (s0.me.icyc + last) fl)
    let s := noteBad s c x s0.issue.addr (wholeRows (s0.tile st.val) srow.val (cnt.val + 1))
    match r.fault with
    | none => startRows s0 i o.1 pace s
    | some f => reportPort s c x s0.issue.addr 9 (if f.1 = 0 then pa else pz) f.1 f.2

/-- The format codes that RSUM, RMAX and RSSQ accept (R235). -/
def reduceFmts (k : RedKind) (fs fd : Fmt) : List Trap :=
  let flt := fs == .f32 || fs == .bf16 || fs == .f16
  let int := fs == .i8 || fs == .i16 || fs == .i32
  trapIf (!(flt || (int && k != .ssq)) || !(fd == .f32 || fd == .bf16 || (fd == .i32 && k != .ssq))) (combo 9 3 0)
    ++ trapIf (flt && fd == .i32) (combo 9 4 0)

/-- A reduction as an operation (R235). -/
def reduction (i : Instr) (k : RedKind) (gd : Guard) (ax : Bool) (st : Fin 32) (srow cnt : Fin 64) (dt : Fin 32) (drow : Fin 64)
    (fs fd : Fmt) (pa pz : Option (Fin 16)) (km : Fin 4) : Op :=
  let n := if ax then cnt.val + 1 else perRow fs.width
  reduceOp i gd st srow cnt dt drow fs fd pa pz km ((n * fd.width + 1535) / 1536) (perRow fd.width)
    (reduceFmts k fs fd) fun m en rows r => reduceRows k ax fs fd m en rows r

/-- RSUM (R235). -/
def opRsum (gd : Guard) (ax : Bool) (st : Fin 32) (srow cnt : Fin 64) (dt : Fin 32) (drow : Fin 64) (fs fd : Fmt)
    (pa pz : Option (Fin 16)) (km : Fin 4) : Op :=
  reduction (.rsum gd ax st srow cnt dt drow fs fd pa pz km) .sum gd ax st srow cnt dt drow fs fd pa pz km

/-- RSUM (R235). -/
def execRsum (gd : Guard) (ax : Bool) (st : Fin 32) (srow cnt : Fin 64) (dt : Fin 32) (drow : Fin 64) (fs fd : Fmt)
    (pa pz : Option (Fin 16)) (km : Fin 4) (s : State) : Host.Outcome State Fault Refusal :=
  runOne (opRsum gd ax st srow cnt dt drow fs fd pa pz km) s

/-- RMAX (R235). -/
def opRmax (gd : Guard) (ax : Bool) (st : Fin 32) (srow cnt : Fin 64) (dt : Fin 32) (drow : Fin 64) (fs fd : Fmt)
    (pa pz : Option (Fin 16)) (km : Fin 4) : Op :=
  reduction (.rmax gd ax st srow cnt dt drow fs fd pa pz km) .max gd ax st srow cnt dt drow fs fd pa pz km

/-- RMAX (R235). -/
def execRmax (gd : Guard) (ax : Bool) (st : Fin 32) (srow cnt : Fin 64) (dt : Fin 32) (drow : Fin 64) (fs fd : Fmt)
    (pa pz : Option (Fin 16)) (km : Fin 4) (s : State) : Host.Outcome State Fault Refusal :=
  runOne (opRmax gd ax st srow cnt dt drow fs fd pa pz km) s

/-- RSSQ (R235). -/
def opRssq (gd : Guard) (ax : Bool) (st : Fin 32) (srow cnt : Fin 64) (dt : Fin 32) (drow : Fin 64) (fs fd : Fmt)
    (pa pz : Option (Fin 16)) (km : Fin 4) : Op :=
  reduction (.rssq gd ax st srow cnt dt drow fs fd pa pz km) .ssq gd ax st srow cnt dt drow fs fd pa pz km

/-- RSSQ (R235). -/
def execRssq (gd : Guard) (ax : Bool) (st : Fin 32) (srow cnt : Fin 64) (dt : Fin 32) (drow : Fin 64) (fs fd : Fmt)
    (pa pz : Option (Fin 16)) (km : Fin 4) (s : State) : Host.Outcome State Fault Refusal :=
  runOne (opRssq gd ax st srow cnt dt drow fs fd pa pz km) s

/-! ## RNORM (R236) -/

/-- 1 / sqrt(t) of RNORM: +infinity for a zero of either sign, INV for every NaN (R236). -/
def normScale (t : Nat) : Nat × Flags :=
  if (f32v t).isZero then (inf32, 0) else if (f32v t).isNan then (nan32, flagINV) else frsq32 t

/-- A row normalised (R236): the port Z inputs. A dropped element enters as -0. -/
def normRow (fs : Fmt) (eps : Nat) (es : List (Option Nat × Flags)) : List FV :=
  let xs : List FV := es.map fun e => (match e.1 with | some c => recvPattern fs c | none => 0x80000000, e.2)
  let ss := treeSum (xs.map fun x => let p := fmul32 x.1 x.1; (p.1, p.2))
  let m := fdiv32 ss.1 (rne32 (Val.ofInt es.length)).1
  let t := fadd32 m.1 eps
  let r := normScale t.1
  let fl := ss.2 ||| m.2 ||| t.2 ||| r.2
  xs.map fun x => let y := fmul32 x.1 r.1; (y.1, x.2 ||| y.2 ||| fl)

/-- RNORM (R236). -/
def opRnorm (gd : Guard) (ax : Bool) (st : Fin 32) (srow cnt : Fin 64) (dt : Fin 32) (drow : Fin 64) (fs fd : Fmt)
    (pa pz : Option (Fin 16)) (km : Fin 4) : Op :=
  let ok (f : Fmt) : Bool := f == .f32 || f == .bf16 || f == .f16
  reduceOp (.rnorm gd ax st srow cnt dt drow fs fd pa pz km) gd st srow cnt dt drow fs fd pa pz km (cnt.val + 1) (perRow fs.width)
    (trapIf (!(ok fs && ok fd)) (combo 9 3 0) ++ trapIf (decide (fs.width < fd.width)) (combo 9 4 0)
      ++ trapIf (!ax) (combo 9 5 0))
    fun e en rows r => rowByRow en fs fd (normRow fs (e.toNat % 2 ^ 32)) rows r

/-- RNORM (R236). -/
def execRnorm (gd : Guard) (ax : Bool) (st : Fin 32) (srow cnt : Fin 64) (dt : Fin 32) (drow : Fin 64) (fs fd : Fmt)
    (pa pz : Option (Fin 16)) (km : Fin 4) (s : State) : Host.Outcome State Fault Refusal :=
  runOne (opRnorm gd ax st srow cnt dt drow fs fd pa pz km) s

/-! ## RSORTK (R237) -/

/-- RSORTK (R237). -/
def opRsortk (gd : Guard) (st : Fin 32) (srow cnt : Fin 64) (dt : Fin 32) (drow : Fin 64) (y0 : Fin 64) : Op where
  slot := 9
  guard := gd
  reads := fun s => yKeys y0 cnt ++ rowKeys (s.tile st.val) srow.val (cnt.val + 1)
  tileR := fun s => [s.tile st.val]
  tileW := fun s => [s.tile dt.val]
  empty := fun s _ => reduceWait s []
  traps := fun s _ =>
    tileChecks s 9 st.val (srow.val + cnt.val) ++ tileChecks s 9 dt.val (drow.val + cnt.val) ++ yTraps 9 y0 cnt
  block := fun s _ => reduceBlock s [] [s.tile st.val, s.tile dt.val]
  effect := fun s0 _ s =>
    let n := cnt.val + 1
    let pi := sortPerm ((List.range n).map fun r => (yAt s0 y0 r).node.toNat)
    let o := newOp (takeReduction s0 n s) s0.issue.core
    let s := pi.zipIdx.foldl (fun s p =>
      giveReduced n cnt.val (giveReduced n cnt.val s
        (.tile (s0.tile dt.val) (drow.val + p.2) 0
          (Row.toBytes (readRow s0 s0.myCore (s0.tile st.val) (srow.val + p.1)))))
        (.y (y0.val + p.2) (yAt s0 y0 p.1))) (startRows s0 (.rsortk gd st srow cnt dt drow y0) o.1 1 o.2)
    noteBad s s0.issue.core s0.issue.ctx s0.issue.addr (wholeRows (s0.tile st.val) srow.val n)

/-- RSORTK (R237). -/
def execRsortk (gd : Guard) (st : Fin 32) (srow cnt : Fin 64) (dt : Fin 32) (drow : Fin 64) (y0 : Fin 64)
    (s : State) : Host.Outcome State Fault Refusal := runOne (opRsortk gd st srow cnt dt drow y0) s

/-! ## RCMPR (R234) -/

/-- The formats RCMPR accepts (R234). -/
def pruneFmt (f : Fmt) : Bool :=
  match f with
  | .i4 | .i8 | .u8 | .e2m1 | .e2m3 | .e3m2 | .e4m3 | .e5m2 => true
  | _ => false

/-- The select field of four ascending indices (R234). -/
def selField (ix : List Nat) : Nat := ix.getD 0 0 + ix.getD 1 0 * 8 + ix.getD 2 0 * 64 + ix.getD 3 0 * 512

/-- RCMPR (R234). -/
def opRcmpr (gd : Guard) (st : Fin 32) (srow cnt : Fin 64) (dt : Fin 32) (drow : Fin 64) (fs : Fmt) (sel : Fin 32)
    (part : Fin 4) : Op where
  slot := 9
  guard := gd
  reads := fun s => rowKeys (s.tile st.val) srow.val (cnt.val + 1)
  tileR := fun s => [s.tile st.val]
  tileW := fun s => [s.tile dt.val, s.tile sel.val]
  empty := fun s _ => reduceWait s []
  traps := fun s _ =>
    let n := cnt.val + 1
    tileChecks s 9 st.val (srow.val + cnt.val) ++ tileChecks s 9 dt.val 0 ++ tileChecks s 9 sel.val 0
      ++ trapIf (!(pruneFmt fs)) (combo 9 3 0)
      ++ trapIf (n % 8 != 0 || drow.val % 4 != 0 || decide (64 < drow.val + n / 2) || part == 3 || sel == dt)
          (combo 9 5 0)
  block := fun s _ => reduceBlock s [] [s.tile st.val, s.tile dt.val, s.tile sel.val]
  effect := fun s0 _ s =>
    let n := cnt.val + 1
    let row (i : Nat) : Row := readRow s0 s0.myCore (s0.tile st.val) (srow.val + i)
    let o := newOp (takeReduction s0 n s) s0.issue.core
    let s := (List.range (n / 8)).foldl (fun s q =>
      let four := pickFour ((List.range 8).map fun d => magSum fs (row (8 * q + d)))
      let s := four.zipIdx.foldl (fun s p =>
        giveReduced n cnt.val s (.tile (s0.tile dt.val) (drow.val + 4 * q + p.2) 0 (Row.toBytes (row (8 * q + p.1))))) s
      giveReduced n cnt.val s (.tile (s0.tile sel.val) 0 (2 * (16 * part.val + drow.val / 4 + q)) (leBytes 2 (selField four))))
      (startRows s0 (.rcmpr gd st srow cnt dt drow fs sel part) o.1 1 o.2)
    noteBad s s0.issue.core s0.issue.ctx s0.issue.addr (wholeRows (s0.tile st.val) srow.val n)

/-- RCMPR (R234). -/
def execRcmpr (gd : Guard) (st : Fin 32) (srow cnt : Fin 64) (dt : Fin 32) (drow : Fin 64) (fs : Fmt) (sel : Fin 32)
    (part : Fin 4) (s : State) : Host.Outcome State Fault Refusal := runOne (opRcmpr gd st srow cnt dt drow fs sel part) s

end Sys2Proof.Machine
end

