-- ==== Sys2Proof/Machine/Service.lean ====
section
/-!
DEFINITION. Fabric paths, attestation, bring-up, the modes of the package, power and heat (spec 21 R431; 24 R456 to R462).
-/
namespace Sys2Proof.Machine

/-! ## FABRIC_PATH_LOSS (R431, R459) -/

/-- The die of a home among the ends of fabric paths: core die layers 0 to 15, stacks from 16, then the host and the
links (log 16). -/
def fabricDie (h : Nat × Nat) : Nat :=
  match h.1 with
  | 0 => dieOf h.2
  | 1 => 16 + h.2
  | 2 => 32
  | _ => 33

/-- A path joins the die layer of a core to a home. -/
def onPath (a b c : Nat) (h : Nat × Nat) : Bool :=
  (dieOf c == a && fabricDie h == b) || (dieOf c == b && fabricDie h == a)

/-- The message of an LSEND that has been read is on its way to the die of the links, or that of an LRECV from it (R193, R431). -/
def messageOnPath (a b c : Nat) (m : Cmd) : Bool :=
  !m.stopped && onPath a b c (3, 0) && (match m.kind with
    | .bundle (.lsend ..) => m.units.isEmpty
    | .bundle (.lrecv ..) => !m.units.isEmpty
    | _ => false)

/-- The unit of a command that is in flight on a path: the first of those that may perform whose home lies at the other end
(R431). -/
def inFlight (s : State) (a b c x : Nat) (m : Cmd) : Option CUnit :=
  if m.isGrow || m.isNmc || !(goesOn s c x m) || m.parkedAt.isSome then none
  else (m.units.zipIdx.find? fun p => unitReady s c x m p.2 && (m.home s c x p.1.addr).any (onPath a b c)).map (·.1)

/-- A command that has failed goes on as far as it can, and leaves its queues where it is done (R188). -/
def settleLost (s : State) (c x : Nat) (m : Cmd) : State :=
  match m.kind with
  | .bundle (.imgdec ..) => settleImage s c x m
  | .bundle (.lsend ..) => settleSend s c x m
  | _ => let r := pump s c x m; settle r.1 c x r.2

/-- The chunk of a copy command that is in flight on a path ends with UNCORRECTABLE (R188, R431). -/
def loseUnit (a b c x : Nat) (s : State) (m : Cmd) : State :=
  match inFlight s a b c x m with
  | none => s
  | some u =>
    let r := failCmd s c x m (u.chunk - 1) causeUNCORR (m.firstElem causeUNCORR (u.chunk - 1))
    settleLost r.1 c x r.2

/-- A growth copies across a path: from its old slab, or to its new one. -/
def growOnPath (s : State) (a b c x : Nat) (m : Cmd) : Bool :=
  let t := getCtx s c x
  m.isGrow && m.started && decide (m.ported < m.chunks)
    && (onPath a b c (homeOf t.xfwdo.toNat) || onPath a b c (homeOf t.xfwdn.toNat))

/-- An NMC goes to its base die across a path. -/
def nmOnPath (s : State) (a b c x : Nat) (m : Cmd) : Bool :=
  m.isNmc && nmReady s c x m && onPath a b c (1, nmStack s c x m.desc)
    && (match nmTranslate s c x m.nmOp m.desc with | .ok .. => true | _ => false)

/-- What of a command is in flight on a path ends with UNCORRECTABLE (R188, R431). -/
def loseChunk (a b c x : Nat) (s : State) (m : Cmd) : State :=
  if growOnPath s a b c x m then failGrow { s with freeCtr := s.freeCtr + 1 } c x m causeUNCORR (openVal s)
  else if nmOnPath s a b c x m || messageOnPath a b c m then dropCmd (failCmd s c x m 0 causeUNCORR 0).1 c x m.uid
  else loseUnit a b c x s m

/-- A read of a data-queue entry in flight on a path arrives poisoned (R188, R207, R431). -/
def loseEntry (s : State) (a b c x : Nat) (e : DqEnt) : DqEnt :=
  let h := homeAt s c x e.addr
  if !e.arrived && !e.parked && h.any (onPath a b c) && !(earlierMeets s c x e.uid h) then
    { e with arrived := true, poison := true, data := List.replicate e.n 0 }
  else e

/-- The chunks and queue reads of a context in flight on a path. -/
def loseChunks (a b c : Nat) (s : State) (x : Nat) : State :=
  let s1 := (getCtx s c x).cmds.foldl (loseChunk a b c x) s
  modCtx s1 c x fun t => { t with dq := t.dq.map (loseEntry s a b c x) }

/-- The status word of a command at a base die is in flight on a path: the command ends with UNCORRECTABLE, without its status
and its credit (R188, R197, R431). -/
def loseStatus (a b : Nat) (s : State) (q : Nat × List NmCmd) : State :=
  match alGet [] s.nmq q.1 with
  | [] => s
  | m :: rest =>
    if (m.fin.isSome || m.ready && decide (nmBursts m.desc ≤ m.burst)) && onPath a b (coreOfVault (m.stat - vaultBase)) (1, q.1) then
      let s := { s with nmq := alSet s.nmq q.1 rest }
      match m.node with
      | some i => { s with nodes := s.nodes.map fun n => if n.index = i then { n with cause := causeUNCORR } else n }
      | none =>
        report (modCtx s m.core m.ctx fun t => { t with nmc := t.nmc.filter fun p => p.1 != m.uid }) m.core m.ctx
          ⟨causeUNCORR, m.epc, 0, none, none⟩
    else s

/-- The image engine of a chiplet stands in its die layer 0 among the ends of paths (log 16). The descriptor of a node that it works
on reads or writes across a path: it ends with UNCORRECTABLE (R188, R365, R431). -/
def loseImage (a b : Nat) (s : State) (q : Nat × List ImgCmd) : State :=
  match (alGet [] s.imgq q.1).head? with
  | none => s
  | some m =>
    let d := m.desc
    let rs := (nodeRange s (imSrc d) (imLen d)).toOption.getD []
      ++ (nodeRange s (patchAddr d (imFirst d)) (patchRoom d * patchBytes d)).toOption.getD []
      ++ (nodeRange s (imRec d) 32).toOption.getD []
    match m.node with
    | some n => if rs.any fun r => onPath a b (2 * q.1 * 65) (homeOf r.1) then failImageNode s q.1 n causeUNCORR else s
    | none => s

/-- Everything in flight on a path is lost (R431). -/
def losePath (s : State) (a b : Nat) : State :=
  let s := s.imgq.foldl (loseImage a b) s
  s.nmq.foldl (loseStatus a b) (s.cores.foldl (fun s p => (List.range 4).foldl (loseChunks a b p.1) s) s)

/-- FABRIC_PATH_LOSS (R431, R459). -/
def execFabricPathLoss (dieA dieB : Nat) (s : State) : Host.Outcome State Fault Refusal :=
  .next (
    let s := losePath s dieA dieB
    if s.mode = .operating then enterRecovery s else s)

/-- An uncorrectable error in a supervisor table takes a package in Service into Recovery (R459). -/
def tableError (s : State) : State := if s.mode = .operating then enterRecovery s else s

/-! ## ATTESTATION (R457) -/

/-- The kernels whose images are loaded: those that have passed the checks of R345 (R357). -/
def loadedKernels (s : State) : List Kernel := s.kernels.filter fun k => decide (3 ≤ k.state ∧ k.state ≤ 5)

/-- What an attestation signs (R457): 64 bytes each digest, 8 the counter, 32 the nonce (log 16). -/
def attestMessage (s : State) (nonce : Nat) : List Byte :=
  leBytes 64 s.fwDigest ++ leBytes 8 s.rollback ++ ((loadedKernels s).flatMap fun k => leBytes 64 (Config.digest k.image))
    ++ leBytes 32 nonce

/-- ATTESTATION (R457). -/
def execAttestation (nonce : Nat) (s : State) : Host.Outcome State Fault Refusal :=
  .next (if s.fwRunning ∧ nonce < 2 ^ 256 then
      { s with attests := s.attests ++ [(nonce, Config.sign (attestMessage s nonce))] }
    else s)

/-! ## PACKAGE_RESET (R457, R459) -/

/-- What package reset keeps: memory of the lifetime records and the fuses, and what lies outside the package (R456,
R457, R461). The ck are counted anew (R67). -/
def cleared (s : State) : State :=
  { State.reset with
    mem := s.mem, poison := s.poison, life := s.life, rollback := s.rollback, fwVersion := s.fwVersion,
    attests := s.attests, sched := s.sched, turns := s.turns, freeCtr := s.freeCtr, clamp := s.clamp, tier := s.tier }

/-- The ports leave Down for Training, and train until each is Up, Degraded or Failed: `b` says with how many lanes their attempts
end (R435, R459 step 6). -/
def bootPorts (b : BootInputs) (s : State) : State :=
  let of (st : Nat) : List Nat := (List.range 16).filter fun p => (getPort s p).state == st
  if !(of 0).isEmpty then (of 0).foldl startTraining s
  else if !(of 1).isEmpty then (of 1).foldl (fun s p => endTraining s p (b.lanes.getD p 0)) s
  else { s with bootStep := s.bootStep + 1 }

/-- The host windows are set and locked, and the host channels enabled (R445, R459 step 4). -/
def bootIO (b : BootInputs) (s : State) : State :=
  { s with
    windows := (b.windows.take 8).zipIdx.map fun p => (p.2, p.1.1, p.1.2)
    channels := (List.range 8).map fun c => (c, { Channel.reset with en := b.channels.getLsbD c }) }

/-- What is seen on the ports that are up or degraded: the index that each peer claims, and which package it is. -/
def peersSeen (b : BootInputs) (s : State) : List (Nat × Nat) :=
  (List.range 16).filterMap fun p =>
    if (getPort s p).running then some (b.peers.getD p 0 % 64, b.peerIds.getD p 0) else none

/-- Every index seen is distinct: no peer claims the package's own, and no two packages claim one (R459). -/
def indexesDistinct (own : Nat) (seen : List (Nat × Nat)) : Bool :=
  seen.all fun p => p.1 != own && seen.all fun q => p.1 != q.1 || p.2 == q.2

/-- The pd values measured on the trained links are in the bounds of R21 (log 16). -/
def pdOk (b : BootInputs) : Bool := decide (4000 ≤ b.pdMin ∧ b.pdMin < 2 ^ 16 ∧ b.pdTyp < 2 ^ 16 ∧ b.pdMax ≤ 20000)

/-- Pod enumeration (R21, R22, R438, R459 step 7): each port records its peer's index, and then the package is a member where every
index seen is distinct. -/
def enumerate (b : BootInputs) (s : State) : State :=
  let s := { s with
    ports := (List.range 16).map fun p => (p, { getPort s p with peer := b.peers.getD p 0 % 64 }) }
  if b.inPod && decide (b.podIndex < 64) && pdOk b && indexesDistinct b.podIndex (peersSeen b s) then
    writeScope6 (writePkg { s with inPod := true } b.podIndex) (b.pdMax * 2 ^ 48 + b.pdTyp * 2 ^ 32 + b.pdMin * 2 ^ 16 + 2 ^ 7)
  else writePkg { s with inPod := false } 0

/-- Bring-up goes no further: firmware that fails its checks is not run, and the package stays in start-up (R457). -/
def bootStops (s : State) : State := { s with boot := none, bootStep := 0 }

/-- A step of bring-up (R459): its number, and what it finds. The power-up of islands and the training of stacks (steps 2 and
3) show nothing. -/
def bootDo (b : BootInputs) (s : State) : State :=
  let s' := { s with bootStep := s.bootStep + 1 }
  match s.bootStep with
  | 1 =>
    if b.fwValid ∧ s.rollback ≤ b.fwVersion then
      { s' with fwRunning := true, fwDigest := b.fwDigest, fwVersion := b.fwVersion }
    else bootStops s
  | 4 => bootIO b s'
  | 5 => { s' with tables := [] }
  | 6 => bootPorts b s
  | 7 => enumerate b s'
  | 8 => { bootStops s with mode := .operating, tables := alSet s.tables (5, 0, 0) 0 }
  | _ => s'

/-- The next step of bring-up, while the package is in start-up (R459). -/
def bringUp (s : State) : State :=
  match s.boot, s.mode with
  | some b, .startup => bootDo b s
  | _, _ => s

/-- PACKAGE_RESET (R459): bring-up begins. -/
def execPackageReset (boot : BootInputs) (s : State) : Host.Outcome State Fault Refusal :=
  .next { cleared s with boot := some boot, bootStep := 1 }

/-- The firmware raises the fused rollback counter, and never lowers it (R457, R458). -/
def raiseRollback (s : State) (v : Nat) : State := if s.fwRunning then { s with rollback := max s.rollback v } else s

/-! ## Checkpoints (R461) -/

/-- The pool is halted, every group is Frozen, and every access has performed. -/
def stillPackage (s : State) : Bool := halted s && s.groups.all fun g => g.st == .frozen && quiet s g

/-- What a checkpoint holds: the bytes of the package's own memory, and what the supervisors keep of the groups (log 91). -/
def tierImage (s : State) : Tier where
  mem := s.mem.filter fun c => ownKey c.1
  poison := s.poison.filter ownKey
  groups := s.groups
  kernels := s.kernels
  nodes := s.nodes
  graphs := s.graphs
  allocs := s.allocs
  tables := s.tables
  slots := s.slots

/-- All stacks and all vaults are written to a safe tier. -/
def checkpoint (s : State) : State := if stillPackage s then { s with tier := some (tierImage s) } else s

/-- Memory with the package's own taken from an image. -/
def mergeOwn (mem image : List Host.Cell) : List Host.Cell :=
  image.filter (fun c => decide (c.1 < 2 ^ 47)) ++ mem.filter (fun c => !(ownKey c.1))
    ++ image.filter fun c => decide (vaultBase ≤ c.1)

/-- The image of a checkpoint is written back, with the frozen groups as they stood in it; the supervisors resume them by CTXRES,
and they see what they held at the freeze (log 91). -/
def restore (s : State) : State :=
  match s.tier with
  | some t =>
    if stillPackage s then
      { s with
        mem := mergeOwn s.mem t.mem, poison := t.poison ++ s.poison.filter fun u => !(ownKey u)
        groups := t.groups, kernels := t.kernels, nodes := t.nodes, graphs := t.graphs, allocs := t.allocs
        tables := t.tables, slots := t.slots, oldSlabs := [], cow := [] }
    else s
  | none => s

/-- TEST_MODE_REQUEST (R459). -/
def execTestModeRequest (s : State) : Host.Outcome State Fault Refusal :=
  .next (if s.mode = .startup then { s with mode := .test } else s)

/-! ## Power and heat (R460, R462) -/

/-- Clamp level after a window (R460): the average in watts, the temperatures of the islands in degrees. -/
def clampAfter (k avg : Nat) (temps : List Nat) : Nat :=
  if 3600 < avg ∨ (temps.any fun t => decide (105 ≤ t)) = true then min 15 (k + 1)
  else if avg * 100 < 97 * 3600 ∧ (temps.all fun t => decide (t < 100)) = true then k - 1
  else k

/-- POWER_CLAMP_WINDOW (R456, R460). -/
def execPowerClampWindow (averageW : Nat) (tempC : List Nat) (s : State) : Host.Outcome State Fault Refusal :=
  .next (
    let k := clampAfter s.clamp averageW tempC
    let s' := { s with clamp := k }
    if s.clamp = 0 ∧ k = 1 then count s' lifePLIM 0 else s')

/-- The bin of an excursion's peak above 95 degrees (R456). -/
def thermBin (t : Nat) : Nat := min 7 ((t - 95) / 2)

/-- THERMAL_TRIP: at 115 degrees the peak is recorded, and a package in service enters Recovery (R456, R459, R462). -/
def execThermalTrip (island tempC : Nat) (s : State) : Host.Outcome State Fault Refusal :=
  .next (if island < 32 ∧ 115 ≤ tempC then
      let s := count s lifeTHERM (island * 8 + thermBin tempC)
      if s.mode = .operating then enterRecovery s else s
    else s)

end Sys2Proof.Machine
end

