-- ==== Sys2Proof/Machine/Dispatch.lean ====
section
/-!
DEFINITION. The meaning of each instruction: one arm per constructor.
-/
namespace Sys2Proof.Machine

def exec (i : Instr) (s : State) : Host.Outcome State Fault Refusal :=
  match i with
  | .nop st_ d => Sys2Proof.Machine.execNop st_ d s
  | .add s1 gd w d a b => Sys2Proof.Machine.execAdd s1 gd w d a b s
  | .addImm s1 gd w d a imm => Sys2Proof.Machine.execAddImm s1 gd w d a imm s
  | .sub s1 gd w d a b => Sys2Proof.Machine.execSub s1 gd w d a b s
  | .subImm s1 gd w d a imm => Sys2Proof.Machine.execSubImm s1 gd w d a imm s
  | .and s1 gd w d a b => Sys2Proof.Machine.execAnd s1 gd w d a b s
  | .andImm s1 gd w d a imm => Sys2Proof.Machine.execAndImm s1 gd w d a imm s
  | .or s1 gd w d a b => Sys2Proof.Machine.execOr s1 gd w d a b s
  | .orImm s1 gd w d a imm => Sys2Proof.Machine.execOrImm s1 gd w d a imm s
  | .xor s1 gd w d a b => Sys2Proof.Machine.execXor s1 gd w d a b s
  | .xorImm s1 gd w d a imm => Sys2Proof.Machine.execXorImm s1 gd w d a imm s
  | .andn s1 gd w d a b => Sys2Proof.Machine.execAndn s1 gd w d a b s
  | .andnImm s1 gd w d a imm => Sys2Proof.Machine.execAndnImm s1 gd w d a imm s
  | .min s1 gd w d a b => Sys2Proof.Machine.execMin s1 gd w d a b s
  | .minImm s1 gd w d a imm => Sys2Proof.Machine.execMinImm s1 gd w d a imm s
  | .max s1 gd w d a b => Sys2Proof.Machine.execMax s1 gd w d a b s
  | .maxImm s1 gd w d a imm => Sys2Proof.Machine.execMaxImm s1 gd w d a imm s
  | .minu s1 gd w d a b => Sys2Proof.Machine.execMinu s1 gd w d a b s
  | .minuImm s1 gd w d a imm => Sys2Proof.Machine.execMinuImm s1 gd w d a imm s
  | .maxu s1 gd w d a b => Sys2Proof.Machine.execMaxu s1 gd w d a b s
  | .maxuImm s1 gd w d a imm => Sys2Proof.Machine.execMaxuImm s1 gd w d a imm s
  | .clz s1 gd w d a => Sys2Proof.Machine.execClz s1 gd w d a s
  | .popc s1 gd w d a => Sys2Proof.Machine.execPopc s1 gd w d a s
  | .cmpeq s1 gd w pd a b => Sys2Proof.Machine.execCmpeq s1 gd w pd a b s
  | .cmpeqImm s1 gd w pd a imm => Sys2Proof.Machine.execCmpeqImm s1 gd w pd a imm s
  | .cmpne s1 gd w pd a b => Sys2Proof.Machine.execCmpne s1 gd w pd a b s
  | .cmpneImm s1 gd w pd a imm => Sys2Proof.Machine.execCmpneImm s1 gd w pd a imm s
  | .cmplt s1 gd w pd a b => Sys2Proof.Machine.execCmplt s1 gd w pd a b s
  | .cmpltImm s1 gd w pd a imm => Sys2Proof.Machine.execCmpltImm s1 gd w pd a imm s
  | .cmple s1 gd w pd a b => Sys2Proof.Machine.execCmple s1 gd w pd a b s
  | .cmpleImm s1 gd w pd a imm => Sys2Proof.Machine.execCmpleImm s1 gd w pd a imm s
  | .cmpltu s1 gd w pd a b => Sys2Proof.Machine.execCmpltu s1 gd w pd a b s
  | .cmpltuImm s1 gd w pd a imm => Sys2Proof.Machine.execCmpltuImm s1 gd w pd a imm s
  | .cmpleu s1 gd w pd a b => Sys2Proof.Machine.execCmpleu s1 gd w pd a b s
  | .cmpleuImm s1 gd w pd a imm => Sys2Proof.Machine.execCmpleuImm s1 gd w pd a imm s
  | .div s1 gd w d a b => Sys2Proof.Machine.execDiv s1 gd w d a b s
  | .divImm s1 gd w d a imm => Sys2Proof.Machine.execDivImm s1 gd w d a imm s
  | .divu s1 gd w d a b => Sys2Proof.Machine.execDivu s1 gd w d a b s
  | .divuImm s1 gd w d a imm => Sys2Proof.Machine.execDivuImm s1 gd w d a imm s
  | .rem s1 gd w d a b => Sys2Proof.Machine.execRem s1 gd w d a b s
  | .remImm s1 gd w d a imm => Sys2Proof.Machine.execRemImm s1 gd w d a imm s
  | .remu s1 gd w d a b => Sys2Proof.Machine.execRemu s1 gd w d a b s
  | .remuImm s1 gd w d a imm => Sys2Proof.Machine.execRemuImm s1 gd w d a imm s
  | .fabs s1 gd d a => Sys2Proof.Machine.execFabs s1 gd d a s
  | .fneg s1 gd d a => Sys2Proof.Machine.execFneg s1 gd d a s
  | .fadd s1 gd d a b => Sys2Proof.Machine.execFadd s1 gd d a b s
  | .fsub s1 gd d a b => Sys2Proof.Machine.execFsub s1 gd d a b s
  | .fmul s1 gd d a b => Sys2Proof.Machine.execFmul s1 gd d a b s
  | .fmin s1 gd d a b => Sys2Proof.Machine.execFmin s1 gd d a b s
  | .fmax s1 gd d a b => Sys2Proof.Machine.execFmax s1 gd d a b s
  | .fcmpeq s1 gd pd a b => Sys2Proof.Machine.execFcmpeq s1 gd pd a b s
  | .fcmplt s1 gd pd a b => Sys2Proof.Machine.execFcmplt s1 gd pd a b s
  | .fcmple s1 gd pd a b => Sys2Proof.Machine.execFcmple s1 gd pd a b s
  | .fcmpun s1 gd pd a b => Sys2Proof.Machine.execFcmpun s1 gd pd a b s
  | .fcvti s1 gd d a rm => Sys2Proof.Machine.execFcvti s1 gd d a rm s
  | .icvtf s1 gd d a rm => Sys2Proof.Machine.execIcvtf s1 gd d a rm s
  | .fdiv s1 gd d a b => Sys2Proof.Machine.execFdiv s1 gd d a b s
  | .fsqrt s1 gd d a => Sys2Proof.Machine.execFsqrt s1 gd d a s
  | .fma s1 gd d a b => Sys2Proof.Machine.execFma s1 gd d a b s
  | .movw s1 gd hw z d imm => Sys2Proof.Machine.execMovw s1 gd hw z d imm s
  | .mul s1 gd w d a b => Sys2Proof.Machine.execMul s1 gd w d a b s
  | .mulImm s1 gd w d a imm => Sys2Proof.Machine.execMulImm s1 gd w d a imm s
  | .mulh s1 gd w d a b => Sys2Proof.Machine.execMulh s1 gd w d a b s
  | .mulhImm s1 gd w d a imm => Sys2Proof.Machine.execMulhImm s1 gd w d a imm s
  | .mulhu s1 gd w d a b => Sys2Proof.Machine.execMulhu s1 gd w d a b s
  | .mulhuImm s1 gd w d a imm => Sys2Proof.Machine.execMulhuImm s1 gd w d a imm s
  | .shl s1 gd w d a b => Sys2Proof.Machine.execShl s1 gd w d a b s
  | .shlImm s1 gd w d a c => Sys2Proof.Machine.execShlImm s1 gd w d a c s
  | .shr s1 gd w d a b => Sys2Proof.Machine.execShr s1 gd w d a b s
  | .shrImm s1 gd w d a c => Sys2Proof.Machine.execShrImm s1 gd w d a c s
  | .sra s1 gd w d a b => Sys2Proof.Machine.execSra s1 gd w d a b s
  | .sraImm s1 gd w d a c => Sys2Proof.Machine.execSraImm s1 gd w d a c s
  | .rotr s1 gd w d a b => Sys2Proof.Machine.execRotr s1 gd w d a b s
  | .rotrImm s1 gd w d a c => Sys2Proof.Machine.execRotrImm s1 gd w d a c s
  | .bara gd sc bar => Sys2Proof.Machine.execBara gd sc bar s
  | .barw gd sc bar => Sys2Proof.Machine.execBarw gd sc bar s
  | .barp gd sc bar pd => Sys2Proof.Machine.execBarp gd sc bar pd s
  | .bra gd off => Sys2Proof.Machine.execBra gd off s
  | .bri gd a => Sys2Proof.Machine.execBri gd a s
  | .call gd off => Sys2Proof.Machine.execCall gd off s
  | .breakI gd => Sys2Proof.Machine.execBreakI gd s
  | .trapi gd imm => Sys2Proof.Machine.execTrapi gd imm s
  | .ctxfrz gd a => Sys2Proof.Machine.execCtxfrz gd a s
  | .ctxres gd a => Sys2Proof.Machine.execCtxres gd a s
  | .drain gd => Sys2Proof.Machine.execDrain gd s
  | .eret gd => Sys2Proof.Machine.execEret gd s
  | .fence gd sc => Sys2Proof.Machine.execFence gd sc s
  | .lnstart gd a b => Sys2Proof.Machine.execLnstart gd a b s
  | .loop gd len a => Sys2Proof.Machine.execLoop gd len a s
  | .loopImm gd len count => Sys2Proof.Machine.execLoopImm gd len count s
  | .loopn gd st len n ga gb => Sys2Proof.Machine.execLoopn gd st len n ga gb s
  | .nsub gd a => Sys2Proof.Machine.execNsub gd a s
  | .retire gd => Sys2Proof.Machine.execRetire gd s
  | .tblrd gd d tbl a => Sys2Proof.Machine.execTblrd gd d tbl a s
  | .tblwr gd tbl a b => Sys2Proof.Machine.execTblwr gd tbl a b s
  | .xrd gd d xn => Sys2Proof.Machine.execXrd gd d xn s
  | .xwr gd a xn => Sys2Proof.Machine.execXwr gd a xn s
  | .ld gd sz d a off => Sys2Proof.Machine.execLd gd sz d a off s
  | .ldsx gd sz d a off => Sys2Proof.Machine.execLdsx gd sz d a off s
  | .st gd sz v a off => Sys2Proof.Machine.execSt gd sz v a off s
  | .tmcst gd sz v a off => Sys2Proof.Machine.execTmcst gd sz v a off s
  | .aadd gd sz d a v => Sys2Proof.Machine.execAadd gd sz d a v s
  | .amax gd sz d a v => Sys2Proof.Machine.execAmax gd sz d a v s
  | .amin gd sz d a v => Sys2Proof.Machine.execAmin gd sz d a v s
  | .acas gd sz d a v => Sys2Proof.Machine.execAcas gd sz d a v s
  | .aswp gd sz d a v => Sys2Proof.Machine.execAswp gd sz d a v s
  | .pAnd gd k d a b => Sys2Proof.Machine.execPAnd gd k d a b s
  | .pOr gd k d a b => Sys2Proof.Machine.execPOr gd k d a b s
  | .pXor gd k d a b => Sys2Proof.Machine.execPXor gd k d a b s
  | .pAndn gd k d a b => Sys2Proof.Machine.execPAndn gd k d a b s
  | .vcmp a hb => Sys2Proof.Machine.execVcmp a hb s
  | .aqpush gd sz16 a => Sys2Proof.Machine.execAqpush gd sz16 a s
  | .dqpop gd d => Sys2Proof.Machine.execDqpop gd d s
  | .dqpopt gd t row seg => Sys2Proof.Machine.execDqpopt gd t row seg s
  | .aqstat gd d => Sys2Proof.Machine.execAqstat gd d s
  | .kset gd side lat a => Sys2Proof.Machine.execKset gd side lat a s
  | .kseti gd side lat imm => Sys2Proof.Machine.execKseti gd side lat imm s
  | .kclr gd side => Sys2Proof.Machine.execKclr gd side s
  | .xcvt gd dt st row cnt fs fd rm => Sys2Proof.Machine.execXcvt gd dt st row cnt fs fd rm s
  | .xexp gd dt st row cnt fs fd => Sys2Proof.Machine.execXexp gd dt st row cnt fs fd s
  | .xtbl gd st row => Sys2Proof.Machine.execXtbl gd st row s
  | .xtrn gd dt st row cnt fs fd => Sys2Proof.Machine.execXtrn gd dt st row cnt fs fd s
  | .xhad gd dt st row cnt n seed fd => Sys2Proof.Machine.execXhad gd dt st row cnt n seed fd s
  | .mldb gd bk bt fb pb => Sys2Proof.Machine.execMldb gd bk bt fb pb s
  | .mmul gd bk at_ arow acnt fa acc zt zf pa pz => Sys2Proof.Machine.execMmul gd bk at_ arow acnt fa acc zt zf pa pz s
  | .mmuls gd bk at_ arow acnt fa acc zt zf pa pz st srow => Sys2Proof.Machine.execMmuls gd bk at_ arow acnt fa acc zt zf pa pz st srow s
  | .tdaddr gd y0 cnt t row a b => Sys2Proof.Machine.execTdaddr gd y0 cnt t row a b s
  | .tdaddrAq gd y0 cnt a b => Sys2Proof.Machine.execTdaddrAq gd y0 cnt a b s
  | .tdesc gd y0 cnt t row lv => Sys2Proof.Machine.execTdesc gd y0 cnt t row lv s
  | .tdleaf gd y0 cnt t row => Sys2Proof.Machine.execTdleaf gd y0 cnt t row s
  | .tdpath gd y0 cnt t row => Sys2Proof.Machine.execTdpath gd y0 cnt t row s
  | .rsum gd ax st srow cnt dt drow fs fd pa pz km => Sys2Proof.Machine.execRsum gd ax st srow cnt dt drow fs fd pa pz km s
  | .rmax gd ax st srow cnt dt drow fs fd pa pz km => Sys2Proof.Machine.execRmax gd ax st srow cnt dt drow fs fd pa pz km s
  | .rssq gd ax st srow cnt dt drow fs fd pa pz km => Sys2Proof.Machine.execRssq gd ax st srow cnt dt drow fs fd pa pz km s
  | .rnorm gd ax st srow cnt dt drow fs fd pa pz km => Sys2Proof.Machine.execRnorm gd ax st srow cnt dt drow fs fd pa pz km s
  | .rsortk gd st srow cnt dt drow y0 => Sys2Proof.Machine.execRsortk gd st srow cnt dt drow y0 s
  | .rcmpr gd st srow cnt dt drow fs sel part => Sys2Proof.Machine.execRcmpr gd st srow cnt dt drow fs sel part s
  | .tld gd t row cnt a n bar p fmt rm ps => Sys2Proof.Machine.execTld gd t row cnt a n bar p fmt rm ps s
  | .tst gd t row cnt a n bar p fmt rm ps => Sys2Proof.Machine.execTst gd t row cnt a n bar p fmt rm ps s
  | .tldc gd t row cnt a n bar p fmt rm xr => Sys2Proof.Machine.execTldc gd t row cnt a n bar p fmt rm xr s
  | .twin gd t row cnt a n bar p fmt rm ps => Sys2Proof.Machine.execTwin gd t row cnt a n bar p fmt rm ps s
  | .tgath gd t row cnt a it irow bar p ps => Sys2Proof.Machine.execTgath gd t row cnt a it irow bar p ps s
  | .tgath2 gd t row cnt a it irow bar p ps => Sys2Proof.Machine.execTgath2 gd t row cnt a it irow bar p ps s
  | .tscat gd t row cnt a it irow bar p ps => Sys2Proof.Machine.execTscat gd t row cnt a it irow bar p ps s
  | .tredAdd gd t row cnt a it irow bar p ps i32 => Sys2Proof.Machine.execTredAdd gd t row cnt a it irow bar p ps i32 s
  | .tredMax gd t row cnt a it irow bar p ps i32 => Sys2Proof.Machine.execTredMax gd t row cnt a it irow bar p ps i32 s
  | .nset gd n l a b => Sys2Proof.Machine.execNset gd n l a b s
  | .nclr gd n => Sys2Proof.Machine.execNclr gd n s
  | .nmcSgdfade gd a bar => Sys2Proof.Machine.execNmcSgdfade gd a bar s
  | .nmcFill gd a bar => Sys2Proof.Machine.execNmcFill gd a bar s
  | .nmcCopy gd a bar => Sys2Proof.Machine.execNmcCopy gd a bar s
  | .nmcScale gd a bar => Sys2Proof.Machine.execNmcScale gd a bar s
  | .nmcAccum gd a bar => Sys2Proof.Machine.execNmcAccum gd a bar s
  | .nmfence gd stack => Sys2Proof.Machine.execNmfence gd stack s
  | .lsend gd port vl a bar => Sys2Proof.Machine.execLsend gd port vl a bar s
  | .lrecv gd port vl a bar => Sys2Proof.Machine.execLrecv gd port vl a bar s
  | .lstat gd d port => Sys2Proof.Machine.execLstat gd d port s
  | .imgdec gd a bar => Sys2Proof.Machine.execImgdec gd a bar s
  | .slabgrow gd a bar => Sys2Proof.Machine.execSlabgrow gd a bar s
  | .lanternStart => Sys2Proof.Machine.execLanternStart s
  | .pld sd w => Sys2Proof.Machine.execPld sd w s
  | .sgld sa => Sys2Proof.Machine.execSgld sa s
  | .glim sd sa sb => Sys2Proof.Machine.execGlim sd sa sb s
  | .kgth sa sb => Sys2Proof.Machine.execKgth sa sb s
  | .vgth sa sb => Sys2Proof.Machine.execVgth sa sb s
  | .qkmm q sa => Sys2Proof.Machine.execQkmm q sa s
  | .osmx sa => Sys2Proof.Machine.execOsmx sa s
  | .pvmm => Sys2Proof.Machine.execPvmm s
  | .rscl => Sys2Proof.Machine.execRscl s
  | .owrt => Sys2Proof.Machine.execOwrt s
  | .sgap sa sb => Sys2Proof.Machine.execSgap sa sb s
  | .ewait g => Sys2Proof.Machine.execEwait g s
  | .bsig sc sa => Sys2Proof.Machine.execBsig sc sa s
  | .loops sa tgt => Sys2Proof.Machine.execLoops sa tgt s
  | .brc cond sa sb tgt => Sys2Proof.Machine.execBrc cond sa sb tgt s
  | .done => Sys2Proof.Machine.execDone s
  | .saddi sd sa imm => Sys2Proof.Machine.execSaddi sd sa imm s
  | .smovi sd imm => Sys2Proof.Machine.execSmovi sd imm s
  | .exposedResultDelivery core ctx => Sys2Proof.Machine.execExposedResultDelivery core ctx s
  | .longLatencyLanding core ctx idx => Sys2Proof.Machine.execLongLatencyLanding core ctx idx s
  | .tmcstLanding => Sys2Proof.Machine.execTmcstLanding s
  | .watchdog core ctx => Sys2Proof.Machine.execWatchdog core ctx s
  | .segmentExpansion core ctx => Sys2Proof.Machine.execSegmentExpansion core ctx s
  | .chunkPerform core ctx cmd unit => Sys2Proof.Machine.execChunkPerform core ctx cmd unit s
  | .ringClaim core ctx cmd => Sys2Proof.Machine.execRingClaim core ctx cmd s
  | .dataQueueArrival core ctx idx => Sys2Proof.Machine.execDataQueueArrival core ctx idx s
  | .asyncTrap core ctx => Sys2Proof.Machine.execAsyncTrap core ctx s
  | .nmcExecution stack => Sys2Proof.Machine.execNmcExecution stack s
  | .imageDecode chiplet => Sys2Proof.Machine.execImageDecode chiplet s
  | .slabgrowChunk core ctx cmd newBase => Sys2Proof.Machine.execSlabgrowChunk core ctx cmd newBase s
  | .freezeLimit core ctx => Sys2Proof.Machine.execFreezeLimit core ctx s
  | .contextFreeze core ctx => Sys2Proof.Machine.execContextFreeze core ctx s
  | .saveImageWritten core ctx => Sys2Proof.Machine.execSaveImageWritten core ctx s
  | .shoot chiplet v => Sys2Proof.Machine.execShoot chiplet v s
  | .wake chiplet v => Sys2Proof.Machine.execWake chiplet v s
  | .barrierCfgWrite chiplet slot v => Sys2Proof.Machine.execBarrierCfgWrite chiplet slot v s
  | .barrierForce chiplet slot v => Sys2Proof.Machine.execBarrierForce chiplet slot v s
  | .pkgWordWrite v => Sys2Proof.Machine.execPkgWordWrite v s
  | .scopeWordWrite v => Sys2Proof.Machine.execScopeWordWrite v s
  | .pageFaultService chiplet obj page frame content => Sys2Proof.Machine.execPageFaultService chiplet obj page frame content s
  | .pageEviction chiplet obj page dest => Sys2Proof.Machine.execPageEviction chiplet obj page dest s
  | .copyOnWrite chiplet obj page => Sys2Proof.Machine.execCopyOnWrite chiplet obj page s
  | .nodeAccept => Sys2Proof.Machine.execNodeAccept s
  | .dispatch kind picks => Sys2Proof.Machine.execDispatch kind picks s
  | .nodeAging node => Sys2Proof.Machine.execNodeAging node s
  | .nodeComplete node => Sys2Proof.Machine.execNodeComplete node s
  | .groupEnd gid => Sys2Proof.Machine.execGroupEnd gid s
  | .groupMigration gid die picks => Sys2Proof.Machine.execGroupMigration gid die picks s
  | .messageSend port lane => Sys2Proof.Machine.execMessageSend port lane s
  | .messageReceive port lane msg => Sys2Proof.Machine.execMessageReceive port lane msg s
  | .laneLoss port => Sys2Proof.Machine.execLaneLoss port s
  | .flitReplayLimit port => Sys2Proof.Machine.execFlitReplayLimit port s
  | .trainingFrame port => Sys2Proof.Machine.execTrainingFrame port s
  | .trainingEnd port lanes => Sys2Proof.Machine.execTrainingEnd port lanes s
  | .trainingTimeout port => Sys2Proof.Machine.execTrainingTimeout port s
  | .portDrainRequest port => Sys2Proof.Machine.execPortDrainRequest port s
  | .portResetRequest port => Sys2Proof.Machine.execPortResetRequest port s
  | .fabricPathLoss dieA dieB => Sys2Proof.Machine.execFabricPathLoss dieA dieB s
  | .alloc ch pick => Sys2Proof.Machine.execAlloc ch pick s
  | .free ch => Sys2Proof.Machine.execFree ch s
  | .copyin ch => Sys2Proof.Machine.execCopyin ch s
  | .copyout ch => Sys2Proof.Machine.execCopyout ch s
  | .load ch kid => Sys2Proof.Machine.execLoad ch kid s
  | .unload ch => Sys2Proof.Machine.execUnload ch s
  | .submit ch => Sys2Proof.Machine.execSubmit ch s
  | .queryNode ch => Sys2Proof.Machine.execQueryNode ch s
  | .queryKernel ch => Sys2Proof.Machine.execQueryKernel ch s
  | .queryPort ch => Sys2Proof.Machine.execQueryPort ch s
  | .queryPool ch => Sys2Proof.Machine.execQueryPool ch s
  | .outboxRead ch => Sys2Proof.Machine.execOutboxRead ch s
  | .cstatWrite ch v => Sys2Proof.Machine.execCstatWrite ch v s
  | .pcieLinkLoss => Sys2Proof.Machine.execPcieLinkLoss s
  | .attestation nonce => Sys2Proof.Machine.execAttestation nonce s
  | .packageReset boot => Sys2Proof.Machine.execPackageReset boot s
  | .testModeRequest => Sys2Proof.Machine.execTestModeRequest s
  | .powerClampWindow averageW tempC => Sys2Proof.Machine.execPowerClampWindow averageW tempC s
  | .thermalTrip island tempC => Sys2Proof.Machine.execThermalTrip island tempC s
  | .requestDropped ch => Sys2Proof.Machine.execRequestDropped ch s
  | .malformedRequest ch => Sys2Proof.Machine.execMalformedRequest ch s

end Sys2Proof.Machine
end

