-- ==== Sys2Proof/Machine/OpTable.lean ====
section
/-!
DEFINITION. The operation each bundle instruction stands for, for groups of more than one operation (spec 03 R60, R65).
-/
namespace Sys2Proof.Machine

/-- The operation of a bundle instruction; none for a NOP, a microinstruction or an event. -/
def opOf : Instr → Option Op
  | .nop .. => none
  | .add s1 gd w d a b => some (opAdd s1 gd w d a b)
  | .addImm s1 gd w d a imm => some (opAddImm s1 gd w d a imm)
  | .sub s1 gd w d a b => some (opSub s1 gd w d a b)
  | .subImm s1 gd w d a imm => some (opSubImm s1 gd w d a imm)
  | .and s1 gd w d a b => some (opAnd s1 gd w d a b)
  | .andImm s1 gd w d a imm => some (opAndImm s1 gd w d a imm)
  | .or s1 gd w d a b => some (opOr s1 gd w d a b)
  | .orImm s1 gd w d a imm => some (opOrImm s1 gd w d a imm)
  | .xor s1 gd w d a b => some (opXor s1 gd w d a b)
  | .xorImm s1 gd w d a imm => some (opXorImm s1 gd w d a imm)
  | .andn s1 gd w d a b => some (opAndn s1 gd w d a b)
  | .andnImm s1 gd w d a imm => some (opAndnImm s1 gd w d a imm)
  | .min s1 gd w d a b => some (opMin s1 gd w d a b)
  | .minImm s1 gd w d a imm => some (opMinImm s1 gd w d a imm)
  | .max s1 gd w d a b => some (opMax s1 gd w d a b)
  | .maxImm s1 gd w d a imm => some (opMaxImm s1 gd w d a imm)
  | .minu s1 gd w d a b => some (opMinu s1 gd w d a b)
  | .minuImm s1 gd w d a imm => some (opMinuImm s1 gd w d a imm)
  | .maxu s1 gd w d a b => some (opMaxu s1 gd w d a b)
  | .maxuImm s1 gd w d a imm => some (opMaxuImm s1 gd w d a imm)
  | .clz s1 gd w d a => some (opClz s1 gd w d a)
  | .popc s1 gd w d a => some (opPopc s1 gd w d a)
  | .cmpeq s1 gd w pd a b => some (opCmpeq s1 gd w pd a b)
  | .cmpeqImm s1 gd w pd a imm => some (opCmpeqImm s1 gd w pd a imm)
  | .cmpne s1 gd w pd a b => some (opCmpne s1 gd w pd a b)
  | .cmpneImm s1 gd w pd a imm => some (opCmpneImm s1 gd w pd a imm)
  | .cmplt s1 gd w pd a b => some (opCmplt s1 gd w pd a b)
  | .cmpltImm s1 gd w pd a imm => some (opCmpltImm s1 gd w pd a imm)
  | .cmple s1 gd w pd a b => some (opCmple s1 gd w pd a b)
  | .cmpleImm s1 gd w pd a imm => some (opCmpleImm s1 gd w pd a imm)
  | .cmpltu s1 gd w pd a b => some (opCmpltu s1 gd w pd a b)
  | .cmpltuImm s1 gd w pd a imm => some (opCmpltuImm s1 gd w pd a imm)
  | .cmpleu s1 gd w pd a b => some (opCmpleu s1 gd w pd a b)
  | .cmpleuImm s1 gd w pd a imm => some (opCmpleuImm s1 gd w pd a imm)
  | .div s1 gd w d a b => some (opDiv s1 gd w d a b)
  | .divImm s1 gd w d a imm => some (opDivImm s1 gd w d a imm)
  | .divu s1 gd w d a b => some (opDivu s1 gd w d a b)
  | .divuImm s1 gd w d a imm => some (opDivuImm s1 gd w d a imm)
  | .rem s1 gd w d a b => some (opRem s1 gd w d a b)
  | .remImm s1 gd w d a imm => some (opRemImm s1 gd w d a imm)
  | .remu s1 gd w d a b => some (opRemu s1 gd w d a b)
  | .remuImm s1 gd w d a imm => some (opRemuImm s1 gd w d a imm)
  | .fabs s1 gd d a => some (opFabs s1 gd d a)
  | .fneg s1 gd d a => some (opFneg s1 gd d a)
  | .fadd s1 gd d a b => some (opFadd s1 gd d a b)
  | .fsub s1 gd d a b => some (opFsub s1 gd d a b)
  | .fmul s1 gd d a b => some (opFmul s1 gd d a b)
  | .fmin s1 gd d a b => some (opFmin s1 gd d a b)
  | .fmax s1 gd d a b => some (opFmax s1 gd d a b)
  | .fcmpeq s1 gd pd a b => some (opFcmpeq s1 gd pd a b)
  | .fcmplt s1 gd pd a b => some (opFcmplt s1 gd pd a b)
  | .fcmple s1 gd pd a b => some (opFcmple s1 gd pd a b)
  | .fcmpun s1 gd pd a b => some (opFcmpun s1 gd pd a b)
  | .fcvti s1 gd d a rm => some (opFcvti s1 gd d a rm)
  | .icvtf s1 gd d a rm => some (opIcvtf s1 gd d a rm)
  | .fdiv s1 gd d a b => some (opFdiv s1 gd d a b)
  | .fsqrt s1 gd d a => some (opFsqrt s1 gd d a)
  | .fma s1 gd d a b => some (opFma s1 gd d a b)
  | .movw s1 gd hw z d imm => some (opMovw s1 gd hw z d imm)
  | .mul s1 gd w d a b => some (opMul s1 gd w d a b)
  | .mulImm s1 gd w d a imm => some (opMulImm s1 gd w d a imm)
  | .mulh s1 gd w d a b => some (opMulh s1 gd w d a b)
  | .mulhImm s1 gd w d a imm => some (opMulhImm s1 gd w d a imm)
  | .mulhu s1 gd w d a b => some (opMulhu s1 gd w d a b)
  | .mulhuImm s1 gd w d a imm => some (opMulhuImm s1 gd w d a imm)
  | .shl s1 gd w d a b => some (opShl s1 gd w d a b)
  | .shlImm s1 gd w d a c => some (opShlImm s1 gd w d a c)
  | .shr s1 gd w d a b => some (opShr s1 gd w d a b)
  | .shrImm s1 gd w d a c => some (opShrImm s1 gd w d a c)
  | .sra s1 gd w d a b => some (opSra s1 gd w d a b)
  | .sraImm s1 gd w d a c => some (opSraImm s1 gd w d a c)
  | .rotr s1 gd w d a b => some (opRotr s1 gd w d a b)
  | .rotrImm s1 gd w d a c => some (opRotrImm s1 gd w d a c)
  | .bara gd sc bar => some (opBara gd sc bar)
  | .barw gd sc bar => some (opBarw gd sc bar)
  | .barp gd sc bar pd => some (opBarp gd sc bar pd)
  | .bra gd off => some (opBra gd off)
  | .bri gd a => some (opBri gd a)
  | .call gd off => some (opCall gd off)
  | .breakI gd => some (opBreakI gd)
  | .trapi gd imm => some (opTrapi gd imm)
  | .ctxfrz gd a => some (opCtxfrz gd a)
  | .ctxres gd a => some (opCtxres gd a)
  | .drain gd => some (opDrain gd)
  | .eret gd => some (opEret gd)
  | .fence gd sc => some (opFence gd sc)
  | .lnstart gd a b => some (opLnstart gd a b)
  | .loop gd len a => some (opLoop gd len a)
  | .loopImm gd len count => some (opLoopImm gd len count)
  | .loopn gd st len n ga gb => some (opLoopn gd st len n ga gb)
  | .nsub gd a => some (opNsub gd a)
  | .retire gd => some (opRetire gd)
  | .tblrd gd d tbl a => some (opTblrd gd d tbl a)
  | .tblwr gd tbl a b => some (opTblwr gd tbl a b)
  | .xrd gd d xn => some (opXrd gd d xn)
  | .xwr gd a xn => some (opXwr gd a xn)
  | .ld gd sz d a off => some (opLd gd sz d a off)
  | .ldsx gd sz d a off => some (opLdsx gd sz d a off)
  | .st gd sz v a off => some (opSt gd sz v a off)
  | .tmcst gd sz v a off => some (opTmcst gd sz v a off)
  | .aadd gd sz d a v => some (opAadd gd sz d a v)
  | .amax gd sz d a v => some (opAmax gd sz d a v)
  | .amin gd sz d a v => some (opAmin gd sz d a v)
  | .acas gd sz d a v => some (opAcas gd sz d a v)
  | .aswp gd sz d a v => some (opAswp gd sz d a v)
  | .pAnd gd k d a b => some (opPAnd gd k d a b)
  | .pOr gd k d a b => some (opPOr gd k d a b)
  | .pXor gd k d a b => some (opPXor gd k d a b)
  | .pAndn gd k d a b => some (opPAndn gd k d a b)
  | .vcmp a hb => some (opVcmp a hb)
  | .aqpush gd sz16 a => some (opAqpush gd sz16 a)
  | .dqpop gd d => some (opDqpop gd d)
  | .dqpopt gd t row seg => some (opDqpopt gd t row seg)
  | .aqstat gd d => some (opAqstat gd d)
  | .kset gd side lat a => some (opKset gd side lat a)
  | .kseti gd side lat imm => some (opKseti gd side lat imm)
  | .kclr gd side => some (opKclr gd side)
  | .xcvt gd dt st row cnt fs fd rm => some (opXcvt gd dt st row cnt fs fd rm)
  | .xexp gd dt st row cnt fs fd => some (opXexp gd dt st row cnt fs fd)
  | .xtbl gd st row => some (opXtbl gd st row)
  | .xtrn gd dt st row cnt fs fd => some (opXtrn gd dt st row cnt fs fd)
  | .xhad gd dt st row cnt n seed fd => some (opXhad gd dt st row cnt n seed fd)
  | .mldb gd bk bt fb pb => some (opMldb gd bk bt fb pb)
  | .mmul gd bk at_ arow acnt fa acc zt zf pa pz => some (opMmul gd bk at_ arow acnt fa acc zt zf pa pz)
  | .mmuls gd bk at_ arow acnt fa acc zt zf pa pz st srow => some (opMmuls gd bk at_ arow acnt fa acc zt zf pa pz st srow)
  | .tdaddr gd y0 cnt t row a b => some (opTdaddr gd y0 cnt t row a b)
  | .tdaddrAq gd y0 cnt a b => some (opTdaddrAq gd y0 cnt a b)
  | .tdesc gd y0 cnt t row lv => some (opTdesc gd y0 cnt t row lv)
  | .tdleaf gd y0 cnt t row => some (opTdleaf gd y0 cnt t row)
  | .tdpath gd y0 cnt t row => some (opTdpath gd y0 cnt t row)
  | .rsum gd ax st srow cnt dt drow fs fd pa pz km => some (opRsum gd ax st srow cnt dt drow fs fd pa pz km)
  | .rmax gd ax st srow cnt dt drow fs fd pa pz km => some (opRmax gd ax st srow cnt dt drow fs fd pa pz km)
  | .rssq gd ax st srow cnt dt drow fs fd pa pz km => some (opRssq gd ax st srow cnt dt drow fs fd pa pz km)
  | .rnorm gd ax st srow cnt dt drow fs fd pa pz km => some (opRnorm gd ax st srow cnt dt drow fs fd pa pz km)
  | .rsortk gd st srow cnt dt drow y0 => some (opRsortk gd st srow cnt dt drow y0)
  | .rcmpr gd st srow cnt dt drow fs sel part => some (opRcmpr gd st srow cnt dt drow fs sel part)
  | .tld gd t row cnt a n bar p fmt rm ps => some (opTld gd t row cnt a n bar p fmt rm ps)
  | .tst gd t row cnt a n bar p fmt rm ps => some (opTst gd t row cnt a n bar p fmt rm ps)
  | .tldc gd t row cnt a n bar p fmt rm xr => some (opTldc gd t row cnt a n bar p fmt rm xr)
  | .twin gd t row cnt a n bar p fmt rm ps => some (opTwin gd t row cnt a n bar p fmt rm ps)
  | .tgath gd t row cnt a it irow bar p ps => some (opTgath gd t row cnt a it irow bar p ps)
  | .tgath2 gd t row cnt a it irow bar p ps => some (opTgath2 gd t row cnt a it irow bar p ps)
  | .tscat gd t row cnt a it irow bar p ps => some (opTscat gd t row cnt a it irow bar p ps)
  | .tredAdd gd t row cnt a it irow bar p ps i32 => some (opTredAdd gd t row cnt a it irow bar p ps i32)
  | .tredMax gd t row cnt a it irow bar p ps i32 => some (opTredMax gd t row cnt a it irow bar p ps i32)
  | .nset gd n l a b => some (opNset gd n l a b)
  | .nclr gd n => some (opNclr gd n)
  | .nmcSgdfade gd a bar => some (opNmcSgdfade gd a bar)
  | .nmcFill gd a bar => some (opNmcFill gd a bar)
  | .nmcCopy gd a bar => some (opNmcCopy gd a bar)
  | .nmcScale gd a bar => some (opNmcScale gd a bar)
  | .nmcAccum gd a bar => some (opNmcAccum gd a bar)
  | .nmfence gd stack => some (opNmfence gd stack)
  | .lsend gd port vl a bar => some (opLsend gd port vl a bar)
  | .lrecv gd port vl a bar => some (opLrecv gd port vl a bar)
  | .lstat gd d port => some (opLstat gd d port)
  | .imgdec gd a bar => some (opImgdec gd a bar)
  | .slabgrow gd a bar => some (opSlabgrow gd a bar)
  | .lanternStart => none
  | .pld .. => none
  | .sgld .. => none
  | .glim .. => none
  | .kgth .. => none
  | .vgth .. => none
  | .qkmm .. => none
  | .osmx .. => none
  | .pvmm => none
  | .rscl => none
  | .owrt => none
  | .sgap .. => none
  | .ewait .. => none
  | .bsig .. => none
  | .loops .. => none
  | .brc .. => none
  | .done => none
  | .saddi .. => none
  | .smovi .. => none
  | .exposedResultDelivery .. => none
  | .longLatencyLanding .. => none
  | .tmcstLanding => none
  | .watchdog .. => none
  | .segmentExpansion .. => none
  | .chunkPerform .. => none
  | .ringClaim .. => none
  | .dataQueueArrival .. => none
  | .asyncTrap .. => none
  | .nmcExecution .. => none
  | .imageDecode .. => none
  | .slabgrowChunk .. => none
  | .freezeLimit .. => none
  | .contextFreeze .. => none
  | .saveImageWritten .. => none
  | .shoot .. => none
  | .wake .. => none
  | .barrierCfgWrite .. => none
  | .barrierForce .. => none
  | .pkgWordWrite .. => none
  | .scopeWordWrite .. => none
  | .pageFaultService .. => none
  | .pageEviction .. => none
  | .copyOnWrite .. => none
  | .nodeAccept => none
  | .dispatch .. => none
  | .nodeAging .. => none
  | .nodeComplete .. => none
  | .groupEnd .. => none
  | .groupMigration .. => none
  | .messageSend .. => none
  | .messageReceive .. => none
  | .laneLoss .. => none
  | .flitReplayLimit .. => none
  | .trainingFrame .. => none
  | .trainingEnd .. => none
  | .trainingTimeout .. => none
  | .portDrainRequest .. => none
  | .portResetRequest .. => none
  | .fabricPathLoss .. => none
  | .alloc .. => none
  | .free .. => none
  | .copyin .. => none
  | .copyout .. => none
  | .load .. => none
  | .unload .. => none
  | .submit .. => none
  | .queryNode .. => none
  | .queryKernel .. => none
  | .queryPort .. => none
  | .queryPool .. => none
  | .outboxRead .. => none
  | .cstatWrite .. => none
  | .pcieLinkLoss => none
  | .attestation .. => none
  | .packageReset .. => none
  | .testModeRequest => none
  | .powerClampWindow .. => none
  | .thermalTrip .. => none
  | .requestDropped .. => none
  | .malformedRequest .. => none

end Sys2Proof.Machine
end

