-- ==== Sys2Proof/Machine/Issue.lean ====
section
/-!
DEFINITION. Which context of a core issues, the freeze points of running contexts, the fetch of its group, and the turns
that are not instructions (spec 03 R60 to R63, R68; 13 R329 to R332; 14 R348; 24 R452).
-/
namespace Sys2Proof.Machine

/-- What a core does in its turn. -/
inductive Issued where
  /-- nothing issues -/
  | idle (s : State)
  /-- one operation -/
  | one (i : Instr) (s : State)
  /-- a group of several operations -/
  | many (ops : List Op) (s : State)

/-- The operations of a list of instructions. -/
def opsOf (is : List Instr) : List Op := is.filterMap opOf

/-- The code a context fetches from the group at its program counter. -/
def fetchAt (s : State) (c x : Nat) : Fetch := fetch s (isSup c) (getCtx s c x) (getCtx s c x).pc

/-- The state with the issue latch set for the group a fetch found. -/
def latch (s : State) (c x : Nat) (d : Bool) (addr2 next second : Nat) : State :=
  { s with issue := ⟨c, x, (getCtx s c x).pc, addr2, next, d, second, 0⟩ }

/-- The condition on which a context is Blocked holds: a BARW waits until its slot ends the wait; any other group would
block again (R62, R404). -/
def stillBlocked (s : State) (c x : Nat) : Bool :=
  (getCtx s c x).blk != 0 && ((getCtx s c x).barWait.isSome ||
    (match fetchAt s c x with
      | .group is d a2 n second =>
        (match judge (opsOf is) (startCycle (latch s c x d a2 n second)) with | .block _ _ => true | _ => false)
      | _ => false))

/-- A Blocked context whose condition has cleared becomes Ready in the next ck (R330); one that keeps its core stays Current. -/
def readyBlocked (s : State) (c x : Nat) : State :=
  let t := getCtx s c x
  if t.isBlocked = true ∧ stillBlocked s c x = false then
    modCtx s c x fun t => { t with st := if t.st = .blocked then .ready else t.st, blk := 0 }
  else s

/-- A context may be chosen (R62, R330). -/
def canIssue (s : State) (c x : Nat) : Bool := (getCtx s c x).st == .ready

/-- The context that issues next: the Current one, else round-robin after the last that was (R62, R330). -/
def chooseCtx (s : State) (c : Nat) : Option Nat :=
  match (List.range 4).find? fun x => (getCtx s c x).st == .current with
  | some x => some x
  | none => ((List.range 4).map fun i => ((getCore s c).cur + 1 + i) % 4).find? fun x => canIssue s c x

/-- The context becomes Current. -/
def makeCurrent (s : State) (c x : Nat) : State :=
  modCore (modCtx s c x fun t => { t with st := .current }) c fun k => { k with cur := x }

/-- The 10,000 ck of R332 have passed. -/
def freezeOverdue (s : State) (t : Ctx) : Bool :=
  match t.frzAt with
  | some a => decide (a + 10000 ≤ s.ck)
  | none => false

/-- A Current context that a freeze has reached stands at its freeze point (R332). -/
def atFreezePoint (s : State) (c x : Nat) : Bool :=
  let t := getCtx s c x
  !(isSup c) && t.frzAt.isSome && (freezeOverdue s t || nextIsDrainPoint s c x)

/-- The context stops at its freeze point (R331, R332). -/
def stopAtFreezePoint (s : State) (c x : Nat) : State :=
  let forced := !(nextIsDrainPoint s c x)
  modCtx s c x fun t => { t with st := .freezing, frzPoint := some s.ck, frzCause := causePREEMPT, frzForced := forced }

/-- A group that does not decode traps (R103); what falls due in its issue cycle has been delivered (log 17). -/
def decodeTrap (s : State) (c x whr : Nat) (b2 : Bool) : State :=
  takeTrap (deliver s c x) c x causeILLEGAL (illegalVal 0 b2 whr) (getCtx s c x).pc

/-- The segment executing is the one that holds the group (R88). -/
def setSeg (s : State) (c x : Nat) : State :=
  match halfAt (getCtx s c x) (getCtx s c x).pc with
  | some h => modCtx s c x fun t => { t with seg := h.seg }
  | none => s

/-- The chosen context fetches its next group (R63, R103, R348). -/
def issueGroup (s : State) (c x : Nat) : Issued :=
  match fetchAt s c x with
  | .wait => .idle (modCtx s c x fun t => t.waits s.ck 10)
  | .uncovered => .idle (decodeTrap s c x 12 false)
  | .bad e b2 => .idle (decodeTrap s c x e.where_ b2)
  | .group is d a2 n second =>
    let s := latch (setSeg s c x) c x d a2 n second
    match is with
    | [] => .one (.nop false d) s
    | [i] => .one i s
    | is => .many (opsOf is) s

/-- A core's turn: at most one issue group in a ck (R60), and none once the multicast stores of the ck have landed (R176; log
59); what is due in real ck has landed before it (R75), and a report pending for the context is taken at the bundle boundary
(R189). -/
def issueTurn (s : State) (c : Nat) : Issued :=
  if (getCore s c).lastIssue = some s.ck ∨ s.landed = some s.ck then .idle s
  else match chooseCtx s c with
    | none => .idle s
    | some x =>
      let s := landDue (makeCurrent s c x) c x
      match (getCtx s c x).asyncs with
      | a :: rest => .idle (takeAsync (modCtx s c x fun t => { t with asyncs := rest }) c x a)
      | [] => if atFreezePoint s c x then .idle (stopAtFreezePoint s c x) else issueGroup s c x

/-! ## Turns that are not instructions -/

/-- A far scalar access performs at some ck after its issue (R306), before the multicast stores of the ck land (R176; log
59). -/
def farTurn (s : State) (c x i : Nat) : State :=
  if s.landed = some s.ck || (getCtx s c x).far[i]?.any (fun f => decide (s.ck ≤ f.ck)) then s else performFar s c x i

/-- The turn taken: the first of the schedule, or a free one where it is empty (log 2). -/
def nextTurn (s : State) : Turn × State :=
  match s.sched with
  | t :: ts => (t, { s with sched := ts })
  | [] => (Config.turn s.turns, { s with turns := s.turns + 1 })

/-- A change of every context of the package in turn. -/
def eachCtx (f : State → Nat → Nat → State) (s : State) : State :=
  s.cores.foldl (fun s p => (List.range 4).foldl (fun s x => f s p.1 x) s) s

/-- A period of the clock ends: multicast stores land, arrivals that wait for nothing more are counted, the slots of every
chiplet are evaluated, and Blocked contexts that wait no more become Ready (R176, R318, R330, R400). -/
def tick (s : State) : State :=
  let s := eachCtx readyBlocked (endCkSlots (eachCtx countArrivals (landMcasts s)))
  { s with ck := s.ck + 1 }

/-- A byte that a write from outside the package may change: the host's own memory, a byte of another package, or for the
other packages of its pod the first 512 MiB of a stack (R28, R439, R445). -/
def outsideMay (s : State) (k : Nat) : Bool :=
  keyExists k && (match (homeOf k).1 with
    | 0 => false
    | 1 => s.inPod && bits k 35 29 == 0
    | _ => true)

/-- A write from outside the package (a host or a peer). -/
def outsideWrite (s : State) (a : Nat) (bs : List Byte) : State :=
  if (List.range bs.length).all fun i => outsideMay s (a + i) then storeBytes s a bs else s

/-- A soft error makes a unit of memory uncorrectable (R452). -/
def softError (s : State) (key : Nat) : State :=
  if keyExists key && !(s.poison.contains (unitOf key)) then { s with poison := unitOf key :: s.poison } else s

/-- A segment of a tile row fails its parity (R452). -/
def tileError (s : State) (c seg : Nat) : State :=
  modCore s c fun k => if k.bad.contains seg then k else { k with bad := seg :: k.bad }

/-- A lifetime record counts what the management controller sees (R456). -/
def lifetimeCount (s : State) (rec place : Nat) : State := if rec ≤ lifeHOURS then count s rec place else s

/-- What a context holds without a check, struck by a soft error: registers and the replay buffer (R455). -/
def upsetCtx (t v : Ctx) : Ctx :=
  { t with
    g := v.g, h := v.h, q := v.q, p := v.p ||| 1, k := v.k, n := v.n, y := v.y, flags := v.flags &&& flagsWritable
    codebook := v.codebook, flights := v.flights, longs := v.longs }

/-- What a core holds without a check, struck by a soft error: contexts, port slots, arrays and the Lantern (R455). -/
def upset (s : State) (c : Nat) (v : Core) : State :=
  modCore s c fun k => { k with
    ctx := Vector.ofFn fun i => upsetCtx k.ctx[i] v.ctx[i]
    ports := v.ports, serving := v.serving, banks := v.banks, acc := v.acc, latA := v.latA, latB := v.latB
    lantern := { v.lantern with phase := k.lantern.phase, owner := k.lantern.owner } }

/-- An instruction that a turn may name as an event: neither a bundle operation nor a microinstruction. -/
def isEvent : Instr → Bool
  | .nop .. | .pld .. | .sgld .. | .glim .. | .kgth .. | .vgth .. | .qkmm .. | .osmx .. | .pvmm | .rscl | .owrt
  | .sgap .. | .ewait .. | .bsig .. | .loops .. | .brc .. | .done | .saddi .. | .smovi .. => false
  | i => (encode i).isNone

end Sys2Proof.Machine
end

