-- ==== Sys2Proof/Machine/Step.lean ====
section
/-!
DEFINITION. One step of the package: the next turn of the schedule, and the placing of one instruction for the host.
-/
namespace Sys2Proof.Machine

/-- What a core's turn comes to. -/
def runIssued : Issued → Host.Outcome State Fault Refusal
  | .idle s => .next s
  | .one i s => exec i s
  | .many ops s => .next (runGroup ops s)

/-- What a Lantern's turn comes to. -/
def runLantern : Option Instr × State → Host.Outcome State Fault Refusal
  | (some i, s) => exec i s
  | (none, s) => .next s

/-- One turn. -/
def runTurn (t : Turn) (s : State) : Host.Outcome State Fault Refusal :=
  match t with
  | .issue c => runIssued (issueTurn s c)
  | .lantern c => runLantern (lanternTurn s c)
  | .event i => if isEvent i then exec i s else .next s
  | .tick => .next (tick s)
  | .far c x i => .next (farTurn s c x i)
  | .request c x => .next (sendRequest s c x)
  | .outside a bs => .next (outsideWrite s a bs)
  | .barWrite o bs => barWrite s o bs
  | .barRead o n => barRead s o n
  | .softError k => .next (softError s k)
  | .tileError c g => .next (tileError s c g)
  | .credit p l => .next (creditReturns s p l)
  | .lifetime r i => .next (lifetimeCount s r i)
  | .factoryClear => .next { s with life := [] }
  | .tableError => .next (tableError s)
  | .upset c v => .next (upset s c v)
  | .groupReady g => .next (groupReady s g)
  | .slabEntry => .next (slabEntry s)
  | .bringUp => .next (bringUp s)
  | .raiseRollback v => .next (raiseRollback s v)
  | .portRate p v => .next (limitRate s p v)
  | .checkpoint => .next (checkpoint s)
  | .restore => .next (restore s)

/-- One step of the package. -/
def step (s : State) : Host.Outcome State Fault Refusal :=
  let r := nextTurn s
  runTurn r.1 r.2

/-- The parcels that hold a word of the opcode table as a bundle: a header for its slot, and the word; a NOP is a header
itself, with an empty second bundle after it where S = 0. -/
def placedParcels (nbits w : Nat) : List Nat :=
  match decodeTableWord nbits w with
  | some (.nop st _) => if st then [w] else [w, 8]
  | some i => match encode i with
    | some (slot, _) => encodeHeader ⟨2 ^ slot, true, false⟩ :: parcelsOf (slotParcels slot) w
    | none => parcelsOf (nbits / 16) w
  | none => parcelsOf (nbits / 16) w

/-- The word is a microinstruction, which the Lantern fetches. -/
def isMicroWord (nbits w : Nat) : Bool :=
  match decodeTableWord nbits w with
  | some i => (encodeMicro i).isSome
  | none => false

/-- Context 0 of core 0 with a segment of code at address 0, about to issue its first group. -/
def placeCode (ps : List Nat) (k : Core) : Core :=
  { k.put 0 { k.get 0 with
      st := .current, pc := 0, seg := 0, half0 := some ⟨0, 0, ps⟩, half1 := none, asyncs := [], frzAt := none } with
    lastIssue := none }

/-- The Lantern of core 0 with a microword at address 0, about to run it. -/
def placeMicro (w : Nat) (k : Core) : Core :=
  { k with control := alSet k.control 0 w, lantern := { k.lantern with phase := .running, pc := 0, owner := 0 } }

/-- The package with a word of the opcode table where its next turn fetches: a bundle of one operation in core 0's
loop buffer, or a microword in its control store (log 2 says how a program comes to run from reset). -/
def State.withFetchWord (s : State) (nbits w : Nat) : State :=
  if isMicroWord nbits w then { modCore s 0 (placeMicro w) with sched := [.lantern 0] }
  else { modCore s 0 (placeCode (placedParcels nbits w)) with sched := [.issue 0], landed := none }

end Sys2Proof.Machine
end

