-- ==== Sys2Proof/Safety.lean ====
section
/-!
DEFINITION. The terms in which claims are stated: a run that completes, a group of one operation that nothing holds back,
what such a group leaves unchanged, and the invariant of the package.
-/
namespace Sys2Proof.Machine

/-- The outcome is a next state. -/
def completes (o : Host.Outcome State Fault Refusal) : Bool :=
  match o with
  | .next _ => true
  | _ => false

/-- A run of `n` steps from a state is safe: every step gives a next state. -/
def SafeRun (n : Nat) (s : State) : Prop := completes (Sys2Proof.core.run n s) = true

/-! ## A group of one operation -/

/-- The values the sources name at the start of the group (R78). -/
def srcVals (srcs : List Src) (a : State) : List Word := (readSrcs a.me srcs (List.replicate 8 0)).1

/-- How many entries of each queue register the sources pop (R78). -/
def srcPops (srcs : List Src) (a : State) : List Nat := (readSrcs a.me srcs (List.replicate 8 0)).2

/-- A g source is full (R76). -/
def srcFull (t : Ctx) : Src → Bool
  | .g i _ => t.full.getLsbD i.val
  | .q _ _ => true

/-- Nothing holds back a group that is the operation `o` alone and whose guard holds: no in-place wait of R63, R92 or
R351, no trap of R144, no block of R62; and no LOOPN block is running. -/
def goes (o : Op) (s : State) : Bool :=
  let a := startCycle s
  let t := a.me
  let v := srcVals o.srcs a
  !(rowLate (delivered s) s.issue.core s.issue.ctx) && (lateKeys a a.issue.core a.issue.ctx).isEmpty && t.loopn.isNone
    && (o.decode a).isNone && guardHolds t o.guard && o.srcs.all (srcFull t)
    && (underflows t o.srcs (List.replicate 8 0)).isEmpty && (o.dsts.all fun d => t.full.getLsbD d.val)
    && !(scoreboard a.myCore (o.tileR a) (o.tileW a)) && !(o.stall a v) && !(o.empty a v)
    && (overflows t [⟨o, v, []⟩] (srcPops o.srcs a)).isEmpty && (o.traps a v).isEmpty && (o.block a v).isNone
    && (aqBlock a [⟨o, v, []⟩]).isNone && (o.kick a v).isNone

/-- Nothing holds back a group of one operation so far as its operands go: its guard holds (R79), its g sources are full
(R76), its queue sources have entries (R78), its g destinations are full (R77), its pushes find room (R78), and no result
it could read is late (R351). -/
def clear (gd : Guard) (srcs : List Src) (dsts : List (Fin 32)) (pushes : List (Fin 8)) (s : State) : Bool :=
  goes { slot := 0, guard := gd, srcs := srcs, dsts := dsts, pushes := pushes } s

/-- The issuing context of `a` after its group, before what the group's operation does to it: queue entries popped, the
program counter past the group, or where the branch or the skip `g` or the loops take it (R89, R147, R154), and the issue
cycle counted. -/
def advancedTo (a : State) (srcs : List Src) (g : Option (Bool × Nat)) : Ctx :=
  countCycle a (moveOn (srcPops srcs a) (flow a.me a.issue.next g) a.me)

/-- The issuing context of `a` after a group that goes on behind it. -/
def advanced (a : State) (srcs : List Src) : Ctx := advancedTo a srcs none

/-- Between `a` and `b` nothing has changed but the issuing context and what its core notes of an issue: all of memory,
every table, every other core, the tiles and engines of this one, and its other contexts are as they were; D = 1 has given
up the matrix unit. -/
def OnlyMe (a b : State) : Prop :=
  b = { a with cores := b.cores } ∧
  (∀ c, c ≠ a.issue.core → getCore b c = getCore a c) ∧
  { getCore b a.issue.core with ctx := a.myCore.ctx } = noteIssue a (giveUp a.issue.d a.issue.ctx a.myCore) ∧
  ∀ x, x % 4 ≠ a.issue.ctx % 4 → getCtx b a.issue.core x = getCtx a a.issue.core x

/-- A result of a class put in flight by the issuing context of `a`, its row entered `row` issue cycles after this one: due
the class's latency after this issue cycle (R61, R82); the padding of R350 and the interlock of R351 by the image's table. -/
def flightFrom (row : Nat) (a : State) (cls extra : Nat) (w : Write) : Flight :=
  let T := a.me.lat.getD cls 1
  let L := partLatency.getD cls 1
  ⟨a.me.icyc + T + extra, if T < L then a.ck + L + extra else 0, a.ck + T + extra, a.me.icyc, cls, a.me.icyc + row, w⟩

/-- A result of a class put in flight by the issuing context of `a` in this issue cycle. -/
def flightOf (a : State) (cls extra : Nat) (w : Write) : Flight := flightFrom 0 a cls extra w

/-- The results in flight once a result with flags has been added: the flags fold as it lands (R40). -/
def landing (a : State) (cls : Nat) (w : Write) (f : Flags) : List Flight :=
  let fs := insertFlight (flightOf a cls 0 w) a.me.flights
  if f = 0 then fs else insertFlight (flightOf a cls 0 (.flags f)) fs

/-- The instruction issues as a group of its own and gives one exposed result of a class, with flags; it changes nothing
else. -/
def Gives (i : Instr) (s : State) (srcs : List Src) (cls : Nat) (w : Write) (f : Flags) : Prop :=
  ∃ t, exec i s = .next t ∧ OnlyMe (startCycle s) t ∧
    t.me = { advanced (startCycle s) srcs with flights := landing (startCycle s) cls w f }

/-- The instruction issues as a group of its own and changes only the issuing context, as `f` says. -/
def IssuesAs (i : Instr) (s : State) (f : Ctx) : Prop :=
  ∃ t, exec i s = .next t ∧ OnlyMe (startCycle s) t ∧ t.me = f

/-- The instruction issues as a group of its own and gives one long-latency result after `lat` ck, with flags; its
register is empty until then (R75). -/
def GivesLong (i : Instr) (s : State) (srcs : List Src) (lat : Nat) (d : Fin 32) (v : Word) (f : Flags) : Prop :=
  let a := startCycle s
  IssuesAs i s { advanced a srcs with
    full := a.me.full &&& ~~~((1 : BitVec 32) <<< d.val)
    longs := a.me.longs ++ [⟨a.ck + lat, d, v, f⟩] }

/-- Another context of the issuing core is Ready (R62). -/
def OtherReady (s : State) : Prop :=
  ∃ x, x < 4 ∧ x ≠ s.issue.ctx % 4 ∧ (getCtx s s.issue.core x).st = .ready

/-- The issuing context of `s` stands in `t` as `u` says, its group blocked: Blocked, its core given up, where another context
of the core is Ready; otherwise it keeps the core, to try again in the next ck (R62). -/
def BlocksAs (u : Ctx) (s t : State) : Prop :=
  (OtherReady s → t.me = { u with st := .blocked }) ∧ (¬OtherReady s → t.me = u)

/-- The group blocks on condition `n` of R62; its context keeps its registers and its place. -/
def Blocks (n : Nat) (s t : State) : Prop := BlocksAs (s.me.waits s.ck n) s t

/-- The package of `a` as the effect of its group's operation finds it: D = 1 has given up the matrix unit (R93), the queue
entries are popped, and control has moved on. -/
def before (a : State) (srcs : List Src) (g : Option (Bool × Nat)) : State :=
  (modCore a a.issue.core (giveUp a.issue.d a.issue.ctx)).modMe (moveOn (srcPops srcs a) (flow a.me a.issue.next g))

/-- The issue cycle of `a`'s group counted in the package that its effect left. -/
def after (a t : State) : State := modCore (t.modMe (countCycle a)) a.issue.core (noteIssue a)

/-- The instruction issues as a group of its own, with control going to `g` (none: on), and its effect is `f`, a function of
the package at the start of the group and of the package so far. -/
def Runs (i : Instr) (s : State) (srcs : List Src) (g : Option (Bool × Nat)) (f : State → State → State) : Prop :=
  exec i s = .next (after (startCycle s) (f (startCycle s) (before (startCycle s) srcs g)))

/-! ## What commands and engines leave -/

/-- Between `a` and `b` memory, the tables, the barriers and all else of the package are as they were, and so are every
other core, and this core's tiles, scale latches, Lantern and other contexts: only the issuing context, the books of the
core's engines and port slots, reports, and the counter of free values can differ. -/
def Keeps (a b : State) : Prop :=
  (∃ cs irq life f, b = { a with cores := cs, supIrq := irq, life := life, freeCtr := f }) ∧
  (∀ c, c ≠ a.issue.core → getCore b c = getCore a c) ∧
  (∀ x, x % 4 ≠ a.issue.ctx % 4 → getCtx b a.issue.core x = getCtx a a.issue.core x) ∧
  b.myCore.tiles = a.myCore.tiles ∧ b.myCore.latA = a.myCore.latA ∧ b.myCore.latB = a.myCore.latB ∧
  b.myCore.control = a.myCore.control ∧ b.myCore.lantern = a.myCore.lantern ∧ b.myCore.acc = a.myCore.acc

/-- The context `t` with the reports, and the state they left, of the context `u`. -/
def withReports (t u : Ctx) : Ctx := { t with asyncs := u.asyncs, st := u.st }

/-- A write of an operation of many rows: the issue cycles from the operation's own to the entry of the row it comes
from, its cycles past the class's latency, and the write. -/
abbrev RowWrite := Nat × Nat × Write

/-- The results in flight once writes of a class have been added. -/
def addFlights (a : State) (cls : Nat) (ws : List RowWrite) : List Flight :=
  ws.foldl (fun fs w => insertFlight (flightFrom w.1 a cls w.2.1 w.2.2) fs) a.me.flights

/-- The rows of an operation of slot T or R that are still to enter, one each `pace` issue cycles (R227, R233, R248). -/
def rowsToEnter (a : State) (i : Instr) (pace : Nat) : List RowsOp :=
  if rowCount i ≤ 1 then [] else [⟨a.myCore.opSeq, i, a.me.icyc, a.ck, 1, a.issue.addr, 0, none, pace⟩]

/-- The instruction issues as a group of its own, puts the writes of a class in flight and has the rows `rows` still to
enter; no register, tile or byte of memory has changed yet. -/
def Lands (i : Instr) (s : State) (srcs : List Src) (cls : Nat) (rows : List RowsOp) (ws : List RowWrite) : Prop :=
  ∃ t, exec i s = .next t ∧ Keeps (startCycle s) t ∧
    t.me = withReports { advanced (startCycle s) srcs with
      flights := addFlights (startCycle s) cls ws, rows := (startCycle s).me.rows ++ rows } t.me

/-- The instruction issues as a group of its own and enters its context's queue of commands as `m`, behind those there, in
its place of program order; no register, tile or byte of memory has changed yet. -/
def Queued (i : Instr) (s : State) (srcs : List Src) (m : Cmd) : Prop :=
  let a := startCycle s
  ∃ t, exec i s = .next t ∧ Keeps a t ∧
    t.me = withReports { advanced a srcs with uid := a.me.uid + 1, cmds := a.me.cmds ++ [{ m with start := a.me.uid }] } t.me

/-- The number by which commands that bind port slots queue for them (R244): that of a command without a slot is 0. -/
def portSeq (a : State) (p : Option (Fin 16)) : Nat := if p.isSome then a.myCore.opSeq else 0

/-- What a command that binds a slot has still to reach apart from its chunks (R240, R271). -/
def portLater (a : State) (p : Option (Fin 16)) : List Nat :=
  match p with
  | none => []
  | some n => slotLater (a.myCore.port n.val)

/-- The elements of a range of rows of tile name `st`, in row order (R227). -/
def rangeElems (a : State) (st first n : Nat) (f : Fmt) : List Nat :=
  (List.range n).flatMap fun r =>
    elemsOf f.width (perRow f.width) (readRow a a.myCore (a.me.tbase + st) (first + r)).toNat

/-- The writes of result rows of slot T: row `j` follows row 0 by `j` issue cycles, with the flags of its elements
(R227); it counts as that of source row `j`, or of the last one, `last`, where there are more result rows (log 88). -/
def rowWritesOf (icyc last tile row : Nat) (f : Fmt) (rows : List (List Elem)) : List RowWrite :=
  rows.zipIdx.flatMap fun p =>
    let j := p.2
    let fl := elemFlags p.1
    (min j last, j, .tile tile (row + j) 0 (Row.toBytes (rowOf f.width (p.1.map (·.1))))) ::
      if fl = 0 then [] else [(min j last, j, .rowFlags (icyc + min j last) fl)]

/-- A word of the Lantern runs and leaves the Lantern of its core as `l`; nothing else of the package changes. -/
def LanternGives (i : Instr) (s : State) (l : Lantern) : Prop :=
  exec i s = .next (modCore s s.issue.core fun k => { k with lantern := l })

/-- A word of the Lantern enters the queue of the starting context as `m` and leaves the Lantern as `l`; memory and tiles
are as they were. -/
def LanternQueues (i : Instr) (s : State) (l : Lantern) (m : Cmd) : Prop :=
  let k := s.myCore
  let x := k.lantern.owner
  exec i s = .next (modCore s s.issue.core fun k =>
    { k.put x { k.get x with uid := (k.get x).uid + 1, cmds := (k.get x).cmds ++ [m] } with lantern := l })

/-! ## Results as the spec states them -/

/-- The vault address `ad` passes the checks of R143 for `n` bytes, and stands at the physical vault address `p`. -/
def atVault (a : State) (ad n p : Nat) : Prop :=
  ad < 2 ^ 33 ∧ ad % n = 0 ∧ vaultPlace a a.issue.core a.issue.ctx ad n = some p

/-- The value of source `i` of a group at a state (R78): what the source names once the results due have been
delivered. -/
def val (srcs : List Src) (s : State) (i : Nat) : Word := operand (srcVals srcs (startCycle s)) i

/-- An integer operation at 64 bits or, with `.w`, on bits 31..0 of each source, the 32-bit result sign-extended
(R141). -/
def atWidth (w : Bool) (f : (n : Nat) → BitVec n → BitVec n → BitVec n) (x z : Word) : Word :=
  if w then (f 32 (x.setWidth 32) (z.setWidth 32)).signExtend 64 else f 64 x z

/-- A relation at 64 bits or, with `.w`, on bits 31..0 of each operand (R162). -/
def relAtWidth (w : Bool) (r : (n : Nat) → BitVec n → BitVec n → Bool) (x z : Word) : Bool :=
  if w then r 32 (x.setWidth 32) (z.setWidth 32) else r 64 x z

/-! ## The invariant -/

/-- The invariant of the package: its memory is in canonical form. -/
def State.Inv (s : State) : Prop := Memory.wf s.mem = true

end Sys2Proof.Machine
end

