-- ==== Sys2Proof/WellFormed.lean ====
section
/-!
DEFINITION. Which terms of the syntax are instructions: the checks on field values that the types do not make. A term that
is not well formed has no encoding (spec 04 R104 to R131).
-/
namespace Sys2Proof

/-- With ACC = 1 the result fields of MMUL and MMULS are zero (R125). -/
def accForm (acc : Bool) (zt : Fin 32) (zf : Zf) (pz : Option (Fin 16)) : Bool :=
  !acc || (zt == 0 && zf == .f32 && pz == none)

/-- The term is an instruction. -/
def Instr.wf : Instr → Bool
  | .fcvti _ _ _ _ rm => rm != .sr
  | .icvtf _ _ _ _ rm => rm != .sr
  | .shlImm _ _ w _ _ c => (!w || decide (c.val < 32))
  | .shrImm _ _ w _ _ c => (!w || decide (c.val < 32))
  | .sraImm _ _ w _ _ c => (!w || decide (c.val < 32))
  | .rotrImm _ _ w _ _ c => (!w || decide (c.val < 32))
  | .bara _ _ bar => bar.val != 0x3FF
  | .barw _ _ bar => bar.val != 0x3FF
  | .barp _ _ bar _ => bar.val != 0x3FF
  | .tblrd _ _ tbl _ => decide (tbl.val < 9)
  | .tblwr _ tbl _ _ => decide (tbl.val < 9)
  | .aadd _ sz _ _ _ => decide (2 ≤ sz.val)
  | .amax _ sz _ _ _ => decide (2 ≤ sz.val)
  | .amin _ sz _ _ _ => decide (2 ≤ sz.val)
  | .acas _ sz _ _ _ => decide (2 ≤ sz.val)
  | .aswp _ sz _ _ _ => decide (2 ≤ sz.val)
  | .dqpop _ d => (match d with | .h _ => false | _ => true)
  | .dqpopt _ _ _ seg => decide (seg.val < 12)
  | .mmul _ _ _ _ _ _ acc zt zf _ pz => accForm acc zt zf pz
  | .mmuls _ _ _ _ _ _ acc zt zf _ pz _ _ => accForm acc zt zf pz
  | .tld _ _ _ _ _ _ _ p _ rm _ => (p.isSome || rm == .rne)
  | .tst _ _ _ _ _ _ _ p _ rm _ => (p.isSome || rm == .rne)
  | .tldc _ _ _ _ _ _ _ _ _ _ xr => decide (xr.val < 6)
  | .twin _ _ _ _ a _ _ p _ rm _ => ((p.isSome || rm == .rne) && a.i != 31)
  | .tgath2 _ _ _ _ a _ _ _ _ _ => a.i != 31
  | .nset _ _ l _ _ => decide (l.val < 6)
  | .nop .. | .add .. | .addImm .. | .sub .. | .subImm .. | .and .. | .andImm .. | .or .. | .orImm .. | .xor ..
   | .xorImm .. | .andn .. | .andnImm .. | .min .. | .minImm .. | .max .. | .maxImm .. | .minu .. | .minuImm ..
   | .maxu .. | .maxuImm .. | .clz .. | .popc .. | .cmpeq .. | .cmpeqImm .. | .cmpne .. | .cmpneImm .. | .cmplt ..
   | .cmpltImm .. | .cmple .. | .cmpleImm .. | .cmpltu .. | .cmpltuImm .. | .cmpleu .. | .cmpleuImm .. | .div ..
   | .divImm .. | .divu .. | .divuImm .. | .rem .. | .remImm .. | .remu .. | .remuImm .. | .fabs .. | .fneg ..
   | .fadd .. | .fsub .. | .fmul .. | .fmin .. | .fmax .. | .fcmpeq .. | .fcmplt .. | .fcmple .. | .fcmpun ..
   | .fdiv .. | .fsqrt .. | .fma .. | .movw .. | .mul .. | .mulImm .. | .mulh .. | .mulhImm .. | .mulhu ..
   | .mulhuImm .. | .shl .. | .shr .. | .sra .. | .rotr .. | .bra .. | .bri .. | .call .. | .breakI .. | .trapi ..
   | .ctxfrz .. | .ctxres .. | .drain .. | .eret .. | .fence .. | .lnstart .. | .loop .. | .loopImm .. | .loopn ..
   | .nsub .. | .retire .. | .xrd .. | .xwr .. | .ld .. | .ldsx .. | .st .. | .tmcst .. | .pAnd .. | .pOr ..
   | .pXor .. | .pAndn .. | .vcmp .. | .aqpush .. | .aqstat .. | .kset .. | .kseti .. | .kclr .. | .xcvt ..
   | .xexp .. | .xtbl .. | .xtrn .. | .xhad .. | .mldb .. | .tdaddr .. | .tdaddrAq .. | .tdesc .. | .tdleaf ..
   | .tdpath .. | .rsum .. | .rmax .. | .rssq .. | .rnorm .. | .rsortk .. | .rcmpr .. | .tgath .. | .tscat ..
   | .tredAdd .. | .tredMax .. | .nclr .. | .nmcSgdfade .. | .nmcFill .. | .nmcCopy .. | .nmcScale .. | .nmcAccum ..
   | .nmfence .. | .lsend .. | .lrecv .. | .lstat .. | .imgdec .. | .slabgrow .. | .lanternStart | .pld ..
   | .sgld .. | .glim .. | .kgth .. | .vgth .. | .qkmm .. | .osmx .. | .pvmm | .rscl | .owrt | .sgap .. | .ewait ..
   | .bsig .. | .loops .. | .brc .. | .done | .saddi .. | .smovi .. | .exposedResultDelivery ..
   | .longLatencyLanding .. | .tmcstLanding | .watchdog .. | .segmentExpansion .. | .chunkPerform .. | .ringClaim ..
   | .dataQueueArrival .. | .asyncTrap .. | .nmcExecution .. | .imageDecode .. | .slabgrowChunk .. | .freezeLimit ..
   | .contextFreeze .. | .saveImageWritten .. | .shoot .. | .wake .. | .barrierCfgWrite .. | .barrierForce ..
   | .pkgWordWrite .. | .scopeWordWrite .. | .pageFaultService .. | .pageEviction .. | .copyOnWrite .. | .nodeAccept
   | .dispatch .. | .nodeAging .. | .nodeComplete .. | .groupEnd .. | .groupMigration .. | .messageSend ..
   | .messageReceive .. | .laneLoss .. | .flitReplayLimit .. | .trainingFrame .. | .trainingEnd ..
   | .trainingTimeout .. | .portDrainRequest .. | .portResetRequest .. | .fabricPathLoss .. | .alloc .. | .free ..
   | .copyin .. | .copyout .. | .load .. | .unload .. | .submit .. | .queryNode .. | .queryKernel .. | .queryPort ..
   | .queryPool .. | .outboxRead .. | .cstatWrite .. | .pcieLinkLoss | .attestation .. | .packageReset ..
   | .testModeRequest | .powerClampWindow .. | .thermalTrip .. | .requestDropped .. | .malformedRequest .. => true

end Sys2Proof
end

