-- ==== Sys2Proof/Certificates/Slice0/Obligations.lean ====
section
/-!
DEFINITION. The statements for the provers. What a statement says of values that the spec leaves open it says of every
value; where the spec is silent on a point the model's choice stands in the log entry that the docstring, or this list,
names: a group that traps has taken the results due in its issue cycle (`delivered`; log 17); a byte that nothing has
written reads as 0 (log 1); registers without a reset value in the spec (log 5); the trap handler of a supervisor core
(log 4). `Claims` are the parts of statements of several clauses.
-/
open Sys2Proof Sys2Proof.Machine


/-- R66, R67: the registers of a context at placement, but for those the kernel's launch gives: every g register full, h
and y registers and the saved trap registers 0, queue registers empty, p0 = 1 and the other predicates 0, every k
register all ones, no exception flag; the nest bounds of a context before any placement are 0. The last clause gives
the launch values of R354: g0 the rank, g4 on the argument words, every other g register 0, the launch nests in the n
registers. It is Ready once its group has started (`Obligations.EventsOfNodes`). -/
def Obligations.PlacementValues : Prop :=
  ∀ (ck kid gid rank tbase gsc : Nat) (b : List Byte) (args : List (List Byte)) (c x : Nat),
    let holds := fun (t : Ctx) =>
      t.full = 0xFFFFFFFF ∧ (∀ i : Fin 16, t.h[i] = 0) ∧ (∀ i : Fin 8, t.q[i] = []) ∧
        (∀ i : Nat, t.p.getLsbD i = decide (i = 0)) ∧ (∀ i : Fin 8, t.k[i] = BitVec.allOnes 64) ∧
        (∀ i : Fin 64, t.y[i] = ⟨0, 0, 0⟩) ∧ t.flags = 0 ∧ t.xcause = 0 ∧ t.xepc = 0 ∧ t.xtval = 0 ∧ t.xport = 0 ∧
        t.xelem = 0 ∧ t.xfwdo = 0 ∧ t.xfwdn = 0 ∧ t.xfwdw = 0
    let t := launchCtx ck kid gid rank tbase gsc b args
    holds t ∧ holds (getCtx State.reset c x) ∧
      (∀ i : Fin 32, (getCtx State.reset c x).g[i] = 0) ∧
      (∀ (i : Fin 8) (l : Fin 6), ((getCtx State.reset c x).n[i])[l] = 0) ∧
      t.st = .free ∧ t.group = gid ∧ t.rank = rank ∧ t.kernel = kid ∧ t.pc = imgEntry b ∧
      t.g[(0 : Fin 32)] = BitVec.ofNat 64 rank ∧
      (∀ i : Fin 32, 0 < i.val → i.val < 4 → t.g[i] = 0) ∧
      (∀ i : Fin 32, 4 ≤ i.val → t.g[i] = BitVec.ofNat 64 (leNat (args.getD (i.val - 4) []))) ∧
      ∀ (i : Fin 8) (l : Fin 6), (t.n[i])[l] = BitVec.ofNat 64 (imgNest b i.val l.val)

/-- The invariant holds at reset, where memory lists nothing. -/
def Obligations.ResetInvariant : Prop := State.reset.Inv ∧ ∀ k, memGet State.reset.mem k = 0

/-- Every step of the package keeps the canonical form of its memory, whichever agent's turn it is. -/
def Obligations.StepKeepsInvariant : Prop := ∀ s t : State, s.Inv → step s = .next t → t.Inv

/-- R96 to R98, R136: what the encoder writes for a well-formed instruction, the decoder reads as that instruction and no
other: a field word in its slot, a bundle of one operation, a no-operation header, a microword. Every operation of a slot has a
field word, and every instruction that is no event has one of the three. -/
def Obligations.RoundTrip : Prop :=
  ∀ i : Instr, i.wf = true →
    (∀ slot w, encode i = some (slot, w) → decodeSlot slot w = some i ∧
      ∃ b, decodeBundle false (encodeOne i) = .ok b ∧ b.head = ⟨2 ^ slot, true, false⟩ ∧ b.instrs = [i]) ∧
    (∀ w, encodeMicro i = some w → decodeMicro w = some i) ∧
    (∀ s d, i = .nop s d → ∃ b, decodeBundle false (encodeOne i) = .ok b ∧ b.head = ⟨0, s, d⟩ ∧ b.instrs = [i]) ∧
    ((opOf i).isSome = true → (encode i).isSome = true) ∧
    (isEvent i = false → i = .lanternStart ∨ (∃ s d, i = .nop s d) ∨ (encode i).isSome = true ∨ (encodeMicro i).isSome = true)

/-- Words of the spec's worked encodings, and words written out field by field from the tables of R119 to R123, decode to
the instructions they stand for: one of every slot, a bundle, a microword and a port word. -/
def Obligations.DecodedWords : Prop :=
  let gd : Guard := ⟨false, 0⟩
  decodeHeader 0x0008 = some ⟨0, true, false⟩ ∧
    (decodeBundle false [0x00E4, 0xC20C, 0x2020, 0x248A, 0x0002, 0x0C02, 0x00C5]).toOption = some ⟨⟨0x00E, false, true⟩,
      [.addImm false ⟨false, 2⟩ false (.g 3) (.g 4 false) 12, .add true gd false (.g 8) (.g 9 true) (.g 10 false),
        .ld gd 3 5 ⟨6, false⟩ 2]⟩ ∧
    decodeSlot 0 0x05200000 = some (.fence gd 2) ∧ decodeSlot 0 0x0D082060 = some (.tblwr gd 1 ⟨2, false⟩ ⟨3, false⟩) ∧
    decodeSlot 4 0x06CA = some (.pOr gd true 3 1 2) ∧ decodeSlot 5 0x02280000 = some (.dqpop gd (.g 5)) ∧
    decodeSlot 6 0x066FE000 = some (.kseti gd true 3 0x7F) ∧ decodeSlot 7 0x040086000000 = some (.xtbl gd 1 3) ∧
    decodeSlot 8 0x0200004804000000 = some (.mmul gd 0 0 0 1 .mxi8 false 4 .f32 none none) ∧
    decodeSlot 9 0x0800018000000000 = some (.rsortk gd 0 0 3 0 0 0) ∧
    decodeSlot 10 0x000C00C220140200 = some (.tld gd 3 0 3 ⟨4, false⟩ 2 5 none .f32 .rne false) ∧
    decodeSlot 11 0x0228 = some (.vcmp ⟨4, false⟩ 5) ∧
    decodeMicro 0x1189000000000000 = some (.glim 3 1 2) ∧
    decodePort 0x65420001 = some ⟨.qnt, .w 1, .x, .e 0, .x, .rne, .i8⟩

/-- R60, R63, R103: a turn of a core whose chosen context stands at a group that decodes, with no report pending and no
freeze point reached, runs that group: one operation is `exec` of it, several are one group; the latch holds the
group's address, the address after it and D. Two bundles, the first with S = 0, are one group: the operations of both in
ascending slot order, with D of the first. A turn of a core's Lantern runs the microword at its program counter, and a turn
that names an event runs it. -/
def Obligations.StepRunsDecoded : Prop :=
  ∀ (s : State) (ts : List Turn) (c x : Nat) (h : Half) (b : Bundle) (i : Instr) (is : List Instr),
    let s0 := { s with sched := ts }
    let a := landDue (makeCurrent s0 c x) c x
    let t := getCtx a c x
    let u := { setSeg a c x with issue := ⟨c, x, t.pc, t.pc, t.pc + 2 * b.head.parcels, b.head.d, 0, 0⟩ }
    (s.sched = .issue c :: ts → (getCore s0 c).lastIssue ≠ some s.ck → s.landed ≠ some s.ck →
        chooseCtx s0 c = some x → t.asyncs = [] →
        atFreezePoint a c x = false → t.pc % 2 = 0 → halfAt t t.pc = some h →
        decodeBundle (isSup c) (h.from_ t.pc) = .ok b →
      (b.head.s = true → b.instrs = [i] → step s = exec i u) ∧
        (b.head.s = true → b.instrs = is → 2 ≤ is.length → step s = .next (runGroup (opsOf is) u)) ∧
        ∀ (b2 : Bundle) (ps : List (Nat × Instr)), b.head.s = false →
          decodeBundle (isSup c) ((h.from_ t.pc).drop b.head.parcels) = .ok b2 → b2.head.s = true → b2.head.d = false →
          b.head.mask &&& b2.head.mask = 0 → loopEnd t (t.pc + 2 * b.head.parcels) = false →
          ps.Perm (b.head.slots.zip b.ops ++ b2.head.slots.zip b2.ops) → ps.Pairwise (fun p q => p.1 < q.1) →
          let at2 := t.pc + 2 * b.head.parcels
          let v := { setSeg a c x with issue := ⟨c, x, t.pc, at2, at2 + 2 * b2.head.parcels, b.head.d, b2.head.mask, 0⟩ }
          (ps = [] → step s = exec (.nop false b.head.d) v) ∧
            (∀ p, ps = [p] → step s = exec p.2 v) ∧
            (2 ≤ ps.length → step s = .next (runGroup (opsOf (ps.map (·.2))) v))) ∧
    (s.sched = .event i :: ts → isEvent i = true → step s = exec i s0) ∧
    (s.sched = .lantern c :: ts → (getCore s c).lantern.phase = .running → (getCore s c).lantern.pc < 512 →
      decodeMicro (controlWord (getCore s c) (getCore s c).lantern.pc) = some i →
      step s = exec i { s0 with issue := { s.issue with core := c } })

/-- R79: an operation whose guard is false has no effect: its group spends its issue cycle and goes on. A port-program
word that does not decode still traps with ILLEGAL_ENC. -/
def Obligations.GuardFalse : Prop :=
  ∀ (i : Instr) (o : Op) (s : State), opOf i = some o →
    let a := startCycle s
    rowLate (delivered s) s.issue.core s.issue.ctx = false →
    (o.decode a = none → lateKeys a a.issue.core a.issue.ctx = [] → a.me.loopn = none →
        guardHolds a.me o.guard = false → IssuesAs i s (advanced a [])) ∧
      (∀ idx, o.decode a = some idx →
        exec i s = .next (takeTrap (delivered s) s.issue.core s.issue.ctx causeILLEGAL
          (illegalVal idx (inSecond a o.slot) 14) s.issue.addr))

/-- R76, R77, R78: an operation waits in place for a source written `.b` and for a destination while their g register is
empty; an empty source written `.t` traps with EARLY_READ, a queue register without an entry with QREG_UNF, and one
whose entries would pass four with QREG_OVF, each with the register's number in xtval and no other effect. -/
def Obligations.OperandChecks : Prop :=
  ∀ (i : Instr) (o : Op) (s : State), opOf i = some o →
    let a := startCycle s
    let v := srcVals o.srcs a
    let waits := o.srcs.any (blockedSrc a.me) || o.dsts.any fun d => !a.me.full.getLsbD d.val
    let early := o.srcs.filterMap (earlySrc a.me)
    let under := underflows a.me o.srcs (List.replicate 8 0)
    let full := overflows a.me [⟨o, v, under⟩] (srcPops o.srcs a)
    let trap := fun (cause tval : Nat) =>
      Host.Outcome.next (takeTrap (delivered s) s.issue.core s.issue.ctx cause tval s.issue.addr)
    rowLate (delivered s) s.issue.core s.issue.ctx = false → o.decode a = none →
    lateKeys a a.issue.core a.issue.ctx = [] → a.me.loopn = none → guardHolds a.me o.guard = true →
    (waits = true → exec i s = .next (stallGroup s)) ∧
      (waits = false → scoreboard a.myCore (o.tileR a) (o.tileW a) = false → o.stall a v = false → o.empty a v = false →
        (∀ n l, early = n :: l → (∀ r ∈ o.traps a v, 2 < r.step) → exec i s = trap causeEARLY n) ∧
        (∀ n l, early = [] → under = n :: l → (∀ r ∈ o.traps a v, 3 < r.step) → exec i s = trap causeQUNF n) ∧
        (∀ n sl l, early = [] → under = [] → full = (n, sl) :: l → (∀ r ∈ o.traps a v, 3 < r.step) →
          exec i s = trap causeQOVF n))

/-- R98: a header whose MASK is 0 is a bundle of one parcel, on a compute core and on a supervisor core, and no other
instruction is one; the bundle issues, spends one issue cycle and has no other effect. -/
def Obligations.NopIssues : Prop :=
  (∀ (super st d : Bool) (rest : List Nat), ∃ b, decodeBundle super (encodeHeader ⟨0, st, d⟩ :: rest) = .ok b ∧
      b.head = ⟨0, st, d⟩ ∧ b.head.parcels = 1 ∧ b.instrs = [.nop st d]) ∧
  (∀ slot w st d, decodeSlot slot w ≠ some (.nop st d)) ∧
  ∀ (st d : Bool) (s : State),
    let u := { s with issue := { s.issue with d := d } }
    rowLate (delivered u) u.issue.core u.issue.ctx = false → (startCycle u).me.loopn = none →
      ∃ t, exec (.nop st d) s = .next t ∧ OnlyMe (startCycle u) t ∧ t.me = advanced (startCycle u) []

/-- R177: the four operations of slot P put one class 4 result in flight, D := A op B bitwise over one bit or 64 bits,
from the values at the start of the group; nothing holds them back but their guard, which names a predicate even for
masks, and nothing else changes. Their fields stand as R119 lays them out, every value with a meaning. A write to p0
is discarded, so p0 goes on reading as 1. -/
def Obligations.PredicateResults : Prop :=
  ∀ (gd : Guard) (k : Bool) (d x y : Fin 8) (s : State),
    let t := (startCycle s).me
    let p := fun (i : Fin 8) => t.p.getLsbD i.val
    (clear gd [] [] [] s = true →
      Gives (.pAnd gd false d x y) s [] 4 (.p d (p x && p y)) 0 ∧
      Gives (.pOr gd false d x y) s [] 4 (.p d (p x || p y)) 0 ∧
      Gives (.pXor gd false d x y) s [] 4 (.p d (p x != p y)) 0 ∧
      Gives (.pAndn gd false d x y) s [] 4 (.p d (p x && !(p y))) 0 ∧
      Gives (.pAnd gd true d x y) s [] 4 (.k d (t.k[x] &&& t.k[y])) 0 ∧
      Gives (.pOr gd true d x y) s [] 4 (.k d (t.k[x] ||| t.k[y])) 0 ∧
      Gives (.pXor gd true d x y) s [] 4 (.k d (t.k[x] ^^^ t.k[y])) 0 ∧
      Gives (.pAndn gd true d x y) s [] 4 (.k d (t.k[x] &&& ~~~t.k[y])) 0) ∧
    (∀ op : Fin 4, decodeSlot 4 (gd.code * 2 ^ 12 + op.val * 2 ^ 10 + k.toNat * 2 ^ 9 + d.val * 64 + x.val * 8 + y.val) =
      some (match op with
        | 0 => .pAnd gd k d x y
        | 1 => .pOr gd k d x y
        | 2 => .pXor gd k d x y
        | 3 => .pAndn gd k d x y)) ∧
    ∀ (c n : Nat) (v : Bool), (getCtx (applyWrite s c n (.p d v)) c n).p.getLsbD 0 = (getCtx s c n).p.getLsbD 0

/-- R87, R178: VCMP of equal values goes on and changes nothing; of values that differ it traps with DUP_MISMATCH, the
group has no effect, and xtval is their difference bit by bit; both are read at the start of the group. It carries no
guard, and its fields stand as R122 lays them out. -/
def Obligations.VcmpResults : Prop :=
  ∀ (r : GSrc) (hb : Fin 16) (s : State),
    let a := startCycle s
    let x := val [gs r] s 0
    (clear ⟨false, 0⟩ [gs r] [] [] s = true →
      (x = a.me.h[hb] → IssuesAs (.vcmp r hb) s (advanced a [gs r])) ∧
        (x ≠ a.me.h[hb] → exec (.vcmp r hb) s =
          .next (takeTrap (delivered s) s.issue.core s.issue.ctx 0x07 (x ^^^ a.me.h[hb]).toNat s.issue.addr))) ∧
      decodeSlot 11 (r.code * 2 ^ 7 + hb.val * 2 ^ 3) = some (.vcmp r hb)

/-- R160, R161, R141: ADD, SUB, AND, OR, XOR, ANDN, MIN, MAX, MINU, MAXU in both forms, CLZ and POPC. Whenever nothing
holds the group back, it issues and puts in flight one class 0 result for its destination: the operation on the
operands' 64 bits or, with `.w`, the 32-bit result sign-extended. Nothing else changes. -/
def Claims.IntegerResults : Prop :=
  ∀ (s1 : Bool) (gd : Guard) (w : Bool) (d : Reg) (a b : Src) (imm : BitVec 7) (s : State),
    let x := val [a, b] s 0
    let z := val [a, b] s 1
    let xi := val [a] s 0
    let i := imm.signExtend 64
    (clear gd [a, b] (Dest.full d) (Dest.push d) s = true →
        Gives (.add s1 gd w d a b) s [a, b] 0 (Dest.write d (atWidth w (fun _ x z => x + z) x z)) 0) ∧
      (clear gd [a] (Dest.full d) (Dest.push d) s = true →
        Gives (.addImm s1 gd w d a imm) s [a] 0 (Dest.write d (atWidth w (fun _ x z => x + z) xi i)) 0) ∧
      (clear gd [a, b] (Dest.full d) (Dest.push d) s = true →
        Gives (.sub s1 gd w d a b) s [a, b] 0 (Dest.write d (atWidth w (fun _ x z => x - z) x z)) 0) ∧
      (clear gd [a] (Dest.full d) (Dest.push d) s = true →
        Gives (.subImm s1 gd w d a imm) s [a] 0 (Dest.write d (atWidth w (fun _ x z => x - z) xi i)) 0) ∧
      (clear gd [a, b] (Dest.full d) (Dest.push d) s = true →
        Gives (.and s1 gd w d a b) s [a, b] 0 (Dest.write d (atWidth w (fun _ x z => x &&& z) x z)) 0) ∧
      (clear gd [a] (Dest.full d) (Dest.push d) s = true →
        Gives (.andImm s1 gd w d a imm) s [a] 0 (Dest.write d (atWidth w (fun _ x z => x &&& z) xi i)) 0) ∧
      (clear gd [a, b] (Dest.full d) (Dest.push d) s = true →
        Gives (.or s1 gd w d a b) s [a, b] 0 (Dest.write d (atWidth w (fun _ x z => x ||| z) x z)) 0) ∧
      (clear gd [a] (Dest.full d) (Dest.push d) s = true →
        Gives (.orImm s1 gd w d a imm) s [a] 0 (Dest.write d (atWidth w (fun _ x z => x ||| z) xi i)) 0) ∧
      (clear gd [a, b] (Dest.full d) (Dest.push d) s = true →
        Gives (.xor s1 gd w d a b) s [a, b] 0 (Dest.write d (atWidth w (fun _ x z => x ^^^ z) x z)) 0) ∧
      (clear gd [a] (Dest.full d) (Dest.push d) s = true →
        Gives (.xorImm s1 gd w d a imm) s [a] 0 (Dest.write d (atWidth w (fun _ x z => x ^^^ z) xi i)) 0) ∧
      (clear gd [a, b] (Dest.full d) (Dest.push d) s = true →
        Gives (.andn s1 gd w d a b) s [a, b] 0 (Dest.write d (atWidth w (fun _ x z => x &&& ~~~z) x z)) 0) ∧
      (clear gd [a] (Dest.full d) (Dest.push d) s = true →
        Gives (.andnImm s1 gd w d a imm) s [a] 0 (Dest.write d (atWidth w (fun _ x z => x &&& ~~~z) xi i)) 0) ∧
      (clear gd [a, b] (Dest.full d) (Dest.push d) s = true →
        Gives (.min s1 gd w d a b) s [a, b] 0 (Dest.write d (atWidth w (fun _ x z => if x.slt z then x else z) x z)) 0) ∧
      (clear gd [a] (Dest.full d) (Dest.push d) s = true →
        Gives (.minImm s1 gd w d a imm) s [a] 0 (Dest.write d (atWidth w (fun _ x z => if x.slt z then x else z) xi i)) 0) ∧
      (clear gd [a, b] (Dest.full d) (Dest.push d) s = true →
        Gives (.max s1 gd w d a b) s [a, b] 0 (Dest.write d (atWidth w (fun _ x z => if x.slt z then z else x) x z)) 0) ∧
      (clear gd [a] (Dest.full d) (Dest.push d) s = true →
        Gives (.maxImm s1 gd w d a imm) s [a] 0 (Dest.write d (atWidth w (fun _ x z => if x.slt z then z else x) xi i)) 0) ∧
      (clear gd [a, b] (Dest.full d) (Dest.push d) s = true →
        Gives (.minu s1 gd w d a b) s [a, b] 0 (Dest.write d (atWidth w (fun _ x z => if x.ult z then x else z) x z)) 0) ∧
      (clear gd [a] (Dest.full d) (Dest.push d) s = true →
        Gives (.minuImm s1 gd w d a imm) s [a] 0 (Dest.write d (atWidth w (fun _ x z => if x.ult z then x else z) xi i)) 0) ∧
      (clear gd [a, b] (Dest.full d) (Dest.push d) s = true →
        Gives (.maxu s1 gd w d a b) s [a, b] 0 (Dest.write d (atWidth w (fun _ x z => if x.ult z then z else x) x z)) 0) ∧
      (clear gd [a] (Dest.full d) (Dest.push d) s = true →
        Gives (.maxuImm s1 gd w d a imm) s [a] 0 (Dest.write d (atWidth w (fun _ x z => if x.ult z then z else x) xi i)) 0) ∧
      (clear gd [a] (Dest.full d) (Dest.push d) s = true →
        Gives (.clz s1 gd w d a) s [a] 0 (Dest.write d (atWidth w (fun _ x _ => x.clz) xi 0)) 0) ∧
      (clear gd [a] (Dest.full d) (Dest.push d) s = true →
        Gives (.popc s1 gd w d a) s [a] 0 (Dest.write d (atWidth w (fun _ x _ => x.cpop) xi 0)) 0)

/-- R162: CMPEQ, CMPNE, CMPLT, CMPLE, CMPLTU and CMPLEU in both forms put one class 3 predicate in flight, the relation of
the operands at 64 bits or, with `.w`, of their bits 31..0. Nothing else changes. -/
def Claims.CompareResults : Prop :=
  ∀ (s1 : Bool) (gd : Guard) (w : Bool) (pd : Fin 8) (a b : Src) (imm : BitVec 7) (s : State),
    let x := val [a, b] s 0
    let z := val [a, b] s 1
    let xi := val [a] s 0
    let i := imm.signExtend 64
    (clear gd [a, b] [] [] s = true →
        Gives (.cmpeq s1 gd w pd a b) s [a, b] 3 (.p pd (relAtWidth w (fun _ x z => x == z) x z)) 0) ∧
      (clear gd [a] [] [] s = true →
        Gives (.cmpeqImm s1 gd w pd a imm) s [a] 3 (.p pd (relAtWidth w (fun _ x z => x == z) xi i)) 0) ∧
      (clear gd [a, b] [] [] s = true →
        Gives (.cmpne s1 gd w pd a b) s [a, b] 3 (.p pd (relAtWidth w (fun _ x z => x != z) x z)) 0) ∧
      (clear gd [a] [] [] s = true →
        Gives (.cmpneImm s1 gd w pd a imm) s [a] 3 (.p pd (relAtWidth w (fun _ x z => x != z) xi i)) 0) ∧
      (clear gd [a, b] [] [] s = true →
        Gives (.cmplt s1 gd w pd a b) s [a, b] 3 (.p pd (relAtWidth w (fun _ x z => x.slt z) x z)) 0) ∧
      (clear gd [a] [] [] s = true →
        Gives (.cmpltImm s1 gd w pd a imm) s [a] 3 (.p pd (relAtWidth w (fun _ x z => x.slt z) xi i)) 0) ∧
      (clear gd [a, b] [] [] s = true →
        Gives (.cmple s1 gd w pd a b) s [a, b] 3 (.p pd (relAtWidth w (fun _ x z => x.sle z) x z)) 0) ∧
      (clear gd [a] [] [] s = true →
        Gives (.cmpleImm s1 gd w pd a imm) s [a] 3 (.p pd (relAtWidth w (fun _ x z => x.sle z) xi i)) 0) ∧
      (clear gd [a, b] [] [] s = true →
        Gives (.cmpltu s1 gd w pd a b) s [a, b] 3 (.p pd (relAtWidth w (fun _ x z => x.ult z) x z)) 0) ∧
      (clear gd [a] [] [] s = true →
        Gives (.cmpltuImm s1 gd w pd a imm) s [a] 3 (.p pd (relAtWidth w (fun _ x z => x.ult z) xi i)) 0) ∧
      (clear gd [a, b] [] [] s = true →
        Gives (.cmpleu s1 gd w pd a b) s [a, b] 3 (.p pd (relAtWidth w (fun _ x z => x.ule z) x z)) 0) ∧
      (clear gd [a] [] [] s = true →
        Gives (.cmpleuImm s1 gd w pd a imm) s [a] 3 (.p pd (relAtWidth w (fun _ x z => x.ule z) xi i)) 0)

/-- Results of the integer operations, counts and compares in every form. -/
def Obligations.IntegerArithmetic : Prop :=
  Claims.IntegerResults ∧ Claims.CompareResults

/-- R163: DIV, DIVU, REM and REMU in both forms mark D empty and give the quotient or the remainder 14 ck later: all ones
and x for a zero divisor, the least value and 0 where the signed quotient would overflow, truncation toward zero
otherwise; at 64 bits or, with `.w`, at 32 with the result sign-extended. Nothing else changes. -/
def Claims.DivideResults : Prop :=
  ∀ (s1 : Bool) (gd : Guard) (w : Bool) (d : Fin 32) (a b : Src) (imm : BitVec 7) (s : State),
    let x := val [a, b] s 0
    let z := val [a, b] s 1
    let xi := val [a] s 0
    let i := imm.signExtend 64
    (clear gd [a, b] [d] [] s = true →
        GivesLong (.div s1 gd w d a b) s [a, b] 14 d (atWidth w (fun n x z => if z = 0 then BitVec.allOnes n else x.sdiv z) x z) 0) ∧
      (clear gd [a] [d] [] s = true →
        GivesLong (.divImm s1 gd w d a imm) s [a] 14 d (atWidth w (fun n x z => if z = 0 then BitVec.allOnes n else x.sdiv z) xi i) 0) ∧
      (clear gd [a, b] [d] [] s = true →
        GivesLong (.divu s1 gd w d a b) s [a, b] 14 d (atWidth w (fun n x z => if z = 0 then BitVec.allOnes n else x.udiv z) x z) 0) ∧
      (clear gd [a] [d] [] s = true →
        GivesLong (.divuImm s1 gd w d a imm) s [a] 14 d (atWidth w (fun n x z => if z = 0 then BitVec.allOnes n else x.udiv z) xi i) 0) ∧
      (clear gd [a, b] [d] [] s = true →
        GivesLong (.rem s1 gd w d a b) s [a, b] 14 d (atWidth w (fun _ x z => if z = 0 then x else x.srem z) x z) 0) ∧
      (clear gd [a] [d] [] s = true →
        GivesLong (.remImm s1 gd w d a imm) s [a] 14 d (atWidth w (fun _ x z => if z = 0 then x else x.srem z) xi i) 0) ∧
      (clear gd [a, b] [d] [] s = true →
        GivesLong (.remu s1 gd w d a b) s [a, b] 14 d (atWidth w (fun _ x z => if z = 0 then x else x.umod z) x z) 0) ∧
      (clear gd [a] [d] [] s = true →
        GivesLong (.remuImm s1 gd w d a imm) s [a] 14 d (atWidth w (fun _ x z => if z = 0 then x else x.umod z) xi i) 0)

/-- R171, R172: MUL, MULH, MULHU put in flight, in class 1, the low or the high half of the product, and SHL, SHR, SRA,
ROTR, in class 0, the operand shifted or rotated by the count's low 6 bits, or low 5 with `.w`; in both forms. Nothing
else changes. -/
def Claims.MultiplyShiftResults : Prop :=
  ∀ (s1 : Bool) (gd : Guard) (w : Bool) (d : Reg) (a b : Src) (imm : BitVec 7) (c : Fin 64) (s : State),
    let x := val [a, b] s 0
    let z := val [a, b] s 1
    let xi := val [a] s 0
    let i := imm.signExtend 64
    (clear gd [a, b] (Dest.full d) (Dest.push d) s = true →
        Gives (.mul s1 gd w d a b) s [a, b] 1 (Dest.write d (atWidth w (fun _ x z => x * z) x z)) 0) ∧
      (clear gd [a] (Dest.full d) (Dest.push d) s = true →
        Gives (.mulImm s1 gd w d a imm) s [a] 1 (Dest.write d (atWidth w (fun _ x z => x * z) xi i)) 0) ∧
      (clear gd [a, b] (Dest.full d) (Dest.push d) s = true →
        Gives (.mulh s1 gd w d a b) s [a, b] 1 (Dest.write d (atWidth w (fun n x z => ((x.signExtend (2 * n) * z.signExtend (2 * n)).sshiftRight n).setWidth n) x z)) 0) ∧
      (clear gd [a] (Dest.full d) (Dest.push d) s = true →
        Gives (.mulhImm s1 gd w d a imm) s [a] 1 (Dest.write d (atWidth w (fun n x z => ((x.signExtend (2 * n) * z.signExtend (2 * n)).sshiftRight n).setWidth n) xi i)) 0) ∧
      (clear gd [a, b] (Dest.full d) (Dest.push d) s = true →
        Gives (.mulhu s1 gd w d a b) s [a, b] 1 (Dest.write d (atWidth w (fun n x z => ((x.setWidth (2 * n) * z.setWidth (2 * n)) >>> n).setWidth n) x z)) 0) ∧
      (clear gd [a] (Dest.full d) (Dest.push d) s = true →
        Gives (.mulhuImm s1 gd w d a imm) s [a] 1 (Dest.write d (atWidth w (fun n x z => ((x.setWidth (2 * n) * z.setWidth (2 * n)) >>> n).setWidth n) xi i)) 0) ∧
      (clear gd [a, b] (Dest.full d) (Dest.push d) s = true →
        Gives (.shl s1 gd w d a b) s [a, b] 0 (Dest.write d (atWidth w (fun n x z => x <<< (z.toNat % n)) x z)) 0) ∧
      (clear gd [a] (Dest.full d) (Dest.push d) s = true →
        Gives (.shlImm s1 gd w d a c) s [a] 0 (Dest.write d (atWidth w (fun n x z => x <<< (z.toNat % n)) xi (BitVec.ofNat 64 c.val))) 0) ∧
      (clear gd [a, b] (Dest.full d) (Dest.push d) s = true →
        Gives (.shr s1 gd w d a b) s [a, b] 0 (Dest.write d (atWidth w (fun n x z => x >>> (z.toNat % n)) x z)) 0) ∧
      (clear gd [a] (Dest.full d) (Dest.push d) s = true →
        Gives (.shrImm s1 gd w d a c) s [a] 0 (Dest.write d (atWidth w (fun n x z => x >>> (z.toNat % n)) xi (BitVec.ofNat 64 c.val))) 0) ∧
      (clear gd [a, b] (Dest.full d) (Dest.push d) s = true →
        Gives (.sra s1 gd w d a b) s [a, b] 0 (Dest.write d (atWidth w (fun n x z => x.sshiftRight (z.toNat % n)) x z)) 0) ∧
      (clear gd [a] (Dest.full d) (Dest.push d) s = true →
        Gives (.sraImm s1 gd w d a c) s [a] 0 (Dest.write d (atWidth w (fun n x z => x.sshiftRight (z.toNat % n)) xi (BitVec.ofNat 64 c.val))) 0) ∧
      (clear gd [a, b] (Dest.full d) (Dest.push d) s = true →
        Gives (.rotr s1 gd w d a b) s [a, b] 0 (Dest.write d (atWidth w (fun n x z => x.rotateRight (z.toNat % n)) x z)) 0) ∧
      (clear gd [a] (Dest.full d) (Dest.push d) s = true →
        Gives (.rotrImm s1 gd w d a c) s [a] 0 (Dest.write d (atWidth w (fun n x z => x.rotateRight (z.toNat % n)) xi (BitVec.ofNat 64 c.val))) 0)

/-- Results of divide, remainder, multiply, shift and rotate in every form. -/
def Obligations.DivideMultiplyShift : Prop :=
  Claims.DivideResults ∧ Claims.MultiplyShiftResults

/-- R164 to R167, R169, R170 (and R37 for the values, which `fadd32` and the rest compute; `FloatEdges` states their
edges): FABS, FNEG, FADD, FSUB, FMUL, FMIN, FMAX, FMA, FCVTI and ICVTF put one class 2 result in flight, with the
numeric flags it folds as it lands; MOVW puts a class 0 result in flight. FMA reads D as its addend and MOVW keeps the
other bits of D, both as D stands at the start of the group. Nothing else changes. -/
def Claims.FloatResults : Prop :=
  ∀ (s1 : Bool) (gd : Guard) (d : Reg) (e : Fin 32) (a b : Src) (rm : Rm) (hw : Fin 4) (z : Bool) (imm : BitVec 16)
    (s : State),
    let x := lowF (val [a, b] s 0)
    let y := lowF (val [a, b] s 1)
    let u := lowF (val [a] s 0)
    let old := (startCycle s).me.g[e]
    let w := fun (r : Nat × Flags) => Dest.write d (BitVec.ofNat 64 (r.1 % 2 ^ 32))
    (clear gd [a] (Dest.full d) (Dest.push d) s = true →
        Gives (.fabs s1 gd d a) s [a] 2 (w (fabs32 u, 0)) 0 ∧ Gives (.fneg s1 gd d a) s [a] 2 (w (fneg32 u, 0)) 0 ∧
        Gives (.fcvti s1 gd d a rm) s [a] 2 (Dest.write d (BitVec.ofInt 64 (convertInt 32 true rm 0 (f32v u)).1))
          (convertInt 32 true rm 0 (f32v u)).2 ∧
        Gives (.icvtf s1 gd d a rm) s [a] 2 (w (fp32.convert rm 0 (.ofInt (val [a] s 0).toInt)))
          (fp32.convert rm 0 (.ofInt (val [a] s 0).toInt)).2) ∧
      (clear gd [a, b] (Dest.full d) (Dest.push d) s = true →
        Gives (.fadd s1 gd d a b) s [a, b] 2 (w (fadd32 x y)) (fadd32 x y).2 ∧
        Gives (.fsub s1 gd d a b) s [a, b] 2 (w (fsub32 x y)) (fsub32 x y).2 ∧
        Gives (.fmul s1 gd d a b) s [a, b] 2 (w (fmul32 x y)) (fmul32 x y).2 ∧
        Gives (.fmin s1 gd d a b) s [a, b] 2 (w (fminmax32 false x y)) (fminmax32 false x y).2 ∧
        Gives (.fmax s1 gd d a b) s [a, b] 2 (w (fminmax32 true x y)) (fminmax32 true x y).2) ∧
      (clear gd [a, b] [e] [] s = true →
        Gives (.fma s1 gd e a b) s [a, b] 2 (.g e (BitVec.ofNat 64 ((ffma32 x y (lowF old)).1 % 2 ^ 32)))
          (ffma32 x y (lowF old)).2) ∧
      (clear gd [] [e] [] s = true →
        Gives (.movw s1 gd hw z e imm) s [] 0
          (.g e (if z then imm.setWidth 64 <<< (16 * hw.val)
            else (old &&& ~~~((0xFFFF : Word) <<< (16 * hw.val))) ||| (imm.setWidth 64 <<< (16 * hw.val)))) 0)

/-- R166, R168: FCMPEQ, FCMPLT, FCMPLE and FCMPUN put one class 3 predicate in flight, with their flags; FDIV and FSQRT
mark D empty and give their result and their flags 14 ck later. Nothing else changes. -/
def Claims.FloatCompareDivideResults : Prop :=
  ∀ (s1 : Bool) (gd : Guard) (pd : Fin 8) (d : Fin 32) (a b : Src) (s : State),
    let x := lowF (val [a, b] s 0)
    let y := lowF (val [a, b] s 1)
    let u := lowF (val [a] s 0)
    (clear gd [a, b] [] [] s = true →
        Gives (.fcmpeq s1 gd pd a b) s [a, b] 3 (.p pd (fcmp32 .eq x y).1) (fcmp32 .eq x y).2 ∧
        Gives (.fcmplt s1 gd pd a b) s [a, b] 3 (.p pd (fcmp32 .lt x y).1) (fcmp32 .lt x y).2 ∧
        Gives (.fcmple s1 gd pd a b) s [a, b] 3 (.p pd (fcmp32 .le x y).1) (fcmp32 .le x y).2 ∧
        Gives (.fcmpun s1 gd pd a b) s [a, b] 3 (.p pd (fcmp32 .un x y).1) (fcmp32 .un x y).2) ∧
      (clear gd [a, b] [d] [] s = true →
        GivesLong (.fdiv s1 gd d a b) s [a, b] 14 d (BitVec.ofNat 64 ((fdiv32 x y).1 % 2 ^ 32)) (fdiv32 x y).2) ∧
      (clear gd [a] [d] [] s = true →
        GivesLong (.fsqrt s1 gd d a) s [a] 14 d (BitVec.ofNat 64 ((fsqrt32 u).1 % 2 ^ 32)) (fsqrt32 u).2)

/-- R164, R165, R166, R168, R169: the edges of FP32 arithmetic, over every pair of patterns. FABS clears and FNEG inverts
the sign of what is not a NaN; a NaN gives the canonical NaN. A finite non-zero value over zero is a signed infinity
and sets no flag; 0/0 and infinity over infinity give the canonical NaN and set INV. The root of -0 is -0, and of a
value below zero the canonical NaN with INV. An infinity times zero in FMA gives the canonical NaN and sets INV,
whatever the addend. FMIN and FMAX order -0 below +0 and give the canonical NaN for any NaN. An exact zero sum is +0,
but (-0) + (-0) is -0. FCMPEQ, FCMPLT and FCMPLE do not hold of a NaN, FCMPUN holds exactly then, and -0 equals +0. -/
def Claims.FloatEdges : Prop :=
  ∀ (x y c : Word32),
    let isNan := fun (v : Word32) => v.toNat % 2 ^ 31 > 0x7F800000
    let isInf := fun (v : Word32) => v.toNat % 2 ^ 31 = 0x7F800000
    let isZero := fun (v : Word32) => v.toNat % 2 ^ 31 = 0
    let sign := fun (v : Word32) => v.toNat / 2 ^ 31
    let canonical := 0x7FC00000
    (isNan x → fabs32 x.toNat = canonical ∧ fneg32 x.toNat = canonical) ∧
      (¬ isNan x → fabs32 x.toNat = (x &&& 0x7FFFFFFF).toNat ∧ fneg32 x.toNat = (x ^^^ 0x80000000).toNat) ∧
      (¬ isNan x → ¬ isInf x → ¬ isZero x → isZero y →
        fdiv32 x.toNat y.toNat = ((sign x + sign y) % 2 * 2 ^ 31 + 0x7F800000, 0)) ∧
      ((isZero x ∧ isZero y) ∨ (isInf x ∧ isInf y) → fdiv32 x.toNat y.toNat = (canonical, flagINV)) ∧
      (fsqrt32 0x80000000 = (0x80000000, 0)) ∧
      (¬ isNan x → ¬ isZero x → sign x = 1 → fsqrt32 x.toNat = (canonical, flagINV)) ∧
      ((isInf x ∧ isZero y) ∨ (isZero x ∧ isInf y) → ffma32 x.toNat y.toNat c.toNat = (canonical, flagINV)) ∧
      (isNan x ∨ isNan y → (fminmax32 false x.toNat y.toNat).1 = canonical ∧ (fminmax32 true x.toNat y.toNat).1 = canonical) ∧
      (fminmax32 false 0x80000000 0 = (0x80000000, 0) ∧ fminmax32 false 0 0x80000000 = (0x80000000, 0) ∧
        fminmax32 true 0x80000000 0 = (0, 0) ∧ fminmax32 true 0 0x80000000 = (0, 0)) ∧
      (¬ isNan x → ¬ isInf x → ¬ isZero x → fadd32 x.toNat (x ^^^ 0x80000000).toNat = (0, 0)) ∧
      (isZero x → isZero y → fadd32 x.toNat y.toNat = (if sign x = 1 ∧ sign y = 1 then 0x80000000 else 0, 0)) ∧
      (isNan x ∨ isNan y → (fcmp32 .eq x.toNat y.toNat).1 = false ∧ (fcmp32 .lt x.toNat y.toNat).1 = false ∧
        (fcmp32 .le x.toNat y.toNat).1 = false) ∧
      ((fcmp32 .un x.toNat y.toNat).1 = true ↔ isNan x ∨ isNan y) ∧
      (isZero x → isZero y → (fcmp32 .eq x.toNat y.toNat).1 = true)

/-- Results, flags and edges of the FP32 operations; MOVW. -/
def Obligations.FloatingPoint : Prop :=
  Claims.FloatResults ∧ Claims.FloatCompareDivideResults ∧ Claims.FloatEdges

/-- R147: BRA goes to the address of its own bundle's header plus twice its signed parcel count, BRI to the even address
in its register, CALL as BRA with the address after the group put in flight for g31 in class 0; each when that address
lies in the kernel image's code. A LOOP goes on only where the target lies in its body. Nothing else changes. -/
def Claims.BranchResults : Prop :=
  ∀ (gd : Guard) (off : BitVec 23) (r : GSrc) (s : State),
    let a := startCycle s
    let own := if bitAt a.issue.second 0 then a.issue.addr2 else a.issue.addr
    let tgt := (((own : Int) + 2 * off.toInt) % 2 ^ 64).toNat
    let reg := (val [gs r] s 0).toNat
    let stays := fun (dst : Nat) => a.me.loop.filter fun l => decide (l.start ≤ dst ∧ dst < l.start + l.len)
    (clear gd [] [] [] s = true → codeCovers a a.me tgt = true →
        IssuesAs (.bra gd off) s { advanced a [] with pc := tgt, loop := stays tgt }) ∧
      (clear gd [] [31] [] s = true → codeCovers a a.me tgt = true →
        IssuesAs (.call gd off) s { advanced a [] with
          pc := tgt
          loop := stays tgt
          flights := landing a 0 (.g 31 (BitVec.ofNat 64 a.issue.next)) 0 }) ∧
      (clear gd [gs r] [] [] s = true → reg % 2 = 0 → codeCovers a a.me reg = true →
        IssuesAs (.bri gd r) s { advanced a [gs r] with pc := reg, loop := stays reg })

/-- R147, R103: a branch to an address outside the code traps with ILLEGAL_ENC, and a BRI to an odd address with ALIGN and
the address as xtval; the group has no other effect. -/
def Claims.BranchTraps : Prop :=
  ∀ (gd : Guard) (off : BitVec 23) (r : GSrc) (s : State),
    let a := startCycle s
    let tgt := branchTarget a off
    let reg := (val [gs r] s 0).toNat
    let whr := (if bitAt a.issue.second 0 then 16 else 0)
    let trap := fun (cause tval : Nat) =>
      Host.Outcome.next (takeTrap (delivered s) s.issue.core s.issue.ctx cause tval s.issue.addr)
    (clear gd [] [] [] s = true → codeCovers a a.me tgt = false →
        exec (.bra gd off) s = trap causeILLEGAL whr) ∧
      (clear gd [] [31] [] s = true → codeCovers a a.me tgt = false →
        exec (.call gd off) s = trap causeILLEGAL whr) ∧
      (clear gd [gs r] [] [] s = true → reg % 2 = 1 → exec (.bri gd r) s = trap causeALIGN reg) ∧
      (clear gd [gs r] [] [] s = true → reg % 2 = 0 → codeCovers a a.me reg = false →
        exec (.bri gd r) s = trap causeILLEGAL whr)

/-- BRA, BRI and CALL: the target, the link, the LOOP left or kept, and the traps. -/
def Obligations.Branches : Prop :=
  Claims.BranchResults ∧ Claims.BranchTraps

/-- R68, R148, R331: BREAK and TRAPI on a compute context take their trap: the group has no effect, xcause, xepc and xtval
are written, the context freezes where it stands with the trap's cause and waits for nothing, and of its running group every
other context that is Ready or Blocked freezes at once with PREEMPT, and the freeze reaches every other one that is Current, which
goes on. Memory and every register but those three keep their values. (The model's choice: a context that blocks while no other
of its core is Ready counts as Blocked, although R62 keeps it current, log 103.) -/
def Obligations.TrapEntry : Prop :=
  ∀ (gd : Guard) (imm : BitVec 16) (s : State), clear gd [] [] [] s = true → isSup s.issue.core = false →
    s.issue.ctx < 4 →
    let b := delivered s
    let entered := fun (t : State) (cause tval : Nat) =>
      t.mem = b.mem ∧ t.ck = b.ck ∧
        t.me.xcause = cause ∧ t.me.xepc = BitVec.ofNat 64 s.issue.addr ∧ t.me.xtval = BitVec.ofNat 64 tval ∧
        t.me.st = .freezing ∧ t.me.frzCause = cause ∧ t.me.frzPoint = some s.ck ∧
        t.me = { b.me with
          xcause := t.me.xcause, xepc := t.me.xepc, xtval := t.me.xtval, since := t.me.since, st := t.me.st,
          frzAt := t.me.frzAt, frzPoint := t.me.frzPoint, frzCause := t.me.frzCause, blk := 0, barWait := none,
          mark := none } ∧
        ∀ g, groupOf b b.me.group = some g → g.st = .running → ∀ p ∈ g.places, p.ctx < 4 →
          (p.core, p.ctx) ≠ (s.issue.core, s.issue.ctx) →
          let k := getCtx b p.core p.ctx
          let k' := getCtx t p.core p.ctx
          (k.st = .ready ∨ k.isBlocked = true → k'.st = .freezing ∧ k'.frzCause = causePREEMPT ∧ k'.frzPoint = some s.ck) ∧
            (k.st = .current → k.isBlocked = false → k' = { k with frzAt := some (k.frzAt.getD s.ck), since := s.ck })
    (∃ t, exec (.breakI gd) s = .next t ∧ entered t 0x0E 0) ∧
      (∃ t, exec (.trapi gd imm) s = .next t ∧ entered t 0x0F imm.toNat)

/-- R28, R151: on a supervisor core a trap goes to the trap handler with xcause, xepc and xtval written, and ERET ends the
handler: the next group is the bundle at xepc. On a compute context ERET traps with PRIV. (The model's choices: where the
handler stands, log 4; the bit `inTrap`, set while a handler runs and cleared by ERET, on which nothing else depends, and that a
trap in a handler is taken as any other, log 56.) -/
def Obligations.SupervisorTrapReturn : Prop :=
  ∀ (gd : Guard) (s : State), clear gd [] [] [] s = true →
    (isSup s.issue.core = true →
      (∃ t, exec (.breakI gd) s = .next t ∧ t.mem = s.mem ∧ t.me.xcause = 0x0E ∧
        t.me.xepc = BitVec.ofNat 64 s.issue.addr ∧ t.me.xtval = 0 ∧ t.me.pc = Config.supHandler s.issue.core ∧
        t.myCore.inTrap = true ∧ t.me.g = (delivered s).me.g ∧ t.me.st = (delivered s).me.st) ∧
      ∃ t, exec (.eret gd) s = .next t ∧ t.myCore.inTrap = false ∧
        t.me = { advanced (startCycle s) [] with pc := (startCycle s).me.xepc.toNat } ∧ t.mem = (startCycle s).mem) ∧
    (isSup s.issue.core = false → ∃ t, exec (.eret gd) s = .next t ∧ t.me.xcause = 0x03)

/-- R150, R152, R316: DRAIN goes on once every access of the context has performed, and waits in place before; FENCE goes
on once those within its scope have, and waits before. Neither changes anything else. -/
def Claims.DrainFenceResults : Prop :=
  ∀ (gd : Guard) (sc : Fin 8) (s : State), clear gd [] [] [] s = true →
    let a := startCycle s
    let code := if sc = 7 then a.me.gsc else sc.val
    (drained a a.issue.core a.issue.ctx = true → IssuesAs (.drain gd) s (advanced a [])) ∧
      (drained a a.issue.core a.issue.ctx = false → exec (.drain gd) s = .next (stallGroup s)) ∧
      (¬(sc = 7 ∧ code = 0) → outstandingIn a code a.issue.core a.issue.ctx = [] →
        IssuesAs (.fence gd sc) s (advanced a [])) ∧
      (outstandingIn a code a.issue.core a.issue.ctx ≠ [] → exec (.fence gd sc) s = .next (stallGroup s))

/-- R198: NMFENCE goes on and changes nothing once no earlier NMC of the context to its stack, or to any, is under way,
and waits in place while one is. -/
def Claims.NearMemoryFence : Prop :=
  ∀ (gd : Guard) (stack : Option (Fin 16)) (s : State), clear gd [] [] [] s = true →
    let a := startCycle s
    (nmcPending a a.issue.core a.issue.ctx stack = false → a.myCore.lanternOn = false →
        IssuesAs (.nmfence gd stack) s (advanced a [])) ∧
      (nmcPending a a.issue.core a.issue.ctx stack = true → exec (.nmfence gd stack) s = .next (stallGroup s)) ∧
      ((∀ m ∈ a.me.cmds, m.isNmc = false) → a.me.nmc = [] → nmcPending a a.issue.core a.issue.ctx stack = false)

/-- DRAIN, FENCE and NMFENCE go on exactly when what they order has performed. -/
def Obligations.DrainsAndFences : Prop :=
  Claims.DrainFenceResults ∧ Claims.NearMemoryFence

/-- R89, R154: LOOP in both forms, with a body that is whole and no LOOP active, starts its body's runs, or skips the body
where the count is 0; and the group that ends the body goes back to its first bundle while runs are left, and on after
the last, the LOOP then ended. -/
def Claims.LoopResults : Prop :=
  ∀ (gd : Guard) (len : Fin 256) (r : GSrc) (n : Fin 16384) (s : State),
    let a := startCycle s
    let body := 2 * (len.val + 1)
    let fits := bodyBroken a a.me a.issue.next (len.val + 1) = false ∧ a.me.loop = none
    let count := (val [gs r] s 0).toNat % 2 ^ 32
    let started := fun (srcs : List Src) (c : Nat) =>
      if c = 0 then { advanced a srcs with pc := a.issue.next + body }
      else { advanced a srcs with pc := a.issue.next, loop := some ⟨a.issue.next, body, c⟩ }
    (clear gd [gs r] [] [] s = true → fits → IssuesAs (.loop gd len r) s (started [gs r] count)) ∧
      (clear gd [] [] [] s = true → fits → IssuesAs (.loopImm gd len n) s (started [] n.val)) ∧
      ∀ l, a.me.loop = some l → a.me.loopn = none → a.issue.next = l.start + l.len →
        (advanced a []).pc = (if 1 < l.left then l.start else a.issue.next) ∧
        (advanced a []).loop = (if 1 < l.left then some { l with left := l.left - 1 } else none)

/-- A result in flight for a stage predicate of a LOOPN block of `n` stages. -/
def Claims.stageWrite (n : Nat) (f : Flight) : Bool :=
  match f.w with
  | .p i _ => decide (4 ≤ i.val ∧ i.val < 4 + n)
  | _ => false

/-- R71, R90, R155: LOOPN over a nest of N iterations with S stages, N at least 1, starts its N + S - 1 replays with the
stage predicate p4 set and, of p5 to p(3 + S), none; with N = 0 it skips the block. Of the other predicates and of
everything else nothing changes. -/
def Claims.LoopnStarts : Prop :=
  ∀ (gd : Guard) (st : Fin 4) (len : Fin 1024) (n : Fin 8) (ga gb : Fin 32) (s : State),
    let a := startCycle s
    let ws := nWords a.me n
    clear gd [] [] [] s = true → bodyBroken a a.me a.issue.next (len.val + 1) = false → a.me.loop = none →
      (nestIters ws = 0 → IssuesAs (.loopn gd st len n ga gb) s
        { advanced a [] with pc := a.issue.next + 2 * (len.val + 1) }) ∧
      (nestIters ws ≠ 0 → ∃ t, exec (.loopn gd st len n ga gb) s = .next t ∧ OnlyMe a t ∧
        t.me.loopn = some ⟨a.issue.next, 2 * (len.val + 1), ws, nestIters ws, st.val + 1, 0, ga, gb⟩ ∧
        t.me.p.getLsbD 4 = true ∧ (∀ i, 5 ≤ i → i < 5 + st.val → t.me.p.getLsbD i = false) ∧
        (∀ i, i < 4 ∨ 5 + st.val ≤ i → t.me.p.getLsbD i = a.me.p.getLsbD i) ∧
        t.me = { advanced a [] with
          loopn := t.me.loopn
          p := t.me.p
          flights := a.me.flights.filter fun f => !(Claims.stageWrite (st.val + 1) f && decide (f.due ≤ a.me.icyc + 1)) })

/-- R90, R155: the end of a LOOPN block's replay, at a group with no operation. The named registers move on by the offset
of the next iteration less that of this one, while one is left, as class 0 results; the block runs again from its first
bundle with the stage predicates of its next replay, or has ended after N + S - 1 replays; of the other predicates nothing
changes. A group before the block's end goes on within the block, and one whose named register is empty waits. -/
def Claims.LoopnRuns : Prop :=
  ∀ (st d : Bool) (s : State) (l : LoopnSt),
    let u := { s with issue := { s.issue with d := d } }
    let a := startCycle u
    let late := lateKeys a a.issue.core a.issue.ctx
    let adds := l.t + 1 < l.iters
    let regs := if l.ga = l.gb then [l.ga] else [l.ga, l.gb]
    let delta := offset l.levels (l.t + 1) - offset l.levels l.t
    let fs := if adds then addFlights a 0 (regs.map fun r => (0, 0, .g r (BitVec.ofInt 64 ((a.me.g[r]).toNat + delta))))
      else a.me.flights
    rowLate (delivered u) u.issue.core u.issue.ctx = false → a.me.loop = none → a.me.loopn = some l →
    (a.issue.next ≠ l.start + l.len → ∃ t, exec (.nop st d) s = .next t ∧ OnlyMe a t ∧
      t.me = { advanced a [] with pc := a.issue.next, loopn := some l }) ∧
    (a.issue.next = l.start + l.len → adds → (∃ r ∈ regs, a.me.full.getLsbD r.val = false) →
      exec (.nop st d) s = .next (stallGroup u)) ∧
    (a.issue.next = l.start + l.len →
      (adds → ∀ r ∈ regs, a.me.full.getLsbD r.val = true ∧ (0, r.val, 0) ∉ late) →
      ∃ t, exec (.nop st d) s = .next t ∧ OnlyMe a t ∧
        (l.t + 1 = l.iters + l.stages - 1 →
          t.me = { advanced a [] with pc := a.issue.next, loopn := none, flights := fs }) ∧
        (l.t + 1 < l.iters + l.stages - 1 → l.stages ≤ 4 →
          t.me = { advanced a [] with
            pc := l.start
            loopn := some { l with t := l.t + 1 }
            p := t.me.p
            flights := fs.filter fun f => !(Claims.stageWrite l.stages f && decide (f.due ≤ a.me.icyc + 1)) } ∧
          (∀ i, i < l.stages → t.me.p.getLsbD (4 + i) = decide (i ≤ l.t + 1 ∧ l.t + 1 < l.iters + i)) ∧
          ∀ i, i < 4 ∨ 4 + l.stages ≤ i → t.me.p.getLsbD i = a.me.p.getLsbD i))

/-- LOOP and LOOPN: starting, running again, ending and skipping a body. -/
def Obligations.Loops : Prop :=
  Claims.LoopResults ∧ Claims.LoopnStarts ∧ Claims.LoopnRuns

/-- R156, R373: NSUB, with its record in reach and no error under it, reads the record and appends it, with the client it
works for and the entries of its window table (R360), to the submission FIFO, which has room; with an error under it it submits
nothing, the context goes on, and UNCORRECTABLE is noted for the next bundle boundary with the address of the failing word
(R453); while the FIFO is full it waits in place. Registers and memory keep their values. -/
def Claims.NodeSubmission : Prop :=
  ∀ (gd : Guard) (r : GSrc) (s : State) (p : Nat), clear gd [gs r] [] [] s = true →
    let a := startCycle s
    let at_ := (val [gs r] s 0).toNat
    at_ < 2 ^ 33 → at_ % 64 = 0 → vaultPlace a a.issue.core a.issue.ctx at_ 64 = some p →
      farOverlaps a a.issue.core a.issue.ctx (vaultKey p) 64 = false →
      (a.fifo.length < 256 → poisoned a (vaultKey p) 64 = false →
        ∃ t, exec (.nsub gd r) s = .next t ∧
          OnlyMe { a with fifo := a.fifo ++
            [⟨submitter a a.issue.core a.issue.ctx, readBytes a.mem (vaultKey p) 64, tableMaps a a.issue.core⟩] } t ∧
          t.me = advanced a [gs r]) ∧
      (a.fifo.length < 256 → poisoned a (vaultKey p) 64 = true → a.me.st = .current →
        ∃ t i, exec (.nsub gd r) s = .next t ∧ t.mem = a.mem ∧ t.fifo = a.fifo ∧ i < 8 ∧
          (poisoned a (vaultKey p + 8 * i) 8 = true ∧ ∀ j, j < i → poisoned a (vaultKey p + 8 * j) 8 = false) ∧
          t.me = { advanced a [gs r] with
            asyncs := a.me.asyncs ++ [⟨0x13, a.issue.addr, at_ + 8 * i, none, none⟩] }) ∧
      (256 ≤ a.fifo.length → exec (.nsub gd r) s = .next (stallGroup s))

/-- R93, R157, R387: RETIRE of a compute context whose results, engines and accesses are all done ends its ownership of the
matrix unit and retires it; its group notes its rank, has Ended where it was the last, and is Frozen where it was Freezing and
every other context that has not retired is Frozen. -/
def Claims.RetireResults : Prop :=
  ∀ (gd : Guard) (s : State), clear gd [] [] [] s = true → isSup s.issue.core = false →
    let a := startCycle s
    let k := a.myCore
    a.me.flights = [] → a.me.rows = [] → engineBusy k a.issue.ctx = false → lanternOf k a.issue.ctx = false →
      drained a a.issue.core a.issue.ctx = true → isSup a.issue.core = false →
      ∃ t, exec (.retire gd) s = .next t ∧ t.mem = a.mem ∧
        t.me = { advanced a [] with st := .retired } ∧ t.myCore.owner ≠ .ctx a.issue.ctx ∧
        (∀ g, groupOf a a.me.group = some g → ∃ h, groupOf t a.me.group = some h ∧ h.retired = a.me.rank :: g.retired ∧
          ((∀ r, r < g.ctxs → r = a.me.rank ∨ r ∈ g.retired) → h.st = .ended) ∧
          ((∃ r, r < g.ctxs ∧ r ≠ a.me.rank ∧ r ∉ g.retired) → g.st ≠ .freezing →
            h = { g with retired := a.me.rank :: g.retired }) ∧
          (g.st = .freezing → (∃ r, r < g.ctxs ∧ r ≠ a.me.rank ∧ r ∉ g.retired) →
            (∀ q ∈ g.places, (getCtx t q.core q.ctx).st = .frozen ∨ (getCtx t q.core q.ctx).st = .retired) →
            h.st = .frozen)) ∧
        ∀ g, g.gid ≠ a.me.group → (g ∈ t.groups ↔ g ∈ a.groups)

/-- NSUB appends its record, and RETIRE ends its context. -/
def Obligations.SubmitAndRetire : Prop :=
  Claims.NodeSubmission ∧ Claims.RetireResults

/-- R28, R114, R158: TBLRD on a supervisor core whose index lies in the table puts the word in flight in class 0, and
TBLWR on the table's owner writes the word; a SHOOT waits in place, its translations dropped, while an access on its way holds
one of them (R420). An index past the table traps with RESERVED_COMBO and the index; on a compute context both trap
with PRIV, and so does a TBLWR on a supervisor core that does not own the table, and the table keeps its words. (The model's
choices: who owns tables 5, 6 and 8, log 8, and table 7, log 93.) -/
def Claims.TableInstructions : Prop :=
  ∀ (gd : Guard) (d : Fin 32) (tbl : Fin 16) (i v : GSrc) (s : State),
    let a := startCycle s
    let n := (val [gs i] s 0).toNat
    let m := (val [gs i, gs v] s 0).toNat
    let word := (val [gs i, gs v] s 1).toNat
    let owns := (tbl.val = 1 → dieOf a.issue.core % 2 = 0) ∧ (5 ≤ tbl.val → tbl.val ≠ 7 → a.issue.core = primary)
    (clear gd [gs i] [d] [] s = true → isSup a.issue.core = true → n < tableWords a.issue.core tbl.val →
        Gives (.tblrd gd d tbl i) s [gs i] 0 (.g d (BitVec.ofNat 64 (tableRead a a.issue.core tbl.val n))) 0) ∧
      (clear gd [gs i, gs v] [] [] s = true → isSup a.issue.core = true → owns → m < tableWords a.issue.core tbl.val →
        (¬(tbl.val = 1 ∧ m = 4096) ∨ shootHeld a (chipletOf a.issue.core) word = false →
          Runs (.tblwr gd tbl i v) s [gs i, gs v] none fun b t => tableWrite t b.issue.core tbl.val m word) ∧
        (tbl.val = 1 ∧ m = 4096 → shootHeld a (chipletOf a.issue.core) word = true →
          exec (.tblwr gd tbl i v) s = .next (shootDown (stallGroup s) (chipletOf a.issue.core) word))) ∧
      (clear gd [gs i] [d] [] s = true → isSup a.issue.core = true → tableWords a.issue.core tbl.val ≤ n →
        exec (.tblrd gd d tbl i) s =
          .next (takeTrap (delivered s) s.issue.core s.issue.ctx causeRESERVED n s.issue.addr)) ∧
      (clear gd [gs i, gs v] [] [] s = true → isSup a.issue.core = true → owns → tableWords a.issue.core tbl.val ≤ m →
        exec (.tblwr gd tbl i v) s =
          .next (takeTrap (delivered s) s.issue.core s.issue.ctx causeRESERVED m s.issue.addr)) ∧
      (clear gd [gs i] [d] [] s = true → isSup a.issue.core = false →
        ∃ t, exec (.tblrd gd d tbl i) s = .next t ∧ t.me.xcause = 0x03 ∧ t.tables = s.tables) ∧
      (clear gd [gs i, gs v] [] [] s = true → isSup a.issue.core = false ∨ ¬owns →
        ∃ t, exec (.tblwr gd tbl i v) s = .next t ∧ t.me.xcause = 0x03 ∧ t.tables = s.tables)

/-- R22, R384, R386, R396, R412, R413, R416: what a word of a table reads as once it has been written: its fields as written,
its reserved bits 0, V of a window-table entry cleared where the entry breaks its rules, and of a table that hardware writes
only what the supervisor sets; every other word of the table, and every other table, reads as before. SHOOT and WAKE read 0
(the model's choice: log 98). -/
def Claims.TableWords : Prop :=
  ∀ (c tbl i v : Nat) (s : State), isSup c = true → tbl < 9 → i < tableWords c tbl → v < 2 ^ 64 →
    let t := tableWrite s c tbl i v
    let was := fun n => tableRead s c tbl n
    let r := fun n => tableRead t c tbl n
    let f := fun hi lo => bits v hi lo * 2 ^ lo
    (∀ k n, k < 9 → k ≠ tbl → tableRead t c k n = tableRead s c k n) ∧
      (∀ n, n ≠ i → (tbl = 0 ∨ tbl = 4 → n / 4 ≠ i / 4) → r n = was n) ∧
      (tbl = 0 →
        let e := i / 4 * 4
        (∀ n, n ≠ i → n ≠ e → r n = was n) ∧
        (i ≠ e → r i = (if i % 4 = 1 then f 47 16 + f 11 0 else v) ∧ bits (r e) 63 1 = bits (was e) 63 1) ∧
        let w0 := if i = e then f 63 22 + f 0 0 else was e
        (i = e → bits (r e) 63 1 = bits w0 63 1) ∧
        bitAt (r e) 0 = (bitAt w0 0 && windowOk w0 (r (e + 1)) (r (e + 2)) (r (e + 3)))) ∧
      (tbl = 1 → r i = if i < 4096 then f 63 3 + f 0 0 else if i < 4098 then 0
        else if i = 4098 then f 63 40 + f 39 3 else f 39 3) ∧
      (tbl = 2 → r i = if i % 2 = 0 then f 63 48 + f 44 33 + f 29 23 + f 0 0 else f 32 12) ∧
      (tbl = 3 → r i = f 63 48 + f 44 29 + f 0 0) ∧
      (tbl = 4 → i % 4 = 1 →
        r i = if (getSlot s (chipletOf c) (slotIndex c i)).on then was i else f 63 24) ∧
      (tbl = 5 → r i = if i = 0 then setBits (was 0) 16 16 (bits v 16 16)
        else if 8 ≤ i then bits (was i) 63 32 * 2 ^ 32 + f 31 0 else 0) ∧
      (tbl = 6 → r i = was i) ∧
      (tbl = 7 → r i = f 63 8 + f 2 0) ∧
      (tbl = 8 → r i = if i = 6 then f 63 16 + f 7 7 + 6 else if i = 8 then f 5 0 else was i)

/-- TBLRD and TBLWR, and what the tables keep. -/
def Obligations.TableAccess : Prop :=
  Claims.TableInstructions ∧ Claims.TableWords

/-- R10, R17, R20, R67, R69, R70, R159, R336: XRD puts in flight in class 0 the value its register has at the start of the
group; what that is, register by register: xstatus, xctx, xcore, xlnt and xrpl by their fields, the scope registers by the
costs of R21 (xscope6 as pod enumeration has left it; xscope7 that of the context's own scope), and each register State holds
as it stands. -/
def Claims.SystemRegisterReads : Prop :=
  ∀ (gd : Guard) (d : Fin 32) (xn : SysReg) (s : State),
    let a := startCycle s
    let read := fun (r : SysReg) => sysRead a a.issue.core a.issue.ctx r
    (clear gd [] [d] [] s = true → Gives (.xrd gd d xn) s [] 0 (.g d (read xn)) 0) ∧
      (read .xstatus).toNat = (a.me.flags &&& flagsWritable).toNat * 256 + a.me.rplp.toNat * 16 + (decide (a.me.ilk ≠ 0)).toNat * 8
        + (decide (a.myCore.owner = .ctx a.issue.ctx)).toNat * 4 + (isSup a.issue.core).toNat ∧
      read .xcause = BitVec.ofNat 64 a.me.xcause ∧ read .xepc = a.me.xepc ∧ read .xtval = a.me.xtval ∧
      read .xport = a.me.xport ∧ read .xelem = a.me.xelem ∧ read .xcycle = BitVec.ofNat 64 a.ck ∧
      read .xlat = a.me.ilk.setWidth 64 ∧ read .xfwdo = a.me.xfwdo ∧ read .xfwdn = a.me.xfwdn ∧
      read .xfwdw = a.me.xfwdw ∧ read .xgscope = BitVec.ofNat 64 a.me.gsc ∧ read .xseg = BitVec.ofNat 64 a.me.seg ∧
      (read .xctx).toNat = a.me.group % 65536 * 2 ^ 32 + a.me.rank % 256 * 2 ^ 24 + a.me.tbase % 256 * 2 ^ 16
        + a.me.tcnt % 256 * 2 ^ 8 + a.issue.ctx % 4 ∧
      bits (read .xrpl).toNat 25 16 = a.me.rplLast % 1024 ∧ bits (read .xrpl).toNat 9 0 = a.issue.rpl % 1024 ∧
      bits (read .xrpl).toNat 15 10 = 0 ∧ bits (read .xrpl).toNat 63 26 = 0 ∧
      (let l := a.myCore.lantern
       (read .xlnt).toNat = l.pc % 512 * 2 ^ 39 + l.cause % 256 * 2 ^ 24 + l.endCode % 4 * 2 ^ 16 + l.bar % 1024 * 2 ^ 6
         + l.owner % 4 * 4 + (decide (l.owner = a.issue.ctx)).toNat * 2 + a.myCore.lanternOn.toNat) ∧
      (let die := a.issue.core / 65
       die < 16 → tabGet a 8 0 8 < 64 → (read .xcore).toNat = tabGet a 8 0 8 * 2 ^ 26 + die * 2 ^ 22
         + if a.issue.core % 65 = 64 then 2 ^ 21 else a.issue.core % 65 * 2 ^ 15) ∧
      (let costs := [(0, 0, 0), (2, 3, 6), (18, 24, 40), (60, 80, 140), (200, 260, 420), (450, 600, 1000)]
       ∀ n : Fin 8, (n.val < 6 → ∀ c, costs[n.val]? = some c →
           (read (.xscope n)).toNat = c.2.2 * 2 ^ 48 + c.2.1 * 2 ^ 32 + c.1 * 2 ^ 16 + 2 ^ 7 + n.val) ∧
         (n.val = 6 → (read (.xscope n)).toNat = bits (tabGet a 8 0 6) 63 16 * 2 ^ 16 + bits (tabGet a 8 0 6) 7 7 * 2 ^ 7 + 6) ∧
         (n.val = 7 → ∀ m : Fin 8, m.val < 7 → a.me.gsc = m.val → read (.xscope n) = read (.xscope m)))

/-- R67, R159: XWR puts bits 17..8 of its source in flight for xstatus in class 0, and on a supervisor core the source for
xepc; every other register keeps its value. A register that R67 marks PRIV traps on a compute context. -/
def Claims.SystemRegisterWrites : Prop :=
  ∀ (gd : Guard) (r : GSrc) (xn : SysReg) (s : State), clear gd [gs r] [] [] s = true →
    let a := startCycle s
    let v := val [gs r] s 0
    Gives (.xwr gd r .xstatus) s [gs r] 0 (.xstatus (v.extractLsb' 8 10)) 0 ∧
      (isSup a.issue.core = true → Gives (.xwr gd r .xepc) s [gs r] 0 (.xepc v) 0) ∧
      (isSup a.issue.core = false → IssuesAs (.xwr gd r .xepc) s (advanced a [gs r])) ∧
      (xn ≠ .xstatus → xn ≠ .xepc → (privReg xn = false ∨ isSup a.issue.core = true) →
        IssuesAs (.xwr gd r xn) s (advanced a [gs r])) ∧
      (privReg xn = true → isSup a.issue.core = false → ∃ t, exec (.xwr gd r xn) s = .next t ∧ t.me.xcause = 0x03)

/-- XRD and XWR for every system register. -/
def Obligations.SystemRegisters : Prop :=
  Claims.SystemRegisterReads ∧ Claims.SystemRegisterWrites

/-- R145, R318, R404: BARA at a slot in force, granted to the context, at its scope, counts the arrival at once where no access
within the scope is outstanding; else it notes the accesses the arrival waits for. It never stalls. At a ring slot that is
free whole it traps with RESERVED_COMBO and the slot's number. -/
def Obligations.BarrierArrival : Prop :=
  ∀ (gd : Guard) (sc : Fin 8) (bar : Fin 1024) (s : State), clear gd [] [] [] s = true →
    let a := startCycle s
    let v := getSlot a a.chiplet bar.val
    let code := if sc = 7 then a.me.gsc else sc.val
    let need := outstandingIn a code a.issue.core a.issue.ctx
    let whole := v.ring = true ∧ v.free = v.depth
    grantTraps a sc bar.val = [] →
      (¬whole → need = [] →
        Runs (.bara gd sc bar) s [] none fun b t => countArrival t b.issue.core b.issue.ctx bar.val) ∧
      (¬whole → need ≠ [] → IssuesAs (.bara gd sc bar) s
        { advanced a [] with arrivals := a.me.arrivals ++ [⟨bar.val, code, need⟩] }) ∧
      (whole → exec (.bara gd sc bar) s =
        .next (takeTrap (delivered s) s.issue.core s.issue.ctx 0x02 bar.val s.issue.addr))

/-- R394, R402: BARA, BARW and BARP trap with PRIV at a slot out of force or not granted to the context, and with
SCOPE_INVALID at one whose scope is not theirs; xtval is the slot's number, and no slot changes. -/
def Obligations.BarrierChecks : Prop :=
  ∀ (gd : Guard) (sc : Fin 8) (bar : Fin 1024) (pd : Fin 8) (s : State), clear gd [] [] [] s = true →
    isSup s.issue.core = false → isSup (startCycle s).issue.core = false →
    let a := startCycle s
    let v := getSlot a a.chiplet bar.val
    let code := if sc = 7 then a.me.gsc else sc.val
    let traps := fun (i : Instr) (cause : Nat) => ∃ t, exec i s = .next t ∧ t.me.xcause = cause ∧
      t.me.xtval = BitVec.ofNat 64 bar.val ∧ t.slots = s.slots
    (v.on = false ∨ v.party a.me.group a.me.rank = none → cfgReleased a bar.val = false →
      traps (.bara gd sc bar) 0x03 ∧ traps (.barw gd sc bar) 0x03 ∧ traps (.barp gd sc bar pd) 0x03) ∧
    (v.on = true → v.party a.me.group a.me.rank ≠ none → slotScope a v ≠ some code → cfgReleased a bar.val = false →
      traps (.bara gd sc bar) 0x0D ∧ traps (.barw gd sc bar) 0x0D ∧ traps (.barp gd sc bar pd) 0x0D)

/-- R401: at a counting slot in force, granted and at its scope, a BARW of a compute context that has not blocked there, with
entry DONE, passes and the entry stays; with WREL it passes and the entry is removed; BARP gives 1, with the same change, or
0 with ARR, WAIT or none. Memory keeps its bytes. -/
def Claims.BarrierWaits : Prop :=
  ∀ (gd : Guard) (sc : Fin 8) (bar : Fin 1024) (pd : Fin 8) (s : State) (p : Nat), clear gd [] [] [] s = true →
    let a := startCycle s
    let v := getSlot a a.chiplet bar.val
    isSup a.issue.core = false → grantTraps a sc bar.val = [] → cfgReleased a bar.val = false → v.ring = false →
      v.party a.me.group a.me.rank = some p → (∀ r ∈ a.me.arrivals, r.slot ≠ bar.val) →
      (v.entry p = some .done ∨ v.entry p = some .wrel →
        (a.me.barWait ≠ some bar.val →
          ∃ t, exec (.barw gd sc bar) s = .next t ∧ t.mem = a.mem ∧ t.me = { advanced a [] with barWait := none } ∧
          (getSlot t a.chiplet bar.val).entry p = if v.entry p = some .done then some .done else none) ∧
        ∃ t, exec (.barp gd sc bar pd) s = .next t ∧ t.mem = a.mem ∧
          t.me = { advanced a [] with barWait := none, flights := landing a 3 (.p pd true) 0 } ∧
          (getSlot t a.chiplet bar.val).entry p = if v.entry p = some .done then some .done else none) ∧
      (v.entry p = none ∨ v.entry p = some .arr ∨ v.entry p = some .wait →
        IssuesAs (.barp gd sc bar pd) s { advanced a [] with flights := landing a 3 (.p pd false) 0 })

/-- R62, R401: a BARW of a compute context whose party has no entry, or ARR or WAIT, blocks with condition 4 of R62, and an
entry that was none becomes WAIT. -/
def Claims.BarrierBlocks : Prop :=
  ∀ (gd : Guard) (sc : Fin 8) (bar : Fin 1024) (s : State) (p : Nat), clear gd [] [] [] s = true →
    let a := startCycle s
    let v := getSlot a a.chiplet bar.val
    isSup s.issue.core = false → a.issue.core = s.issue.core → a.me.group = s.me.group → a.me.rank = s.me.rank →
      a.slots = s.slots → a.me.arrivals = s.me.arrivals →
      grantTraps a sc bar.val = [] → cfgReleased a bar.val = false → v.ring = false →
      v.party a.me.group a.me.rank = some p → (∀ r ∈ a.me.arrivals, r.slot ≠ bar.val) →
      (v.entry p = none ∨ v.entry p = some .arr ∨ v.entry p = some .wait) →
      ∃ t, exec (.barw gd sc bar) s = .next t ∧ t.mem = s.mem ∧
        BlocksAs { s.me.waits s.ck 4 with barWait := some bar.val } s t ∧
        (getSlot t a.chiplet bar.val).entry p = if v.entry p = none then some .wait else v.entry p

/-- R401: at a counting slot in force, granted and at its scope, a BARW or BARP of a compute context with entry DONEP or WRELP
traps with CHECKSUM and the slot's number; DONEP stays, and WRELP is removed. -/
def Claims.BarrierFails : Prop :=
  ∀ (gd : Guard) (sc : Fin 8) (bar : Fin 1024) (pd : Fin 8) (s : State) (p : Nat), clear gd [] [] [] s = true →
    let a := startCycle s
    let v := getSlot a a.chiplet bar.val
    isSup a.issue.core = false → a.me.group = s.me.group → a.me.rank = s.me.rank → a.me.cfgRel = s.me.cfgRel →
      grantTraps a sc bar.val = [] → cfgReleased a bar.val = false → v.ring = false →
      v.party a.me.group a.me.rank = some p → (∀ r ∈ a.me.arrivals, r.slot ≠ bar.val) →
      (v.entry p = some .donep ∨ v.entry p = some .wrelp) →
      ∀ i ∈ [Instr.barw gd sc bar, .barp gd sc bar pd], ∃ t, exec i s = .next t ∧ t.mem = s.mem ∧ t.me.xcause = 0x18 ∧
        t.me.xtval = BitVec.ofNat 64 bar.val ∧
        (getSlot t a.chiplet bar.val).entry p = if v.entry p = some .donep then some .donep else none

/-- R404: at a ring slot in force, granted and at its scope, that is broken, BARW and BARP trap with CHECKSUM and the slot's
number; where a ring slot is filled, BARW takes one and passes, if it has not blocked there, and BARP takes one and gives 1;
where none is, BARW blocks with condition 4 and BARP gives 0. -/
def Claims.RingWaits : Prop :=
  ∀ (gd : Guard) (sc : Fin 8) (bar : Fin 1024) (pd : Fin 8) (s : State), clear gd [] [] [] s = true →
    let a := startCycle s
    let at_ := fun (t : State) => getSlot t a.chiplet bar.val
    let v := at_ a
    grantTraps a sc bar.val = [] → cfgReleased a bar.val = false → v.ring = true →
      (v.brk = true → ∀ i ∈ [Instr.barw gd sc bar, .barp gd sc bar pd], ∃ t, exec i s = .next t ∧ t.mem = s.mem ∧
        t.me.xcause = 0x18 ∧ t.me.xtval = BitVec.ofNat 64 bar.val ∧ (at_ t).filled = v.filled ∧ (at_ t).brk = true) ∧
      (v.brk = false → 0 < v.filled →
        (a.me.barWait ≠ some bar.val → ∃ t, exec (.barw gd sc bar) s = .next t ∧ t.mem = a.mem ∧
          t.me = { advanced a [] with barWait := none } ∧ (at_ t).filled = v.filled - 1) ∧
        ∃ t, exec (.barp gd sc bar pd) s = .next t ∧ t.mem = a.mem ∧ (at_ t).filled = v.filled - 1 ∧
          t.me = { advanced a [] with barWait := none, flights := landing a 3 (.p pd true) 0 }) ∧
      (v.brk = false → v.filled = 0 →
        IssuesAs (.barp gd sc bar pd) s { advanced a [] with flights := landing a 3 (.p pd false) 0 } ∧
        ∃ t, exec (.barw gd sc bar) s = .next t ∧ t.mem = s.mem ∧ at_ t = v ∧
          BlocksAs { s.me.waits s.ck 4 with barWait := some bar.val } s t)

/-- R401: a supervisor core has no entry: its BARW at a counting slot blocks with condition 4 until PHASE has changed from its
value at the first issue, then passes, or traps with CHECKSUM where LP is 1; its BARP gives 0. -/
def Claims.SupervisorWaits : Prop :=
  ∀ (gd : Guard) (sc : Fin 8) (bar : Fin 1024) (pd : Fin 8) (s : State), clear gd [] [] [] s = true →
    let a := startCycle s
    let id := 4 * a.issue.core + a.issue.ctx
    let at_ := fun (t : State) => getSlot t a.chiplet bar.val
    let v := at_ a
    let blocks := fun (ph : Nat) => ∃ t, exec (.barw gd sc bar) s = .next t ∧ t.mem = s.mem ∧
      BlocksAs { s.me.waits s.ck 4 with barWait := some bar.val } s t ∧ (at_ t).supEntry id = some (ph, false)
    isSup a.issue.core = true → grantTraps a sc bar.val = [] → cfgReleased a bar.val = false → v.ring = false →
      IssuesAs (.barp gd sc bar pd) s { advanced a [] with flights := landing a 3 (.p pd false) 0 } ∧
      (v.supEntry id = none → blocks v.phase) ∧
      ∀ ph, v.supEntry id = some (ph, false) →
        (v.phase = ph → blocks ph) ∧
        (v.phase ≠ ph → v.lp = false → a.me.barWait ≠ some bar.val →
          ∃ t, exec (.barw gd sc bar) s = .next t ∧ t.mem = a.mem ∧ t.me = { advanced a [] with barWait := none } ∧
            (at_ t).supEntry id = none) ∧
        (v.phase ≠ ph → v.lp = true → ∃ t, exec (.barw gd sc bar) s = .next t ∧ t.mem = s.mem ∧ t.me.xcause = 0x18 ∧
          t.me.xtval = BitVec.ofNat 64 bar.val ∧ (at_ t).supEntry id = none)

/-- BARW passes, blocks or traps by its party entry, the ring or the phase, and BARP reads them. -/
def Obligations.BarrierWaits : Prop :=
  Claims.BarrierWaits ∧ Claims.BarrierBlocks ∧ Claims.BarrierFails ∧ Claims.RingWaits ∧ Claims.SupervisorWaits

/-- R318, R400: at the end of a ck every slot is evaluated: what was counted in the ck is added, and a phase completes on
a poisoned credit, on FORCE, or when the expected arrivals and bytes have come; the phase advances, arrivals start
again, the poison is noted, and the entries of parties that arrived or wait become those of R400; a slot that is off
or a ring counts nothing. -/
def Obligations.BarrierPhases : Prop :=
  ∀ (v : Slot),
    let w := v.endCk
    let arr := min 2047 (v.arr + v.arrNow)
    let bytes := v.bytes + v.bytesNow
    let arrived := v.arrParties.foldl (fun (w : Slot) p => w.setEntry p (some .arr)) v
    let ends : Option Bool := if v.poisonNow then some true else match v.forceNow with
      | some q => some q
      | none => if v.ea ≤ arr ∧ v.eb ≤ bytes then some false else none
    let released := fun (q : Bool) (e : PEntry) => match e with
      | .arr => if q then PEntry.donep else .done
      | .wait => if q then .wrelp else .wrel
      | e => e
    (w.arrNow = 0 ∧ w.bytesNow = 0 ∧ w.arrParties = [] ∧ w.poisonNow = false ∧ w.forceNow = none) ∧
      (v.on = false ∨ v.ring = true →
        w.phase = v.phase ∧ w.arr = v.arr ∧ w.bytes = v.bytes ∧ w.lp = v.lp ∧ w.entries = v.entries) ∧
      (v.on = true → v.ring = false →
        (ends = none → w.phase = v.phase ∧ w.arr = arr ∧ w.bytes = bytes ∧ w.lp = v.lp ∧ w.entries = arrived.entries) ∧
        (∀ q, ends = some q →
          w.phase = (v.phase + 1) % 2 ^ 16 ∧ w.arr = 0 ∧ w.lp = q ∧
            w.bytes = (if v.poisonNow || v.forceNow.isSome then 0 else bytes - v.eb) ∧
            w.entries = arrived.entries.map fun e => (e.1, released q e.2)))

/-- R28, R149, R387: CTXFRZ on a supervisor core, of a context whose group has one that neither is Frozen nor has retired,
freezes the group and waits in place; of a context without a group, of one that is frozen or retired as the instruction
first tries, or once every context of the group that has not retired is Frozen, it goes on. A selector with a field that
must be zero traps with RESERVED_COMBO, and on a compute context both instructions trap with PRIV. -/
def Claims.FreezeRequest : Prop :=
  ∀ (gd : Guard) (r : GSrc) (s : State), clear gd [gs r] [] [] s = true →
    let a := startCycle s
    let v := (val [gs r] s 0).toNat
    let named := getCtx a (selected v).1 (selected v).2
    let legal := v < 2 ^ 26 ∧ v / 2 ^ 21 % 2 = 0 ∧ v / 4 % 2 ^ 13 = 0
    let frozen := fun (g : Group) => ∀ p ∈ g.places,
      (getCtx a p.core p.ctx).st = .frozen ∨ (getCtx a p.core p.ctx).st = .retired
    let goesOn := IssuesAs (.ctxfrz gd r) s { advanced a [gs r] with frzAt := none }
    (isSup a.issue.core = true → legal →
        (named.st = .free ∨ groupOf a named.group = none → goesOn) ∧
        (a.me.frzAt = none → named.st = .frozen ∨ named.st = .retired → goesOn) ∧
        (∀ g, groupOf a named.group = some g → g.st = .frozen ∨ frozen g → goesOn) ∧
        ∀ g, named.st ≠ .free → groupOf a named.group = some g → g.st ≠ .frozen → ¬frozen g →
          (a.me.frzAt.isSome ∨ named.st ≠ .frozen ∧ named.st ≠ .retired) →
          exec (.ctxfrz gd r) s = .next (waitFreeze g.gid (stallGroup s))) ∧
      (isSup a.issue.core = true → ¬legal →
        ∃ t, exec (.ctxfrz gd r) s = .next t ∧ t.me.xcause = 0x02) ∧
      (isSup a.issue.core = false →
        (∃ t, exec (.ctxfrz gd r) s = .next t ∧ t.me.xcause = 0x03) ∧
        ∃ t, exec (.ctxres gd r) s = .next t ∧ t.me.xcause = 0x03)

/-- R149, R329, R341, R342, R392: CTXRES on a supervisor core, of a context that is Frozen and whose group is, completes
without waiting: the group and its frozen contexts are Resuming. Where the context or its group is not Frozen it has no
effect; a save image of another version traps with RESERVED_COMBO and the save address. -/
def Claims.ResumeRequest : Prop :=
  ∀ (gd : Guard) (r : GSrc) (s : State), clear gd [gs r] [] [] s = true →
    let a := startCycle s
    let v := (val [gs r] s 0).toNat
    let named := getCtx a (selected v).1 (selected v).2
    isSup a.issue.core = true → selectorTraps a v = [] →
      (named.st ≠ .frozen ∨ (∀ g, groupOf a named.group = some g → g.st ≠ .frozen) →
        IssuesAs (.ctxres gd r) s (advanced a [gs r])) ∧
      (∀ g, named.st = .frozen → groupOf a named.group = some g → g.st = .frozen → badVersion a g = none →
        Runs (.ctxres gd r) s [gs r] none fun _ t => resumeGroup t g.gid) ∧
      (∀ g w, named.st = .frozen → groupOf a named.group = some g → g.st = .frozen → badVersion a g = some w →
        exec (.ctxres gd r) s = .next (takeTrap (delivered s) s.issue.core s.issue.ctx 0x02 w s.issue.addr)) ∧
      ∀ (t : State) (g : Group), groupOf t g.gid = some g → g.st = .frozen → (∀ p ∈ g.places, p.ctx < 4) →
        (∃ h, groupOf (resumeGroup t g.gid) g.gid = some h ∧ h = { g with st := .resuming }) ∧
        (resumeGroup t g.gid).mem = t.mem ∧
        ∀ p ∈ g.places, (getCtx t p.core p.ctx).group = g.gid → (getCtx t p.core p.ctx).st = .frozen →
          (getCtx (resumeGroup t g.gid) p.core p.ctx).st = .resuming

/-- CTXFRZ freezes and CTXRES resumes the group of the context named; their traps. -/
def Obligations.FreezeAndResume : Prop :=
  Claims.FreezeRequest ∧ Claims.ResumeRequest

/-- R143, R174, R306, R314, R453: a load at a near vault address in reach marks D empty, and D takes the n bytes there,
zero- or sign-extended, 6 ck later, those of a multicast store that lands in this ck among them; where an error stands
under it D takes 0 and UNCORRECTABLE is noted for the next bundle boundary. Registers, flags and all of memory keep their
values. -/
def Claims.NearLoads : Prop :=
  ∀ (gd : Guard) (sz : Fin 4) (d : Fin 32) (r : GSrc) (off : BitVec 9) (s : State) (p : Nat),
    clear gd [gs r] [d] [] s = true →
    let a := startCycle s
    let n : Nat := 2 ^ sz.val
    let ad := ((((val [gs r] s 0).toNat : Int) + off.toInt * (n : Int)) % (2 ^ 64 : Int)).toNat
    let seen := landedView a
    let old := leNat (readBytes seen.mem (vaultKey p) n)
    atVault a ad n p → isNear a.issue.core (p % 2 ^ 33) = true →
      ((∀ m ∈ a.mcasts, a.ck < m.due) → seen = a) ∧
      (poisoned seen (vaultKey p) n = false →
        GivesLong (.ld gd sz d r off) s [gs r] 6 d (BitVec.ofNat 64 old) 0 ∧
        GivesLong (.ldsx gd sz d r off) s [gs r] 6 d (BitVec.ofInt 64 (sx old (8 * n))) 0) ∧
      (poisoned seen (vaultKey p) n = true → a.me.st = .current →
        ∀ x : Bool, ∃ t, exec (if x then .ldsx gd sz d r off else .ld gd sz d r off) s = .next t ∧ t.mem = s.mem ∧
          t.me = { advanced a [gs r] with
            full := a.me.full &&& ~~~((1 : BitVec 32) <<< d.val)
            longs := a.me.longs ++ [⟨a.ck + 6, d, 0, 0⟩]
            asyncs := a.me.asyncs ++ [⟨0x13, a.issue.addr, ad, none, none⟩] })

/-- R143, R175, R306: ST at a near vault address in reach writes the low n bytes of V there, little-endian, as it issues;
every other byte of memory and every register keep their values. A store of a whole word at which an error stood ends
the error; a shorter store at one writes nothing, and UNCORRECTABLE is noted for the next bundle boundary (R453). -/
def Claims.NearStores : Prop :=
  ∀ (gd : Guard) (sz : Fin 4) (v : Src) (r : GSrc) (off : BitVec 8) (s : State) (p : Nat),
    clear gd [gs r, v] [] [] s = true → Memory.wf s.mem = true →
    let a := startCycle s
    let n := 2 ^ sz.val
    let ad := lsAddr (val [gs r, v] s 0) off.toInt n
    let key := vaultKey p
    atVault a ad n p → isNear a.issue.core (p % 2 ^ 33) = true →
      (poisoned a key n = false ∨ n = 8 →
        ∃ t, exec (.st gd sz v r off) s = .next t ∧ OnlyMe { a with mem := t.mem, poison := t.poison } t ∧
          t.me = advanced a [gs r, v] ∧ readBytes t.mem key n = leBytes n ((val [gs r, v] s 1).toNat % 2 ^ (8 * n)) ∧
          (∀ k, k < key ∨ key + n ≤ k → memGet t.mem k = memGet s.mem k) ∧
          ∀ u, u ∈ t.poison ↔ u ∈ s.poison ∧ ¬(n = 8 ∧ u = key)) ∧
      (poisoned a key n = true → n ≠ 8 → a.me.st = .current →
        ∃ t, exec (.st gd sz v r off) s = .next t ∧ t.mem = s.mem ∧ t.poison = s.poison ∧
          t.me = { advanced a [gs r, v] with asyncs := a.me.asyncs ++ [⟨0x13, a.issue.addr, ad, none, none⟩] })

/-- Loads and stores of a near vault address: the bytes, the register, the frame. -/
def Obligations.NearAccesses : Prop :=
  Claims.NearLoads ∧ Claims.NearStores

/-- R143, R173, R306: an atomic at a near vault address in reach and without an error under it replaces the n bytes there
by the sum, the signed greater, the signed lesser, the new value, or for ACAS the new value where the old equals D; D
is empty and takes the old value, sign-extended, 6 ck later. Every other byte and register keeps its value. -/
def Obligations.NearAtomics : Prop :=
  ∀ (gd : Guard) (sz : Fin 4) (d : Fin 32) (r : GSrc) (v : Src) (s : State) (p : Nat),
    clear gd [gs r, v] [d] [] s = true → Memory.wf s.mem = true →
    let a := startCycle s
    let n := 2 ^ sz.val
    let ad := (val [gs r, v] s 0).toNat
    let z := (val [gs r, v] s 1).toNat % 2 ^ (8 * n)
    let key := vaultKey p
    let old := leNat (readBytes s.mem key n)
    let cmp := (a.me.g[d]).toNat % 2 ^ (8 * n)
    let changes := fun (i : Instr) (new : Nat) => ∃ t, exec i s = .next t ∧
      OnlyMe { a with mem := t.mem, poison := t.poison } t ∧
      t.me = { advanced a [gs r, v] with
        full := a.me.full &&& ~~~((1 : BitVec 32) <<< d.val)
        longs := a.me.longs ++ [⟨a.ck + 6, d, BitVec.ofInt 64 (sx old (8 * n)), 0⟩] } ∧
      readBytes t.mem key n = leBytes n new ∧
      (∀ k, k < key ∨ key + n ≤ k → memGet t.mem k = memGet s.mem k) ∧ t.poison = s.poison
    atVault a ad n p → isNear a.issue.core (p % 2 ^ 33) = true → poisoned a key n = false →
      changes (.aadd gd sz d r v) ((old + z) % 2 ^ (8 * n)) ∧
      changes (.amax gd sz d r v) (if sx old (8 * n) < sx z (8 * n) then z else old) ∧
      changes (.amin gd sz d r v) (if sx z (8 * n) < sx old (8 * n) then z else old) ∧
      changes (.aswp gd sz d r v) z ∧
      changes (.acas gd sz d r v) (if old = cmp then z else old)

/-- R75, R306: a scalar access whose home is another core's vault issues and waits to perform: D is empty, and memory
keeps its bytes. -/
def Claims.FarAccessesWait : Prop :=
  ∀ (gd : Guard) (sz : Fin 4) (d : Fin 32) (r : GSrc) (v : Src) (lo : BitVec 9) (so : BitVec 8) (s : State) (p : Nat),
    let a := startCycle s
    let n := 2 ^ sz.val
    let far := fun (k : FarKind) (ad z : Nat) (d : Fin 32) =>
      a.me.far ++ [⟨a.me.uid, a.ck, k, vaultKey p, ad, a.issue.addr, n, d, z % 2 ^ (8 * n)⟩]
    let empty := a.me.full &&& ~~~((1 : BitVec 32) <<< d.val)
    isNear a.issue.core (p % 2 ^ 33) = false →
      (clear gd [gs r] [d] [] s = true → atVault a (lsAddr (val [gs r] s 0) lo.toInt n) n p →
        ∀ x : Bool, IssuesAs (if x then .ldsx gd sz d r lo else .ld gd sz d r lo) s { advanced a [gs r] with
          uid := a.me.uid + 1, full := empty, far := far (.load x) (lsAddr (val [gs r] s 0) lo.toInt n) 0 d }) ∧
      (clear gd [gs r, v] [] [] s = true → atVault a (lsAddr (val [gs r, v] s 0) so.toInt n) n p →
        IssuesAs (.st gd sz v r so) s { advanced a [gs r, v] with
          uid := a.me.uid + 1
          far := far .store (lsAddr (val [gs r, v] s 0) so.toInt n) (val [gs r, v] s 1).toNat 0 }) ∧
      (clear gd [gs r, v] [d] [] s = true → atVault a (val [gs r, v] s 0).toNat n p →
        ∀ i k, (i, k) ∈ [(Instr.aadd gd sz d r v, FarKind.add), (.amax gd sz d r v, .max), (.amin gd sz d r v, .min),
            (.aswp gd sz d r v, .swap), (.acas gd sz d r v, .cas ((a.me.g[d]).toNat % 2 ^ (8 * n)))] →
          IssuesAs i s { advanced a [gs r, v] with
            uid := a.me.uid + 1, full := empty
            far := far k (val [gs r, v] s 0).toNat (val [gs r, v] s 1).toNat d })

/-- R75, R173, R174, R306: a far access performs at its home at some ck after its issue, once every earlier far access of its
context to a common byte has: a store writes its value, an atomic the sum, the signed greater, the signed lesser, the new
value, or for ACAS the new value where the old is the one compared with; a load or an atomic then writes its register with
the old value, sign-extended but for a plain load, and the register is full again once no other result is on its way to it
(R77; log 66); only the bytes it names change. A load sees a multicast store that lands in the ck (R314). One that must wait
changes nothing. (The model's choice: none performs in a ck once its multicast stores have landed, log 59.) -/
def Claims.FarAccessesPerform : Prop :=
  ∀ (c x i : Nat) (f : Far) (s : State), Memory.wf s.mem = true → (getCtx s c x).far[i]? = some f →
    let ready := ∀ j g, j < i → (getCtx s c x).far[j]? = some g → f.addr + f.n ≤ g.addr ∨ g.addr + g.n ≤ f.addr
    let seen := match f.kind with
      | .load _ => landedView s
      | _ => s
    (¬ready ∨ s.ck ≤ f.ck ∨ s.landed = some s.ck → farTurn s c x i = s) ∧
      (ready → f.ck < s.ck → s.landed ≠ some s.ck → poisoned seen f.addr f.n = false →
        let t := farTurn s c x i
        let old := leNat (readBytes seen.mem f.addr f.n)
        let signed := fun v => sx v (8 * f.n)
        let becomes := match f.kind with
          | .load _ => none
          | .store | .swap => some f.v
          | .add => some ((old + f.v) % 2 ^ (8 * f.n))
          | .max => some (if signed old < signed f.v then f.v else old)
          | .min => some (if signed f.v < signed old then f.v else old)
          | .cas cmp => some (if old = cmp then f.v else old)
        let result := match f.kind with
          | .load false => BitVec.ofNat 64 old
          | _ => BitVec.ofInt 64 (signed old)
        let left := (getCtx s c x).far.eraseIdx i
        let others := (∃ q ∈ (getCtx s c x).longs, q.d = f.d) ∨ ∃ q ∈ left, q.kind ≠ .store ∧ q.d = f.d
        (∀ k, k < f.addr ∨ f.addr + f.n ≤ k → memGet t.mem k = memGet s.mem k) ∧
        (∀ new, becomes = some new → readBytes t.mem f.addr f.n = leBytes f.n new) ∧
        (becomes = none → t.mem = s.mem) ∧
        (f.kind ≠ .store → (getCtx t c x).g = (getCtx s c x).g.set f.d result ∧
          (¬others → (getCtx t c x).full = (getCtx s c x).full ||| ((1 : BitVec 32) <<< f.d.val)) ∧
          (others → (getCtx t c x).full = (getCtx s c x).full) ∧
          getCtx t c x = { getCtx s c x with far := left, g := (getCtx t c x).g, full := (getCtx t c x).full }) ∧
        (f.kind = .store → getCtx t c x = { getCtx s c x with far := left }))

/-- Accesses of another vault wait to perform and perform in order at their home. -/
def Obligations.FarAccesses : Prop :=
  Claims.FarAccessesWait ∧ Claims.FarAccessesPerform

/-- R143, R144: an address beyond 33 bits, or outside every window granted, traps with VAULT_RANGE, and one that is not a
multiple of the size traps with ALIGN; xtval is the address. Nothing is stored. -/
def Obligations.ScalarAccessTraps : Prop :=
  ∀ (gd : Guard) (sz : Fin 4) (d : Fin 32) (r : GSrc) (v : Src) (lo : BitVec 9) (so : BitVec 8) (s : State),
    let a := startCycle s
    let n := 2 ^ sz.val
    let outcome := fun (i : Instr) (ad : Nat) =>
      let trap := fun c => exec i s = .next (takeTrap (delivered s) s.issue.core s.issue.ctx c ad s.issue.addr)
      (2 ^ 33 ≤ ad → trap 0x09) ∧ (ad < 2 ^ 33 → ad % n ≠ 0 → trap 0x0A) ∧
        (ad < 2 ^ 33 → ad % n = 0 → vaultPlace a a.issue.core a.issue.ctx ad n = none → trap 0x09)
    (clear gd [gs r] [d] [] s = true →
        outcome (.ld gd sz d r lo) (lsAddr (val [gs r] s 0) lo.toInt n) ∧
        outcome (.ldsx gd sz d r lo) (lsAddr (val [gs r] s 0) lo.toInt n)) ∧
      (clear gd [gs r, v] [] [] s = true → outcome (.st gd sz v r so) (lsAddr (val [gs r, v] s 0) so.toInt n)) ∧
      (clear gd [gs r, v] [d] [] s = true →
        ∀ i ∈ [Instr.aadd gd sz d r v, .amax gd sz d r v, .amin gd sz d r v, .aswp gd sz d r v, .acas gd sz d r v],
          outcome i (val [gs r, v] s 0).toNat)

/-- R176: TMCST of a compute context at an aligned name in its own window and inside the multicast window puts its bytes
in flight for the same offset of every member's window, 9 ck on, and writes nothing yet; any other name traps. -/
def Claims.MulticastIssue : Prop :=
  ∀ (gd : Guard) (sz : Fin 4) (v : Src) (r : GSrc) (off : BitVec 8) (s : State), clear gd [gs r, v] [] [] s = true →
    let a := startCycle s
    let n := 2 ^ sz.val
    let ad := lsAddr (val [gs r, v] s 0) off.toInt n
    let own := ad < 2 ^ 30 ∧ ad / 2 ^ 23 = coreIndex a a.issue.core a.issue.ctx ∧
      ad % 2 ^ 23 + n ≤ mcastLen a (dieOf a.issue.core) a.me.group
    (isSup a.issue.core = false → ad % n = 0 → own →
        ∃ t, exec (.tmcst gd sz v r off) s = .next t ∧ t.me = { advanced a [gs r, v] with uid := a.me.uid + 1 } ∧
          OnlyMe { a with mcasts := a.mcasts ++ [⟨a.ck + 9, a.issue.core, a.issue.ctx, a.me.uid,
            mcastKeys a a.issue.core a.issue.ctx ad n,
            leBytes n ((val [gs r, v] s 1).toNat % 2 ^ (8 * n)), ad, a.issue.addr⟩] } t) ∧
      (isSup a.issue.core = false → ad < 2 ^ 33 → ad % n ≠ 0 →
        exec (.tmcst gd sz v r off) s =
          .next (takeTrap (delivered s) s.issue.core s.issue.ctx 0x0A ad s.issue.addr)) ∧
      (isSup a.issue.core = true ∨ 2 ^ 33 ≤ ad ∨ (ad % n = 0 ∧ ¬own) →
        exec (.tmcst gd sz v r off) s = .next (takeTrap (delivered s) s.issue.core s.issue.ctx 0x09 ad s.issue.addr))

/-- R176, R310: the multicast stores due by now land, nothing more of slot LS performs in their ck, and no other byte of
memory changes (the model's choice: no core issues anything more in that ck, log 59); of two that land on one location, the one from the core with the greater index in its die layer stands,
and of two of one core the later issued. With none due nothing happens. -/
def Claims.MulticastLanding : Prop :=
  ∀ s : State, Memory.wf s.mem = true →
    let due := s.mcasts.filter fun m => decide (m.due ≤ s.ck)
    (due = [] → exec .tmcstLanding s = .next s) ∧
    (due ≠ [] → ∃ t, exec .tmcstLanding s = .next t ∧ t.mcasts = (s.mcasts.filter fun m => !(decide (m.due ≤ s.ck))) ∧
      t.landed = some s.ck ∧ (∀ c, issueTurn t c = .idle t) ∧ (∀ c x i, farTurn t c x i = t) ∧
      (s.poison = [] → t.cores = s.cores) ∧
      (∀ k, (∀ m ∈ due, ∀ p ∈ m.addrs, k < p ∨ p + m.bytes.length ≤ k) → memGet t.mem k = memGet s.mem k) ∧
      ∀ m₁ m₂ p, due = [m₁, m₂] → m₁.addrs = [p] → m₂.addrs = [p] → m₁.bytes.length = m₂.bytes.length →
        poisoned s p m₁.bytes.length = false →
        readBytes t.mem p m₁.bytes.length = if m₂.core % 65 < m₁.core % 65 then m₁.bytes else m₂.bytes)

/-- TMCST puts a store in flight for every member, and stores that are due land in order. -/
def Obligations.Multicast : Prop :=
  Claims.MulticastIssue ∧ Claims.MulticastLanding

/-- R201 to R203, R205: a copy that loads issues once its conditions of R62, R63 and R144 are met, and enters its
context's queue: a TLD with the elements of its nest cut into rows of its tile, a TWIN with one row for each run of
its level 0, a TLDC with one block for each iteration. Its chunks perform later. -/
def Claims.LoadCopiesQueue : Prop :=
  ∀ (gd : Guard) (t : Fin 32) (row cnt : Fin 64) (r : GSrc) (n : Fin 8) (bar : Fin 1024) (p : Option (Fin 16)) (fmt : Fmt)
    (rm : Rm) (ps : Bool) (xr : Fin 8) (s : State),
    let a := startCycle s
    let ws := nWords a.me n
    let N := nestIters ws
    let f := nestForm a.myCore true t.val row.val cnt.val p ps fmt rm
    let base := (val [gs r] s 0).toNat
    let tile := a.me.tbase + t.val
    let m := fun (i : Instr) (form : CopyForm) (b : Nat) =>
      { freshCmd a i (if bar.val = 0x3FF then none else some bar.val) form b with
        uid := a.me.uid, seq := portSeq a p, later := portLater a p, nest := ws, tileW := [tile] }
    0 < N →
      (goes (opTld gd t row cnt r n bar p fmt rm ps) s = true →
        let step := f.per / f.epu
        let chunks := (N + step - 1) / step
        Queued (.tld gd t row cnt r n bar p fmt rm ps) s [gs r]
          { m (.tld gd t row cnt r n bar p fmt rm ps) { f with total := N * f.epu } base with
            chunks := chunks
            units := (List.range chunks).flatMap fun k =>
              unitsOf (k + 1) (nestPieces (nestAddrs base ws N) f.u (k * step) step) }) ∧
      (goes (opTldc gd t row cnt r n bar p fmt rm xr) s = true →
        Queued (.tldc gd t row cnt r n bar p fmt rm xr) s [gs r]
          { m (.tldc gd t row cnt r n bar p fmt rm xr)
              ⟨true, t.val, row.val, cnt.val, p, true, fmt, fmt, rm, 1, 64, 0, 0⟩ base with
            chunks := N
            units := (nestAddrs base ws N).zipIdx.flatMap fun q => unitsOf (q.2 + 1) [⟨q.1, 64, 0⟩] }) ∧
      (goes (opTwin gd t row cnt r n bar p fmt rm ps) s = true →
        let srcs := [gs r, .g (r.i + 1) r.blk]
        let l := (val srcs s 1).toNat
        let sh := winShape ws
        let at_ := fun q j => offset ws (q * sh.1 + j)
        Queued (.twin gd t row cnt r n bar p fmt rm ps) s srcs
          { m (.twin gd t row cnt r n bar p fmt rm ps) { f with per := sh.1 * f.epu, total := sh.1 * f.epu * sh.2 }
              (val srcs s 0).toNat with
            chunks := sh.2
            units := (List.range sh.2).flatMap fun q => unitsOf (q + 1) ((List.range sh.1).filterMap fun j =>
              if 0 ≤ at_ q j ∧ at_ q j + f.u ≤ l then some ⟨addrPlus (val srcs s 0).toNat (at_ q j), f.u, j * f.u⟩
              else none) })

/-- R202: TST with a nest that has elements reads its rows as it issues and enters the queue with them. -/
def Claims.StoreCopiesQueue : Prop :=
  ∀ (gd : Guard) (t : Fin 32) (row cnt : Fin 64) (r : GSrc) (n : Fin 8) (bar : Fin 1024) (p : Option (Fin 16)) (fmt : Fmt)
    (rm : Rm) (ps : Bool) (s : State), goes (opTst gd t row cnt r n bar p fmt rm ps) s = true →
    let a := startCycle s
    let ws := nWords a.me n
    let N := nestIters ws
    let f := nestForm a.myCore false t.val row.val cnt.val p ps fmt rm
    let base := (val [gs r] s 0).toNat
    let tile := a.me.tbase + t.val
    let chunks := (N * f.epu + f.per - 1) / f.per
    0 < N →
      Queued (.tst gd t row cnt r n bar p fmt rm ps) s [gs r]
        { freshCmd a (.tst gd t row cnt r n bar p fmt rm ps) (if bar.val = 0x3FF then none else some bar.val)
            { f with total := N * f.epu } base with
          uid := a.me.uid, seq := portSeq a p, later := portLater a p, nest := ws, chunks := chunks, tileR := [tile]
          src := (List.range chunks).map fun i => readRow a a.myCore tile (row.val + i)
          pos := nestAddrs base ws N }

/-- TLD, TWIN, TLDC and TST issue and enter the queue of their context. -/
def Obligations.CopiesQueue : Prop :=
  Claims.LoadCopiesQueue ∧ Claims.StoreCopiesQueue

/-- R200, R201, R204: a gather, scatter or reduction reads its index rows, and a scatter or reduction its rows, as it
issues, and enters the queue with one chunk for each row. -/
def Obligations.IndexedCopiesQueue : Prop :=
  ∀ (gd : Guard) (t : Fin 32) (row cnt : Fin 64) (r : GSrc) (it : Fin 32) (irow : Fin 64) (bar : Fin 1024)
    (p : Option (Fin 16)) (ps i32 : Bool) (s : State),
    let a := startCycle s
    let tile := a.me.tbase + t.val
    let base := (val [gs r] s 0).toNat
    let srcs2 := [gs r, Src.g (r.i + 1) r.blk]
    let ix := fun n => indexList a it.val irow.val n
    let m := fun (i : Instr) (load : Bool) (f : Fmt) (b : Nat) (ix : List Int) =>
      { freshCmd a i (if bar.val = 0x3FF then none else some bar.val) (gatherForm load t.val row.val cnt.val p ps f) b with
        uid := a.me.uid, seq := portSeq a p, later := portLater a p, index := ix, chunks := cnt.val + 1 }
    let rows := fun (i : Instr) (f : Fmt) =>
      Queued i s [gs r] { m i false f base (ix (cnt.val + 1)) with
        src := (List.range (cnt.val + 1)).map fun k => readRow a a.myCore tile (row.val + k)
        pos := (ix (cnt.val + 1)).flatMap fun v =>
          [addrPlus base (v * 64), addrPlus base (v * 64 + 64), addrPlus base (v * 64 + 128)]
        tileR := [tile] }
    let red := if i32 then Fmt.i32 else .f32
    (goes (opTgath gd t row cnt r it irow bar p ps) s = true →
        Queued (.tgath gd t row cnt r it irow bar p ps) s [gs r]
          { m (.tgath gd t row cnt r it irow bar p ps) true .f32 base (ix (cnt.val + 1)) with
            units := (ix (cnt.val + 1)).zipIdx.flatMap fun q =>
              unitsOf (q.2 + 1) [⟨addrPlus base (q.1 * 64), 192, 0⟩]
            tileW := [tile] }) ∧
      (goes (opTgath2 gd t row cnt r it irow bar p ps) s = true →
        Queued (.tgath2 gd t row cnt r it irow bar p ps) s srcs2
          { m (.tgath2 gd t row cnt r it irow bar p ps) true .f32 (val srcs2 s 0).toNat (ix (24 * (cnt.val + 1))) with
            units := (List.range (cnt.val + 1)).flatMap fun k => unitsOf (k + 1) (pairPieces (val srcs2 s 0).toNat
              (val srcs2 s 1).toNat (ix (24 * (cnt.val + 1))) k)
            tileW := [tile] }) ∧
      (goes (opTscat gd t row cnt r it irow bar p ps) s = true →
        rows (.tscat gd t row cnt r it irow bar p ps) .f32) ∧
      (goes (opTredAdd gd t row cnt r it irow bar p ps i32) s = true →
        rows (.tredAdd gd t row cnt r it irow bar p ps i32) red) ∧
      (goes (opTredMax gd t row cnt r it irow bar p ps i32) s = true →
        rows (.tredMax gd t row cnt r it irow bar p ps i32) red)

/-- R62, R185, R278: a copy command finds its context's queue of 16 full and blocks with condition 1, or a Lantern
sequence running and blocks with condition 9, where its form and operands are good; its context keeps its registers
and its place. (The model's choice: condition 1 where both hold, log 34.) -/
def Claims.CopyBlocks : Prop :=
  ∀ (gd : Guard) (t : Fin 32) (row cnt : Fin 64) (r : GSrc) (n : Fin 8) (bar : Fin 1024) (p : Option (Fin 16)) (fmt : Fmt)
    (rm : Rm) (ps : Bool) (s : State),
    let a := startCycle s
    let o := opTld gd t row cnt r n bar p fmt rm ps
    clear gd [gs r] [] [] s = true → o.decode a = none → scoreboard a.myCore [] [a.me.tbase + t.val] = false →
      o.empty a (srcVals [gs r] a) = false → o.traps a (srcVals [gs r] a) = [] →
      (16 ≤ a.me.cmds.length ∨ a.myCore.lanternOn = true) →
      ∃ u, exec (.tld gd t row cnt r n bar p fmt rm ps) s = .next u ∧
        Blocks (if 16 ≤ a.me.cmds.length then 1 else 9) s u ∧ u.mem = s.mem ∧
        u.myCore.tiles = s.myCore.tiles

/-- R180, R182, R202, R214: a TLD whose tile name is not below TCNT, whose last row passes 63, or whose address names a
reserved space or has a bit set that must be zero traps with RESERVED_COMBO, with the xtval of R214 or the address. (The
model's choice: the first of these conditions in the order of the instruction's entry gives xtval, log 21.) -/
def Claims.CopyFormTraps : Prop :=
  ∀ (gd : Guard) (t : Fin 32) (row cnt : Fin 64) (r : GSrc) (n : Fin 8) (bar : Fin 1024) (fmt : Fmt) (s : State),
    let a := startCycle s
    let base := (val [gs r] s 0).toNat
    let i := Instr.tld gd t row cnt r n bar none fmt .rne false
    let traps := fun v => ∃ u, exec i s = .next u ∧ u.me.xcause = 0x02 ∧ u.me.xtval = BitVec.ofNat 64 v ∧ u.mem = s.mem
    clear gd [gs r] [] [] s = true → scoreboard a.myCore [] [a.me.tbase + t.val] = false →
      rowsPending a.me (a.me.tbase + t.val) row.val (row.val + cnt.val) = false → isSup s.issue.core = false →
      (a.me.tcnt ≤ t.val → traps (1 * 256 + 10)) ∧
      (t.val < a.me.tcnt → 63 < row.val + cnt.val → traps (2 * 256 + 10)) ∧
      (t.val < a.me.tcnt → row.val + cnt.val ≤ 63 → fmt.isCopy = true → base < 2 ^ 64 →
        (2 ≤ base / 2 ^ 62 ∨ base / 2 ^ 48 % 2 ^ 14 ≠ 0 ∨ (base / 2 ^ 62 = 1 ∧ base / 2 ^ 33 % 2 ^ 15 ≠ 0)) → traps base)

/-- A copy with no room blocks, and one with a bad form or address traps. -/
def Obligations.CopyBlocksAndTraps : Prop :=
  Claims.CopyBlocks ∧ Claims.CopyFormTraps

/-- R71, R195: NSET with a BOUND of 24 bits and a STRIDE of 40 signed bits puts the level word in flight in class 0, and
NCLR a word of zero for each of the six levels; a BOUND or a STRIDE out of range traps with RESERVED_COMBO and the
value. -/
def Obligations.NestRegisters : Prop :=
  ∀ (gd : Guard) (n l : Fin 8) (x y : GSrc) (s : State),
    let b := val [gs x, gs y] s 0
    let d := val [gs x, gs y] s 1
    let small := -(2 ^ 39) ≤ d.toInt ∧ d.toInt < 2 ^ 39
    (clear gd [gs x, gs y] [] [] s = true → b.toNat < 2 ^ 24 → small →
        Gives (.nset gd n l x y) s [gs x, gs y] 0
          (.n n l.val (BitVec.ofNat 64 (b.toNat * 2 ^ 40 + d.toNat % 2 ^ 40))) 0) ∧
      (clear gd [gs x, gs y] [] [] s = true → 2 ^ 24 ≤ b.toNat →
        exec (.nset gd n l x y) s =
          .next (takeTrap (delivered s) s.issue.core s.issue.ctx 0x02 b.toNat s.issue.addr)) ∧
      (clear gd [gs x, gs y] [] [] s = true → b.toNat < 2 ^ 24 → ¬small →
        exec (.nset gd n l x y) s =
          .next (takeTrap (delivered s) s.issue.core s.issue.ctx 0x02 d.toNat s.issue.addr)) ∧
      (clear gd [] [] [] s = true → IssuesAs (.nclr gd n) s { advanced (startCycle s) [] with
        flights := addFlights (startCycle s) 0 ((List.range 6).map fun k => (0, 0, .n n k 0)) })

/-- R206, R208: AQPUSH of a well-formed, aligned device address, with room in the address queue and no Lantern sequence
running, appends its request; with 16 requests in the queue it blocks with condition 2. (The model's choice: condition 2 also
while a sequence runs, log 34.) -/
def Claims.AddressQueue : Prop :=
  ∀ (gd : Guard) (big : Bool) (v : Src) (s : State), clear gd [v] [] [] s = true →
    let a := startCycle s
    let ad := (val [v] s 0).toNat
    let n := if big then 16 else 8
    ad < 2 ^ 48 → ad % n = 0 →
      (a.me.aq.length < 16 → a.myCore.lanternOn = false →
        IssuesAs (.aqpush gd big v) s
          { advanced a [v] with uid := a.me.uid + 1, aq := a.me.aq ++ [⟨a.me.uid, ad, n⟩] }) ∧
      (16 ≤ a.me.aq.length → ∃ t, exec (.aqpush gd big v) s = .next t ∧ t.mem = s.mem ∧ Blocks 2 s t)

/-- R209, R210: AQSTAT reads the counts of both queues and PSEEN, and clears PSEEN; DQPOP of an entry that has arrived
gives its low eight bytes and keeps the high eight of a 16-byte entry for the next; DQPOPT gives its bytes, padded to
16 with zeros, to a segment of a tile row; a poisoned entry gives zeros, and the first one is reported. -/
def Claims.DataQueue : Prop :=
  ∀ (gd : Guard) (d : Fin 32) (dd : Reg) (t : Fin 32) (row : Fin 64) (seg : Fin 16) (s : State) (e : DqEnt)
    (rest : List DqEnt),
    let a := startCycle s
    let here := a.me.dq = e :: rest ∧ e.arrived = true ∧ a.myCore.lanternOn = false
    let bytes := e.data.drop (if e.half then 8 else 0)
    (clear gd [] [d] [] s = true → a.myCore.lanternOn = false →
        IssuesAs (.aqstat gd d) s { advanced a [] with
          pseen := false
          flights := landing a 0 (.g d (BitVec.ofNat 64 (a.me.pseen.toNat * 2 ^ 32
            + (a.me.dq.takeWhile (·.arrived)).length * 2 ^ 16 + a.me.dq.length * 2 ^ 8 + a.me.aq.length))) 0 }) ∧
      (clear gd [] (Dest.full dd) (Dest.push dd) s = true → here → e.poison = false →
        IssuesAs (.dqpop gd dd) s { advanced a [] with
          dq := if e.n = 16 ∧ e.half = false then { e with half := true } :: rest else rest
          flights := landing a 0 (Dest.write dd (BitVec.ofNat 64 (leNat (bytes.take 8)))) 0 }) ∧
      (clear gd [] [] [] s = true → scoreboard a.myCore [] [a.me.tbase + t.val] = false → t.val < a.me.tcnt → here →
        e.poison = false →
        IssuesAs (.dqpopt gd t row seg) s { advanced a [] with
          dq := rest
          flights := landing a 0 (.tile (a.me.tbase + t.val) row.val (16 * seg.val)
            (bytes ++ List.replicate (16 - bytes.length) 0)) 0 }) ∧
      (clear gd [] (Dest.full dd) (Dest.push dd) s = true → here → e.poison = true → e.half = false → a.me.st = .current →
        IssuesAs (.dqpop gd dd) s { advanced a [] with
          dq := if e.n = 16 then { e with half := true } :: rest else rest
          flights := landing a 0 (Dest.write dd 0) 0
          pseen := true
          asyncs := if a.me.pseen then a.me.asyncs
            else a.me.asyncs ++ [⟨0x12, a.issue.addr, e.addr, none, none⟩] })

/-- AQPUSH, AQSTAT, DQPOP and DQPOPT. -/
def Obligations.AddressDataQueues : Prop :=
  Claims.AddressQueue ∧ Claims.DataQueue

/-- R93, R219: KSET and KSETI of a latch below 12, and KCLR, with the matrix unit neither the Lantern's nor another
context's, make the unit the context's own and put the byte, or 0x7F for each latch, in flight in class 5. -/
def Claims.LatchResults : Prop :=
  ∀ (gd : Guard) (side : Bool) (l : Fin 16) (v : Src) (imm : BitVec 8) (s : State),
    let a := startCycle s
    let free := a.myCore.lanternOn = false ∧ ownedElsewhere a.myCore a.issue.ctx = false
    let lands := fun (i : Instr) (srcs : List Src) (ws : List RowWrite) =>
      ∃ t, exec i s = .next t ∧ Keeps a t ∧ t.myCore.owner = .ctx a.issue.ctx ∧
        t.me = { advanced a srcs with flights := addFlights a 5 ws }
    (clear gd [v] [] [] s = true → free → l.val < 12 →
        lands (.kset gd side l v) [v] [(0, 0, .latch side l.val ((val [v] s 0).toNat % 256))]) ∧
      (clear gd [] [] [] s = true → free →
        (l.val < 12 → lands (.kseti gd side l imm) [] [(0, 0, .latch side l.val imm.toNat)]) ∧
        lands (.kclr gd side) [] ((List.range 16).map fun k => (0, 0, .latch side k 0x7F)))

/-- R231: XTBL makes the first 16 elements of 16 bits of its row the context's codebook as it issues. -/
def Claims.CodebookLoad : Prop :=
  ∀ (gd : Guard) (st : Fin 32) (row : Fin 64) (s : State), goes (opXtbl gd st row) s = true →
    let a := startCycle s
    ∃ t, exec (.xtbl gd st row) s = .next t ∧ Keeps a t ∧
      t.me = withReports { advanced a [] with
        codebook := elemsOf 16 16 (readRow a a.myCore (a.me.tbase + st.val) row.val).toNat } t.me

/-- KSET, KSETI, KCLR and XTBL. -/
def Obligations.LatchesAndCodebook : Prop :=
  Claims.LatchResults ∧ Claims.CodebookLoad

/-- R227 to R230, R232: an operation of slot T that its conditions let issue reads its source rows and puts each result
row in flight, a row an issue cycle, the source rows after the first still to enter (log 88): XCVT and XEXP
each element converted (a CB4 code gives its codebook entry as it stands: R46; log 64), XTRN the block transposed, XHAD each
vector's keyed transform; the engine is the context's for as many issue cycles as there are source rows. -/
def Obligations.TransformResults : Prop :=
  ∀ (gd : Guard) (dt st : Fin 32) (row cnt : Fin 64) (fs fd : Fmt) (rm : Rm) (n : Fin 4) (seed : Fin 32) (s : State),
    let a := startCycle s
    let m := cnt.val + 1
    let xs := fun f => rangeElems a st.val row.val m f
    let tile := a.me.tbase + dt.val
    let gives := fun (i : Instr) (srcs : List Src) (cls : Nat) (f : Fmt) (rows : List (List Elem)) =>
      Lands i s srcs cls (rowsToEnter a i 1) (rowWritesOf a.me.icyc cnt.val tile row.val f rows) ∧
        ∃ t, exec i s = .next t ∧ t.myCore.tFree = a.me.icyc + m ∧ t.myCore.tUser = a.issue.ctx
    (goes (opXcvt gd dt st row cnt fs fd rm) s = true →
        gives (.xcvt gd dt st row cnt fs fd rm) [] 7 fd
          (resultRowsOf fd ((xs fs).map fun x => fd.convert rm 0 (fs.value x)))) ∧
      (goes (opXexp gd dt st row cnt fs fd) s = true →
        gives (.xexp gd dt st row cnt fs fd) [] 8 fd (resultRowsOf fd ((xs fs).map fun x =>
          if fs = .cb4 then (a.me.codebook.getD x 0 * 2 ^ (fd.width - 16), 0) else fd.convert .rne 0 (fs.value x)))) ∧
      (goes (opXtrn gd dt st row cnt fs fd) s = true →
        gives (.xtrn gd dt st row cnt fs fd) [] 9 fd ((List.range m).map fun j => (List.range m).map fun i =>
          ((xs fs).getD (i * perRow fs.width + j) 0, 0))) ∧
      (goes (opXhad gd dt st row cnt n seed fd) s = true →
        gives (.xhad gd dt st row cnt n seed fd) [.g seed false] 10 fd (resultRowsOf fd
          (hadStream (val [.g seed false] s 0).toNat (32 * 2 ^ n.val) fd (xs fd))))

/-- R93, R94, R217, R220: MLDB, MMUL and MMULS, once their conditions let them issue, make the matrix unit the context's own
and busy until the cycle after their last row enters. MLDB sets its bank's format, whatever its port does; with no port bound
and no parity error, its first three source rows have entered the bank and the others are still to enter. Memory, tiles,
registers and every other bank keep their values. -/
def Claims.MatrixStarts : Prop :=
  ∀ (gd : Guard) (bk : Fin 4) (bt at_ zt st : Fin 32) (arow acnt srow : Fin 64) (f : Fmt) (acc : Bool) (zf : Zf)
    (pa pz : Option (Fin 16)) (s : State),
    let a := startCycle s
    let starts := fun (i : Instr) (last : Nat) => ∃ t, exec i s = .next t ∧ Keeps a t ∧
      t.myCore.owner = .ctx a.issue.ctx ∧ t.myCore.mUser = a.issue.ctx ∧ t.myCore.mFree = a.me.icyc + last + 1 ∧
      t.me.g = a.me.g ∧ t.me.full = a.me.full ∧ t.me.p = a.me.p ∧ t.me.pc = (advanced a []).pc ∧
      t.me.icyc = a.me.icyc + 1 ∧ (∀ b, b ≠ bk ∨ (∀ g t f p, i ≠ .mldb g bk t f p) → t.myCore.banks[b] = a.myCore.banks[b])
    let per := if f.isWide then 96 else 192
    let op := a.myCore.opSeq
    (goes (opMldb gd bk bt f pa) s = true → starts (.mldb gd bk bt f pa) 63 ∧
        ∃ t, exec (.mldb gd bk bt f pa) s = .next t ∧ t.myCore.banks[bk].fmt = f ∧
          (pa = none → a.myCore.bad = [] → (∀ r ∈ a.me.rows, r.op ≠ op) →
            (∀ r, t.myCore.banks[bk].rows.getD r 0 = if r < 3 then
              rowOf f.width (elemsOf f.width per (a.myCore.row (a.me.tbase + bt.val) r).toNat)
              else a.myCore.banks[bk].rows.getD r 0) ∧
            t.me.rows = a.me.rows ++ [⟨op, .mldb gd bk bt f pa, a.me.icyc, a.ck, 3, a.issue.addr, 0, none, 0⟩])) ∧
      (goes (opMmul gd bk at_ arow acnt f acc zt zf pa pz) s = true →
        starts (.mmul gd bk at_ arow acnt f acc zt zf pa pz) (acnt.val * f.pA / 8)) ∧
      (goes (opMmuls gd bk at_ arow acnt f acc zt zf pa pz st srow) s = true →
        starts (.mmuls gd bk at_ arow acnt f acc zt zf pa pz st srow) ((resultRows f acnt true - 1) * f.pA / 8))

/-- R217: the rows of an operation of slot M enter one after the other: source row r of an MLDB r / 3 cycles after its
acceptance, row i of an MMUL or MMULS i x p / 8 cycles after; before the cycle of its next row nothing of it enters. -/
def Claims.RowsEnterInTurn : Prop :=
  ∀ (c x : Nat) (ro : RowsOp) (s : State),
    let t := getCtx s c x
    let p := fun (n d : Nat) => (n, ro.c + ro.next * d / 8)
    let e := match ro.ins with
      | .mldb .. => (192, ro.c + ro.next / 3)
      | .mmul _ _ _ _ acnt fa .. => p (acnt.val + 1) fa.pA
      | .mmuls _ _ _ _ acnt fa .. => p (if fa.width = 8 then (acnt.val + 1) / 2 else acnt.val + 1) fa.pA
      | _ => (0, 0)
    t.rows = [ro] → ro.next < e.1 →
      (t.icyc < e.2 → enterRows s c x = s) ∧
        (e.2 ≤ t.icyc → enterRows s c x = enterRows (enterRow (setCtx s c x { t with
          rows := if ro.next + 1 < e.1 then [{ ro with next := ro.next + 1 }] else [] }) c x ro) c x)

/-- R212, R220: source row r of an MLDB that binds no port is row r mod 64 of tile BT + r / 64, and as it enters, without a
parity error, it makes row r of the bank its elements; nothing else changes. -/
def Claims.BankRows : Prop :=
  ∀ (gd : Guard) (bk : Fin 4) (bt : Fin 32) (f : Fmt) (ro : RowsOp) (c x : Nat) (s : State),
    ro.ins = .mldb gd bk bt f none → ro.next < 192 → (getCore s c).bad = [] →
    let k := getCore s c
    let u := enterRow s c x ro
    let row := k.row ((k.get x).tbase + bt.val + ro.next / 64) (ro.next % 64)
    (∃ cs, u = { s with cores := cs }) ∧ (∀ c', c' ≠ c → getCore u c' = getCore s c') ∧
      getCore u c = { k with banks := (getCore u c).banks } ∧
      (∀ b, b ≠ bk → (getCore u c).banks[b] = k.banks[b]) ∧ (getCore u c).banks[bk].fmt = k.banks[bk].fmt ∧
      ∀ r, (getCore u c).banks[bk].rows.getD r 0 = if r = ro.next then
        rowOf f.width (elemsOf f.width (if f.isWide then 96 else 192) row.toNat) else k.banks[bk].rows.getD r 0

/-- MLDB, MMUL and MMULS as they issue, and an MLDB's rows as they enter its bank. -/
def Obligations.MatrixIssue : Prop :=
  Claims.MatrixStarts ∧ Claims.RowsEnterInTurn ∧ Claims.BankRows

/-- R217, R222: an MMUL of one row with no port bound computes the row's totals from the tile row, the bank and the scale
latches as it issues, and they reach the accumulator or leave it, with their flags, ceil(p / 8) cycles after class 6. -/
def Claims.MatrixOneRow : Prop :=
  ∀ (gd : Guard) (bk : Fin 4) (at_ zt : Fin 32) (arow : Fin 64) (f : Fmt) (acc : Bool) (zf : Zf) (s : State),
    goes (opMmul gd bk at_ arow 0 f acc zt zf none none) s = true →
    let a := startCycle s
    let k := a.myCore
    let row := readRow a k (a.me.tbase + at_.val) arow.val
    let ts := denseRow f (elemsOf f.width f.kPos row.toNat) k.latA k.banks[bk] k.latB 192
    let fl := ts.foldl (fun x v => x ||| v.2) 0
    let late := (f.pA + 7) / 8
    (∀ r ∈ a.me.rows, r.op ≠ k.opSeq) →
    let w := if acc then Write.accAdd arow.val (ts.map (·.1)) (some fl)
      else .accOut arow.val (ts.map (·.1)) (a.me.tbase + zt.val) zf none k.opSeq a.issue.addr true (some fl)
    ∃ t, exec (.mmul gd bk at_ arow 0 f acc zt zf none none) s = .next t ∧
      t.me.flights = addFlights a 6 [(0, late, w)] ∧ t.me.rows = a.me.rows

/-- R211, R217, R222, R223: row i of an MMUL or MMULS, as it enters without a parity error: its elements, two tile rows of
them for an MMULS of 8 bits, pass port A where one is bound; its totals, against the bank and the scale latches of this cycle,
for MMULS over the positions that the select row names, go on their way to the accumulator or out of it, with their flags and
those of the port, and reach it ceil((i + 1) x p / 8) cycles after class 6 counted from the operation's acceptance. Tiles,
accumulators, banks and memory keep their values. -/
def Claims.MatrixRows : Prop :=
  ∀ (sparse acc : Bool) (gd : Guard) (bk : Fin 4) (at_ zt st : Fin 32) (arow acnt srow : Fin 64) (f : Fmt) (zf : Zf)
    (pa pz : Option (Fin 16)) (ro : RowsOp) (c x : Nat) (s : State) (cs : List Nat) (f0 : Flags) (k1 : Core),
    let k := getCore s c
    let t := k.get x
    let i := ro.next
    let n := if sparse = true ∧ f.width = 8 then (acnt.val + 1) / 2 else acnt.val + 1
    let row := fun r => (k.row (t.tbase + at_.val) (arow.val + r)).toNat
    let codes := if sparse = false then elemsOf f.width f.kPos (row i)
      else if f.width = 4 then elemsOf 4 384 (row i) else elemsOf 8 192 (row (2 * i)) ++ elemsOf 8 192 (row (2 * i + 1))
    ro.ins = (if sparse then .mmuls gd bk at_ arow acnt f acc zt zf pa pz st srow
      else .mmul gd bk at_ arow acnt f acc zt zf pa pz) →
    i < n → k.bad = [] → operandPort k t.flags pa ro.op f codes = (cs, f0, none, k1) →
    let ts := if sparse then sparseRow f cs k.latA ro.sel k.banks[bk] k.latB
      else denseRow f cs k.latA k.banks[bk] k.latB 192
    let fl := ts.foldl (fun y v => y ||| v.2) f0 ||| if i + 1 = n then endPortFlags k1 pa ro.op else 0
    let w := if acc then Write.accAdd (arow.val + i) (ts.map (·.1)) (some fl)
      else .accOut (arow.val + i) (ts.map (·.1)) (t.tbase + zt.val) zf (pz.map (·.val)) ro.op ro.addr (decide (i + 1 = n))
        (some fl)
    let late := ((i + 1) * f.pA + 7) / 8
    let T := t.lat.getD 6 1
    let L := partLatency.getD 6 1
    let u := enterRow s c x ro
    u.mem = s.mem ∧ (∀ c', c' ≠ c → getCore u c' = getCore s c') ∧
      getCtx u c x = { t with flights := insertFlight ⟨ro.c + T + late, if T < L then ro.ck + L + late else 0,
        s.ck + (ro.c + T + late - t.icyc), ro.c, 6, t.icyc, w⟩ t.flights } ∧
      (getCore u c).tiles = k.tiles ∧ (getCore u c).acc = k.acc ∧ (getCore u c).live = k.live ∧ (getCore u c).banks = k.banks

/-- R144, R223: an MMULS whose other conditions are good, and whose select row has a field with bits 15..12 not zero or
indices that do not rise, traps with SPARSE_META and the number of the first such field. -/
def Claims.SparseSelectTraps : Prop :=
  ∀ (gd : Guard) (bk : Fin 4) (at_ zt st : Fin 32) (arow acnt srow : Fin 64) (f : Fmt) (acc : Bool) (zf : Zf)
    (pa pz : Option (Fin 16)) (s : State) (g : Nat), clear gd [] [] [] s = true →
    let a := startCycle s
    let o := opMmuls gd bk at_ arow acnt f acc zt zf pa pz st srow
    let field := fun h => elemAt 16 (readRow a a.myCore (a.me.tbase + st.val) srow.val).toNat h
    let good := fun h => let v := field h
      v / 2 ^ 12 = 0 ∧ v % 8 < v / 8 % 8 ∧ v / 8 % 8 < v / 64 % 8 ∧ v / 64 % 8 < v / 512 % 8
    o.decode a = none → scoreboard a.myCore (o.tileR a) (o.tileW a) = false → o.empty a [] = false →
    mulTraps a bk at_ arow acnt f acc zt zf pa pz true = [] → st.val < a.me.tcnt →
    g < 48 → (∀ h, h < g → good h) → ¬good g →
      exec (.mmuls gd bk at_ arow acnt f acc zt zf pa pz st srow) s =
        .next (takeTrap (delivered s) s.issue.core s.issue.ctx 0x0C g s.issue.addr)

/-- R40, R213, R222: a row of totals that is delivered is added to its acc row, which is live then, for ACC = 1; for ACC = 0,
with no port Z, its sum with a live acc row, or the totals alone, stand in the result format in their tiles, 48 or 96
columns to a tile, and the acc row is empty; the flags of the row fold. -/
def Claims.MatrixDelivery : Prop :=
  ∀ (c x row zt op epc : Nat) (zf : Zf) (last : Bool) (vals : List Nat) (fl : Flags) (s : State), row < 64 →
    vals.length = 192 →
    let k := getCore s c
    let adds := vals.zipIdx.map fun p => FV.add ((alGet [] k.acc row).getD p.2 0, 0) (p.1, 0)
    let sums := if k.live.getLsbD row then adds else vals.map fun v => (v, 0)
    let out := sums.map fun v => zfCode zf v.1
    let folds := fun (u : State) (vs : List (List FV)) => getCtx u c x =
      { getCtx s c x with flags := (getCtx s c x).flags ||| vs.flatten.foldl (fun y v => y ||| v.2) fl }
    (let u := applyWrite s c x (.accAdd row vals (some fl))
     let k' := getCore u c
     u.mem = s.mem ∧ folds u [adds] ∧ k'.tiles = k.tiles ∧ alGet [] k'.acc row = adds.map (·.1) ∧
       (∀ r, r ≠ row → alGet [] k'.acc r = alGet [] k.acc r) ∧
       ∀ r, r < 64 → k'.live.getLsbD r = (k.live.getLsbD r || decide (r = row))) ∧
      let u := applyWrite s c x (.accOut row vals zt zf none op epc last (some fl))
      let k' := getCore u c
      let w := if zf = .bf16 then 16 else 32
      let per := 1536 / w
      u.mem = s.mem ∧ folds u [sums, out] ∧ alGet [] k'.acc row = [] ∧
        (∀ r, r ≠ row → alGet [] k'.acc r = alGet [] k.acc r) ∧
        (∀ r, r < 64 → k'.live.getLsbD r = (k.live.getLsbD r && decide (r ≠ row))) ∧
        (∀ q, q < 192 / per → k'.row (zt + q) row = rowOf w (((out.map (·.1)).drop (q * per)).take per)) ∧
        ∀ t r, r < 64 → (r ≠ row ∨ t < zt ∨ zt + 192 / per ≤ t) → k'.row t r = k.row t r

/-- An MMUL of one row as it issues; the rows of every MMUL and MMULS as they enter; a bad select row; and rows as they are
delivered. -/
def Obligations.MatrixRowResults : Prop :=
  Claims.MatrixOneRow ∧ Claims.MatrixRows ∧ Claims.SparseSelectTraps ∧ Claims.MatrixDelivery

/-- R224 to R226: a tree-descent operation that its conditions let issue gives the result of batch row r in class 6, r + 1
cycles on: TDADDR the low word of A + node x B, TDLEAF the index of the node in its level, TDPATH path and depth,
TDESC the y register one level down; TDADDR.aq appends a 16-byte request for each row to the address queue. -/
def Obligations.TreeDescentResults : Prop :=
  ∀ (gd : Guard) (y0 cnt : Fin 64) (t : Fin 32) (row : Fin 64) (x z : GSrc) (lv : Fin 32) (s : State),
    let a := startCycle s
    let tile := a.me.tbase + t.val
    let y := fun r => a.me.y[Fin.ofNat 64 (y0.val + r)]
    let rows := List.range (cnt.val + 1)
    let b := (val [gs x, gs z] s 0).toNat
    let k := (val [gs x, gs z] s 1).toNat
    let addr := fun r => (b + (y r).node.toNat * k) % 2 ^ 64
    let word := fun (e : Nat) (vs : List Nat) =>
      Write.tile tile (row.val + e / 48) (4 * (e % 48)) (vs.flatMap (leBytes 4))
    (goes (opTdaddr gd y0 cnt t row x z) s = true →
        Lands (.tdaddr gd y0 cnt t row x z) s [gs x, gs z] 6 []
          (rows.map fun r => (0, r + 1, word r [addr r % 2 ^ 32]))) ∧
      (goes (opTdleaf gd y0 cnt t row) s = true →
        Lands (.tdleaf gd y0 cnt t row) s [] 6 [] (rows.map fun r =>
          (0, r + 1, word r [((((y r).node.toNat : Int) - (2 ^ (y r).depth.toNat - 1)) % 2 ^ 32).toNat]))) ∧
      (goes (opTdpath gd y0 cnt t row) s = true →
        Lands (.tdpath gd y0 cnt t row) s [] 6 []
          (rows.map fun r => (0, r + 1, word (2 * r) [(y r).path.toNat, (y r).depth.toNat]))) ∧
      (goes (opTdesc gd y0 cnt t row lv) s = true →
        Lands (.tdesc gd y0 cnt t row lv) s [] 6 [] (rows.flatMap fun r =>
          let col := ((y r).node.toNat - (2 ^ lv.val - 1)) % 192
          let v := elemAt 32 (readRow a a.myCore (tile + col / 48) (row.val + r)).toNat (col % 48)
          let d := descend lv.val (y r) v
          (0, r + 1, .y (y0.val + r) d.1) :: if d.2 = 0 then [] else [(0, r + 1, .rowFlags (a.me.icyc + r) d.2)])) ∧
      (goes (opTdaddrAq gd y0 cnt x z) s = true →
        IssuesAs (.tdaddrAq gd y0 cnt x z) s { advanced a [gs x, gs z] with
          uid := a.me.uid + (cnt.val + 1)
          aq := a.me.aq ++ rows.map fun r => ⟨a.me.uid + r, addr r, 16⟩ })

/-- R233, R235, R236: RSUM, RMAX, RSSQ and RNORM that their conditions let issue give all their result rows in class 11
together, with the flags of their elements and those of summing the ports' last groups (R250), one issue cycle a source row
later, or four where a bound port slot holds a special function; the rows after the first are still to enter, and the results
come from the last (log 88); the engine is the context's for as long. (The model's choice: where E narrower results of RNORM
do not fill their row, its other bytes are zero, log 90.) -/
def Obligations.ReductionResults : Prop :=
  ∀ (gd : Guard) (ax : Bool) (st : Fin 32) (srow cnt : Fin 64) (dt : Fin 32) (drow : Fin 64) (fs fd : Fmt)
    (pa pz : Option (Fin 16)) (km : Fin 4) (s : State),
    let a := startCycle s
    let k := a.myCore
    let n := rowPace k [pa, pz] * (cnt.val + 1)
    let last := rowPace k [pa, pz] * cnt.val
    let mask := a.me.k[Fin.ofNat 8 km.val]
    let rows := (List.range (cnt.val + 1)).map fun i =>
      elemsOf fs.width (perRow fs.width) (readRow a k (a.me.tbase + st.val) (srow.val + i)).toNat
    let r0 : RRun := ⟨[], rport k pa, rport k pz, none⟩
    let gives := fun (i : Instr) (cut : Nat) (r : RRun) => r.fault = none →
      Lands i s [] 11 (rowsToEnter a i (rowPace k [pa, pz])) (((chunks cut (r.outs.length + 1) r.outs).zipIdx.flatMap fun p =>
        let fl := p.1.foldl (fun x e => x ||| e.2) 0
        (rowWrites (a.me.tbase + dt.val) (drow.val + p.2) fd (p.1.map (·.1))).map (fun w => (last, n, w)) ++
          if fl = 0 then [] else [(last, n, .rowFlags (a.me.icyc + last) fl)]) ++
        let fl := r.a.endFlags ||| r.z.endFlags
        if fl = 0 then [] else [(last, n, .rowFlags (a.me.icyc + last) fl)]) ∧
      ∃ t, exec i s = .next t ∧ t.myCore.rFree = a.me.icyc + n ∧ t.myCore.rUser = a.issue.ctx
    (goes (opRsum gd ax st srow cnt dt drow fs fd pa pz km) s = true →
        gives (.rsum gd ax st srow cnt dt drow fs fd pa pz km) (perRow fd.width)
          (reduceRows .sum ax fs fd mask a.me.flags rows r0)) ∧
      (goes (opRmax gd ax st srow cnt dt drow fs fd pa pz km) s = true →
        gives (.rmax gd ax st srow cnt dt drow fs fd pa pz km) (perRow fd.width)
          (reduceRows .max ax fs fd mask a.me.flags rows r0)) ∧
      (goes (opRssq gd ax st srow cnt dt drow fs fd pa pz km) s = true →
        gives (.rssq gd ax st srow cnt dt drow fs fd pa pz km) (perRow fd.width)
          (reduceRows .ssq ax fs fd mask a.me.flags rows r0)) ∧
      (goes (opRnorm gd ax st srow cnt dt drow fs fd pa pz km) s = true →
        gives (.rnorm gd ax st srow cnt dt drow fs fd pa pz km) (perRow fs.width)
          (rowByRow a.me.flags fs fd (normRow fs (mask.toNat % 2 ^ 32)) rows r0))

/-- R234, R237: RSORTK gives the rows and the y registers in the order of their nodes, equal nodes in the order of their rows;
RCMPR gives, of each eight rows, the four whose exact sums of the magnitudes of 192 elements are greatest, an element without
a finite value making its row's sum the greatest and equal sums falling to the lower row, in ascending order with the select
field that names them. All land in class 11 as many issue cycles on as there are source rows, which are still to enter after the
first, and come from the last (log 88). -/
def Obligations.SortPruneResults : Prop :=
  ∀ (gd : Guard) (st : Fin 32) (srow cnt : Fin 64) (dt : Fin 32) (drow y0 : Fin 64) (fs : Fmt) (sel : Fin 32)
    (part : Fin 4) (s : State),
    let a := startCycle s
    let n := cnt.val + 1
    let y := fun r => a.me.y[Fin.ofNat 64 (y0.val + r)]
    let row := fun i => readRow a a.myCore (a.me.tbase + st.val) (srow.val + i)
    let tile := a.me.tbase + dt.val
    (goes (opRsortk gd st srow cnt dt drow y0) s = true →
        ∃ pi : List Nat, pi.Perm (List.range n) ∧
          (pi.Pairwise fun i j => (y i).node.toNat < (y j).node.toNat ∨ (y i).node = (y j).node ∧ i < j) ∧
          Lands (.rsortk gd st srow cnt dt drow y0) s [] 11 (rowsToEnter a (.rsortk gd st srow cnt dt drow y0) 1)
            (pi.zipIdx.flatMap fun p =>
              [(cnt.val, n, .tile tile (drow.val + p.2) 0 (Row.toBytes (row p.1))),
                (cnt.val, n, .y (y0.val + p.2) (y p.1))])) ∧
      (goes (opRcmpr gd st srow cnt dt drow fs sel part) s = true →
        let mag := fun c => match fs.value c with
          | .fin _ m e => some (m * 2 ^ (e + 64).toNat)
          | _ => none
        let sum := fun q d =>
          let ms := (elemsOf fs.width 192 (row (8 * q + d)).toNat).map mag
          if ms.all Option.isSome then some (ms.map fun m => m.getD 0).sum else none
        let above := fun (u v : Option Nat) => match u, v with
          | none, some _ => True
          | some u, some v => v < u
          | _, _ => False
        ∃ ix : Nat → Fin 4 → Fin 8,
          (∀ q, q < n / 8 → (∀ i j : Fin 4, i < j → ix q i < ix q j) ∧ ∀ i (d : Fin 8), (∀ j, ix q j ≠ d) →
            above (sum q (ix q i).val) (sum q d.val) ∨ sum q (ix q i).val = sum q d.val ∧ ix q i < d) ∧
          Lands (.rcmpr gd st srow cnt dt drow fs sel part) s [] 11
            (rowsToEnter a (.rcmpr gd st srow cnt dt drow fs sel part) 1)
            ((List.range (n / 8)).flatMap fun q =>
              ((List.finRange 4).map fun i =>
                (cnt.val, n, .tile tile (drow.val + 4 * q + i.val) 0 (Row.toBytes (row (8 * q + (ix q i).val))))) ++
              [(cnt.val, n, .tile (a.me.tbase + sel.val) 0 (2 * (16 * part.val + drow.val / 4 + q))
                (leBytes 2 ((ix q 0).val + (ix q 1).val * 8 + (ix q 2).val * 64 + (ix q 3).val * 512)))]))

/-- R93, R153, R277: LNSTART with an entry of at most 511 and a parameter block in reach, while the Lantern is idle, the
matrix unit not another's and the exponent engine free, gives the matrix unit to the Lantern and starts it at that
entry; the context goes on. An entry above 511 traps with RESERVED_COMBO and the entry. -/
def Claims.LanternStartResults : Prop :=
  ∀ (gd : Guard) (e b : GSrc) (s : State), clear gd [gs e, gs b] [] [] s = true →
    let a := startCycle s
    let k := a.myCore
    let entry := (val [gs e, gs b] s 0).toNat
    let block := (val [gs e, gs b] s 1).toNat
    isSup a.issue.core = false → a.me.flights = [] → a.me.rows = [] →
      (entry ≤ 511 → check143 a a.issue.core a.issue.ctx block 64 = [] → k.lanternOn = false →
        ownedElsewhere k a.issue.ctx = false → (∀ v ∈ k.serving, v.onExp k = false) →
        ∃ t, exec (.lnstart gd e b) s = .next t ∧ t.mem = a.mem ∧ t.me = advanced a [gs e, gs b] ∧
          t.myCore.owner = .lantern ∧ t.myCore.lantern = { k.lantern with
            phase := .starting, pc := entry, owner := a.issue.ctx, base := block, epc := a.issue.addr }) ∧
      (511 < entry → check143 a a.issue.core a.issue.ctx block 64 = [] →
        exec (.lnstart gd e b) s =
          .next (takeTrap (delivered s) s.issue.core s.issue.ctx causeRESERVED entry s.issue.addr))

/-- R273, R277: the Lantern's start reads its parameter block; with every field good, and no copy in flight on a lent
tile, the sequence runs from fresh state and the accumulator is empty; a field that breaks R276 stops it with
RESERVED_COMBO, its offset and WHY 12. -/
def Claims.LanternBegins : Prop :=
  ∀ s : State, s.myCore.lantern.phase = .starting →
    let k := s.myCore
    let l := k.lantern
    let c := s.issue.core
    let key := placeKey s c l.owner l.base 64
    let block := readBytes s.mem key 64
    let l1 := { l with params := block, bar := leNat ((block.drop 48).take 2) % 1024 }
    farOverlaps s c l.owner key 64 = false → poisoned s key 64 = false →
      lentInFlight { k with lantern := l1 } l1 = false →
      (paramFault l1 (k.get l.owner).tcnt = none →
        exec .lanternStart s = .next (modCore s c fun k => { k with
          acc := [], live := 0
          lantern := { l1 with
            phase := .running, s := List.replicate 16 0, qsig := 0, m := List.replicate 64 0xFF800000
            l := List.replicate 64 0, alpha := List.replicate 64 0
            score := List.replicate 64 (List.replicate 64 0), first := (k.get l.owner).uid, poisoned := false } })) ∧
      ∀ off, paramFault l1 (k.get l.owner).tcnt = some off →
        exec .lanternStart s = .next (lanternStop (modCore s c fun k => { k with lantern := l1 }) c 0x02
          (off * 65536 + 12 * 256))

/-- LNSTART gives the matrix unit to the Lantern, and its start reads and checks the parameter block. -/
def Obligations.LanternStarts : Prop :=
  Claims.LanternStartResults ∧ Claims.LanternBegins

/-- R272, R287, R293, R296, R300: while a sequence runs, PLD sets its s register to a word of the parameter block, SADDI
and SMOVI set theirs modulo 2^32, BRC goes to its target where its unsigned comparison holds, and LOOPS counts its
register down and goes to its target while the register was above 1; nothing but the Lantern changes. While none runs,
a word has no effect. -/
def Claims.LanternScalarWords : Prop :=
  ∀ (d x y : Fin 16) (w : Fin 16) (imm : BitVec 32) (cond : Fin 4) (tgt : Fin 512) (s : State),
    let l := s.myCore.lantern
    let u := l.s.getD x.val 0
    let v := l.s.getD y.val 0
    let sets := fun (i : Instr) (e : Nat) =>
      LanternGives i s { l with s := l.s.set d.val (e % 2 ^ 32), pc := l.pc + 1 }
    let holds := if cond.val = 0 then u = v else if cond.val = 1 then u ≠ v else if cond.val = 2 then u < v else v ≤ u
    (l.phase = .running →
        sets (.pld d w) (leNat ((l.params.drop (4 * w.val)).take 4)) ∧ sets (.saddi d x imm) (u + imm.toNat) ∧
        sets (.smovi d imm) imm.toNat ∧
        (holds → LanternGives (.brc cond x y tgt) s { l with pc := tgt.val }) ∧
        (¬holds → LanternGives (.brc cond x y tgt) s { l with pc := l.pc + 1 }) ∧
        LanternGives (.loops x tgt) s { l with
          s := if u = 0 then l.s else l.s.set x.val ((u - 1) % 2 ^ 32)
          pc := if 1 < u then tgt.val else l.pc + 1 }) ∧
      (l.phase ≠ .running → ∀ i ∈ [Instr.pld d w, .saddi d x imm, .smovi d imm, .brc cond x y tgt, .loops x tgt],
        exec i s = .next s)

/-- R281, R301: SGLD makes the signs of the 64 elements from its row of TG on the query's signature; SGAP queues a store
of the signature of its row at the slab's entry of the token; a row above 62 stops the sequence with RESERVED_COMBO
and WHY 13 (R276). -/
def Claims.LanternSignatures : Prop :=
  ∀ (x y : Fin 16) (s : State), s.myCore.lantern.phase = .running →
    let k := s.myCore
    let l := k.lantern
    let tile := (k.get l.owner).tbase + l.tg
    let sign := fun r => bitAt
      (elemAt 32 (k.row (tile + r / 48 / 64) (r / 48 % 64)).toNat (r % 48)) 31
    let sig := fun r => ((List.range 64).map fun e => if sign (48 * r + e) then 2 ^ e else 0).sum
    let u := l.s.getD x.val 0
    let v := l.s.getD y.val 0
    let stop := .next (lanternStop s s.issue.core 0x02 (l.pc * 65536 + 13 * 256))
    (u ≤ 62 → k.bad = [] → LanternGives (.sgld x) s { l with qsig := sig u, pc := l.pc + 1 }) ∧
      (62 < u → exec (.sgld x) s = stop) ∧
      (v ≤ 62 → k.bad = [] → (k.get l.owner).cmds.length < 16 →
        LanternQueues (.sgap x y) s { l with pc := l.pc + 1 }
          { lnStore s (.sgap (leBytes 8 (sig v))) [(addrPlus l.sbase ((8 * u : Nat) : Int), leBytes 8 (sig v))] with
            uid := (k.get l.owner).uid }) ∧
      (62 < v → exec (.sgap x y) s = stop)

/-- PLD, SADDI, SMOVI, BRC, LOOPS, SGLD and SGAP. -/
def Obligations.LanternWords : Prop :=
  Claims.LanternScalarWords ∧ Claims.LanternSignatures

/-- R279, R282, R291: GLIM of no tokens gives 0; of some, it queues a read of their signatures and waits; once each is
read, the tokens whose signature differs from the query's in at most RHO bits, or that are sinks or recent, stand in
TI in order, and their number is its result. A range beyond the slab, or above 3072, stops the sequence. -/
def Obligations.LanternLimit : Prop :=
  ∀ (d x y : Fin 16) (s : State),
    let k := s.myCore
    let l := k.lantern
    let a := l.s.getD x.val 0
    let n := l.s.getD y.val 0
    (l.phase = .running → (3072 < n ∨ l.len < a + n) →
        exec (.glim d x y) s = .next (lanternStop s s.issue.core 0x02 (l.pc * 65536 + 13 * 256))) ∧
      (l.phase = .running → n ≤ 3072 → a + n ≤ l.len →
        (n = 0 → LanternGives (.glim d x y) s { l with s := l.s.set d.val 0, pc := l.pc + 1 }) ∧
        (n ≠ 0 → (k.get l.owner).cmds.length < 16 →
          LanternQueues (.glim d x y) s { l with phase := .copying (k.get l.owner).uid }
            { lnCmd s (.glim d n) (plainForm true 1 n) l.sbase with
              uid := (k.get l.owner).uid, chunks := n
              units := (List.range n).flatMap fun j =>
                unitsOf (j + 1) [⟨addrPlus l.sbase ((8 * (a + j) : Nat) : Int), 8, 0⟩] })) ∧
      ∀ u m, l.phase = .copying u → ((k.get l.owner).cmds.find? fun m => m.uid == u) = some m → m.ended = true →
        m.units = [] → m.stopped = false →
        let pass := fun (p : Nat × Nat) => decide (popcN 64 (l.qsig ^^^ p.1) ≤ l.rho) || decide (a + p.2 < l.sink) ||
          decide (l.len - l.recent ≤ a + p.2)
        let ts := (m.outs.zipIdx.filter pass).map fun p => a + p.2
        ∃ t, exec (.glim d x y) s = .next t ∧ t.mem = s.mem ∧
          t.myCore.lantern = { l with s := l.s.set d.val (ts.length % 2 ^ 32), phase := .running, pc := l.pc + 1 } ∧
          t.myCore.get l.owner = { k.get l.owner with cmds := (k.get l.owner).cmds.filter fun q => q.uid != u } ∧
          ∀ i, i < ts.length → i < 3072 →
            elemAt 32 (t.myCore.row ((k.get l.owner).tbase + l.ti) (i / 48)).toNat (i % 48) = ts.getD i 0 % 2 ^ 32

/-- R292: KGTH and VGTH queue a read of the token rows that the list in TI names, and make zero the rows of their tiles
that no token fills; with n = 0 they queue nothing and every row of their tiles becomes zero; a count above 64, a list range
beyond 3072 or a token beyond the slab stops the sequence. (The model's choice: the rows that no token fills are zero as
the word runs, R292 giving no instant, log 38.) -/
def Obligations.LanternGathers : Prop :=
  ∀ (x y : Fin 16) (v : Bool) (s : State), s.myCore.lantern.phase = .running →
    let k := s.myCore
    let l := k.lantern
    let tb := (k.get l.owner).tbase
    let a := l.s.getD x.val 0
    let n := l.s.getD y.val 0
    let i := if v then Instr.vgth x y else .kgth x y
    let tile := if v then l.tv else l.tk
    let base := if v then l.vbase else l.kbase
    let kind := if v then CmdKind.vgth n else .kgth n
    let tiles := if v then 3 else 1
    let token := fun j => elemAt 32 (readRow s k (tb + l.ti + (a + j) / 48 / 64) ((a + j) / 48 % 64)).toNat ((a + j) % 48)
    let empty := fun r => if v then r < 192 ∧ (r % 2 = 1 ∨ 2 * n ≤ r) else r < 64 ∧ n ≤ r
    (64 < n ∨ 3072 < a + n ∨ (∃ j, j < n ∧ l.len ≤ token j) →
        exec i s = .next (lanternStop s s.issue.core 0x02 (l.pc * 65536 + 13 * 256))) ∧
      (0 < n → n ≤ 64 → a + n ≤ 3072 → (∀ j, j < n → token j < l.len) → k.bad = [] →
        (k.get l.owner).cmds.length < 16 →
        ∃ t, exec i s = .next t ∧ t.mem = s.mem ∧ t.myCore.lantern = { l with pc := l.pc + 1 } ∧
          t.myCore.get l.owner = { k.get l.owner with
            uid := (k.get l.owner).uid + 1
            cmds := (k.get l.owner).cmds ++ [{ lnCmd s kind { plainForm true l.dim n with t := tile } base with
              uid := (k.get l.owner).uid, chunks := n
              units := gatherUnits base ((List.range n).map token)
              tileW := (List.range tiles).map fun j => tb + tile + j }] } ∧
          ∀ r, r < 64 * tiles → t.myCore.row (tb + tile + r / 64) (r % 64) =
            if empty r then 0 else k.row (tb + tile + r / 64) (r % 64)) ∧
      (n = 0 → a ≤ 3072 → ∃ t, exec i s = .next t ∧ t.mem = s.mem ∧ t.myCore.lantern = { l with pc := l.pc + 1 } ∧
        t.myCore.get l.owner = k.get l.owner ∧ ∀ r, r < 64 * tiles → t.myCore.row (tb + tile + r / 64) (r % 64) = 0)

/-- R276, R298: QKMM of n score rows, n at most 64, completes where it loads bank 2 (q) or bank 2 holds BF16 or FP16: it
takes, for each of the heads, the bank's product with the n rows of TK, as MMUL would compute it, writes no other score
and neither the accumulator nor its live bits, and folds the flags into the starting context; with q bank 2 has first
been loaded from TQ. A bank of another format, or n above 64, stops the sequence with WHY 13 before any score is written,
bank 2 then loaded under q. The values are those where no row it reads and no bank it writes fails its parity. -/
def Obligations.LanternScores : Prop :=
  ∀ (q : Bool) (x : Fin 16) (s : State), s.myCore.lantern.phase = .running →
    let k := s.myCore
    let l := k.lantern
    let tb := (k.get l.owner).tbase
    let n := l.s.getD x.val 0
    let codes := fun t r => elemsOf 16 96 (k.row (tb + t + r / 64) (r % 64)).toNat
    let bank := if q then ⟨.bf16, (List.range 192).map fun r => rowOf 16 (codes l.tq r)⟩ else k.banks[(2 : Fin 4)]
    let wide := q = true ∨ k.banks[(2 : Fin 4)].fmt = .bf16 ∨ k.banks[(2 : Fin 4)].fmt = .f16
    let loaded := if q then lnLoadBank s 2 l.tq else s
    let rs := (List.range n).map fun i => denseRow .bf16 (codes l.tk i) k.latA bank k.latB l.heads
    (n ≤ 64 → wide → ∃ t, exec (.qkmm q x) s = .next t ∧ t.mem = s.mem ∧ t.myCore.acc = k.acc ∧ t.myCore.live = k.live ∧
        t.myCore.tiles = k.tiles ∧ t.myCore.lantern = { l with pc := l.pc + 1, score := t.myCore.lantern.score } ∧
        (∀ i, n ≤ i → t.myCore.lantern.score.getD i [] = l.score.getD i []) ∧
        (k.bad = [] →
          t.myCore.banks = (if q then k.banks.set 2 bank else k.banks) ∧
          (∀ i j, i < n → i < l.score.length → j < l.heads → j < (l.score.getD i []).length →
            (t.myCore.lantern.score.getD i []).getD j 0 = ((rs.getD i []).getD j (0, 0)).1) ∧
          (t.myCore.get l.owner).flags =
            (k.get l.owner).flags ||| (rs.flatMap id).foldl (fun f r => f ||| r.2) 0)) ∧
      (64 < n ∨ ¬wide → exec (.qkmm q x) s = .next (lanternStop loaded s.issue.core 0x02 (l.pc * 65536 + 13 * 256)))

/-- R294: OSMX of 1 to 64 score rows updates each head's maximum, rescale factor and sum by its step of the online
softmax, writes its probabilities in BF16 to a row of TP, and folds the flags; another count stops the sequence. -/
def Obligations.LanternSoftmax : Prop :=
  ∀ (x : Fin 16) (s : State), s.myCore.lantern.phase = .running →
    let k := s.myCore
    let l := k.lantern
    let n := l.s.getD x.val 0
    let hs := (List.range l.heads).map (softmaxHead l n)
    (0 < n → n ≤ 64 → ∃ t, exec (.osmx x) s = .next t ∧ t.mem = s.mem ∧ t.myCore.acc = k.acc ∧
        t.myCore.lantern = { l with
          m := hs.map (·.m) ++ l.m.drop l.heads
          alpha := hs.map (·.alpha) ++ l.alpha.drop l.heads
          l := hs.map (·.l) ++ l.l.drop l.heads
          pc := l.pc + 1 } ∧
        (∀ j, j < l.heads → j < 64 →
          t.myCore.row ((k.get l.owner).tbase + l.tp) j = rowOf 16 ((hs.map (·.p)).getD j [])) ∧
        (t.myCore.get l.owner).flags = (k.get l.owner).flags ||| hs.foldl (fun f p => f ||| p.fl) 0) ∧
      (n = 0 ∨ 64 < n → exec (.osmx x) s = .next (lanternStop s s.issue.core 0x02 (l.pc * 65536 + 13 * 256)))

/-- R297, R299: PVMM loads bank 3 from TV and adds each head's product with its row of TP into the accumulator, whose rows
are then live; RSCL multiplies each head's accumulator row by its rescale factor. Both fold their flags into the starting
context; memory, tiles, the latches and the accumulator rows of no head keep their values, and no other live bit
changes. -/
def Obligations.LanternAccumulates : Prop :=
  ∀ s : State, s.myCore.lantern.phase = .running →
    let k := s.myCore
    let l := k.lantern
    let tb := (k.get l.owner).tbase
    let codes := fun t r => elemsOf 16 96 (k.row (tb + t + r / 64) (r % 64)).toNat
    let bank : Bank := ⟨.bf16, (List.range 192).map fun r => rowOf 16 (codes l.tv r)⟩
    let ts := fun j => denseRow .bf16 (codes l.tp j) k.latA bank k.latB 192
    let sums := fun j => (ts j).zipIdx.map fun p => FV.add ((alGet [] k.acc j).getD p.2 0, 0) (p.1.1, 0)
    let scaled := fun j => (List.range 192).map fun c => fmul32 (l.alpha.getD j 0) ((alGet [] k.acc j).getD c 0)
    let flags := fun (rows : Nat → List FV) =>
      ((List.range l.heads).flatMap rows).foldl (fun f v => f ||| v.2) (0 : Flags)
    let kept := fun (t : State) => t.mem = s.mem ∧ t.myCore.tiles = k.tiles ∧ t.myCore.latA = k.latA ∧
      t.myCore.latB = k.latB ∧ t.myCore.lantern = { l with pc := l.pc + 1 } ∧
      ∀ j, l.heads ≤ j → alGet [] t.myCore.acc j = alGet [] k.acc j
    (k.bad = [] → ∃ t, exec .pvmm s = .next t ∧ kept t ∧ t.myCore.banks = k.banks.set 3 bank ∧
        (∀ j, j < l.heads → alGet [] t.myCore.acc j = (sums j).map (·.1)) ∧
        (∀ j, j < 64 → t.myCore.live.getLsbD j = (k.live.getLsbD j || decide (j < l.heads))) ∧
        (t.myCore.get l.owner).flags = (k.get l.owner).flags ||| flags fun j => ts j ++ sums j) ∧
      ∃ t, exec .rscl s = .next t ∧ kept t ∧ t.myCore.banks = k.banks ∧ t.myCore.live = k.live ∧
        (∀ j, j < l.heads → alGet [] t.myCore.acc j = (scaled j).map (·.1)) ∧
        (t.myCore.get l.owner).flags = (k.get l.owner).flags ||| flags scaled

/-- R279, R295: OWRT queues a store of each head's accumulator row, its first DIM elements times the reciprocal of the
head's sum, at OUT + 384 x head, and folds the flags; while 16 commands are in the queue it waits. -/
def Obligations.LanternOutput : Prop :=
  ∀ s : State, s.myCore.lantern.phase = .running →
    let k := s.myCore
    let l := k.lantern
    let row := fun j =>
      let r := frcp32 (l.l.getD j 0)
      let es := (List.range l.dim).map fun d => fmul32 ((alGet [] k.acc j).getD d 0) r.1
      (es.flatMap fun e => leBytes 4 e.1, es.foldl (fun f e => f ||| e.2) r.2)
    let rows := (List.range l.heads).map row
    ((k.get l.owner).cmds.length < 16 → ∃ t, exec .owrt s = .next t ∧ t.mem = s.mem ∧ t.myCore.acc = k.acc ∧
        t.myCore.lantern = { l with pc := l.pc + 1 } ∧
        (t.myCore.get l.owner).cmds = (k.get l.owner).cmds ++ [{ lnStore s (.owrt (rows.map (·.1)))
          (rows.zipIdx.map fun p => (addrPlus l.out ((384 * p.2 : Nat) : Int), p.1.1)) with
          uid := (k.get l.owner).uid }] ∧
        (t.myCore.get l.owner).flags = (k.get l.owner).flags ||| rows.foldl (fun f r => f ||| r.2) 0) ∧
      (16 ≤ (k.get l.owner).cmds.length → exec .owrt s = .next s)

/-- R283, R288, R290: EWAIT goes on once the sequence's commands have performed; with g it waits as long as a growth of the
context has pieces to copy, and without g it goes on then; a growth that has copied its last piece swaps its entry as
EWAIT goes on. BSIG counts an arrival at its slot in force, granted, at its scope, and not a full ring; a value above 1,022
stops the sequence with WHY 13. DONE, once the commands have performed, makes the arrival at BAR where one is named, ends
the sequence and gives back the matrix unit. An arrival at a slot that is out of force or not granted stops the sequence
with PRIV, one of another scope with SCOPE_INVALID, one at a full ring with WHY 13, and none is made. -/
def Obligations.LanternControlWords : Prop :=
  ∀ (g : Bool) (sc : Fin 8) (x : Fin 16) (s : State), s.myCore.lantern.phase = .running →
    let k := s.myCore
    let l := k.lantern
    let t := k.get l.owner
    let ch := chipletOf s.issue.core
    let drained := ∀ m ∈ t.cmds, m.kind.isLantern = false
    let still := ∀ m ∈ t.cmds, m.isGrow = false
    let b := l.s.getD x.val 0
    let stop := fun (cause tval : Nat) => Host.Outcome.next (lanternStop s s.issue.core cause tval)
    let why13 := stop 0x02 (l.pc * 65536 + 13 * 256)
    let granted := fun (b : Nat) => (getSlot s ch b).on = true ∧ (getSlot s ch b).party t.group t.rank ≠ none
    let inScope := fun (b code : Nat) => slotScope s (getSlot s ch b) = some (if code = 7 then t.gsc else code)
    let full := fun (b : Nat) => (getSlot s ch b).ring = true ∧ (getSlot s ch b).free = (getSlot s ch b).depth
    let arrived := fun (u : State) (b : Nat) =>
      let v := getSlot s ch b
      getSlot u ch b = if v.ring then { v with free := min v.depth (v.free + 1) } else { v with arrNow := v.arrNow + 1 }
    let ended := { l with phase := .idle, endCode := 1, cause := 0 }
    let owner := if k.owner = .lantern then Owner.none else k.owner
    (drained → still → LanternGives (.ewait g) s { l with pc := l.pc + 1 }) ∧
      (¬drained → exec (.ewait g) s = .next s ∧ exec .done s = .next s) ∧
      (drained → (∃ m ∈ t.cmds, m.isGrow = true ∧ (m.started = false ∨ m.ported < m.chunks)) →
        exec (.ewait true) s = .next s) ∧
      (drained → (∀ m ∈ t.cmds, m.isGrow = true → m.started = false ∨ m.ported < m.chunks) →
        LanternGives (.ewait false) s { l with pc := l.pc + 1 }) ∧
      (∀ m, drained → t.cmds.filter (·.isGrow) = [m] → m.started = true → m.chunks ≤ m.ported →
        let e := slEntry m.desc
        winSize s s.issue.core e < 40 → ∃ u, exec (.ewait g) s = .next u ∧ u.myCore.lantern = { l with pc := l.pc + 1 } ∧
          winSize u s.issue.core e = winSize s s.issue.core e + 1 ∧
          winBase u s.issue.core e = t.xfwdn.toNat / 2 ^ 16 % 2 ^ 32 * 2 ^ 16) ∧
      (b ≤ 1022 → (granted b → inScope b sc.val → ¬full b → ∃ u, exec (.bsig sc x) s = .next u ∧ u.mem = s.mem ∧
          u.myCore.lantern = { l with pc := l.pc + 1 } ∧ arrived u b) ∧
        (¬granted b → exec (.bsig sc x) s = stop 0x03 b) ∧
        (granted b → ¬inScope b sc.val → exec (.bsig sc x) s = stop 0x0D b) ∧
        (granted b → inScope b sc.val → full b → exec (.bsig sc x) s = why13)) ∧
      (1022 < b → exec (.bsig sc x) s = why13) ∧
      (drained → still → l.bar = 0x3FF →
        exec .done s = .next (modCore s s.issue.core fun k => { k with owner := owner, lantern := ended })) ∧
      (drained → still → l.bar ≠ 0x3FF →
        let code := (l.params.getD 50 0).toNat
        (granted l.bar → inScope l.bar code → ¬full l.bar → ∃ u, exec .done s = .next u ∧ u.mem = s.mem ∧
          u.myCore.lantern = ended ∧ u.myCore.owner = owner ∧ arrived u l.bar) ∧
        (¬granted l.bar → exec .done s = stop 0x03 l.bar) ∧
        (granted l.bar → ¬inScope l.bar code → exec .done s = stop 0x0D l.bar) ∧
        (granted l.bar → inScope l.bar code → full l.bar → exec .done s = why13))

/-- R185, R186, R196: an NMC whose descriptor is in reach, well formed and without an error under it enters its context's
queue with the descriptor's 64 bytes, the pages of both ranges to translate and the place of its status word; a
malformed descriptor traps with RESERVED_COMBO, xtval the operand, one under an error queues nothing, and UNCORRECTABLE
is noted. (The model's choice: xtval is the whole of the operand with its SPACE bits, log 22.) -/
def Claims.NearMemoryCommands : Prop :=
  ∀ (gd : Guard) (r : GSrc) (bar : Fin 1024) (s : State) (i : Instr) (code : Nat),
    (i, code) ∈ [(Instr.nmcSgdfade gd r bar, 1), (.nmcFill gd r bar, 2), (.nmcCopy gd r bar, 3),
      (.nmcScale gd r bar, 4), (.nmcAccum gd r bar, 5)] →
    clear gd [gs r] [] [] s = true →
    let a := startCycle s
    let b := (val [gs r] s 0).toNat
    let key := placeKey a a.issue.core a.issue.ctx (b % 2 ^ 33) 64
    let d := readBytes a.mem key 64
    let n := leNat ((d.drop 32).take 4) * nmSize d
    let statOk := fun st => (vaultPlace a a.issue.core a.issue.ctx (bits st 32 0) 16).isSome
    operandTraps a b 64 = [] → operandWait a b 64 = false →
      (poisoned a key 64 = false → nmReserved code false d = false → nmWrong code d statOk = false →
        a.me.cmds.length < 16 → a.myCore.lanternOn = false →
        Queued i s [gs r] { freshCmd a i (if bar.val = 0x3FF then none else some bar.val)
            (plainForm false 1 (leNat ((d.drop 32).take 4))) 0 with
          uid := a.me.uid, desc := d, chunks := 1
          base := placeKey a a.issue.core a.issue.ctx (bits (leNat ((d.drop 24).take 8)) 32 0) 16
          pos := pagesOf (leNat (d.take 8)) n ++ if code = 2 then [] else pagesOf (leNat ((d.drop 8).take 8)) n }) ∧
      (poisoned a key 64 = false → (nmReserved code false d = true ∨ nmWrong code d statOk = true) →
        exec i s = .next (takeTrap (delivered s) s.issue.core s.issue.ctx 0x02 b s.issue.addr)) ∧
      (poisoned a key 64 = true → a.me.cmds.length < 16 → a.myCore.lanternOn = false → a.me.st = .current →
        ∃ t, exec i s = .next t ∧ t.mem = s.mem ∧ t.me.cmds = a.me.cmds ∧ t.me.g = a.me.g ∧
          ∃ v, t.me.asyncs = a.me.asyncs ++ [⟨0x13, a.issue.addr, v, none, none⟩])

/-- R185, R190: IMGDEC whose descriptor is in reach, well formed and without an error under it enters its context's queue
and the queue of its chiplet's image engine with the descriptor. -/
def Claims.ImageCommands : Prop :=
  ∀ (gd : Guard) (r : GSrc) (bar : Fin 1024) (s : State), goes (opImgdec gd r bar) s = true →
    let a := startCycle s
    let b := (val [gs r] s 0).toNat
    let key := placeKey a a.issue.core a.issue.ctx (b % 2 ^ 33) 64
    let d := readBytes a.mem key 64
    let ch := chipletOf a.issue.core
    poisoned a key 64 = false →
      ∃ t, exec (.imgdec gd r bar) s = .next t ∧
        OnlyMe { a with imgq := alSet a.imgq ch (alGet [] a.imgq ch ++ [⟨a.issue.core, a.issue.ctx, a.me.uid, none, d, []⟩]) } t ∧
        t.me = { advanced a [gs r] with
          uid := a.me.uid + 1
          cmds := a.me.cmds ++ [{ freshCmd a (.imgdec gd r bar) (if bar.val = 0x3FF then none else some bar.val)
              (plainForm true 0 (imLen d)) 0 with
            uid := a.me.uid, start := a.me.uid, desc := d, chunks := 1, units := unitsOf 1 [⟨imSrc d, imLen d, 0⟩]
            pos := intakePages d
            started := true }] }

/-- R199: SLABGROW whose descriptor is in reach, names a valid slab mapping and is well formed enters its context's queue,
with the pieces of 4 KiB to relocate; while one of the same entry is in flight on the core a second waits in place. -/
def Claims.SlabCommands : Prop :=
  ∀ (gd : Guard) (r : GSrc) (bar : Fin 1024) (s : State), clear gd [gs r] [] [] s = true →
    let a := startCycle s
    let b := (val [gs r] s 0).toNat
    let key := placeKey a a.issue.core a.issue.ctx (b % 2 ^ 33) 32
    let d := readBytes a.mem key 32
    operandTraps a b 32 = [] → operandWait a b 32 = false → slabBad a d = false →
      (growInFlight a.myCore (leNat (d.take 1)) = false → poisoned a key 32 = false → a.me.cmds.length < 16 →
        a.myCore.lanternOn = false →
        Queued (.slabgrow gd r bar) s [gs r] { freshCmd a (.slabgrow gd r bar)
            (if bar.val = 0x3FF then none else some bar.val) (plainForm false 0 0) key with
          uid := a.me.uid, desc := d, chunks := (leNat ((d.drop 8).take 8) + 4095) / 4096, pos := [b] }) ∧
      (growInFlight a.myCore (leNat (d.take 1)) = true →
        exec (.slabgrow gd r bar) s = .next (stallGroup s))

/-- NMC, IMGDEC and SLABGROW read their descriptors and queue their commands. -/
def Obligations.EngineCommands : Prop :=
  Claims.NearMemoryCommands ∧ Claims.ImageCommands ∧ Claims.SlabCommands

/-- R193: LSEND and LRECV with a message operand in reach, on a port whose state lets them: LSEND queues a read of the 256
bytes; LRECV takes the head message of its lane and queues a write of it, and blocks with condition 5 where there is
none; a port that is down, training or failed, or for LSEND draining, traps with LINK_DOWN and its number. -/
def Claims.LinkMessages : Prop :=
  ∀ (gd : Guard) (port : Fin 16) (vl : Fin 4) (r : GSrc) (bar : Fin 1024) (s : State), clear gd [gs r] [] [] s = true →
    let a := startCycle s
    let b := (val [gs r] s 0).toNat
    let q := getPort a port.val
    let cmd := fun (i : Instr) (load : Bool) =>
      { freshCmd a i (if bar.val = 0x3FF then none else some bar.val) (plainForm load 256 256) b with
        uid := a.me.uid, chunks := 1, units := unitsOf 1 [⟨b, 256, 0⟩] }
    let traps := fun i => exec i s =
      .next (takeTrap (delivered s) s.issue.core s.issue.ctx 0x14 port.val s.issue.addr)
    operandTraps a b 256 = [] →
      (a.me.cmds.length < 16 → a.myCore.lanternOn = false → (q.state = 2 ∨ q.state = 3) →
        Queued (.lsend gd port vl r bar) s [gs r] (cmd (.lsend gd port vl r bar) true) ∧
        (∀ m rest, q.recv.getD vl.val [] = m :: rest →
          ∃ t, exec (.lrecv gd port vl r bar) s = .next t ∧ t.mem = s.mem ∧
            t.me = { advanced a [gs r] with
              uid := a.me.uid + 1
              cmds := a.me.cmds ++ [{ cmd (.lrecv gd port vl r bar) false with
                start := a.me.uid, ported := 1, got := [(0, m)], credit := [(0, 256)], started := true, ended := true, folded := true }] } ∧
            getPort t port.val = { q with recv := q.recv.set vl.val rest }) ∧
        (q.recv.getD vl.val [] = [] → ∃ t, exec (.lrecv gd port vl r bar) s = .next t ∧
          Blocks 5 s t ∧ t.mem = s.mem)) ∧
      ((q.state = 0 ∨ q.state = 1 ∨ q.state = 5) →
        traps (.lsend gd port vl r bar) ∧ traps (.lrecv gd port vl r bar)) ∧
      (q.state = 4 → traps (.lsend gd port vl r bar))

/-- R194: LSTAT puts a word with the port's state, its lanes and the messages of its four receive queues in flight in
class 0; before enumeration the peer reads 0 (R438); after it the peer stands in it while the port is up, degraded or
draining, in a pod or not, and is open otherwise (log 3). -/
def Claims.LinkStatus : Prop :=
  ∀ (gd : Guard) (d : Fin 32) (port : Fin 16) (s : State), clear gd [] [d] [] s = true →
    let a := startCycle s
    let q := getPort a port.val
    let rq := fun l => min 64 (q.recv.getD l []).length
    let word := fun peer => BitVec.ofNat 64 (peer * 2 ^ 48 + rq 3 * 2 ^ 40 + rq 2 * 2 ^ 32 + rq 1 * 2 ^ 24 + rq 0 * 2 ^ 16
      + q.lanes % 16 * 2 ^ 4 + q.state % 16)
    let named := s.bootStep = 8 ∨ s.mode = .operating ∨ s.mode = .recovery
    (¬named → Gives (.lstat gd d port) s [] 0 (.g d (word 0)) 0) ∧
      (named → q.running = true → Gives (.lstat gd d port) s [] 0 (.g d (word (q.peer % 64))) 0) ∧
      (named → q.running = false → ∃ t peer, peer < 64 ∧ exec (.lstat gd d port) s = .next t ∧
        OnlyMe { a with freeCtr := a.freeCtr + 1 } t ∧
        t.me = { advanced a [] with flights := landing a 0 (.g d (word peer)) 0 })

/-- LSEND, LRECV and LSTAT. -/
def Obligations.LinkOperations : Prop :=
  Claims.LinkMessages ∧ Claims.LinkStatus

/-- R61, R75, R84, R189, R207, R440: a long-latency result whose ck has come lands in its register once none that lands before
it is on its way there; a Current context takes the exposed results of its issue cycle; a data-queue request whose home's
turn has come arrives with its bytes, or poisoned where they hold an error or its address fails; 16 bytes of host memory are
read as two words; a request for another package is sent on a port first; the oldest report of a Current context becomes its
trap, one of any other waits (R138). (The model's choices: a register is full again only with the last result on its way,
log 66; a report is taken before the results due at the next group are delivered, log 53.) -/
def Claims.ResultsArrive : Prop :=
  ∀ (c x i : Nat) (s : State),
    let t := getCtx s c x
    let others := fun (r : LongRes) =>
      (∃ q ∈ t.longs.erase r, q.d = r.d) ∨ ∃ f ∈ t.far, f.kind ≠ .store ∧ f.d = r.d
    (∀ r, t.longs[i]? = some r → r.due ≤ s.ck → landsNext t.longs r = true →
        ∃ u, exec (.longLatencyLanding c x i) s = .next u ∧ u.mem = s.mem ∧
          (¬others r → (getCtx u c x).full = t.full ||| ((1 : BitVec 32) <<< r.d.val)) ∧
          (others r → (getCtx u c x).full = t.full) ∧ getCtx u c x = { t with
            g := t.g.set r.d r.v
            full := (getCtx u c x).full
            longs := t.longs.erase r
            flags := t.flags ||| r.flags
            foldCk := (getCtx u c x).foldCk
            foldNow := (getCtx u c x).foldNow }) ∧
      (∀ r, t.longs[i]? = some r → (s.ck < r.due ∨ landsNext t.longs r = false) →
        exec (.longLatencyLanding c x i) s = .next s) ∧
      (t.st = .current → ∀ d v f fs, t.flights = f :: fs → f.due = t.icyc → f.ready ≤ s.ck → f.w = .g d v →
        (∀ f ∈ fs, t.icyc < f.due) →
        ∃ u, exec (.exposedResultDelivery c x) s = .next u ∧ u.mem = s.mem ∧
          getCtx u c x = { t with g := t.g.set d v, flights := fs }) ∧
      (∀ e key sh o p crc, t.dq[i]? = some e → e.arrived = false → e.parked = false → e.sent = none →
        placeOf s c x e.addr = .at_ key sh o p crc → placeOf s c x e.addr e.n = .at_ key sh o p crc →
        isAperture key = false → earlierMeets s c x e.uid (homeAt s c x e.addr) = false →
        let word := fun (hi : Bool) => readBytes s.mem (if hi then key + 8 else key) 8
        (isHost key = true → e.n = 16 → poisoned s key 8 = false → poisoned s (key + 8) 8 = false →
          (e.got = none → ∃ u hi, exec (.dataQueueArrival c x i) s = .next u ∧ u.mem = s.mem ∧
            getCtx u c x = { t with dq := t.dq.set i { e with got := some (hi, word hi) } }) ∧
          ∀ hi b, e.got = some (hi, b) → ∃ u, exec (.dataQueueArrival c x i) s = .next u ∧ u.mem = s.mem ∧
            getCtx u c x = { t with dq := t.dq.set i { e with
              arrived := true, got := none, data := if hi then word false ++ b else b ++ word true } }) ∧
        (¬(isHost key = true ∧ e.n = 16) →
        let got := if poisoned s key e.n then { e with arrived := true, poison := true, data := List.replicate e.n 0 }
          else { e with arrived := true, data := readBytes s.mem key e.n }
        ∃ u, exec (.dataQueueArrival c x i) s = .next u ∧ u.mem = s.mem ∧ getCtx u c x = { t with dq := t.dq.set i got })) ∧
      (∀ e key sh o p crc q, t.dq[i]? = some e → e.arrived = false → e.parked = false → e.sent = none →
        placeOf s c x e.addr = .at_ key sh o p crc → placeOf s c x e.addr e.n = .at_ key sh o p crc →
        isAperture key = true → portTo s (bits key 38 33) = some q →
        earlierMeets s c x e.uid (homeAt s c x e.addr) = false →
        ∃ u, exec (.dataQueueArrival c x i) s = .next u ∧ u.mem = s.mem ∧
          getCtx u c x = { t with dq := t.dq.set i { e with sent := some ⟨0, e.addr, key, some (o, p), q⟩ } }) ∧
      (∀ e, t.dq[i]? = some e → e.arrived = false → e.parked = false → e.sent = none →
        placeOf s c x e.addr = .miss → placeOf s c x e.addr e.n = .miss → earlierMeets s c x e.uid (homeAt s c x e.addr) = false →
        let bad := { e with arrived := true, poison := true, data := List.replicate e.n 0 }
        ∃ u, exec (.dataQueueArrival c x i) s = .next u ∧ u.mem = s.mem ∧ getCtx u c x = { t with dq := t.dq.set i bad }) ∧
      ∀ a rest, t.asyncs = a :: rest → (t.st ≠ .current → exec (.asyncTrap c x) s = .next s) ∧
        (t.st = .current → isSup c = false → x < 4 → ∃ u, exec (.asyncTrap c x) s = .next u ∧ u.mem = s.mem ∧ (getCtx u c x).xcause = a.cause ∧
          (getCtx u c x).xepc = BitVec.ofNat 64 a.epc ∧ (getCtx u c x).xtval = BitVec.ofNat 64 a.tval ∧
          (getCtx u c x).asyncs = rest ∧ (getCtx u c x).st = .freezing ∧ (getCtx u c x).g = t.g ∧ (getCtx u c x).pc = t.pc)

/-- R68, R332, R333, R337, R348: a compute context Blocked, or stalled in place, for 2^32 ck takes WATCHDOG with its
condition; 10,000 ck after a freeze reached it as it was Current a compute context is Freezing, its freeze forced; the freeze
unit captures a context that waits for nothing, with its registers as they stand, the flags of its rows folded, and
gives its engines back; its image written, with the first word of its record at its save address, it is Frozen; the
expansion of the segment of its next group brings that segment into a half of its loop buffer. -/
def Claims.ContextEvents : Prop :=
  ∀ (c x : Nat) (s : State), x < 4 →
    let t := getCtx s c x
    (isSup c = false → t.blk ≠ 0 → (t.st = .blocked ∨ t.st = .current) → t.since + 2 ^ 32 ≤ s.ck →
        ∃ u, exec (.watchdog c x) s = .next u ∧ u.mem = s.mem ∧ (getCtx u c x).xcause = 0x16 ∧
          (getCtx u c x).xtval = BitVec.ofNat 64 t.blk ∧ (getCtx u c x).xepc = BitVec.ofNat 64 t.pc ∧
          (getCtx u c x).st = .freezing) ∧
      (isSup c = false → ∀ f, t.frzAt = some f → (t.st = .current ∨ t.st = .ready ∨ t.st = .blocked) → f + 10000 ≤ s.ck →
        ∃ u, exec (.freezeLimit c x) s = .next u ∧ u.mem = s.mem ∧
          getCtx u c x = { t with st := .freezing, frzPoint := some s.ck, frzCause := 0x17, frzForced := true }) ∧
      (∀ g, groupOf s t.group = some g → captureReady s c x = true → isSup c = false → (∀ w ∈ g.saved, w.rank ≠ t.rank) →
        ∃ u h v, exec (.contextFreeze c x) s = .next u ∧ u.mem = s.mem ∧ groupOf u t.group = some h ∧ v ∈ h.saved ∧
          v.rank = t.rank ∧ v.ctx.g = t.g ∧ v.ctx.pc = t.pc ∧ v.ctx.icyc = t.icyc ∧
          v.ctx.flags = finishedFlags s c x t ∧
          ((∀ f ∈ t.flights, f.w.rowOf t.icyc = false) → v.ctx.flags = t.flags ∧
            v.ctx.flights = t.flights.map fun f => { f with
              ready := 0, out := if f.entry < t.icyc then 0 else f.out, w := f.w.folded }) ∧
          (getCore u c).owner ≠ .ctx x) ∧
      (∀ g v, groupOf s t.group = some g → g.saved.find? (fun v => v.rank == t.rank) = some v → t.st = .freezing →
        Memory.wf s.mem = true → v.mu = false → v.ln = false → isSup c = false →
        ∃ u, exec (.saveImageWritten c x) s = .next u ∧ (getCtx u c x).st = .frozen ∧ (getCtx u c x).g = t.g ∧
          readBytes u.mem (g.saves.getD t.rank 0) 8 = leBytes 8 v.header ∧
          ∀ k, k < g.saves.getD t.rank 0 → memGet u.mem k = memGet s.mem k) ∧
      ∀ g, halfAt t t.pc = none → segAt (kernelImage s t.kernel) t.pc = some g → holdsSeg t.half0 t.seg = false →
        ∃ u, exec (.segmentExpansion c x) s = .next u ∧ u.mem = s.mem ∧ getCtx u c x = { t with
          half0 := some ⟨g.idx, g.caddr, (imgParcels (kernelImage s t.kernel) g.idx).getD []⟩ }

/-- R22, R405, R420, R421: SHOOT drops the translations it names from the cache of its chiplet and no other; WAKE drops them
too, and what is parked on the pages it names translates again in the order in which it parked: a chunk whose page is
present waits no more, and one whose page is not parks again behind those that wait; a CFG write resets its slot, gives
every party whose BARW is blocked there the entry WRELP, and ends those waits (the model's choice: such a BARW keeps its party
index until it issues again, log 57); FORCE completes the phase of a counting
slot and breaks a ring; the PKG word becomes xcore.PKG of every core; and word 6 of the discovery table takes its fields,
SC unchanged. -/
def Claims.TableEvents : Prop :=
  ∀ (ch b : Nat) (v : BitVec 64) (s : State), ch < 8 → b < 1023 →
    let w := v.toNat
    let names := fun (o p : Nat) => w / 2 ^ 52 = o ∧ (v.getLsbD 27 = true ∨ w / 2 ^ 28 % 2 ^ 24 = p)
    let q := getSlot s ch b
    let refused := { q with cfg := w }
    let off := v.getLsbD 0 && ((!refused.ring && refused.ea == 0 && refused.eb == 0) ||
      (!refused.ring && decide (1024 < refused.ea)) || (refused.ring && (refused.depth == 0 || refused.eb == 0)))
    (∃ t, exec (.shoot ch v) s = .next t ∧ t = { s with tcache := t.tcache } ∧
        ∀ e, e ∈ t.tcache ↔ e ∈ s.tcache ∧ ¬(e.1.1 = ch ∧ names e.1.2.1 e.1.2.2)) ∧
      (∃ t, exec (.wake ch v) s = .next t ∧
        t = { s with cores := t.cores, tcache := t.tcache, parks := t.parks, supIrq := t.supIrq } ∧
        (∀ e, e ∈ t.tcache ↔ e ∈ s.tcache ∧ ¬(e.1.1 = ch ∧ names e.1.2.1 e.1.2.2)) ∧
        (∀ c x, chipletOf c ≠ ch → getCtx t c x = getCtx s c x) ∧
        (∀ c x, (getCtx t c x).g = (getCtx s c x).g ∧ (getCtx t c x).st = (getCtx s c x).st) ∧
        ∀ p, s.parks.filter (fun p => decide (chipletOf p.core = ch ∧ names (p.id / 2 ^ 24) (p.id % 2 ^ 24))) = [p] →
          p.waits s = true →
          let others := s.parks.filter fun p => decide ¬(chipletOf p.core = ch ∧ names (p.id / 2 ^ 24) (p.id % 2 ^ 24))
          let pte := readPte (shootDown s ch w) ch (p.id / 2 ^ 24) (p.id % 2 ^ 24)
          let k := getCtx s p.core p.ctx
          ((∀ e, pte = some e → bitAt e 0 = true) → t.parks = others ∧ t.supIrq = s.supIrq ∧
            getCtx t p.core p.ctx = { k with
              cmds := k.cmds.map fun m => if m.uid = p.uid then { m with parkedAt := none } else m
              dq := k.dq.map fun d => if d.uid = p.uid then { d with parked := false } else d }) ∧
          (∀ e, pte = some e → bitAt e 0 = false → t.parks = others ++ [p] ∧
            t.supIrq = s.supIrq ++ [(2 * ch, 0x100, p.id)] ∧ getCtx t p.core p.ctx = k)) ∧
      (∃ t, exec (.barrierCfgWrite ch b v) s = .next t ∧ t.mem = s.mem ∧
        getSlot t ch b = { Slot.reset with
          cfg := setBits (if off then setBits w 0 0 0 else w) 16 1 0, entries := (getSlot t ch b).entries
          size := q.size, free := q.depth
          sup := (q.sup.filter fun p => (getCtx s (p.1 / 4) (p.1 % 4)).barWait == some b).map fun p => (p.1, p.2.1, true) } ∧
        (∀ p, (getSlot t ch b).entry p = if p ∈ waitParties s ch b then some .wrelp else none) ∧
        (∀ b', b' ≠ b → getSlot t ch b' = getSlot s ch b') ∧
        ∀ c x, chipletOf c = ch → (getCtx s c x).barWait = some b →
          let k := getCtx s c x
          getCtx t c x = { k with
            barWait := none, blk := if k.isBlocked then 0 else k.blk
            cfgRel := (b, q.party k.group k.rank) :: k.cfgRel }) ∧
      (∃ t, exec (.barrierForce ch b v) s = .next t ∧ t = { s with slots := t.slots, cores := t.cores, groups := t.groups } ∧
        getSlot t ch b = (if v.getLsbD 2 = false ∨ q.on = false then q
          else if q.ring then { q with brk := q.brk || v.getLsbD 1 } else { q with forceNow := some (v.getLsbD 1) }) ∧
        ∀ c x, getCtx t c x = if v.getLsbD 2 = true ∧ q.on = true ∧ q.ring = true ∧ v.getLsbD 1 = true ∧
            waitsOn c (getCtx s c x) ch b = true then (getCtx s c x).unheld else getCtx s c x) ∧
      (∃ t, exec (.pkgWordWrite v) s = .next t ∧ t = { s with tables := t.tables } ∧
        (∀ c, c < 1040 → xcoreVal t c / 2 ^ 26 = w % 64 ∧ xcoreVal t c % 2 ^ 26 = xcoreVal s c % 2 ^ 26) ∧
        ∀ k o i, (k, o, i) ≠ (8, 0, 8) → tabGet t k o i = tabGet s k o i) ∧
      ∃ t, exec (.scopeWordWrite v) s = .next t ∧ t = { s with tables := t.tables } ∧
        scopeWord t 6 = w / 2 ^ 16 * 2 ^ 16 + (v.getLsbD 7).toNat * 2 ^ 7 + 6 ∧
        ∀ k o i, (k, o, i) ≠ (8, 0, 6) → tabGet t k o i = tabGet s k o i

/-- Results, reports, freezing, segment expansion, and the writes of the supervisor tables. -/
def Obligations.EventsOfCores : Prop :=
  Claims.ResultsArrive ∧ Claims.ContextEvents ∧ Claims.TableEvents

/-- R419, R422, R423: an absent page, given a free frame, is present there with its contents and zeros, and its parked chunks
translate again; a frame with no page locked or held by an engine is evicted: P is clear in every object that maps it, their
translations are gone, the frame is copied out and free; a write to a shared page makes the page the writer's own, in place
or in a copy, with both frames' counts, and its page unit serves it; while another comes first or is served there, nothing
happens. (The model's choices: the order of waiting writes, log 47; no count of host memory or without an array, log 92.) -/
def Claims.PageEvents : Prop :=
  ∀ (ch obj page frame dest k : Nat) (content : List Host.Cell) (s : State),
    Memory.wf s.mem = true → pteKey s ch obj page = some k →
    let f0 := frame * 65536
    let pte := memLe s k 8
    let f := bits pte 47 16 * 65536
    let apart := fun (a n b m : Nat) => a + n ≤ b ∨ b + m ≤ a
    (bitAt pte 0 = false → rangeFree s f0 65536 65536 = true → apart k 8 f0 65536 →
        (∀ a, countKey s f0 = some a → apart a 4 f0 65536 ∧ apart a 4 k 8) →
        ∃ t, exec (.pageFaultService ch obj page frame content) s = .next t ∧ memLe t k 8 = f0 + 1 ∧
          (∀ o, o < 65536 → memGet t.mem (f0 + o) = ((content.reverse.find? fun c => c.1 == o).map (·.2)).getD 0) ∧
          (∀ a, countKey s f0 = some a → memLe t a 4 = 1) ∧
          (∀ a, (a < f0 ∨ f0 + 65536 ≤ a) → (a < k ∨ k + 8 ≤ a) → (∀ b, countKey s f0 = some b → a < b ∨ b + 4 ≤ a) →
            memGet t.mem a = memGet s.mem a) ∧
          ∀ p ∈ s.parks, chipletOf p.core = ch → p.id = obj * 2 ^ 24 + page → page < 2 ^ 24 →
            ∀ m ∈ (getCtx t p.core p.ctx).cmds, m.uid = p.uid → m.parkedAt ≠ some p.id) ∧
      (bitAt pte 0 = true → goodDest dest = true →
        (∀ a, countKey s f = some a → apart a 4 f 65536 ∧ apart a 4 dest 65536 ∧
          ∀ m ∈ mappersOf s f, ∀ km, pteKey s m.1 m.2.1 m.2.2 = some km → apart km 8 a 4) →
        (∀ m ∈ mappersOf s f, lockedPage s m.1 m.2.1 m.2.2 = false ∧ shootHeld s m.1 (pageWord m.2.1 m.2.2) = false ∧
          ∀ km, pteKey s m.1 m.2.1 m.2.2 = some km → apart km 8 f 65536 ∧ apart km 8 dest 65536) →
        apart k 8 f 65536 → apart k 8 dest 65536 → apart f 65536 dest 65536 →
        ∃ t, exec (.pageEviction ch obj page dest) s = .next t ∧
          (∀ m ∈ mappersOf s f, ∀ km, pteKey s m.1 m.2.1 m.2.2 = some km → bitAt (memLe t km 8) 0 = false) ∧
          readBytes t.mem dest 65536 = readBytes s.mem f 65536 ∧ (∀ r ∈ t.allocs, r.2.1 ≠ f) ∧
          (∀ a, countKey s f = some a → memLe t a 4 = 0) ∧
          ∀ m ∈ mappersOf s f, m.2.1 < 4096 → m.2.2 < 2 ^ 24 → ∀ e ∈ t.tcache, e.1 ≠ m) ∧
      (writeWaits s ch obj page = false ∨ cowReady s ch obj page = false ∨ cowFirst s ch obj page = false →
        exec (.copyOnWrite ch obj page) s = .next s) ∧
      (∀ u b, pageUnit s ch obj page = some u → unitServes s u = some b →
        (∀ q, cowRequest s ch obj page = some q → b.same q = false) → exec (.copyOnWrite ch obj page) s = .next s) ∧
      (writeWaits s ch obj page = true → cowReady s ch obj page = true → cowFirst s ch obj page = true → frameCount s f = 1 →
        ∃ t, exec (.copyOnWrite ch obj page) s = .next t ∧ t.mem = writeBytes s.mem k (leBytes 8 (setBits pte 2 2 0)) ∧
          ∀ q, cowRequest s ch obj page = some q → (stackChiplet (bits f 39 36), q) ∈ t.cow) ∧
      (let home := stackChiplet (bits f 39 36)
       let g := poolFrame s home
       let cg := countAt s g
       let cf := countAt s f
       writeWaits s ch obj page = true → cowReady s ch obj page = true → cowFirst s ch obj page = true → frameCount s f ≠ 1 →
        apart k 8 g 65536 → apart f 65536 g 65536 → apart cg 4 g 65536 → apart cf 4 g 65536 → apart k 8 cg 4 →
        apart k 8 cf 4 → apart cg 4 cf 4 →
        ∃ t, exec (.copyOnWrite ch obj page) s = .next t ∧ memLe t k 8 = g + 1 ∧
          readBytes t.mem g 65536 = readBytes s.mem f 65536 ∧ memLe t cg 4 = 1 ∧
          memLe t cf 4 = (frameCount s f + (2 ^ 32 - 1)) % 2 ^ 32 ∧
          ∀ q, cowRequest s ch obj page = some q → (home, q) ∈ t.cow)

/-- R187, R188, R304, R428, R433: a unit of a copy whose turn has come performs: a load's changes no memory, a store's writes
its bytes at their place alone; an LSEND, its message read, enters its port against a credit, is credited and leaves the
queue; one whose address no window grants ends with VAULT_RANGE; an IMGDEC whose last write performs is credited 32 bytes
and leaves its queues. (The model's choices: the instant of LSEND's credit, log 25; xtval, the first element of the failing
chunk, log 18.) -/
def Claims.ChunksPerform : Prop :=
  ∀ (c x ci ui key : Nat) (sh : Bool) (o pg : Nat) (s : State) (m : Cmd),
    Memory.wf s.mem = true → (getCtx s c x).cmds[ci]? = some m → goesOn s c x m = true →
    let q := fun (t : State) => (getCtx t c x).cmds
    let replaced := fun (m' : Cmd) => (q s).map fun r => if r.uid = m.uid then m' else r
    let own := m.sent = [] ∧ isHost key = false ∧ isAperture key = false
    (∀ u gd port vl r bar, m.kind = .bundle (.lsend gd port vl r bar) → m.units[ui]? = some u → unitReady s c x m ui = true →
        m.form.load = true → u.chunk = 1 → m.chunks = 1 → m.stopped = false → holeOf s c x u.addr = none →
        (placeUnit (m.view s) c x u = .at_ key sh o pg false → own → unitBad s m u key = false →
          ∃ t, exec (.chunkPerform c x ci ui) s = .next t ∧ t.mem = s.mem ∧
            q t = replaced { readUnit s m u key with units := m.units.eraseIdx ui }) ∧
        (placeUnit (m.view s) c x u = .range → m.sent = [] → (getCtx s c x).st = .current →
          ∃ t, exec (.chunkPerform c x ci ui) s = .next t ∧ t.mem = s.mem ∧
            q t = (q s).filter (fun r => r.uid != m.uid) ∧
            (getCtx t c x).asyncs = (getCtx s c x).asyncs ++ [⟨0x09, m.addr, 0, none, none⟩])) ∧
      (∀ gd port vl r bar, m.kind = .bundle (.lsend gd port vl r bar) → m.units = [] → m.mayWrite s c 0 = true →
        m.stopped = false →
        earlierSend (getCtx s c x) m port.val vl.val = false →
        let p := getPort s port.val
        (p.state = 2 ∨ p.state = 3) → (p.queued.getD vl.val []).length < p.credits.getD vl.val 0 →
          ∃ t, exec (.chunkPerform c x ci ui) s = .next t ∧ t.mem = s.mem ∧
            q t = (q s).filter (fun r => r.uid != m.uid) ∧
            getPort t port.val = { p with
              queued := p.queued.set vl.val (p.queued.getD vl.val [] ++ [alGet [] m.got 0]) } ∧
            ∀ b, m.bar = some b → getSlot t (chipletOf c) b = (getSlot s (chipletOf c) b).credit 256 false) ∧
      (∀ u gd r bar, m.kind = .bundle (.imgdec gd r bar) → m.units = [u] → u.chunk = 2 → m.chunks = 2 → m.form.load = false →
        m.stopped = false → unitReady s c x m 0 = true → holeOf s c x u.addr = none →
        placeUnit (m.view s) c x u = .at_ key false o pg false → own → unitBad s m u key = false →
          ∃ t, exec (.chunkPerform c x ci 0) s = .next t ∧ q t = (q s).filter (fun r => r.uid != m.uid) ∧
            alGet [] t.imgq (chipletOf c) = (alGet [] s.imgq (chipletOf c)).drop 1 ∧
            ∀ b, m.bar = some b → getSlot t (chipletOf c) b = (getSlot s (chipletOf c) b).credit 32 false) ∧
      ∀ u p i, m.kind = .bundle i → (∃ gd t row cnt r n bar po f rm ps, i = .tst gd t row cnt r n bar po f rm ps ∨
          i = .tld gd t row cnt r n bar po f rm ps) →
        pump s c x m = (s, m) → m.units[ui]? = some u → u.pieces = [p] → unitReady s c x m ui = true →
        0 < u.chunk → u.chunk ≤ m.chunks → failingUnit s c x m u = u → holeOf s c x u.addr = none →
        placeUnit (m.view s) c x u = .at_ key false o pg false → own → unitBad s m u key = false →
        let at_ := key + (p.addr - u.addr)
        (m.form.load = true →
          ∃ t, exec (.chunkPerform c x ci ui) s = .next t ∧ t.mem = s.mem) ∧
        (m.form.load = false →
          p.off + p.n ≤ (alGet [] m.got (u.chunk - 1)).length →
          ∃ t, exec (.chunkPerform c x ci ui) s = .next t ∧
            readBytes t.mem at_ p.n = ((alGet [] m.got (u.chunk - 1)).drop p.off).take p.n ∧
            ∀ k, k < at_ ∨ at_ + p.n ≤ k → memGet t.mem k = memGet s.mem k)

/-- R199, R403, R424, R425: a command claims the ring slots its next chunk enters once nothing else keeps it from writing, and
goes on only with a whole claim; a growing slab copies 4 KiB at a time and moves its watermark, over a port to another
package; at the end the entry maps the new slab at twice the size, or the growth ends with STATUS 3 (it cannot double) or 2
(no memory); entries of cores where no group runs follow, and the old slab is free once no entry maps it. -/
def Claims.RingAndSlab : Prop :=
  ∀ (c x i : Nat) (nb : Option Nat) (s : State) (m : Cmd), (getCtx s c x).cmds[i]? = some m →
    let t := getCtx s c x
    let e := slEntry m.desc
    let sz := winSize s c e
    let status := fun (u : State) (n : Nat) => ∃ v, u.mem = writeBytes s.mem (m.base + 16) [v] ∧ v.toNat = n
    (∀ b n, m.bar = some b → isCaptured s c x = false → m.chunkBytes m.nextClaim = some n → m.claimTurn s c x = true →
        let v := getSlot s (chipletOf c) b
        v.on = true → v.ring = true → m.nextClaim < m.claimChunks → v.claiming = [] → v.free ≤ v.depth →
          (v.claims n ≤ v.free → ∃ u, exec (.ringClaim c x i) s = .next u ∧ u.mem = s.mem ∧
            getSlot u (chipletOf c) b = { v with
              free := v.free - v.claims n, claim := (v.claim + n) % (v.depth * v.eb) } ∧
            (getCtx u c x).cmds = t.cmds.map fun q => if q.uid = m.uid then { m with claimed := m.nextClaim + 1 } else q) ∧
          (v.free < v.claims n → ∃ u, exec (.ringClaim c x i) s = .next u ∧ getCtx u c x = t ∧ u.mem = s.mem ∧
            getSlot u (chipletOf c) b = { v with free := 0, claiming := [⟨c, x, m.uid, v.free⟩] })) ∧
      (m.isGrow = true → m.started = true → m.ported < m.chunks → Memory.wf s.mem = true →
        let o := 4096 * m.ported
        let n := min 4096 (slUsed m.desc - o)
        let old := t.xfwdo.toNat
        let new := t.xfwdn.toNat
        spotOf s (old + o) n none none false false = .at_ (old + o) false 0 0 false → m.sent = [] →
          (isAperture (old + o) = false → poisoned s (old + o) n = false →
            ∃ u, exec (.slabgrowChunk c x i nb) s = .next u ∧
            readBytes u.mem (new + o) n = readBytes s.mem (old + o) n ∧
            (∀ k, k < new + o ∨ new + o + n ≤ k → memGet u.mem k = memGet s.mem k) ∧
            (getCtx u c x).xfwdw = BitVec.ofNat 64 (2 ^ 63 + e * 2 ^ 48 + (o + n)) ∧
            (getCtx u c x).cmds = t.cmds.map fun q => if q.uid = m.uid then { m with ported := m.ported + 1 } else q) ∧
          ∀ p, isAperture (old + o) = true → portTo s (bits (old + o) 38 33) = some p →
            ∃ u, exec (.slabgrowChunk c x i nb) s = .next u ∧ u.mem = s.mem ∧ (getCtx u c x).xfwdw = t.xfwdw ∧
              (getCtx u c x).cmds = t.cmds.map fun q =>
                if q.uid = m.uid then { m with sent := [⟨m.ported + 1, old + o, old + o, none, p⟩] } else q) ∧
      (m.isGrow = true → m.started = false → growReady s c x m = true → poisoned s (m.base + 16) 1 = false →
        let virt := bits (winWord s c e 0) 63 32 * 2 ^ 16
        (sz = 40 ∨ virt % 2 ^ (sz + 1) ≠ 0 → ∃ u, exec (.slabgrowChunk c x i nb) s = .next u ∧ status u 3) ∧
        (sz ≠ 40 → virt % 2 ^ (sz + 1) = 0 →
          (nb = none → ∃ u, exec (.slabgrowChunk c x i nb) s = .next u ∧ status u 2) ∧
          (∀ b, nb = some b → rangeFree s b (2 ^ (sz + 1)) (2 ^ (sz + 1)) = true →
            ∃ u, exec (.slabgrowChunk c x i nb) s = .next u ∧ u.mem = s.mem ∧
              (getCtx u c x).xfwdo = BitVec.ofNat 64 (winBase s c e) ∧ (getCtx u c x).xfwdn = BitVec.ofNat 64 b ∧
              (getCtx u c x).xfwdw = BitVec.ofNat 64 (2 ^ 63 + e * 2 ^ 48)))) ∧
      (∀ q rest, s.oldSlabs = q :: rest →
        (s.tables.find? (mapsSlab s q.old) = none → (slabEntry s).oldSlabs = rest ∧
          ∀ a, a ∈ (slabEntry s).allocs ↔ a ∈ s.allocs ∧ a.2.1 ≠ q.old) ∧
        (s.tables.find? (mapsSlab s q.old) ≠ none → (slabEntry s).oldSlabs = s.oldSlabs ∧ (slabEntry s).allocs = s.allocs) ∧
        (s.tables.find? (mapsSlab s q.old) ≠ none → s.tables.find? (slabStale s q.old) = none → slabEntry s = s) ∧
        ∀ a, s.tables.find? (slabStale s q.old) = some a →
          bits (tabGet (slabEntry s) 0 a.1.2.1 (a.1.2.2 + 1)) 47 16 = q.new / 2 ^ 16 % 2 ^ 32) ∧
      (m.isGrow = true → m.started = true → m.chunks ≤ m.ported → swapReady (getCore s c) x = true → sz < 40 →
        ∃ u, exec (.slabgrowChunk c x i nb) s = .next u ∧ winSize u c e = sz + 1 ∧
          winBase u c e = t.xfwdn.toNat / 2 ^ 16 % 2 ^ 32 * 2 ^ 16 ∧ (getCtx u c x).xfwdw = 0 ∧
          (getCtx u c x).cmds = t.cmds.filter fun q => q.uid != m.uid)

/-- R191, R192, R196, R197, R365: the command at a stack's head performs burst by burst, each element as its operation says; one
that is done writes its status, two words in either order (R304), and leaves with its credit; the image engine knows what
its command writes once its source is read, and runs a node whole; a CRC32C failure, or the loss of its port, ends the
descriptor with its cause (R188, R440). -/
def Claims.EnginesWork : Prop :=
  ∀ (st ch : Nat) (s : State), Memory.wf s.mem = true →
    (∀ m rest, alGet [] s.nmq st = m :: rest →
        let d := m.desc
        let sz := nmSize d
        let es := nmElems d m.burst
        let ka := fun k => nmKey m.a (nmDeva d) (k * sz)
        let kb := fun k => nmKey m.b (nmDevb d) (k * sz)
        let e0 := nmFirst d m.burst
        let w := es.map fun k => nmElem m.op d (memLe s (ka k) sz) (if m.op = 2 then 0 else memLe s (kb k) sz)
        let fl := (m.flags.getLsbD 2).toNat + 2 * (m.flags.getLsbD 4).toNat + 4 * (m.flags.getLsbD 5).toNat
        let half := fun (q : NmEnd) (high : Bool) => writeBytes s.mem (if high then m.stat + 8 else m.stat)
          (if high then leBytes 1 q.state ++ leBytes 1 fl ++ List.replicate 6 0 else leBytes 4 q.done ++ leBytes 4 q.fail)
        (m.fin = none → m.ready = true → nmBursts d ≤ m.burst →
          ∃ t q, exec (.nmcExecution st) s = .next t ∧ q.done = nmCount d ∧ q.fail = 0xFFFFFFFF ∧ q.state = 1 ∧
            t.mem = half q q.high ∧ alGet [] t.nmq st = { m with fin := some q } :: rest) ∧
        (∀ q, m.fin = some q → ∃ t, exec (.nmcExecution st) s = .next t ∧ t.mem = half q (!q.high) ∧
          alGet [] t.nmq st = rest ∧
          (m.node = none → q.state = 1 → (∀ p ∈ (getCtx t m.core m.ctx).nmc, p.1 ≠ m.uid) ∧
            ∀ b, m.bar = some b → getSlot t (chipletOf m.core) b = (getSlot s (chipletOf m.core) b).credit 16 false) ∧
          ∀ i, m.node = some i → q.state ≠ 1 → ∀ n ∈ t.nodes, n.index = i → n.cause = 0x15) ∧
        (m.fin = none → m.ready = true → m.burst < nmBursts d → (∀ k ∈ es, onStack st (ka k) sz = true) →
          (m.op ≠ 2 → ∀ k ∈ es, onStack st (kb k) sz = true ∧ poisoned s (kb k) sz = false) →
          poisoned s (ka e0 / 32 * 32) 32 = false →
          ∃ t, exec (.nmcExecution st) s = .next t ∧ t.mem = writeBytes s.mem (ka e0) (w.flatMap fun r => leBytes sz r.1) ∧
            alGet [] t.nmq st = { m with
              burst := m.burst + 1, flags := w.foldl (fun f r => f ||| r.2) m.flags } :: rest)) ∧
      (∀ q m, (alGet [] s.imgq ch).head? = some q → q.node = none →
        (getCtx s q.core q.ctx).cmds.find? (fun m => m.uid == q.uid) = some m →
        m.form.load = true → m.units = [] → m.stopped = false → m.parkedAt = none →
        ∃ t, exec (.imageDecode ch) s = .next t ∧ t.mem = s.mem ∧
          (getCtx t q.core q.ctx).cmds = (getCtx s q.core q.ctx).cmds.map fun r =>
            if r.uid = m.uid then decodeCmd (openVal s) m else r) ∧
      ∀ q n src ko kr, (alGet [] s.imgq ch).head? = some q → q.node = some n → q.desc.length = 64 → imageHole s ch = none →
        nodeRange s (imSrc q.desc) (imLen q.desc) = .ok src → (∀ r ∈ src, poisoned s r.1 r.2 = false) →
        let r := intake (openVal s) q.desc (readRuns s src)
        let pa := patchAddr q.desc (imFirst q.desc)
        let checked := nodeChecked s (imSrc q.desc) (imLen q.desc) || nodeChecked s pa r.1.length
          || nodeChecked s (imRec q.desc) 32
        let ended := fun (cause : Nat) => ∃ t, exec (.imageDecode ch) s = .next t ∧
          alGet [] t.imgq ch = (alGet [] s.imgq ch).drop 1 ∧ ∀ m ∈ t.nodes, m.index = n → m.cause = cause
        nodeRange s pa r.1.length = .ok [(ko, r.1.length)] → nodeRange s (imRec q.desc) 32 = .ok [(kr, 32)] →
        nodeShared s pa r.1.length = none → nodeShared s (imRec q.desc) 32 = none →
        (∀ p, q.sent = [(p, true)] → 16 ≤ p → ended 0x14) ∧
        (q.sent = [] → (∀ r ∈ src, isAperture r.1 = false) → isAperture ko = false → isAperture kr = false →
          (ko + r.1.length ≤ kr ∨ kr + 32 ≤ ko) →
          if checked = true ∧ Config.crcFails s.freeCtr = true then ended 0x18
          else ∃ t, exec (.imageDecode ch) s = .next t ∧ readBytes t.mem ko r.1.length = r.1 ∧
            readBytes t.mem kr 32 = r.2 ∧ alGet [] t.imgq ch = (alGet [] s.imgq ch).drop 1)

/-- Pages, chunks of copies, ring slots, slab growth, and the memory and image engines. -/
def Obligations.EventsOfMemory : Prop :=
  Claims.PageEvents ∧ Claims.ChunksPerform ∧ Claims.RingAndSlab ∧ Claims.EnginesWork

/-- R360, R362, R363, R365, R367, R368, R369, R370, R373: what a kernel names in the record at the head of the submission
FIFO is mapped in the primary supervisor's table (log 78); with nothing lacking the record enters the node table,
dependent on the earlier nodes of its graph whose declared ranges meet its own, or is refused and leaves only its
completion word; a node that has waited its level's interval moves up a level once nothing of its KIND can be
dispatched; the head node of KIND 1, 2 or 3 starts on the lowest unit that can take it, of KIND 3 on the stack that
homes its first DEVA; a node whose engine has nothing left completes with
STATUS 1, its completion word written, and no node depends on it. (The model's choices: a service kernel runs in context
1 of its core, log 6; a node does not move up while anything of its KIND can be dispatched, log 40; records of GID 0
depend on nothing, log 42.) -/
def Claims.NodeEvents : Prop :=
  ∀ (i kind : Nat) (picks : List Nat) (s : State),
    (∀ q rest w e, s.fifo = q :: rest → lackedEntry s q = some w → freeEntry s = some e →
        ∃ t, exec .nodeAccept s = .next t ∧ t = { s with tables := t.tables } ∧ winWord t 64 e 0 = w.1 ∧ winWord t 64 e 1 = w.2) ∧
      (∀ q rest, s.fifo = q :: rest → lackedEntry s q = none →
        let r := q.record
        (∀ ops lists, checkNode s r (appendWrong s r) s.nodes.length = .accept ops lists → bitAt (ndSeal r) 0 = false →
          ∃ t n, exec .nodeAccept s = .next t ∧ t.fifo = rest ∧ t.mem = s.mem ∧ t.nodes = s.nodes ++ [n] ∧
            n.record = r ∧ n.gid = ndGid r ∧ n.id = ndNode r ∧ n.ops = ops ∧
            n.client = ((graphOf s (ndGid r)).map (·.client)).getD q.client ∧ (∀ o ∈ s.nodes, o.index ≠ n.index) ∧
            (∀ j, j ∈ n.deps ↔ n.gid ≠ 0 ∧ ∃ o ∈ s.nodes, o.index = j ∧ o.gid = n.gid ∧ o.st ≠ .done ∧
              ∃ x ∈ o.ops, ∃ y ∈ ops, x.1 < y.1 + y.2.1 ∧ y.1 < x.1 + x.2.1 ∧
                (bitAt x.2.2 1 = true ∨ bitAt y.2.2 1 = true)) ∧
            n.st = if n.deps = [] then .ready else .waiting) ∧
        (∀ code, checkNode s r (appendWrong s r) s.nodes.length = .refuse code → wordWaits s r = none →
          ∃ t, exec .nodeAccept s = .next t ∧ t.fifo = rest ∧ t.nodes = s.nodes ∧ t.graphs = s.graphs ∧
            (ndDonew r = 0 → t.mem = s.mem))) ∧
      (s.fifo = [] → exec .nodeAccept s = .next s) ∧
      (∀ n ∈ s.nodes, n.index = i → ∃ t, exec (.nodeAging i) s = .next t ∧ t = { s with nodes := t.nodes } ∧
        (n.st = .ready → n.level ≤ 5 → ageOf s n.level ≠ 0 → n.since + ageOf s n.level ≤ s.ck →
          canDispatch s (ndKind n.record) = false →
          { n with level := n.level + 1, since := s.ck, seq := 0 } ∈ t.nodes) ∧
        (n.st ≠ .ready ∨ 5 < n.level ∨ ageOf s n.level = 0 ∨ s.ck < n.since + ageOf s n.level ∨
          canDispatch s (ndKind n.record) = true → n ∈ t.nodes) ∧
        ∀ o ∈ s.nodes, o.index ≠ i → o ∈ t.nodes) ∧
      (halted s = true → 1 ≤ kind → exec (.dispatch kind picks) s = .next s) ∧
      (halted s = false → ∀ n, headNode s 1 = some n → ∀ d, d < 16 → unitBusy s 1 d = false →
        (∀ e, e < d → unitBusy s 1 e = true) →
          ∃ t, exec (.dispatch 1 picks) s = .next t ∧ t.mem = s.mem ∧
            (getCtx t (d * 65 + 64) 1).pc = imgEntry (kernelImage s (ndWork n.record)) ∧
            (getCtx t (d * 65 + 64) 1).st = .ready ∧ ∃ m ∈ t.nodes, m.index = n.index ∧ m.st = .running ∧ m.group = d + 1) ∧
      (halted s = false → ∀ n, headNode s 2 = some n → n ∈ s.nodes → ∀ d, d < 8 → unitBusy s 2 d = false →
        (∀ e, e < d → unitBusy s 2 e = true) →
          ∃ t, exec (.dispatch 2 picks) s = .next t ∧ t.mem = s.mem ∧ alGet [] t.imgq d = alGet [] s.imgq d ++
            n.lists.map (fun l => ⟨64, 0, 0, some n.index, l, []⟩)) ∧
      (halted s = false → ∀ n, headNode s 3 = some n →
        (∀ j, nodeParks s n = some j → exec (.dispatch 3 picks) s = .next (tellPage s 0 j)) ∧
        (nodeParks s n = none → unitBusy s 3 (nodeStack s n) = true → exec (.dispatch 3 picks) s = .next s) ∧
        (nodeParks s n = none → unitBusy s 3 (nodeStack s n) = false → ∃ t, exec (.dispatch 3 picks) s = .next t ∧
          t.mem = s.mem ∧ (∃ ms, alGet [] t.nmq (nodeStack s n) = alGet [] s.nmq (nodeStack s n) ++ ms ∧
            ms.map (·.desc) = n.lists ∧ ∀ q ∈ ms, q.node = some n.index) ∧
          ∃ m ∈ t.nodes, m.index = n.index ∧ m.st = .running)) ∧
      ∀ n, n ∈ s.nodes → n.index = i → n.st = .running → (∀ m ∈ s.nodes, m.index = i → m = n) → 2 ≤ ndKind n.record →
        engineDone s n = true → n.cause = 0 → Memory.wf s.mem = true →
        let word := leBytes 2 (ndNode n.record) ++ leBytes 2 0 ++ leBytes 1 1 ++ leBytes 1 0 ++ leBytes 2 0 ++ leBytes 8 s.ck
        let completed := fun (t : State) =>
          (∀ m ∈ t.nodes, m.index = i → m.st = .done ∧ m.status = 1) ∧ ∀ m ∈ t.nodes, m.index ≠ i → i ∉ m.deps
        (ndDonew n.record = 0 → ∃ t, exec (.nodeComplete i) s = .next t ∧ t.mem = s.mem ∧ completed t) ∧
        ∀ k o p crc, ndDonew n.record ≠ 0 → placeOf s primary 0 (ndDonew n.record) 16 = .at_ k false o p crc →
          ∃ t, exec (.nodeComplete i) s = .next t ∧ completed t ∧ readBytes t.mem k 16 = word

/-- R157, R371, R379, R381, R388, R390 to R392: a new group of the head node of KIND 0 is placed once R381 gives it cores and
the supervisor's choices fit; its contexts become Ready in one step, and it runs; HALT lets no node go; a group whose
contexts have all retired ends once its accesses have performed, leaves its cores and tables, and its node completes
with STATUS 1; a frozen group that the supervisor ends is Ended at once, and goes once its accesses have performed; a group
assigned to a die layer may migrate outside Service to one with contexts enough, and none migrates in Service. -/
def Claims.GroupEvents : Prop :=
  ∀ (gid die : Nat) (picks : List Nat) (s : State),
    (∀ h cores t, groupOf s gid = none → 1 ≤ gid → gid ≤ 65535 → halted s = false → s.mode = .operating →
        headNode s 0 = some h → h ∈ s.nodes → h.group = 0 → newCores s (evictable s) h none = some cores →
        placeOn s h gid (ndWork h.record) (kernelImage s (ndWork h.record)) cores picks (evictable s) = some t →
          exec (.dispatch 0 (gid :: picks)) s = .next t ∧ ∃ g, groupOf t gid = some g ∧ g.st = .placing ∧
            g.node = h.index ∧ g.ctxs = ndCtxs h.record ∧ g.kernel = ndWork h.record ∧ g.places.length = ndCtxs h.record) ∧
      (∀ g, groupOf s gid = some g → g.st = .placing → (groupReady s gid).mem = s.mem ∧
        groupOf (groupReady s gid) gid = some { g with st := .running } ∧
        ∀ p ∈ g.places, (getCtx s p.core p.ctx).group = gid → getCtx (groupReady s gid) p.core p.ctx =
          { getCtx s p.core p.ctx with st := .ready, since := s.ck }) ∧
      (halted s = true → groupOf s gid = none → exec (.dispatch 0 (gid :: picks)) s = .next s) ∧
      (halted s = true → s.mode = .operating → exec (.dispatch 0 []) s = .next s) ∧
      (∀ g, groupOf s gid = some g → (∀ r, r < g.ctxs → r ∈ g.retired) → g.st ≠ .assigned →
        (∀ n ∈ s.nodes, n.index = g.node → ndDonew n.record = 0) → inPlace s g = true → quiet s g = true → gid ≠ 0 →
          ∃ t, exec (.groupEnd gid) s = .next t ∧ groupOf t gid = none ∧
            (∀ p ∈ g.places, (getCtx t p.core p.ctx).st = .free) ∧
            (∀ die e, e % 2 = 0 → ¬(bitAt (tabGet t 2 die e) 0 = true ∧ bits (tabGet t 2 die e) 63 48 = gid)) ∧
            ∀ n ∈ t.nodes, n.index = g.node → n.st = .done) ∧
      (∀ g n, groupOf s gid = some g → g.st = .frozen → (∃ r, r < g.ctxs ∧ r ∉ g.retired) → nodeOf s g = some n →
        n.st = .suspended → ∃ t, exec (.groupEnd gid) s = .next t ∧ t.mem = s.mem ∧
          groupOf t gid = some { g with st := .ended }) ∧
      (∀ g, groupOf s gid = some g → (∃ r, r < g.ctxs ∧ r ∉ g.retired) → g.st = .ended → quiet s g = false →
        exec (.groupEnd gid) s = .next s) ∧
      (∀ g, groupOf s gid = some g → (∃ r, r < g.ctxs ∧ r ∉ g.retired) → g.st = .running →
        exec (.groupEnd gid) s = .next s) ∧
      (∀ g, groupOf s gid = some g → g.st = .assigned → s.mode ≠ .operating → die ≤ 15 → g.ctxs ≤ freeContexts s die →
          ∃ t, exec (.groupMigration gid die picks) s = .next t ∧ t = { s with groups := t.groups } ∧
            groupOf t gid = some { g with die := die }) ∧
      (s.mode = .operating → exec (.groupMigration gid die picks) s = .next s)

/-- Nodes enter, age, start and complete; groups start, end and migrate. -/
def Obligations.EventsOfNodes : Prop :=
  Claims.NodeEvents ∧ Claims.GroupEvents

/-- R433 to R436: a message leaves its port only against a credit and in order, and enters a receive queue only whole and
where there is room; an acknowledgement lets the oldest copy go; each of the three retrain triggers sends an Up or
Degraded port to Training, its queues kept, and makes a Draining one fail. Nothing else of the package but its
commands and reports changes. -/
def Claims.LinkTraffic : Prop :=
  ∀ (p l : Nat) (msg : List Byte) (s : State), l < 4 →
    let q := getPort s p
    let kept := fun (t : State) => t.mem = s.mem ∧ t.groups = s.groups ∧ ∀ p', p' ≠ p → getPort t p' = getPort s p'
    (∀ m rest, q.queued.getD l [] = m :: rest → q.running = true → 0 < q.credits.getD l 0 →
        ∃ t, exec (.messageSend p l) s = .next t ∧ kept t ∧ getPort t p = { q with
          queued := q.queued.set l rest, unacked := q.unacked.set l (q.unacked.getD l [] ++ [m])
          credits := q.credits.set l (q.credits.getD l 0 - 1) }) ∧
      (q.queued.getD l [] = [] ∨ q.credits.getD l 0 = 0 → exec (.messageSend p l) s = .next s) ∧
      (q.running = true → msg.length = 256 → (q.recv.getD l []).length < 64 →
        ∃ t, exec (.messageReceive p l (some msg)) s = .next t ∧ kept t ∧
          getPort t p = { q with recv := q.recv.set l (q.recv.getD l [] ++ [msg]) }) ∧
      (msg.length ≠ 256 ∨ 64 ≤ (q.recv.getD l []).length → exec (.messageReceive p l (some msg)) s = .next s) ∧
      (q.state = 2 ∨ q.state = 3 → ∃ t, exec (.messageReceive p l none) s = .next t ∧ kept t ∧
        getPort t p = { q with unacked := q.unacked.set l ((q.unacked.getD l []).drop 1) }) ∧
      ∀ i ∈ [Instr.laneLoss p, .flitReplayLimit p, .trainingFrame p],
        (q.state = 2 ∨ q.state = 3 → ∃ t, exec i s = .next t ∧ kept t ∧
          getPort t p = { q with state := 1, lanes := 0, trainStart := some s.ck }) ∧
        (q.state = 4 → ∃ t, exec i s = .next t ∧ kept t ∧ (getPort t p).state = 5 ∧
          (getPort t p).recv = [[], [], [], []] ∧ (getPort t p).unacked = [[], [], [], []]) ∧
        (q.state = 0 ∨ q.state = 1 ∨ q.state = 5 → exec i s = .next s)

/-- R431, R435, R459: training with 8 good lanes makes a port Up, with 4 to 7 Degraded; with fewer, or after more than
5,000,000 ck,
the attempt has failed, and the third in a row makes the port Failed; a drain leads to Draining while something is
left, and on to Training through Down where nothing is; a reset of a Failed port starts training; a lost fabric path
takes a package in Service into Recovery, HALT set. (The model's choices: a port with nothing left goes through Down to
Training in one step, log 36; outside Service a lost path leaves the mode as it is, log 48.) -/
def Claims.LinkTraining : Prop :=
  ∀ (p n a b : Nat) (s : State),
    let q := getPort s p
    let empty := q.recv.all (·.isEmpty) && q.unacked.all (·.isEmpty) && q.queued.all (·.isEmpty)
    let failed := fun (i : Instr) => ∃ t, exec i s = .next t ∧ t.mem = s.mem ∧
      (q.fails < 2 → getPort t p = { q with fails := q.fails + 1, trainStart := some s.ck }) ∧
      (2 ≤ q.fails → (getPort t p).state = 5 ∧ (getPort t p).recv = [[], [], [], []])
    (q.state = 1 → 4 ≤ n → (∀ c, q.trainStart = some c → s.ck ≤ c + 5000000) → ∃ t, exec (.trainingEnd p n) s = .next t ∧ t.mem = s.mem ∧ getPort t p = { q with
        state := if 8 ≤ n then 2 else 3, lanes := min 8 n, fails := 0, trainStart := none }) ∧
      (q.state = 1 → n < 4 → failed (.trainingEnd p n)) ∧
      (∀ c, q.state = 1 → q.trainStart = some c → c + 5000000 < s.ck →
        failed (.trainingTimeout p) ∧ failed (.trainingEnd p n)) ∧
      (∀ c, q.trainStart = some c → s.ck ≤ c + 5000000 → exec (.trainingTimeout p) s = .next s) ∧
      (q.state = 2 ∨ q.state = 3 → ∃ t, exec (.portDrainRequest p) s = .next t ∧ t.mem = s.mem ∧
        (empty = false → getPort t p = { q with state := 4 }) ∧ (empty = true → (getPort t p).state = 1)) ∧
      (q.state = 5 → ∃ t, exec (.portResetRequest p) s = .next t ∧ t.mem = s.mem ∧ (getPort t p).state = 1 ∧
        (getPort t p).trainStart = some s.ck) ∧
      (q.state ≠ 5 → exec (.portResetRequest p) s = .next s) ∧
      ∃ t, exec (.fabricPathLoss a b) s = .next t ∧ t.mem = s.mem ∧
        (s.mode = .operating → t.mode = .recovery ∧ halted t = true) ∧ (s.mode ≠ .operating → t.mode = s.mode)

/-- Messages, credits, retraining, training, drains and resets of link ports. -/
def Obligations.EventsOfLinks : Prop :=
  Claims.LinkTraffic ∧ Claims.LinkTraining

/-- R441 to R443, R445: a 64-byte write of the host at the INBOX of an enabled channel is a request; one that is not one whole
write, or finds no room, sets OVF; one whose fields break the layout gets STATUS 3; a read of OUTBOX gives the oldest
reply, which leaves it; a CSTAT write sets IRQE and clears OVF; a QUERY answers with the
word asked for, or STATUS 2 where there is no such thing; after the loss of the PCIe link device work goes on. -/
def Claims.HostChannels : Prop :=
  ∀ (ch : Nat) (v : BitVec 64) (s : State), ch < 8 →
    let h := getChannel s ch
    let replied := fun (i : Instr) (r : List Byte) (status : Nat) (results : List Byte) =>
      ∃ t, exec i s = .next t ∧ t.mem = s.mem ∧ t.nodes = s.nodes ∧ t.kernels = s.kernels ∧ t.ports = s.ports ∧
        (getChannel t ch).inbox = h.inbox.drop 1 ∧ (getChannel t ch).outbox =
          h.outbox ++ [fit 64 (r.take 4 ++ r.extract 4 5 ++ [BitVec.ofNat 8 status, 0, 0] ++ results)]
    (h.en = true → ∃ t, exec (.requestDropped ch) s = .next t ∧ getChannel t ch = { h with ovf := true } ∧
        t = { s with channels := t.channels }) ∧
      (∀ r rest, h.inbox = r :: rest → r.length = 64 → h.outbox.length < 256 → malformed r = true →
        replied (.malformedRequest ch) r 3 []) ∧
      (∀ bs, s.pciUp = true → h.en = true → ∃ t, barWrite s (0x1000 * ch) bs = .next t ∧
        t = { s with channels := t.channels } ∧
        getChannel t ch = if bs.length = 64 ∧ h.inbox.length < 256 then { h with inbox := h.inbox ++ [bs] }
          else { h with ovf := true }) ∧
      (s.pciUp = true → (∀ g ∈ s.graphs, g.done = false ∧ (g.isOpen = true ∨ g.pending ≠ 0)) →
        (∃ t, exec (.outboxRead ch) s = .next t ∧ t.mem = s.mem ∧ (getChannel t ch).outbox = h.outbox.drop 1) ∧
        ∃ t, barRead s (0x1000 * ch + 0x40) 64 = .next t ∧ t.mem = s.mem ∧ (getChannel t ch).outbox = h.outbox.drop 1 ∧
          t.barData = h.outbox.headD (List.replicate 64 0)) ∧
      (s.pciUp = true → ∃ t, exec (.cstatWrite ch v) s = .next t ∧ t = { s with channels := t.channels } ∧
        getChannel t ch = { h with irqe := v.getLsbD 1, ovf := h.ovf && !(v.getLsbD 2) }) ∧
      (∃ t, exec .pcieLinkLoss s = .next t ∧ t = { s with pciUp := false }) ∧
      ∀ r, pending s ch 8 = some r → r.length = 64 →
        (rqWhat r = 0 → (∀ n, s.nodes.find? (fun n => n.gid == leAt r 12 4 && n.id == leAt r 16 2) = some n →
            replied (.queryNode ch) r 1 (leBytes 8 (nodeWord n))) ∧
          (s.nodes.find? (fun n => n.gid == leAt r 12 4 && n.id == leAt r 16 2) = none → replied (.queryNode ch) r 2 [])) ∧
        (rqWhat r = 1 → (∀ k, kernelOf s (leAt r 12 4) = some k →
            replied (.queryKernel ch) r 1 (leBytes 8 (tabGet s 7 0 (kernelIndex s k.kid)))) ∧
          (kernelOf s (leAt r 12 4) = none → replied (.queryKernel ch) r 2 [])) ∧
        (rqWhat r = 2 → (getPort s (leAt r 9 1)).running = true →
          replied (.queryPort ch) r 1 (leBytes 8 (lstatVal s (leAt r 9 1)))) ∧
        (rqWhat r = 3 → replied (.queryPool ch) r 1 (leBytes 8 (poolWord s 0)))

/-- R345, R357 to R359, R362, R443, R444: ALLOC gives and maps a range of the size asked for; FREE unmaps it; COPYIN and
COPYOUT copy the bytes and reply; LOAD makes a kernel in Loading, checks its image, and leaves it Loaded with its reply,
or Refused, with its code in the reply as it goes; UNLOAD takes a kernel into Unloading and ends it once nothing uses it;
SUBMIT takes a graph whole or refuses it with the first failing node and its code. A refused request has no effect but
its reply, and the count of an error met in its records. (The model's choices: ALLOC maps its range at its own device
address, and LOAD puts an image at the lowest multiple of 64 KiB that is free, log 15.) -/
def Claims.HostRequests : Prop :=
  ∀ (ch : Nat) (s : State) (r : List Byte), Memory.wf s.mem = true → r.length = 64 →
    let h := getChannel s ch
    let n := rqC r
    let host := 2 ^ 47 + rqA r
    let refused := fun (i : Instr) (code : Nat) (results : List Byte) =>
      exec i s = .next (finish s ch r 2 code results)
    let done := fun (t : State) (results : List Byte) => (getChannel t ch).inbox = h.inbox.drop 1 ∧
      (getChannel t ch).outbox = h.outbox ++ [replyBytes (rqSeq r) (rqOp r) 1 0 results]
    (pending s ch 1 = some r → refused (.alloc ch none) 0 [] ∧
        ∀ base i, 0 < rqA r → sizeExp (rqA r) ≤ 40 → rangeFree s base (2 ^ sizeExp (rqA r)) (2 ^ sizeExp (rqA r)) = true →
          leAt r 16 1 = 0xFF → mapped s base (2 ^ sizeExp (rqA r)) = false → freeEntry s = some i →
          ∃ t, exec (.alloc ch (some base)) s = .next t ∧ done t (leBytes 8 base) ∧ t.mem = s.mem ∧
            (ch, base, 2 ^ sizeExp (rqA r)) ∈ t.allocs ∧ winWord t 64 i 1 = base ∧ bitAt (winWord t 64 i 0) 0 = true ∧
            bits (winWord t 64 i 0) 31 26 = sizeExp (rqA r) ∧ bits (winWord t 64 i 0) 63 32 * 2 ^ 16 = base) ∧
      (pending s ch 2 = some r → (clientEntries s ch).find? (fun w => bits w.1 63 32 * 2 ^ 16 == rqA r) = none →
        refused (.free ch) 0 []) ∧
      (pending s ch 2 = some r → ∀ w, (clientEntries s ch).find? (fun w => bits w.1 63 32 * 2 ^ 16 == rqA r) = some w →
        (mappingCores s w).any (coreRuns s []) = false →
          ∃ t, exec (.free ch) s = .next t ∧ done t [] ∧ t.mem = s.mem ∧
            ∀ a ∈ t.allocs, a.2.1 ≠ bits w.2 47 16 * 2 ^ 16) ∧
      (pending s ch 3 = some r → copyRuns s r = .fails → refused (.copyin ch) 0 []) ∧
      (pending s ch 3 = some r → ∀ k, copyRuns s r = .ok [(k, n)] → sharedPages s (rqB r) n = [] →
        poisoned s host n = false → partialBad s [(k, List.replicate n 0)] = false →
          ∃ t, exec (.copyin ch) s = .next t ∧ done t (crcResult r (readBytes s.mem host n)) ∧
            readBytes t.mem k n = readBytes s.mem host n ∧ ∀ a, a < k ∨ k + n ≤ a → memGet t.mem a = memGet s.mem a) ∧
      (pending s ch 4 = some r → ∀ k, copyRuns s r = .ok [(k, n)] → poisoned s k n = false →
          ∃ t, exec (.copyout ch) s = .next t ∧ done t (crcResult r (readBytes s.mem k n)) ∧
            readBytes t.mem host n = readBytes s.mem k n ∧
            ∀ a, a < host ∨ host + n ≤ a → memGet t.mem a = memGet s.mem a) ∧
      (pending s ch 5 = some r → loadingKernel s ch r = none → ∀ kid, kid < 2 ^ 32 → kernelOf s kid = none →
        kernelIndex s kid < Config.kernelWords →
          ∃ t k, exec (.load ch (some kid)) s = .next t ∧ kernelOf t kid = some k ∧ k.state = 1 ∧ t.mem = s.mem ∧
            t.channels = s.channels ∧ loadingKernel t ch r = some k ∧ tabGet t 7 0 (kernelIndex s kid) % 8 = 1 ∧
            tabGet t 7 0 (kernelIndex s kid) / 2 ^ 32 = kid) ∧
      (pending s ch 5 = some r → ∀ k kid img, loadingKernel s ch r = some k → k.state = 1 → imageAt s (rqA r) = .ok img →
        (∀ code, (imageCheck (pkgIndex s) img = code ∧ code ≠ 0) ∨
            (imageCheck (pkgIndex s) img = 0 ∧ firstFit s img.length = none ∧ code = 8) →
          ∃ t, exec (.load ch kid) s = .next t ∧ kernelOf t k.kid = some { k with state := 2, refuse := code } ∧
            t.mem = s.mem ∧ t.channels = s.channels) ∧
        ∀ a, imageCheck (pkgIndex s) img = 0 → firstFit s img.length = some a →
          ∃ t, exec (.load ch kid) s = .next t ∧ done t (leBytes 4 k.kid) ∧
            kernelOf t k.kid = some { k with state := 3, image := img, addr := a, client := 0, tag := 0 } ∧
            readBytes t.mem a img.length = img) ∧
      (pending s ch 5 = some r → ∀ k kid, loadingKernel s ch r = some k → k.state = 2 →
        ∃ t, exec (.load ch kid) s = .next t ∧ kernelOf t k.kid = none ∧ t.mem = s.mem ∧
          (getChannel t ch).inbox = h.inbox.drop 1 ∧
          (getChannel t ch).outbox = h.outbox ++ [replyBytes (rqSeq r) (rqOp r) 2 k.refuse []]) ∧
      (pending s ch 6 = some r → (kernelOf s (leAt r 8 4) = none → refused (.unload ch) 0 []) ∧
        (∀ k, kernelOf s (leAt r 8 4) = some k → (k.state = 3 ∨ k.state = 4) → undispatched s k.kid = [] →
          ∃ t, exec (.unload ch) s = .next t ∧ t.mem = s.mem ∧
            kernelOf t k.kid = some { k with state := 5, client := ch, tag := rqSeq r + 1 }) ∧
        ∀ k, kernelOf s (leAt r 8 4) = some k → k.state = 5 → k.client = ch → k.tag = rqSeq r + 1 →
          (kernelInUse s k.kid = true → exec (.unload ch) s = .next s) ∧
          (kernelInUse s k.kid = false → ∃ t, exec (.unload ch) s = .next t ∧ done t [] ∧ kernelOf t k.kid = none)) ∧
      (pending s ch 7 = some r → ∀ g, nodeGet s (rqA r) 64 = .ok g →
        (headerCode s g ≠ 0 → refused (.submit ch) (headerCode s g) (leBytes 2 0xFFFF)) ∧
        (headerCode s g = 0 →
          (∀ k code, checkNodes s (rqA r) (leAt g 0 4) (leAt g 4 4) 0 = .refuse k code →
            ∃ l, exec (.submit ch) s = .next (finish { s with life := l } ch r 2 code (leBytes 2 k))) ∧
          (∀ ns, checkNodes s (rqA r) (leAt g 0 4) (leAt g 4 4) 0 = .ok ns →
            ∃ t, exec (.submit ch) s = .next t ∧ done t [] ∧ t.mem = s.mem ∧ t.nodes.length = s.nodes.length + ns.length ∧
              ∃ q, graphOf t (leAt g 0 4) = some q ∧ q.client = ch ∧ q.tag = leAt g 16 8 ∧ q.pending = ns.length ∧
                q.total = ns.length ∧ q.isOpen = bitAt (leAt g 8 1) 0)))

/-- R67, R435, R457 to R462: package reset starts bring-up and counts the ck anew, its memory of lifetime records and fuses
kept; the eight steps of bring-up with firmware that passes its checks bring the package into Service, each port trained from
Down in step 6, up to three attempts; enumeration names each port's peer before it judges them; with firmware that fails
its checks the package stays in Start-up with no channel enabled; a checkpoint keeps the package's own memory and its groups,
and a restore gives them back (the model's choice: with what the supervisors keep of the groups, log 91); running firmware can only raise the rollback counter; test mode is entered only from
Start-up; the power clamp steps by one each window as R460 says; at 115 degrees the peak is
recorded and a package in Service enters Recovery; an attestation is made by firmware that runs. -/
def Claims.ServiceEvents : Prop :=
  ∀ (b : BootInputs) (avg island temp nonce : Nat) (temps : List Nat) (s : State),
    (∃ t, exec (.packageReset b) s = .next t ∧ t.life = s.life ∧ t.rollback = s.rollback ∧ t.groups = [] ∧ t.cores = [] ∧
        t.mode = .startup ∧ t.fwRunning = false ∧ t.ck = 0 ∧ (∀ c, (getChannel t c).en = false) ∧
        let after := fun n => Nat.repeat bringUp n t
        (∀ v : State, step { v with sched := [.bringUp] } = .next (bringUp { v with sched := [] })) ∧
        (b.fwValid = true → s.rollback ≤ b.fwVersion →
          let n := if (List.range 16).all fun p => decide (4 ≤ b.lanes.getD p 0) then 10 else 12
          (∀ j, j < n → (after j).mode = .startup) ∧ (∀ p, p < 16 → (getPort (after 6) p).state = 1) ∧
          (after n).mode = .operating ∧ (after n).fwRunning = true ∧ (after n).rollback = s.rollback ∧ ∀ p, p < 16 →
            (getPort (after n) p).peer = b.peers.getD p 0 % 64 ∧ (getPort (after n) p).rate = 200 ∧
            (8 ≤ b.lanes.getD p 0 → (getPort (after n) p).state = 2) ∧
            (4 ≤ b.lanes.getD p 0 → b.lanes.getD p 0 < 8 → (getPort (after n) p).state = 3) ∧
            (b.lanes.getD p 0 < 4 → (getPort (after n) p).state = 5)) ∧
        (b.fwValid = false ∨ b.fwVersion < s.rollback → ∀ n,
          (after n).mode = .startup ∧ (after n).fwRunning = false ∧ ∀ c, (getChannel (after n) c).en = false)) ∧
      (∀ v, (s.fwRunning = true → raiseRollback s v = { s with rollback := max s.rollback v }) ∧
        (s.fwRunning = false → raiseRollback s v = s)) ∧
      (∀ u : State, stillPackage s = true → stillPackage u = true → Memory.wf s.mem = true → Memory.wf u.mem = true →
        u.tier = (checkpoint s).tier → (restore u).groups = s.groups ∧ ∀ k, memGet (restore u).mem k =
          if k < 2 ^ 47 ∨ vaultBase ≤ k then memGet s.mem k else memGet u.mem k) ∧
      (s.mode = .startup → exec .testModeRequest s = .next { s with mode := .test }) ∧
      (s.mode ≠ .startup → exec .testModeRequest s = .next s) ∧
      (∃ t, exec (.powerClampWindow avg temps) s = .next t ∧ t = { s with clamp := t.clamp, life := t.life } ∧
        ((3600 < avg ∨ ∃ x ∈ temps, 105 ≤ x) → t.clamp = min 15 (s.clamp + 1)) ∧
        (avg * 100 < 97 * 3600 → (∀ x ∈ temps, x < 100) → t.clamp = s.clamp - 1) ∧
        (avg ≤ 3600 → (∀ x ∈ temps, x < 105) → (97 * 3600 ≤ avg * 100 ∨ ∃ x ∈ temps, 100 ≤ x) → t.clamp = s.clamp)) ∧
      (island < 32 → 115 ≤ temp → ∃ t, exec (.thermalTrip island temp) s = .next t ∧ t.mem = s.mem ∧
        alGet 0 t.life (4, island * 8 + 7) = min (2 ^ 32 - 1) (alGet 0 s.life (4, island * 8 + 7) + 1) ∧
        (s.mode = .operating → t.mode = .recovery ∧ halted t = true)) ∧
      (s.fwRunning = true → nonce < 2 ^ 256 → ∃ t sig, exec (.attestation nonce) s = .next t ∧
        t = { s with attests := s.attests ++ [(nonce, sig)] }) ∧
      (s.fwRunning = false → exec (.attestation nonce) s = .next s)

/-- Requests and replies of host channels, and package reset, test mode, power, heat and attestation. -/
def Obligations.EventsOfHost : Prop :=
  Claims.HostChannels ∧ Claims.HostRequests ∧ Claims.ServiceEvents
end

