-- ==== Sys2Proof/Laws/State.lean ====
section
/-!
SUPPORT. What each basic update of the state leaves as it was, one lemma per field (rfl).
-/
namespace Sys2Proof.Machine

/-! ## setCore -/

@[simp] theorem setCore_ck (s : State) (c : Nat) (k : Core) : (setCore s c k).ck = s.ck := rfl
@[simp] theorem setCore_mem (s : State) (c : Nat) (k : Core) : (setCore s c k).mem = s.mem := rfl
@[simp] theorem setCore_poison (s : State) (c : Nat) (k : Core) : (setCore s c k).poison = s.poison := rfl
@[simp] theorem setCore_tables (s : State) (c : Nat) (k : Core) : (setCore s c k).tables = s.tables := rfl
@[simp] theorem setCore_tcache (s : State) (c : Nat) (k : Core) : (setCore s c k).tcache = s.tcache := rfl
@[simp] theorem setCore_slots (s : State) (c : Nat) (k : Core) : (setCore s c k).slots = s.slots := rfl
@[simp] theorem setCore_mcasts (s : State) (c : Nat) (k : Core) : (setCore s c k).mcasts = s.mcasts := rfl
@[simp] theorem setCore_landed (s : State) (c : Nat) (k : Core) : (setCore s c k).landed = s.landed := rfl
@[simp] theorem setCore_nmq (s : State) (c : Nat) (k : Core) : (setCore s c k).nmq = s.nmq := rfl
@[simp] theorem setCore_imgq (s : State) (c : Nat) (k : Core) : (setCore s c k).imgq = s.imgq := rfl
@[simp] theorem setCore_kernels (s : State) (c : Nat) (k : Core) : (setCore s c k).kernels = s.kernels := rfl
@[simp] theorem setCore_groups (s : State) (c : Nat) (k : Core) : (setCore s c k).groups = s.groups := rfl
@[simp] theorem setCore_nodes (s : State) (c : Nat) (k : Core) : (setCore s c k).nodes = s.nodes := rfl
@[simp] theorem setCore_graphs (s : State) (c : Nat) (k : Core) : (setCore s c k).graphs = s.graphs := rfl
@[simp] theorem setCore_fifo (s : State) (c : Nat) (k : Core) : (setCore s c k).fifo = s.fifo := rfl
@[simp] theorem setCore_supIrq (s : State) (c : Nat) (k : Core) : (setCore s c k).supIrq = s.supIrq := rfl
@[simp] theorem setCore_ports (s : State) (c : Nat) (k : Core) : (setCore s c k).ports = s.ports := rfl
@[simp] theorem setCore_channels (s : State) (c : Nat) (k : Core) : (setCore s c k).channels = s.channels := rfl
@[simp] theorem setCore_windows (s : State) (c : Nat) (k : Core) : (setCore s c k).windows = s.windows := rfl
@[simp] theorem setCore_allocs (s : State) (c : Nat) (k : Core) : (setCore s c k).allocs = s.allocs := rfl
@[simp] theorem setCore_pciUp (s : State) (c : Nat) (k : Core) : (setCore s c k).pciUp = s.pciUp := rfl
@[simp] theorem setCore_mode (s : State) (c : Nat) (k : Core) : (setCore s c k).mode = s.mode := rfl
@[simp] theorem setCore_inPod (s : State) (c : Nat) (k : Core) : (setCore s c k).inPod = s.inPod := rfl
@[simp] theorem setCore_life (s : State) (c : Nat) (k : Core) : (setCore s c k).life = s.life := rfl
@[simp] theorem setCore_fwDigest (s : State) (c : Nat) (k : Core) : (setCore s c k).fwDigest = s.fwDigest := rfl
@[simp] theorem setCore_fwVersion (s : State) (c : Nat) (k : Core) : (setCore s c k).fwVersion = s.fwVersion := rfl
@[simp] theorem setCore_fwRunning (s : State) (c : Nat) (k : Core) : (setCore s c k).fwRunning = s.fwRunning := rfl
@[simp] theorem setCore_rollback (s : State) (c : Nat) (k : Core) : (setCore s c k).rollback = s.rollback := rfl
@[simp] theorem setCore_clamp (s : State) (c : Nat) (k : Core) : (setCore s c k).clamp = s.clamp := rfl
@[simp] theorem setCore_attests (s : State) (c : Nat) (k : Core) : (setCore s c k).attests = s.attests := rfl
@[simp] theorem setCore_boot (s : State) (c : Nat) (k : Core) : (setCore s c k).boot = s.boot := rfl
@[simp] theorem setCore_bootStep (s : State) (c : Nat) (k : Core) : (setCore s c k).bootStep = s.bootStep := rfl
@[simp] theorem setCore_tier (s : State) (c : Nat) (k : Core) : (setCore s c k).tier = s.tier := rfl
@[simp] theorem setCore_parks (s : State) (c : Nat) (k : Core) : (setCore s c k).parks = s.parks := rfl
@[simp] theorem setCore_oldSlabs (s : State) (c : Nat) (k : Core) : (setCore s c k).oldSlabs = s.oldSlabs := rfl
@[simp] theorem setCore_cow (s : State) (c : Nat) (k : Core) : (setCore s c k).cow = s.cow := rfl
@[simp] theorem setCore_barData (s : State) (c : Nat) (k : Core) : (setCore s c k).barData = s.barData := rfl
@[simp] theorem setCore_nodeSeq (s : State) (c : Nat) (k : Core) : (setCore s c k).nodeSeq = s.nodeSeq := rfl
@[simp] theorem setCore_sched (s : State) (c : Nat) (k : Core) : (setCore s c k).sched = s.sched := rfl
@[simp] theorem setCore_turns (s : State) (c : Nat) (k : Core) : (setCore s c k).turns = s.turns := rfl
@[simp] theorem setCore_freeCtr (s : State) (c : Nat) (k : Core) : (setCore s c k).freeCtr = s.freeCtr := rfl
@[simp] theorem setCore_issue (s : State) (c : Nat) (k : Core) : (setCore s c k).issue = s.issue := rfl

/-! ## modCore -/

@[simp] theorem modCore_ck (s : State) (c : Nat) (f : Core → Core) : (modCore s c f).ck = s.ck := rfl
@[simp] theorem modCore_mem (s : State) (c : Nat) (f : Core → Core) : (modCore s c f).mem = s.mem := rfl
@[simp] theorem modCore_poison (s : State) (c : Nat) (f : Core → Core) : (modCore s c f).poison = s.poison := rfl
@[simp] theorem modCore_tables (s : State) (c : Nat) (f : Core → Core) : (modCore s c f).tables = s.tables := rfl
@[simp] theorem modCore_tcache (s : State) (c : Nat) (f : Core → Core) : (modCore s c f).tcache = s.tcache := rfl
@[simp] theorem modCore_slots (s : State) (c : Nat) (f : Core → Core) : (modCore s c f).slots = s.slots := rfl
@[simp] theorem modCore_mcasts (s : State) (c : Nat) (f : Core → Core) : (modCore s c f).mcasts = s.mcasts := rfl
@[simp] theorem modCore_landed (s : State) (c : Nat) (f : Core → Core) : (modCore s c f).landed = s.landed := rfl
@[simp] theorem modCore_nmq (s : State) (c : Nat) (f : Core → Core) : (modCore s c f).nmq = s.nmq := rfl
@[simp] theorem modCore_imgq (s : State) (c : Nat) (f : Core → Core) : (modCore s c f).imgq = s.imgq := rfl
@[simp] theorem modCore_kernels (s : State) (c : Nat) (f : Core → Core) : (modCore s c f).kernels = s.kernels := rfl
@[simp] theorem modCore_groups (s : State) (c : Nat) (f : Core → Core) : (modCore s c f).groups = s.groups := rfl
@[simp] theorem modCore_nodes (s : State) (c : Nat) (f : Core → Core) : (modCore s c f).nodes = s.nodes := rfl
@[simp] theorem modCore_graphs (s : State) (c : Nat) (f : Core → Core) : (modCore s c f).graphs = s.graphs := rfl
@[simp] theorem modCore_fifo (s : State) (c : Nat) (f : Core → Core) : (modCore s c f).fifo = s.fifo := rfl
@[simp] theorem modCore_supIrq (s : State) (c : Nat) (f : Core → Core) : (modCore s c f).supIrq = s.supIrq := rfl
@[simp] theorem modCore_ports (s : State) (c : Nat) (f : Core → Core) : (modCore s c f).ports = s.ports := rfl
@[simp] theorem modCore_channels (s : State) (c : Nat) (f : Core → Core) : (modCore s c f).channels = s.channels := rfl
@[simp] theorem modCore_windows (s : State) (c : Nat) (f : Core → Core) : (modCore s c f).windows = s.windows := rfl
@[simp] theorem modCore_allocs (s : State) (c : Nat) (f : Core → Core) : (modCore s c f).allocs = s.allocs := rfl
@[simp] theorem modCore_pciUp (s : State) (c : Nat) (f : Core → Core) : (modCore s c f).pciUp = s.pciUp := rfl
@[simp] theorem modCore_mode (s : State) (c : Nat) (f : Core → Core) : (modCore s c f).mode = s.mode := rfl
@[simp] theorem modCore_inPod (s : State) (c : Nat) (f : Core → Core) : (modCore s c f).inPod = s.inPod := rfl
@[simp] theorem modCore_life (s : State) (c : Nat) (f : Core → Core) : (modCore s c f).life = s.life := rfl
@[simp] theorem modCore_fwDigest (s : State) (c : Nat) (f : Core → Core) : (modCore s c f).fwDigest = s.fwDigest := rfl
@[simp] theorem modCore_fwVersion (s : State) (c : Nat) (f : Core → Core) : (modCore s c f).fwVersion = s.fwVersion := rfl
@[simp] theorem modCore_fwRunning (s : State) (c : Nat) (f : Core → Core) : (modCore s c f).fwRunning = s.fwRunning := rfl
@[simp] theorem modCore_rollback (s : State) (c : Nat) (f : Core → Core) : (modCore s c f).rollback = s.rollback := rfl
@[simp] theorem modCore_clamp (s : State) (c : Nat) (f : Core → Core) : (modCore s c f).clamp = s.clamp := rfl
@[simp] theorem modCore_attests (s : State) (c : Nat) (f : Core → Core) : (modCore s c f).attests = s.attests := rfl
@[simp] theorem modCore_boot (s : State) (c : Nat) (f : Core → Core) : (modCore s c f).boot = s.boot := rfl
@[simp] theorem modCore_bootStep (s : State) (c : Nat) (f : Core → Core) : (modCore s c f).bootStep = s.bootStep := rfl
@[simp] theorem modCore_tier (s : State) (c : Nat) (f : Core → Core) : (modCore s c f).tier = s.tier := rfl
@[simp] theorem modCore_parks (s : State) (c : Nat) (f : Core → Core) : (modCore s c f).parks = s.parks := rfl
@[simp] theorem modCore_oldSlabs (s : State) (c : Nat) (f : Core → Core) : (modCore s c f).oldSlabs = s.oldSlabs := rfl
@[simp] theorem modCore_cow (s : State) (c : Nat) (f : Core → Core) : (modCore s c f).cow = s.cow := rfl
@[simp] theorem modCore_barData (s : State) (c : Nat) (f : Core → Core) : (modCore s c f).barData = s.barData := rfl
@[simp] theorem modCore_nodeSeq (s : State) (c : Nat) (f : Core → Core) : (modCore s c f).nodeSeq = s.nodeSeq := rfl
@[simp] theorem modCore_sched (s : State) (c : Nat) (f : Core → Core) : (modCore s c f).sched = s.sched := rfl
@[simp] theorem modCore_turns (s : State) (c : Nat) (f : Core → Core) : (modCore s c f).turns = s.turns := rfl
@[simp] theorem modCore_freeCtr (s : State) (c : Nat) (f : Core → Core) : (modCore s c f).freeCtr = s.freeCtr := rfl
@[simp] theorem modCore_issue (s : State) (c : Nat) (f : Core → Core) : (modCore s c f).issue = s.issue := rfl

/-! ## setCtx -/

@[simp] theorem setCtx_ck (s : State) (c x : Nat) (t : Ctx) : (setCtx s c x t).ck = s.ck := rfl
@[simp] theorem setCtx_mem (s : State) (c x : Nat) (t : Ctx) : (setCtx s c x t).mem = s.mem := rfl
@[simp] theorem setCtx_poison (s : State) (c x : Nat) (t : Ctx) : (setCtx s c x t).poison = s.poison := rfl
@[simp] theorem setCtx_tables (s : State) (c x : Nat) (t : Ctx) : (setCtx s c x t).tables = s.tables := rfl
@[simp] theorem setCtx_tcache (s : State) (c x : Nat) (t : Ctx) : (setCtx s c x t).tcache = s.tcache := rfl
@[simp] theorem setCtx_slots (s : State) (c x : Nat) (t : Ctx) : (setCtx s c x t).slots = s.slots := rfl
@[simp] theorem setCtx_mcasts (s : State) (c x : Nat) (t : Ctx) : (setCtx s c x t).mcasts = s.mcasts := rfl
@[simp] theorem setCtx_landed (s : State) (c x : Nat) (t : Ctx) : (setCtx s c x t).landed = s.landed := rfl
@[simp] theorem setCtx_nmq (s : State) (c x : Nat) (t : Ctx) : (setCtx s c x t).nmq = s.nmq := rfl
@[simp] theorem setCtx_imgq (s : State) (c x : Nat) (t : Ctx) : (setCtx s c x t).imgq = s.imgq := rfl
@[simp] theorem setCtx_kernels (s : State) (c x : Nat) (t : Ctx) : (setCtx s c x t).kernels = s.kernels := rfl
@[simp] theorem setCtx_groups (s : State) (c x : Nat) (t : Ctx) : (setCtx s c x t).groups = s.groups := rfl
@[simp] theorem setCtx_nodes (s : State) (c x : Nat) (t : Ctx) : (setCtx s c x t).nodes = s.nodes := rfl
@[simp] theorem setCtx_graphs (s : State) (c x : Nat) (t : Ctx) : (setCtx s c x t).graphs = s.graphs := rfl
@[simp] theorem setCtx_fifo (s : State) (c x : Nat) (t : Ctx) : (setCtx s c x t).fifo = s.fifo := rfl
@[simp] theorem setCtx_supIrq (s : State) (c x : Nat) (t : Ctx) : (setCtx s c x t).supIrq = s.supIrq := rfl
@[simp] theorem setCtx_ports (s : State) (c x : Nat) (t : Ctx) : (setCtx s c x t).ports = s.ports := rfl
@[simp] theorem setCtx_channels (s : State) (c x : Nat) (t : Ctx) : (setCtx s c x t).channels = s.channels := rfl
@[simp] theorem setCtx_windows (s : State) (c x : Nat) (t : Ctx) : (setCtx s c x t).windows = s.windows := rfl
@[simp] theorem setCtx_allocs (s : State) (c x : Nat) (t : Ctx) : (setCtx s c x t).allocs = s.allocs := rfl
@[simp] theorem setCtx_pciUp (s : State) (c x : Nat) (t : Ctx) : (setCtx s c x t).pciUp = s.pciUp := rfl
@[simp] theorem setCtx_mode (s : State) (c x : Nat) (t : Ctx) : (setCtx s c x t).mode = s.mode := rfl
@[simp] theorem setCtx_inPod (s : State) (c x : Nat) (t : Ctx) : (setCtx s c x t).inPod = s.inPod := rfl
@[simp] theorem setCtx_life (s : State) (c x : Nat) (t : Ctx) : (setCtx s c x t).life = s.life := rfl
@[simp] theorem setCtx_fwDigest (s : State) (c x : Nat) (t : Ctx) : (setCtx s c x t).fwDigest = s.fwDigest := rfl
@[simp] theorem setCtx_fwVersion (s : State) (c x : Nat) (t : Ctx) : (setCtx s c x t).fwVersion = s.fwVersion := rfl
@[simp] theorem setCtx_fwRunning (s : State) (c x : Nat) (t : Ctx) : (setCtx s c x t).fwRunning = s.fwRunning := rfl
@[simp] theorem setCtx_rollback (s : State) (c x : Nat) (t : Ctx) : (setCtx s c x t).rollback = s.rollback := rfl
@[simp] theorem setCtx_clamp (s : State) (c x : Nat) (t : Ctx) : (setCtx s c x t).clamp = s.clamp := rfl
@[simp] theorem setCtx_attests (s : State) (c x : Nat) (t : Ctx) : (setCtx s c x t).attests = s.attests := rfl
@[simp] theorem setCtx_boot (s : State) (c x : Nat) (t : Ctx) : (setCtx s c x t).boot = s.boot := rfl
@[simp] theorem setCtx_bootStep (s : State) (c x : Nat) (t : Ctx) : (setCtx s c x t).bootStep = s.bootStep := rfl
@[simp] theorem setCtx_tier (s : State) (c x : Nat) (t : Ctx) : (setCtx s c x t).tier = s.tier := rfl
@[simp] theorem setCtx_parks (s : State) (c x : Nat) (t : Ctx) : (setCtx s c x t).parks = s.parks := rfl
@[simp] theorem setCtx_oldSlabs (s : State) (c x : Nat) (t : Ctx) : (setCtx s c x t).oldSlabs = s.oldSlabs := rfl
@[simp] theorem setCtx_cow (s : State) (c x : Nat) (t : Ctx) : (setCtx s c x t).cow = s.cow := rfl
@[simp] theorem setCtx_barData (s : State) (c x : Nat) (t : Ctx) : (setCtx s c x t).barData = s.barData := rfl
@[simp] theorem setCtx_nodeSeq (s : State) (c x : Nat) (t : Ctx) : (setCtx s c x t).nodeSeq = s.nodeSeq := rfl
@[simp] theorem setCtx_sched (s : State) (c x : Nat) (t : Ctx) : (setCtx s c x t).sched = s.sched := rfl
@[simp] theorem setCtx_turns (s : State) (c x : Nat) (t : Ctx) : (setCtx s c x t).turns = s.turns := rfl
@[simp] theorem setCtx_freeCtr (s : State) (c x : Nat) (t : Ctx) : (setCtx s c x t).freeCtr = s.freeCtr := rfl
@[simp] theorem setCtx_issue (s : State) (c x : Nat) (t : Ctx) : (setCtx s c x t).issue = s.issue := rfl

/-! ## modCtx -/

@[simp] theorem modCtx_ck (s : State) (c x : Nat) (f : Ctx → Ctx) : (modCtx s c x f).ck = s.ck := rfl
@[simp] theorem modCtx_mem (s : State) (c x : Nat) (f : Ctx → Ctx) : (modCtx s c x f).mem = s.mem := rfl
@[simp] theorem modCtx_poison (s : State) (c x : Nat) (f : Ctx → Ctx) : (modCtx s c x f).poison = s.poison := rfl
@[simp] theorem modCtx_tables (s : State) (c x : Nat) (f : Ctx → Ctx) : (modCtx s c x f).tables = s.tables := rfl
@[simp] theorem modCtx_tcache (s : State) (c x : Nat) (f : Ctx → Ctx) : (modCtx s c x f).tcache = s.tcache := rfl
@[simp] theorem modCtx_slots (s : State) (c x : Nat) (f : Ctx → Ctx) : (modCtx s c x f).slots = s.slots := rfl
@[simp] theorem modCtx_mcasts (s : State) (c x : Nat) (f : Ctx → Ctx) : (modCtx s c x f).mcasts = s.mcasts := rfl
@[simp] theorem modCtx_landed (s : State) (c x : Nat) (f : Ctx → Ctx) : (modCtx s c x f).landed = s.landed := rfl
@[simp] theorem modCtx_nmq (s : State) (c x : Nat) (f : Ctx → Ctx) : (modCtx s c x f).nmq = s.nmq := rfl
@[simp] theorem modCtx_imgq (s : State) (c x : Nat) (f : Ctx → Ctx) : (modCtx s c x f).imgq = s.imgq := rfl
@[simp] theorem modCtx_kernels (s : State) (c x : Nat) (f : Ctx → Ctx) : (modCtx s c x f).kernels = s.kernels := rfl
@[simp] theorem modCtx_groups (s : State) (c x : Nat) (f : Ctx → Ctx) : (modCtx s c x f).groups = s.groups := rfl
@[simp] theorem modCtx_nodes (s : State) (c x : Nat) (f : Ctx → Ctx) : (modCtx s c x f).nodes = s.nodes := rfl
@[simp] theorem modCtx_graphs (s : State) (c x : Nat) (f : Ctx → Ctx) : (modCtx s c x f).graphs = s.graphs := rfl
@[simp] theorem modCtx_fifo (s : State) (c x : Nat) (f : Ctx → Ctx) : (modCtx s c x f).fifo = s.fifo := rfl
@[simp] theorem modCtx_supIrq (s : State) (c x : Nat) (f : Ctx → Ctx) : (modCtx s c x f).supIrq = s.supIrq := rfl
@[simp] theorem modCtx_ports (s : State) (c x : Nat) (f : Ctx → Ctx) : (modCtx s c x f).ports = s.ports := rfl
@[simp] theorem modCtx_channels (s : State) (c x : Nat) (f : Ctx → Ctx) : (modCtx s c x f).channels = s.channels := rfl
@[simp] theorem modCtx_windows (s : State) (c x : Nat) (f : Ctx → Ctx) : (modCtx s c x f).windows = s.windows := rfl
@[simp] theorem modCtx_allocs (s : State) (c x : Nat) (f : Ctx → Ctx) : (modCtx s c x f).allocs = s.allocs := rfl
@[simp] theorem modCtx_pciUp (s : State) (c x : Nat) (f : Ctx → Ctx) : (modCtx s c x f).pciUp = s.pciUp := rfl
@[simp] theorem modCtx_mode (s : State) (c x : Nat) (f : Ctx → Ctx) : (modCtx s c x f).mode = s.mode := rfl
@[simp] theorem modCtx_inPod (s : State) (c x : Nat) (f : Ctx → Ctx) : (modCtx s c x f).inPod = s.inPod := rfl
@[simp] theorem modCtx_life (s : State) (c x : Nat) (f : Ctx → Ctx) : (modCtx s c x f).life = s.life := rfl
@[simp] theorem modCtx_fwDigest (s : State) (c x : Nat) (f : Ctx → Ctx) : (modCtx s c x f).fwDigest = s.fwDigest := rfl
@[simp] theorem modCtx_fwVersion (s : State) (c x : Nat) (f : Ctx → Ctx) : (modCtx s c x f).fwVersion = s.fwVersion := rfl
@[simp] theorem modCtx_fwRunning (s : State) (c x : Nat) (f : Ctx → Ctx) : (modCtx s c x f).fwRunning = s.fwRunning := rfl
@[simp] theorem modCtx_rollback (s : State) (c x : Nat) (f : Ctx → Ctx) : (modCtx s c x f).rollback = s.rollback := rfl
@[simp] theorem modCtx_clamp (s : State) (c x : Nat) (f : Ctx → Ctx) : (modCtx s c x f).clamp = s.clamp := rfl
@[simp] theorem modCtx_attests (s : State) (c x : Nat) (f : Ctx → Ctx) : (modCtx s c x f).attests = s.attests := rfl
@[simp] theorem modCtx_boot (s : State) (c x : Nat) (f : Ctx → Ctx) : (modCtx s c x f).boot = s.boot := rfl
@[simp] theorem modCtx_bootStep (s : State) (c x : Nat) (f : Ctx → Ctx) : (modCtx s c x f).bootStep = s.bootStep := rfl
@[simp] theorem modCtx_tier (s : State) (c x : Nat) (f : Ctx → Ctx) : (modCtx s c x f).tier = s.tier := rfl
@[simp] theorem modCtx_parks (s : State) (c x : Nat) (f : Ctx → Ctx) : (modCtx s c x f).parks = s.parks := rfl
@[simp] theorem modCtx_oldSlabs (s : State) (c x : Nat) (f : Ctx → Ctx) : (modCtx s c x f).oldSlabs = s.oldSlabs := rfl
@[simp] theorem modCtx_cow (s : State) (c x : Nat) (f : Ctx → Ctx) : (modCtx s c x f).cow = s.cow := rfl
@[simp] theorem modCtx_barData (s : State) (c x : Nat) (f : Ctx → Ctx) : (modCtx s c x f).barData = s.barData := rfl
@[simp] theorem modCtx_nodeSeq (s : State) (c x : Nat) (f : Ctx → Ctx) : (modCtx s c x f).nodeSeq = s.nodeSeq := rfl
@[simp] theorem modCtx_sched (s : State) (c x : Nat) (f : Ctx → Ctx) : (modCtx s c x f).sched = s.sched := rfl
@[simp] theorem modCtx_turns (s : State) (c x : Nat) (f : Ctx → Ctx) : (modCtx s c x f).turns = s.turns := rfl
@[simp] theorem modCtx_freeCtr (s : State) (c x : Nat) (f : Ctx → Ctx) : (modCtx s c x f).freeCtr = s.freeCtr := rfl
@[simp] theorem modCtx_issue (s : State) (c x : Nat) (f : Ctx → Ctx) : (modCtx s c x f).issue = s.issue := rfl

/-! ## modMe -/

@[simp] theorem modMe_ck (s : State) (f : Ctx → Ctx) : (s.modMe f).ck = s.ck := rfl
@[simp] theorem modMe_mem (s : State) (f : Ctx → Ctx) : (s.modMe f).mem = s.mem := rfl
@[simp] theorem modMe_poison (s : State) (f : Ctx → Ctx) : (s.modMe f).poison = s.poison := rfl
@[simp] theorem modMe_tables (s : State) (f : Ctx → Ctx) : (s.modMe f).tables = s.tables := rfl
@[simp] theorem modMe_tcache (s : State) (f : Ctx → Ctx) : (s.modMe f).tcache = s.tcache := rfl
@[simp] theorem modMe_slots (s : State) (f : Ctx → Ctx) : (s.modMe f).slots = s.slots := rfl
@[simp] theorem modMe_mcasts (s : State) (f : Ctx → Ctx) : (s.modMe f).mcasts = s.mcasts := rfl
@[simp] theorem modMe_landed (s : State) (f : Ctx → Ctx) : (s.modMe f).landed = s.landed := rfl
@[simp] theorem modMe_nmq (s : State) (f : Ctx → Ctx) : (s.modMe f).nmq = s.nmq := rfl
@[simp] theorem modMe_imgq (s : State) (f : Ctx → Ctx) : (s.modMe f).imgq = s.imgq := rfl
@[simp] theorem modMe_kernels (s : State) (f : Ctx → Ctx) : (s.modMe f).kernels = s.kernels := rfl
@[simp] theorem modMe_groups (s : State) (f : Ctx → Ctx) : (s.modMe f).groups = s.groups := rfl
@[simp] theorem modMe_nodes (s : State) (f : Ctx → Ctx) : (s.modMe f).nodes = s.nodes := rfl
@[simp] theorem modMe_graphs (s : State) (f : Ctx → Ctx) : (s.modMe f).graphs = s.graphs := rfl
@[simp] theorem modMe_fifo (s : State) (f : Ctx → Ctx) : (s.modMe f).fifo = s.fifo := rfl
@[simp] theorem modMe_supIrq (s : State) (f : Ctx → Ctx) : (s.modMe f).supIrq = s.supIrq := rfl
@[simp] theorem modMe_ports (s : State) (f : Ctx → Ctx) : (s.modMe f).ports = s.ports := rfl
@[simp] theorem modMe_channels (s : State) (f : Ctx → Ctx) : (s.modMe f).channels = s.channels := rfl
@[simp] theorem modMe_windows (s : State) (f : Ctx → Ctx) : (s.modMe f).windows = s.windows := rfl
@[simp] theorem modMe_allocs (s : State) (f : Ctx → Ctx) : (s.modMe f).allocs = s.allocs := rfl
@[simp] theorem modMe_pciUp (s : State) (f : Ctx → Ctx) : (s.modMe f).pciUp = s.pciUp := rfl
@[simp] theorem modMe_mode (s : State) (f : Ctx → Ctx) : (s.modMe f).mode = s.mode := rfl
@[simp] theorem modMe_inPod (s : State) (f : Ctx → Ctx) : (s.modMe f).inPod = s.inPod := rfl
@[simp] theorem modMe_life (s : State) (f : Ctx → Ctx) : (s.modMe f).life = s.life := rfl
@[simp] theorem modMe_fwDigest (s : State) (f : Ctx → Ctx) : (s.modMe f).fwDigest = s.fwDigest := rfl
@[simp] theorem modMe_fwVersion (s : State) (f : Ctx → Ctx) : (s.modMe f).fwVersion = s.fwVersion := rfl
@[simp] theorem modMe_fwRunning (s : State) (f : Ctx → Ctx) : (s.modMe f).fwRunning = s.fwRunning := rfl
@[simp] theorem modMe_rollback (s : State) (f : Ctx → Ctx) : (s.modMe f).rollback = s.rollback := rfl
@[simp] theorem modMe_clamp (s : State) (f : Ctx → Ctx) : (s.modMe f).clamp = s.clamp := rfl
@[simp] theorem modMe_attests (s : State) (f : Ctx → Ctx) : (s.modMe f).attests = s.attests := rfl
@[simp] theorem modMe_boot (s : State) (f : Ctx → Ctx) : (s.modMe f).boot = s.boot := rfl
@[simp] theorem modMe_bootStep (s : State) (f : Ctx → Ctx) : (s.modMe f).bootStep = s.bootStep := rfl
@[simp] theorem modMe_tier (s : State) (f : Ctx → Ctx) : (s.modMe f).tier = s.tier := rfl
@[simp] theorem modMe_parks (s : State) (f : Ctx → Ctx) : (s.modMe f).parks = s.parks := rfl
@[simp] theorem modMe_oldSlabs (s : State) (f : Ctx → Ctx) : (s.modMe f).oldSlabs = s.oldSlabs := rfl
@[simp] theorem modMe_cow (s : State) (f : Ctx → Ctx) : (s.modMe f).cow = s.cow := rfl
@[simp] theorem modMe_barData (s : State) (f : Ctx → Ctx) : (s.modMe f).barData = s.barData := rfl
@[simp] theorem modMe_nodeSeq (s : State) (f : Ctx → Ctx) : (s.modMe f).nodeSeq = s.nodeSeq := rfl
@[simp] theorem modMe_sched (s : State) (f : Ctx → Ctx) : (s.modMe f).sched = s.sched := rfl
@[simp] theorem modMe_turns (s : State) (f : Ctx → Ctx) : (s.modMe f).turns = s.turns := rfl
@[simp] theorem modMe_freeCtr (s : State) (f : Ctx → Ctx) : (s.modMe f).freeCtr = s.freeCtr := rfl
@[simp] theorem modMe_issue (s : State) (f : Ctx → Ctx) : (s.modMe f).issue = s.issue := rfl

/-! ## storeBytes -/

@[simp] theorem storeBytes_ck (s : State) (a : Nat) (bs : List Byte) : (storeBytes s a bs).ck = s.ck := rfl
@[simp] theorem storeBytes_cores (s : State) (a : Nat) (bs : List Byte) : (storeBytes s a bs).cores = s.cores := rfl
@[simp] theorem storeBytes_tables (s : State) (a : Nat) (bs : List Byte) : (storeBytes s a bs).tables = s.tables := rfl
@[simp] theorem storeBytes_tcache (s : State) (a : Nat) (bs : List Byte) : (storeBytes s a bs).tcache = s.tcache := rfl
@[simp] theorem storeBytes_slots (s : State) (a : Nat) (bs : List Byte) : (storeBytes s a bs).slots = s.slots := rfl
@[simp] theorem storeBytes_mcasts (s : State) (a : Nat) (bs : List Byte) : (storeBytes s a bs).mcasts = s.mcasts := rfl
@[simp] theorem storeBytes_landed (s : State) (a : Nat) (bs : List Byte) : (storeBytes s a bs).landed = s.landed := rfl
@[simp] theorem storeBytes_nmq (s : State) (a : Nat) (bs : List Byte) : (storeBytes s a bs).nmq = s.nmq := rfl
@[simp] theorem storeBytes_imgq (s : State) (a : Nat) (bs : List Byte) : (storeBytes s a bs).imgq = s.imgq := rfl
@[simp] theorem storeBytes_kernels (s : State) (a : Nat) (bs : List Byte) : (storeBytes s a bs).kernels = s.kernels := rfl
@[simp] theorem storeBytes_groups (s : State) (a : Nat) (bs : List Byte) : (storeBytes s a bs).groups = s.groups := rfl
@[simp] theorem storeBytes_nodes (s : State) (a : Nat) (bs : List Byte) : (storeBytes s a bs).nodes = s.nodes := rfl
@[simp] theorem storeBytes_graphs (s : State) (a : Nat) (bs : List Byte) : (storeBytes s a bs).graphs = s.graphs := rfl
@[simp] theorem storeBytes_fifo (s : State) (a : Nat) (bs : List Byte) : (storeBytes s a bs).fifo = s.fifo := rfl
@[simp] theorem storeBytes_supIrq (s : State) (a : Nat) (bs : List Byte) : (storeBytes s a bs).supIrq = s.supIrq := rfl
@[simp] theorem storeBytes_ports (s : State) (a : Nat) (bs : List Byte) : (storeBytes s a bs).ports = s.ports := rfl
@[simp] theorem storeBytes_channels (s : State) (a : Nat) (bs : List Byte) : (storeBytes s a bs).channels = s.channels := rfl
@[simp] theorem storeBytes_windows (s : State) (a : Nat) (bs : List Byte) : (storeBytes s a bs).windows = s.windows := rfl
@[simp] theorem storeBytes_allocs (s : State) (a : Nat) (bs : List Byte) : (storeBytes s a bs).allocs = s.allocs := rfl
@[simp] theorem storeBytes_pciUp (s : State) (a : Nat) (bs : List Byte) : (storeBytes s a bs).pciUp = s.pciUp := rfl
@[simp] theorem storeBytes_mode (s : State) (a : Nat) (bs : List Byte) : (storeBytes s a bs).mode = s.mode := rfl
@[simp] theorem storeBytes_inPod (s : State) (a : Nat) (bs : List Byte) : (storeBytes s a bs).inPod = s.inPod := rfl
@[simp] theorem storeBytes_life (s : State) (a : Nat) (bs : List Byte) : (storeBytes s a bs).life = s.life := rfl
@[simp] theorem storeBytes_fwDigest (s : State) (a : Nat) (bs : List Byte) : (storeBytes s a bs).fwDigest = s.fwDigest := rfl
@[simp] theorem storeBytes_fwVersion (s : State) (a : Nat) (bs : List Byte) : (storeBytes s a bs).fwVersion = s.fwVersion := rfl
@[simp] theorem storeBytes_fwRunning (s : State) (a : Nat) (bs : List Byte) : (storeBytes s a bs).fwRunning = s.fwRunning := rfl
@[simp] theorem storeBytes_rollback (s : State) (a : Nat) (bs : List Byte) : (storeBytes s a bs).rollback = s.rollback := rfl
@[simp] theorem storeBytes_clamp (s : State) (a : Nat) (bs : List Byte) : (storeBytes s a bs).clamp = s.clamp := rfl
@[simp] theorem storeBytes_attests (s : State) (a : Nat) (bs : List Byte) : (storeBytes s a bs).attests = s.attests := rfl
@[simp] theorem storeBytes_boot (s : State) (a : Nat) (bs : List Byte) : (storeBytes s a bs).boot = s.boot := rfl
@[simp] theorem storeBytes_bootStep (s : State) (a : Nat) (bs : List Byte) : (storeBytes s a bs).bootStep = s.bootStep := rfl
@[simp] theorem storeBytes_tier (s : State) (a : Nat) (bs : List Byte) : (storeBytes s a bs).tier = s.tier := rfl
@[simp] theorem storeBytes_parks (s : State) (a : Nat) (bs : List Byte) : (storeBytes s a bs).parks = s.parks := rfl
@[simp] theorem storeBytes_oldSlabs (s : State) (a : Nat) (bs : List Byte) : (storeBytes s a bs).oldSlabs = s.oldSlabs := rfl
@[simp] theorem storeBytes_cow (s : State) (a : Nat) (bs : List Byte) : (storeBytes s a bs).cow = s.cow := rfl
@[simp] theorem storeBytes_barData (s : State) (a : Nat) (bs : List Byte) : (storeBytes s a bs).barData = s.barData := rfl
@[simp] theorem storeBytes_nodeSeq (s : State) (a : Nat) (bs : List Byte) : (storeBytes s a bs).nodeSeq = s.nodeSeq := rfl
@[simp] theorem storeBytes_sched (s : State) (a : Nat) (bs : List Byte) : (storeBytes s a bs).sched = s.sched := rfl
@[simp] theorem storeBytes_turns (s : State) (a : Nat) (bs : List Byte) : (storeBytes s a bs).turns = s.turns := rfl
@[simp] theorem storeBytes_freeCtr (s : State) (a : Nat) (bs : List Byte) : (storeBytes s a bs).freeCtr = s.freeCtr := rfl
@[simp] theorem storeBytes_issue (s : State) (a : Nat) (bs : List Byte) : (storeBytes s a bs).issue = s.issue := rfl

/-! ## tabSet -/

@[simp] theorem tabSet_ck (s : State) (t o i v : Nat) : (tabSet s t o i v).ck = s.ck := rfl
@[simp] theorem tabSet_mem (s : State) (t o i v : Nat) : (tabSet s t o i v).mem = s.mem := rfl
@[simp] theorem tabSet_poison (s : State) (t o i v : Nat) : (tabSet s t o i v).poison = s.poison := rfl
@[simp] theorem tabSet_cores (s : State) (t o i v : Nat) : (tabSet s t o i v).cores = s.cores := rfl
@[simp] theorem tabSet_tcache (s : State) (t o i v : Nat) : (tabSet s t o i v).tcache = s.tcache := rfl
@[simp] theorem tabSet_slots (s : State) (t o i v : Nat) : (tabSet s t o i v).slots = s.slots := rfl
@[simp] theorem tabSet_mcasts (s : State) (t o i v : Nat) : (tabSet s t o i v).mcasts = s.mcasts := rfl
@[simp] theorem tabSet_landed (s : State) (t o i v : Nat) : (tabSet s t o i v).landed = s.landed := rfl
@[simp] theorem tabSet_nmq (s : State) (t o i v : Nat) : (tabSet s t o i v).nmq = s.nmq := rfl
@[simp] theorem tabSet_imgq (s : State) (t o i v : Nat) : (tabSet s t o i v).imgq = s.imgq := rfl
@[simp] theorem tabSet_kernels (s : State) (t o i v : Nat) : (tabSet s t o i v).kernels = s.kernels := rfl
@[simp] theorem tabSet_groups (s : State) (t o i v : Nat) : (tabSet s t o i v).groups = s.groups := rfl
@[simp] theorem tabSet_nodes (s : State) (t o i v : Nat) : (tabSet s t o i v).nodes = s.nodes := rfl
@[simp] theorem tabSet_graphs (s : State) (t o i v : Nat) : (tabSet s t o i v).graphs = s.graphs := rfl
@[simp] theorem tabSet_fifo (s : State) (t o i v : Nat) : (tabSet s t o i v).fifo = s.fifo := rfl
@[simp] theorem tabSet_supIrq (s : State) (t o i v : Nat) : (tabSet s t o i v).supIrq = s.supIrq := rfl
@[simp] theorem tabSet_ports (s : State) (t o i v : Nat) : (tabSet s t o i v).ports = s.ports := rfl
@[simp] theorem tabSet_channels (s : State) (t o i v : Nat) : (tabSet s t o i v).channels = s.channels := rfl
@[simp] theorem tabSet_windows (s : State) (t o i v : Nat) : (tabSet s t o i v).windows = s.windows := rfl
@[simp] theorem tabSet_allocs (s : State) (t o i v : Nat) : (tabSet s t o i v).allocs = s.allocs := rfl
@[simp] theorem tabSet_pciUp (s : State) (t o i v : Nat) : (tabSet s t o i v).pciUp = s.pciUp := rfl
@[simp] theorem tabSet_mode (s : State) (t o i v : Nat) : (tabSet s t o i v).mode = s.mode := rfl
@[simp] theorem tabSet_inPod (s : State) (t o i v : Nat) : (tabSet s t o i v).inPod = s.inPod := rfl
@[simp] theorem tabSet_life (s : State) (t o i v : Nat) : (tabSet s t o i v).life = s.life := rfl
@[simp] theorem tabSet_fwDigest (s : State) (t o i v : Nat) : (tabSet s t o i v).fwDigest = s.fwDigest := rfl
@[simp] theorem tabSet_fwVersion (s : State) (t o i v : Nat) : (tabSet s t o i v).fwVersion = s.fwVersion := rfl
@[simp] theorem tabSet_fwRunning (s : State) (t o i v : Nat) : (tabSet s t o i v).fwRunning = s.fwRunning := rfl
@[simp] theorem tabSet_rollback (s : State) (t o i v : Nat) : (tabSet s t o i v).rollback = s.rollback := rfl
@[simp] theorem tabSet_clamp (s : State) (t o i v : Nat) : (tabSet s t o i v).clamp = s.clamp := rfl
@[simp] theorem tabSet_attests (s : State) (t o i v : Nat) : (tabSet s t o i v).attests = s.attests := rfl
@[simp] theorem tabSet_boot (s : State) (t o i v : Nat) : (tabSet s t o i v).boot = s.boot := rfl
@[simp] theorem tabSet_bootStep (s : State) (t o i v : Nat) : (tabSet s t o i v).bootStep = s.bootStep := rfl
@[simp] theorem tabSet_tier (s : State) (t o i v : Nat) : (tabSet s t o i v).tier = s.tier := rfl
@[simp] theorem tabSet_parks (s : State) (t o i v : Nat) : (tabSet s t o i v).parks = s.parks := rfl
@[simp] theorem tabSet_oldSlabs (s : State) (t o i v : Nat) : (tabSet s t o i v).oldSlabs = s.oldSlabs := rfl
@[simp] theorem tabSet_cow (s : State) (t o i v : Nat) : (tabSet s t o i v).cow = s.cow := rfl
@[simp] theorem tabSet_barData (s : State) (t o i v : Nat) : (tabSet s t o i v).barData = s.barData := rfl
@[simp] theorem tabSet_nodeSeq (s : State) (t o i v : Nat) : (tabSet s t o i v).nodeSeq = s.nodeSeq := rfl
@[simp] theorem tabSet_sched (s : State) (t o i v : Nat) : (tabSet s t o i v).sched = s.sched := rfl
@[simp] theorem tabSet_turns (s : State) (t o i v : Nat) : (tabSet s t o i v).turns = s.turns := rfl
@[simp] theorem tabSet_freeCtr (s : State) (t o i v : Nat) : (tabSet s t o i v).freeCtr = s.freeCtr := rfl
@[simp] theorem tabSet_issue (s : State) (t o i v : Nat) : (tabSet s t o i v).issue = s.issue := rfl

/-! ## setSlot -/

@[simp] theorem setSlot_ck (s : State) (ch b : Nat) (v : Slot) : (setSlot s ch b v).ck = s.ck := rfl
@[simp] theorem setSlot_mem (s : State) (ch b : Nat) (v : Slot) : (setSlot s ch b v).mem = s.mem := rfl
@[simp] theorem setSlot_poison (s : State) (ch b : Nat) (v : Slot) : (setSlot s ch b v).poison = s.poison := rfl
@[simp] theorem setSlot_cores (s : State) (ch b : Nat) (v : Slot) : (setSlot s ch b v).cores = s.cores := rfl
@[simp] theorem setSlot_tables (s : State) (ch b : Nat) (v : Slot) : (setSlot s ch b v).tables = s.tables := rfl
@[simp] theorem setSlot_tcache (s : State) (ch b : Nat) (v : Slot) : (setSlot s ch b v).tcache = s.tcache := rfl
@[simp] theorem setSlot_mcasts (s : State) (ch b : Nat) (v : Slot) : (setSlot s ch b v).mcasts = s.mcasts := rfl
@[simp] theorem setSlot_landed (s : State) (ch b : Nat) (v : Slot) : (setSlot s ch b v).landed = s.landed := rfl
@[simp] theorem setSlot_nmq (s : State) (ch b : Nat) (v : Slot) : (setSlot s ch b v).nmq = s.nmq := rfl
@[simp] theorem setSlot_imgq (s : State) (ch b : Nat) (v : Slot) : (setSlot s ch b v).imgq = s.imgq := rfl
@[simp] theorem setSlot_kernels (s : State) (ch b : Nat) (v : Slot) : (setSlot s ch b v).kernels = s.kernels := rfl
@[simp] theorem setSlot_groups (s : State) (ch b : Nat) (v : Slot) : (setSlot s ch b v).groups = s.groups := rfl
@[simp] theorem setSlot_nodes (s : State) (ch b : Nat) (v : Slot) : (setSlot s ch b v).nodes = s.nodes := rfl
@[simp] theorem setSlot_graphs (s : State) (ch b : Nat) (v : Slot) : (setSlot s ch b v).graphs = s.graphs := rfl
@[simp] theorem setSlot_fifo (s : State) (ch b : Nat) (v : Slot) : (setSlot s ch b v).fifo = s.fifo := rfl
@[simp] theorem setSlot_supIrq (s : State) (ch b : Nat) (v : Slot) : (setSlot s ch b v).supIrq = s.supIrq := rfl
@[simp] theorem setSlot_ports (s : State) (ch b : Nat) (v : Slot) : (setSlot s ch b v).ports = s.ports := rfl
@[simp] theorem setSlot_channels (s : State) (ch b : Nat) (v : Slot) : (setSlot s ch b v).channels = s.channels := rfl
@[simp] theorem setSlot_windows (s : State) (ch b : Nat) (v : Slot) : (setSlot s ch b v).windows = s.windows := rfl
@[simp] theorem setSlot_allocs (s : State) (ch b : Nat) (v : Slot) : (setSlot s ch b v).allocs = s.allocs := rfl
@[simp] theorem setSlot_pciUp (s : State) (ch b : Nat) (v : Slot) : (setSlot s ch b v).pciUp = s.pciUp := rfl
@[simp] theorem setSlot_mode (s : State) (ch b : Nat) (v : Slot) : (setSlot s ch b v).mode = s.mode := rfl
@[simp] theorem setSlot_inPod (s : State) (ch b : Nat) (v : Slot) : (setSlot s ch b v).inPod = s.inPod := rfl
@[simp] theorem setSlot_life (s : State) (ch b : Nat) (v : Slot) : (setSlot s ch b v).life = s.life := rfl
@[simp] theorem setSlot_fwDigest (s : State) (ch b : Nat) (v : Slot) : (setSlot s ch b v).fwDigest = s.fwDigest := rfl
@[simp] theorem setSlot_fwVersion (s : State) (ch b : Nat) (v : Slot) : (setSlot s ch b v).fwVersion = s.fwVersion := rfl
@[simp] theorem setSlot_fwRunning (s : State) (ch b : Nat) (v : Slot) : (setSlot s ch b v).fwRunning = s.fwRunning := rfl
@[simp] theorem setSlot_rollback (s : State) (ch b : Nat) (v : Slot) : (setSlot s ch b v).rollback = s.rollback := rfl
@[simp] theorem setSlot_clamp (s : State) (ch b : Nat) (v : Slot) : (setSlot s ch b v).clamp = s.clamp := rfl
@[simp] theorem setSlot_attests (s : State) (ch b : Nat) (v : Slot) : (setSlot s ch b v).attests = s.attests := rfl
@[simp] theorem setSlot_boot (s : State) (ch b : Nat) (v : Slot) : (setSlot s ch b v).boot = s.boot := rfl
@[simp] theorem setSlot_bootStep (s : State) (ch b : Nat) (v : Slot) : (setSlot s ch b v).bootStep = s.bootStep := rfl
@[simp] theorem setSlot_tier (s : State) (ch b : Nat) (v : Slot) : (setSlot s ch b v).tier = s.tier := rfl
@[simp] theorem setSlot_parks (s : State) (ch b : Nat) (v : Slot) : (setSlot s ch b v).parks = s.parks := rfl
@[simp] theorem setSlot_oldSlabs (s : State) (ch b : Nat) (v : Slot) : (setSlot s ch b v).oldSlabs = s.oldSlabs := rfl
@[simp] theorem setSlot_cow (s : State) (ch b : Nat) (v : Slot) : (setSlot s ch b v).cow = s.cow := rfl
@[simp] theorem setSlot_barData (s : State) (ch b : Nat) (v : Slot) : (setSlot s ch b v).barData = s.barData := rfl
@[simp] theorem setSlot_nodeSeq (s : State) (ch b : Nat) (v : Slot) : (setSlot s ch b v).nodeSeq = s.nodeSeq := rfl
@[simp] theorem setSlot_sched (s : State) (ch b : Nat) (v : Slot) : (setSlot s ch b v).sched = s.sched := rfl
@[simp] theorem setSlot_turns (s : State) (ch b : Nat) (v : Slot) : (setSlot s ch b v).turns = s.turns := rfl
@[simp] theorem setSlot_freeCtr (s : State) (ch b : Nat) (v : Slot) : (setSlot s ch b v).freeCtr = s.freeCtr := rfl
@[simp] theorem setSlot_issue (s : State) (ch b : Nat) (v : Slot) : (setSlot s ch b v).issue = s.issue := rfl

/-! ## modSlot -/

@[simp] theorem modSlot_ck (s : State) (ch b : Nat) (f : Slot → Slot) : (modSlot s ch b f).ck = s.ck := rfl
@[simp] theorem modSlot_mem (s : State) (ch b : Nat) (f : Slot → Slot) : (modSlot s ch b f).mem = s.mem := rfl
@[simp] theorem modSlot_poison (s : State) (ch b : Nat) (f : Slot → Slot) : (modSlot s ch b f).poison = s.poison := rfl
@[simp] theorem modSlot_cores (s : State) (ch b : Nat) (f : Slot → Slot) : (modSlot s ch b f).cores = s.cores := rfl
@[simp] theorem modSlot_tables (s : State) (ch b : Nat) (f : Slot → Slot) : (modSlot s ch b f).tables = s.tables := rfl
@[simp] theorem modSlot_tcache (s : State) (ch b : Nat) (f : Slot → Slot) : (modSlot s ch b f).tcache = s.tcache := rfl
@[simp] theorem modSlot_mcasts (s : State) (ch b : Nat) (f : Slot → Slot) : (modSlot s ch b f).mcasts = s.mcasts := rfl
@[simp] theorem modSlot_landed (s : State) (ch b : Nat) (f : Slot → Slot) : (modSlot s ch b f).landed = s.landed := rfl
@[simp] theorem modSlot_nmq (s : State) (ch b : Nat) (f : Slot → Slot) : (modSlot s ch b f).nmq = s.nmq := rfl
@[simp] theorem modSlot_imgq (s : State) (ch b : Nat) (f : Slot → Slot) : (modSlot s ch b f).imgq = s.imgq := rfl
@[simp] theorem modSlot_kernels (s : State) (ch b : Nat) (f : Slot → Slot) : (modSlot s ch b f).kernels = s.kernels := rfl
@[simp] theorem modSlot_groups (s : State) (ch b : Nat) (f : Slot → Slot) : (modSlot s ch b f).groups = s.groups := rfl
@[simp] theorem modSlot_nodes (s : State) (ch b : Nat) (f : Slot → Slot) : (modSlot s ch b f).nodes = s.nodes := rfl
@[simp] theorem modSlot_graphs (s : State) (ch b : Nat) (f : Slot → Slot) : (modSlot s ch b f).graphs = s.graphs := rfl
@[simp] theorem modSlot_fifo (s : State) (ch b : Nat) (f : Slot → Slot) : (modSlot s ch b f).fifo = s.fifo := rfl
@[simp] theorem modSlot_supIrq (s : State) (ch b : Nat) (f : Slot → Slot) : (modSlot s ch b f).supIrq = s.supIrq := rfl
@[simp] theorem modSlot_ports (s : State) (ch b : Nat) (f : Slot → Slot) : (modSlot s ch b f).ports = s.ports := rfl
@[simp] theorem modSlot_channels (s : State) (ch b : Nat) (f : Slot → Slot) : (modSlot s ch b f).channels = s.channels := rfl
@[simp] theorem modSlot_windows (s : State) (ch b : Nat) (f : Slot → Slot) : (modSlot s ch b f).windows = s.windows := rfl
@[simp] theorem modSlot_allocs (s : State) (ch b : Nat) (f : Slot → Slot) : (modSlot s ch b f).allocs = s.allocs := rfl
@[simp] theorem modSlot_pciUp (s : State) (ch b : Nat) (f : Slot → Slot) : (modSlot s ch b f).pciUp = s.pciUp := rfl
@[simp] theorem modSlot_mode (s : State) (ch b : Nat) (f : Slot → Slot) : (modSlot s ch b f).mode = s.mode := rfl
@[simp] theorem modSlot_inPod (s : State) (ch b : Nat) (f : Slot → Slot) : (modSlot s ch b f).inPod = s.inPod := rfl
@[simp] theorem modSlot_life (s : State) (ch b : Nat) (f : Slot → Slot) : (modSlot s ch b f).life = s.life := rfl
@[simp] theorem modSlot_fwDigest (s : State) (ch b : Nat) (f : Slot → Slot) : (modSlot s ch b f).fwDigest = s.fwDigest := rfl
@[simp] theorem modSlot_fwVersion (s : State) (ch b : Nat) (f : Slot → Slot) : (modSlot s ch b f).fwVersion = s.fwVersion := rfl
@[simp] theorem modSlot_fwRunning (s : State) (ch b : Nat) (f : Slot → Slot) : (modSlot s ch b f).fwRunning = s.fwRunning := rfl
@[simp] theorem modSlot_rollback (s : State) (ch b : Nat) (f : Slot → Slot) : (modSlot s ch b f).rollback = s.rollback := rfl
@[simp] theorem modSlot_clamp (s : State) (ch b : Nat) (f : Slot → Slot) : (modSlot s ch b f).clamp = s.clamp := rfl
@[simp] theorem modSlot_attests (s : State) (ch b : Nat) (f : Slot → Slot) : (modSlot s ch b f).attests = s.attests := rfl
@[simp] theorem modSlot_boot (s : State) (ch b : Nat) (f : Slot → Slot) : (modSlot s ch b f).boot = s.boot := rfl
@[simp] theorem modSlot_bootStep (s : State) (ch b : Nat) (f : Slot → Slot) : (modSlot s ch b f).bootStep = s.bootStep := rfl
@[simp] theorem modSlot_tier (s : State) (ch b : Nat) (f : Slot → Slot) : (modSlot s ch b f).tier = s.tier := rfl
@[simp] theorem modSlot_parks (s : State) (ch b : Nat) (f : Slot → Slot) : (modSlot s ch b f).parks = s.parks := rfl
@[simp] theorem modSlot_oldSlabs (s : State) (ch b : Nat) (f : Slot → Slot) : (modSlot s ch b f).oldSlabs = s.oldSlabs := rfl
@[simp] theorem modSlot_cow (s : State) (ch b : Nat) (f : Slot → Slot) : (modSlot s ch b f).cow = s.cow := rfl
@[simp] theorem modSlot_barData (s : State) (ch b : Nat) (f : Slot → Slot) : (modSlot s ch b f).barData = s.barData := rfl
@[simp] theorem modSlot_nodeSeq (s : State) (ch b : Nat) (f : Slot → Slot) : (modSlot s ch b f).nodeSeq = s.nodeSeq := rfl
@[simp] theorem modSlot_sched (s : State) (ch b : Nat) (f : Slot → Slot) : (modSlot s ch b f).sched = s.sched := rfl
@[simp] theorem modSlot_turns (s : State) (ch b : Nat) (f : Slot → Slot) : (modSlot s ch b f).turns = s.turns := rfl
@[simp] theorem modSlot_freeCtr (s : State) (ch b : Nat) (f : Slot → Slot) : (modSlot s ch b f).freeCtr = s.freeCtr := rfl
@[simp] theorem modSlot_issue (s : State) (ch b : Nat) (f : Slot → Slot) : (modSlot s ch b f).issue = s.issue := rfl

/-! ## modGroup -/

@[simp] theorem modGroup_ck (s : State) (g : Nat) (f : Group → Group) : (modGroup s g f).ck = s.ck := rfl
@[simp] theorem modGroup_mem (s : State) (g : Nat) (f : Group → Group) : (modGroup s g f).mem = s.mem := rfl
@[simp] theorem modGroup_poison (s : State) (g : Nat) (f : Group → Group) : (modGroup s g f).poison = s.poison := rfl
@[simp] theorem modGroup_cores (s : State) (g : Nat) (f : Group → Group) : (modGroup s g f).cores = s.cores := rfl
@[simp] theorem modGroup_tables (s : State) (g : Nat) (f : Group → Group) : (modGroup s g f).tables = s.tables := rfl
@[simp] theorem modGroup_tcache (s : State) (g : Nat) (f : Group → Group) : (modGroup s g f).tcache = s.tcache := rfl
@[simp] theorem modGroup_slots (s : State) (g : Nat) (f : Group → Group) : (modGroup s g f).slots = s.slots := rfl
@[simp] theorem modGroup_mcasts (s : State) (g : Nat) (f : Group → Group) : (modGroup s g f).mcasts = s.mcasts := rfl
@[simp] theorem modGroup_landed (s : State) (g : Nat) (f : Group → Group) : (modGroup s g f).landed = s.landed := rfl
@[simp] theorem modGroup_nmq (s : State) (g : Nat) (f : Group → Group) : (modGroup s g f).nmq = s.nmq := rfl
@[simp] theorem modGroup_imgq (s : State) (g : Nat) (f : Group → Group) : (modGroup s g f).imgq = s.imgq := rfl
@[simp] theorem modGroup_kernels (s : State) (g : Nat) (f : Group → Group) : (modGroup s g f).kernels = s.kernels := rfl
@[simp] theorem modGroup_nodes (s : State) (g : Nat) (f : Group → Group) : (modGroup s g f).nodes = s.nodes := rfl
@[simp] theorem modGroup_graphs (s : State) (g : Nat) (f : Group → Group) : (modGroup s g f).graphs = s.graphs := rfl
@[simp] theorem modGroup_fifo (s : State) (g : Nat) (f : Group → Group) : (modGroup s g f).fifo = s.fifo := rfl
@[simp] theorem modGroup_supIrq (s : State) (g : Nat) (f : Group → Group) : (modGroup s g f).supIrq = s.supIrq := rfl
@[simp] theorem modGroup_ports (s : State) (g : Nat) (f : Group → Group) : (modGroup s g f).ports = s.ports := rfl
@[simp] theorem modGroup_channels (s : State) (g : Nat) (f : Group → Group) : (modGroup s g f).channels = s.channels := rfl
@[simp] theorem modGroup_windows (s : State) (g : Nat) (f : Group → Group) : (modGroup s g f).windows = s.windows := rfl
@[simp] theorem modGroup_allocs (s : State) (g : Nat) (f : Group → Group) : (modGroup s g f).allocs = s.allocs := rfl
@[simp] theorem modGroup_pciUp (s : State) (g : Nat) (f : Group → Group) : (modGroup s g f).pciUp = s.pciUp := rfl
@[simp] theorem modGroup_mode (s : State) (g : Nat) (f : Group → Group) : (modGroup s g f).mode = s.mode := rfl
@[simp] theorem modGroup_inPod (s : State) (g : Nat) (f : Group → Group) : (modGroup s g f).inPod = s.inPod := rfl
@[simp] theorem modGroup_life (s : State) (g : Nat) (f : Group → Group) : (modGroup s g f).life = s.life := rfl
@[simp] theorem modGroup_fwDigest (s : State) (g : Nat) (f : Group → Group) : (modGroup s g f).fwDigest = s.fwDigest := rfl
@[simp] theorem modGroup_fwVersion (s : State) (g : Nat) (f : Group → Group) : (modGroup s g f).fwVersion = s.fwVersion := rfl
@[simp] theorem modGroup_fwRunning (s : State) (g : Nat) (f : Group → Group) : (modGroup s g f).fwRunning = s.fwRunning := rfl
@[simp] theorem modGroup_rollback (s : State) (g : Nat) (f : Group → Group) : (modGroup s g f).rollback = s.rollback := rfl
@[simp] theorem modGroup_clamp (s : State) (g : Nat) (f : Group → Group) : (modGroup s g f).clamp = s.clamp := rfl
@[simp] theorem modGroup_attests (s : State) (g : Nat) (f : Group → Group) : (modGroup s g f).attests = s.attests := rfl
@[simp] theorem modGroup_boot (s : State) (g : Nat) (f : Group → Group) : (modGroup s g f).boot = s.boot := rfl
@[simp] theorem modGroup_bootStep (s : State) (g : Nat) (f : Group → Group) : (modGroup s g f).bootStep = s.bootStep := rfl
@[simp] theorem modGroup_tier (s : State) (g : Nat) (f : Group → Group) : (modGroup s g f).tier = s.tier := rfl
@[simp] theorem modGroup_parks (s : State) (g : Nat) (f : Group → Group) : (modGroup s g f).parks = s.parks := rfl
@[simp] theorem modGroup_oldSlabs (s : State) (g : Nat) (f : Group → Group) : (modGroup s g f).oldSlabs = s.oldSlabs := rfl
@[simp] theorem modGroup_cow (s : State) (g : Nat) (f : Group → Group) : (modGroup s g f).cow = s.cow := rfl
@[simp] theorem modGroup_barData (s : State) (g : Nat) (f : Group → Group) : (modGroup s g f).barData = s.barData := rfl
@[simp] theorem modGroup_nodeSeq (s : State) (g : Nat) (f : Group → Group) : (modGroup s g f).nodeSeq = s.nodeSeq := rfl
@[simp] theorem modGroup_sched (s : State) (g : Nat) (f : Group → Group) : (modGroup s g f).sched = s.sched := rfl
@[simp] theorem modGroup_turns (s : State) (g : Nat) (f : Group → Group) : (modGroup s g f).turns = s.turns := rfl
@[simp] theorem modGroup_freeCtr (s : State) (g : Nat) (f : Group → Group) : (modGroup s g f).freeCtr = s.freeCtr := rfl
@[simp] theorem modGroup_issue (s : State) (g : Nat) (f : Group → Group) : (modGroup s g f).issue = s.issue := rfl

/-! ## count -/

@[simp] theorem count_ck (s : State) (r i : Nat) : (count s r i).ck = s.ck := rfl
@[simp] theorem count_mem (s : State) (r i : Nat) : (count s r i).mem = s.mem := rfl
@[simp] theorem count_poison (s : State) (r i : Nat) : (count s r i).poison = s.poison := rfl
@[simp] theorem count_cores (s : State) (r i : Nat) : (count s r i).cores = s.cores := rfl
@[simp] theorem count_tables (s : State) (r i : Nat) : (count s r i).tables = s.tables := rfl
@[simp] theorem count_tcache (s : State) (r i : Nat) : (count s r i).tcache = s.tcache := rfl
@[simp] theorem count_slots (s : State) (r i : Nat) : (count s r i).slots = s.slots := rfl
@[simp] theorem count_mcasts (s : State) (r i : Nat) : (count s r i).mcasts = s.mcasts := rfl
@[simp] theorem count_landed (s : State) (r i : Nat) : (count s r i).landed = s.landed := rfl
@[simp] theorem count_nmq (s : State) (r i : Nat) : (count s r i).nmq = s.nmq := rfl
@[simp] theorem count_imgq (s : State) (r i : Nat) : (count s r i).imgq = s.imgq := rfl
@[simp] theorem count_kernels (s : State) (r i : Nat) : (count s r i).kernels = s.kernels := rfl
@[simp] theorem count_groups (s : State) (r i : Nat) : (count s r i).groups = s.groups := rfl
@[simp] theorem count_nodes (s : State) (r i : Nat) : (count s r i).nodes = s.nodes := rfl
@[simp] theorem count_graphs (s : State) (r i : Nat) : (count s r i).graphs = s.graphs := rfl
@[simp] theorem count_fifo (s : State) (r i : Nat) : (count s r i).fifo = s.fifo := rfl
@[simp] theorem count_supIrq (s : State) (r i : Nat) : (count s r i).supIrq = s.supIrq := rfl
@[simp] theorem count_ports (s : State) (r i : Nat) : (count s r i).ports = s.ports := rfl
@[simp] theorem count_channels (s : State) (r i : Nat) : (count s r i).channels = s.channels := rfl
@[simp] theorem count_windows (s : State) (r i : Nat) : (count s r i).windows = s.windows := rfl
@[simp] theorem count_allocs (s : State) (r i : Nat) : (count s r i).allocs = s.allocs := rfl
@[simp] theorem count_pciUp (s : State) (r i : Nat) : (count s r i).pciUp = s.pciUp := rfl
@[simp] theorem count_mode (s : State) (r i : Nat) : (count s r i).mode = s.mode := rfl
@[simp] theorem count_inPod (s : State) (r i : Nat) : (count s r i).inPod = s.inPod := rfl
@[simp] theorem count_fwDigest (s : State) (r i : Nat) : (count s r i).fwDigest = s.fwDigest := rfl
@[simp] theorem count_fwVersion (s : State) (r i : Nat) : (count s r i).fwVersion = s.fwVersion := rfl
@[simp] theorem count_fwRunning (s : State) (r i : Nat) : (count s r i).fwRunning = s.fwRunning := rfl
@[simp] theorem count_rollback (s : State) (r i : Nat) : (count s r i).rollback = s.rollback := rfl
@[simp] theorem count_clamp (s : State) (r i : Nat) : (count s r i).clamp = s.clamp := rfl
@[simp] theorem count_attests (s : State) (r i : Nat) : (count s r i).attests = s.attests := rfl
@[simp] theorem count_boot (s : State) (r i : Nat) : (count s r i).boot = s.boot := rfl
@[simp] theorem count_bootStep (s : State) (r i : Nat) : (count s r i).bootStep = s.bootStep := rfl
@[simp] theorem count_tier (s : State) (r i : Nat) : (count s r i).tier = s.tier := rfl
@[simp] theorem count_parks (s : State) (r i : Nat) : (count s r i).parks = s.parks := rfl
@[simp] theorem count_oldSlabs (s : State) (r i : Nat) : (count s r i).oldSlabs = s.oldSlabs := rfl
@[simp] theorem count_cow (s : State) (r i : Nat) : (count s r i).cow = s.cow := rfl
@[simp] theorem count_barData (s : State) (r i : Nat) : (count s r i).barData = s.barData := rfl
@[simp] theorem count_nodeSeq (s : State) (r i : Nat) : (count s r i).nodeSeq = s.nodeSeq := rfl
@[simp] theorem count_sched (s : State) (r i : Nat) : (count s r i).sched = s.sched := rfl
@[simp] theorem count_turns (s : State) (r i : Nat) : (count s r i).turns = s.turns := rfl
@[simp] theorem count_freeCtr (s : State) (r i : Nat) : (count s r i).freeCtr = s.freeCtr := rfl
@[simp] theorem count_issue (s : State) (r i : Nat) : (count s r i).issue = s.issue := rfl

end Sys2Proof.Machine
end

