-- ==== Sys2Proof/Laws/Access.lean ====
section
/-!
SUPPORT. Reading back cores and contexts after an update: the one changed, and the others.
-/
namespace Sys2Proof.Machine

/-! ## Association lists -/

@[simp] theorem alGet_alSet_self {α β : Type} [DecidableEq α] (d : β) (l : List (α × β)) (k : α) (v : β) :
    alGet d (alSet l k v) k = v := by
  induction l with
  | nil => simp [alSet, alGet]
  | cons p ps ih => by_cases h : p.1 = k <;> simp [alSet, alGet, h, ih]

theorem alGet_alSet_ne {α β : Type} [DecidableEq α] (d : β) (l : List (α × β)) {k j : α} (v : β) (h : j ≠ k) :
    alGet d (alSet l k v) j = alGet d l j := by
  induction l with
  | nil => simp [alSet, alGet, Ne.symm h]
  | cons p ps ih =>
    by_cases hp : p.1 = k
    · simp [alSet, alGet, hp, Ne.symm h]
    · by_cases hj : p.1 = j
      · simp [alSet, alGet, hj, h]
      · simp [alSet, alGet, hp, hj, ih]

theorem alSet_alSet {α β : Type} [DecidableEq α] (l : List (α × β)) (k : α) (v w : β) :
    alSet (alSet l k v) k w = alSet l k w := by
  induction l with
  | nil => simp [alSet]
  | cons p ps ih => by_cases h : p.1 = k <;> simp [alSet, h, ih]

/-! ## Cores -/

@[simp] theorem getCore_setCore_self (s : State) (c : Nat) (k : Core) : getCore (setCore s c k) c = k := by
  simp [getCore, setCore]

theorem getCore_setCore_ne (s : State) {c d : Nat} (k : Core) (h : d ≠ c) :
    getCore (setCore s c k) d = getCore s d := by
  simp [getCore, setCore, alGet_alSet_ne, h]

@[simp] theorem setCore_setCore (s : State) (c : Nat) (k l : Core) : setCore (setCore s c k) c l = setCore s c l := by
  simp [setCore, alSet_alSet]

@[simp] theorem getCore_modCore_self (s : State) (c : Nat) (f : Core → Core) :
    getCore (modCore s c f) c = f (getCore s c) := by
  simp [modCore]

theorem getCore_modCore_ne (s : State) {c d : Nat} (f : Core → Core) (h : d ≠ c) :
    getCore (modCore s c f) d = getCore s d := getCore_setCore_ne s _ h

@[simp] theorem modCore_modCore (s : State) (c : Nat) (f g : Core → Core) :
    modCore (modCore s c f) c g = modCore s c (fun k => g (f k)) := by
  simp [modCore]

/-! ## Contexts of a core -/

theorem ofNat4_eq (x y : Nat) : Fin.ofNat 4 x = Fin.ofNat 4 y ↔ x % 4 = y % 4 := by
  simp [Fin.ofNat, Fin.ext_iff]

@[simp] theorem Core.get_put_self (k : Core) (x : Nat) (t : Ctx) : (k.put x t).get x = t := by
  simp [Core.get, Core.put]

theorem Core.get_put_ne (k : Core) {x y : Nat} (t : Ctx) (h : y % 4 ≠ x % 4) : (k.put x t).get y = k.get y := by
  have : (Fin.ofNat 4 x).val ≠ (Fin.ofNat 4 y).val := by simp [Fin.ofNat]; omega
  simp only [Core.get, Core.put, Fin.getElem_fin]
  exact Vector.getElem_set_ne _ _ this

@[simp] theorem Core.put_put (k : Core) (x : Nat) (t u : Ctx) : (k.put x t).put x u = k.put x u := by
  simp [Core.put]

@[simp] theorem Core.put_get (k : Core) (x : Nat) : k.put x (k.get x) = k := by
  simp [Core.put, Core.get]

/-! ## Contexts of the package -/

@[simp] theorem getCore_setCtx_self (s : State) (c x : Nat) (t : Ctx) :
    getCore (setCtx s c x t) c = (getCore s c).put x t := by
  simp [setCtx]

theorem getCore_setCtx_ne (s : State) {c d : Nat} (x : Nat) (t : Ctx) (h : d ≠ c) :
    getCore (setCtx s c x t) d = getCore s d := getCore_setCore_ne s _ h

@[simp] theorem getCore_modCtx_self (s : State) (c x : Nat) (f : Ctx → Ctx) :
    getCore (modCtx s c x f) c = (getCore s c).put x (f (getCtx s c x)) := by
  simp [modCtx]

theorem getCore_modCtx_ne (s : State) {c d : Nat} (x : Nat) (f : Ctx → Ctx) (h : d ≠ c) :
    getCore (modCtx s c x f) d = getCore s d := getCore_setCtx_ne s x _ h

@[simp] theorem getCtx_setCtx_self (s : State) (c x : Nat) (t : Ctx) : getCtx (setCtx s c x t) c x = t := by
  simp [getCtx]

theorem getCtx_setCtx_ne (s : State) {c d x y : Nat} (t : Ctx) (h : d ≠ c ∨ y % 4 ≠ x % 4) :
    getCtx (setCtx s c x t) d y = getCtx s d y := by
  unfold getCtx
  by_cases hd : d = c
  · subst hd
    rw [getCore_setCtx_self, Core.get_put_ne _ _ (h.resolve_left (by simp))]
  · rw [getCore_setCtx_ne _ _ _ hd]

@[simp] theorem getCtx_modCtx_self (s : State) (c x : Nat) (f : Ctx → Ctx) :
    getCtx (modCtx s c x f) c x = f (getCtx s c x) := by
  simp [modCtx]

theorem getCtx_modCtx_ne (s : State) {c d x y : Nat} (f : Ctx → Ctx) (h : d ≠ c ∨ y % 4 ≠ x % 4) :
    getCtx (modCtx s c x f) d y = getCtx s d y := getCtx_setCtx_ne s _ h

@[simp] theorem modCtx_modCtx (s : State) (c x : Nat) (f g : Ctx → Ctx) :
    modCtx (modCtx s c x f) c x g = modCtx s c x (fun t => g (f t)) := by
  simp [modCtx, setCtx, getCtx]

/-! ## The issuing context -/

@[simp] theorem modMe_me (s : State) (f : Ctx → Ctx) : (s.modMe f).me = f s.me := by
  simp [State.modMe, State.me]

@[simp] theorem modMe_modMe (s : State) (f g : Ctx → Ctx) : (s.modMe f).modMe g = s.modMe (fun t => g (f t)) := by
  simp [State.modMe]

end Sys2Proof.Machine
end

