-- ==== Sys2Proof/Laws/Integer.lean ====
section
/-!
SUPPORT. The integer operations of slots S0 and S1 as operations on bit vectors.
-/
namespace Sys2Proof.Machine

theorem sx_toNat {n : Nat} (hn : 0 < n) (x : BitVec n) : sx x.toNat n = x.toInt := by
  obtain ⟨m, rfl⟩ : ∃ m, n = m + 1 := ⟨n - 1, by omega⟩
  have h := x.isLt
  simp only [sx, BitVec.toInt_eq_toNat_cond, Nat.mod_eq_of_lt h, Nat.add_sub_cancel]
  have hp : (2 : Int) ^ (m + 1) = ((2 ^ (m + 1) : Nat) : Int) := by push_cast; rfl
  rw [hp]
  rw [Nat.pow_succ] at *
  split <;> split <;> omega

theorem wrapN_eq (v : Int) (n : Nat) : wrapN v n = (BitVec.ofInt n v).toNat := by
  simp [wrapN]

theorem setWidth_eq_ofInt {m n : Nat} (h : n ≤ m) (y : BitVec m) : y.setWidth n = BitVec.ofInt n y.toInt := by
  apply BitVec.eq_of_toNat_eq
  have hd : ((2 ^ n : Nat) : Int) ∣ ((2 ^ m : Nat) : Int) := Int.natCast_dvd_natCast.mpr (Nat.pow_dvd_pow 2 h)
  rw [BitVec.toNat_setWidth, BitVec.toNat_ofInt, BitVec.toInt_eq_toNat_bmod, ← Int.emod_emod_of_dvd _ hd, Int.bmod_emod,
    Int.emod_emod_of_dvd _ hd, ← Int.natCast_mod, Int.toNat_natCast]

/-- An integer operation that agrees with one on bit vectors at 32 and 64 bits. -/
theorem intResult_eq {op : Nat → Nat → Nat → Nat} {f : (n : Nat) → BitVec n → BitVec n → BitVec n}
    (h : ∀ n, n = 32 ∨ n = 64 → ∀ x z : BitVec n, op n x.toNat z.toNat = (f n x z).toNat) (w : Bool) (a b : Word) :
    intResult w op a b = atWidth w f a b := by
  cases w
  · simp [intResult, atWidth, h 64 (.inr rfl)]
  · have := h 32 (.inl rfl) (a.setWidth 32) (b.setWidth 32)
    simp only [BitVec.toNat_setWidth] at this
    simp only [intResult, atWidth, if_true, sext32, this, sx_toNat (by decide : 0 < 32)]
    rfl

theorem relation_eq {r : Nat → Nat → Nat → Bool} {f : (n : Nat) → BitVec n → BitVec n → Bool}
    (h : ∀ n, n = 32 ∨ n = 64 → ∀ x z : BitVec n, r n x.toNat z.toNat = f n x z) (w : Bool) (a b : Word) :
    relation w r a b = relAtWidth w f a b := by
  cases w
  · simp [relation, relAtWidth, h 64 (.inr rfl)]
  · have := h 32 (.inl rfl) (a.setWidth 32) (b.setWidth 32)
    simp only [BitVec.toNat_setWidth] at this
    simp [relation, relAtWidth, this]

variable {n : Nat} (x z : BitVec n)

theorem addN_eq : addN n x.toNat z.toNat = (x + z).toNat := by simp [addN]

theorem subN_eq : subN n x.toNat z.toNat = (x - z).toNat := by
  have := z.isLt
  simp only [subN, BitVec.toNat_sub]
  congr 1; omega

theorem andnN_eq : andnN n x.toNat z.toNat = (x &&& ~~~z).toNat := by simp [andnN]

theorem minN_eq (hn : 0 < n) : minN n x.toNat z.toNat = (if x.slt z then x else z).toNat := by
  simp only [minN, sx_toNat hn, BitVec.slt, decide_eq_true_eq]
  split <;> rfl

theorem maxN_eq (hn : 0 < n) : maxN n x.toNat z.toNat = (if x.slt z then z else x).toNat := by
  simp only [maxN, sx_toNat hn, BitVec.slt, decide_eq_true_eq]
  split <;> rfl

theorem minuN_eq : minuN n x.toNat z.toNat = (if x.ult z then x else z).toNat := by
  simp only [minuN, BitVec.ult, decide_eq_true_eq]
  split <;> rfl

theorem maxuN_eq : maxuN n x.toNat z.toNat = (if x.ult z then z else x).toNat := by
  simp only [maxuN, BitVec.ult, decide_eq_true_eq]
  split <;> rfl

theorem mulN_eq : mulN n x.toNat z.toNat = (x * z).toNat := by simp [mulN]

theorem mulhuN_eq : mulhuN n x.toNat z.toNat = (((x.setWidth (2 * n) * z.setWidth (2 * n)) >>> n).setWidth n).toNat := by
  have hx := x.isLt
  have hz := z.isLt
  have hp : x.toNat * z.toNat < 2 ^ (2 * n) := by
    rw [Nat.two_mul, Nat.pow_add]; exact Nat.mul_lt_mul'' hx hz
  have h1 : ∀ y : Nat, y < 2 ^ n → y % 2 ^ (2 * n) = y := fun y hy =>
    Nat.mod_eq_of_lt (hy.trans_le (Nat.pow_le_pow_right (by decide) (by omega)))
  simp only [mulhuN, BitVec.toNat_setWidth, BitVec.toNat_ushiftRight, BitVec.toNat_mul, h1 _ hx, h1 _ hz,
    Nat.mod_eq_of_lt hp, Nat.shiftRight_eq_div_pow]
  rw [Nat.mod_eq_of_lt]
  rw [Nat.div_lt_iff_lt_mul (by positivity)]
  rwa [← Nat.pow_add, ← Nat.two_mul]

theorem mulhN_eq (hn : 0 < n) :
    mulhN n x.toNat z.toNat = (((x.signExtend (2 * n) * z.signExtend (2 * n)).sshiftRight n).setWidth n).toNat := by
  have hb : ∀ y : BitVec n, -(2 ^ (n - 1) : Int) ≤ y.toInt ∧ y.toInt < 2 ^ (n - 1) := fun y =>
    ⟨BitVec.le_toInt y, BitVec.toInt_lt⟩
  have hle : n ≤ 2 * n := by omega
  have hsq : (2 : Int) ^ (n - 1) * 2 ^ (n - 1) * 4 = 2 ^ (2 * n) := by
    rw [← pow_add, show (4 : Int) = 2 ^ 2 from rfl, ← pow_add]; congr 1; omega
  have hab : -((2 : Int) ^ (n - 1) * 2 ^ (n - 1)) ≤ x.toInt * z.toInt ∧
      x.toInt * z.toInt ≤ (2 : Int) ^ (n - 1) * 2 ^ (n - 1) := by
    have h1 : |x.toInt| ≤ 2 ^ (n - 1) := abs_le.mpr ⟨(hb x).1, (hb x).2.le⟩
    have h2 : |z.toInt| ≤ 2 ^ (n - 1) := abs_le.mpr ⟨(hb z).1, (hb z).2.le⟩
    have h3 : |x.toInt * z.toInt| ≤ 2 ^ (n - 1) * 2 ^ (n - 1) := by
      rw [abs_mul]; exact mul_le_mul h1 h2 (abs_nonneg _) (by positivity)
    exact abs_le.mp h3
  have hpos : (0 : Int) < 2 ^ (n - 1) * 2 ^ (n - 1) := by positivity
  have hprod : (x.signExtend (2 * n) * z.signExtend (2 * n)).toInt = x.toInt * z.toInt := by
    rw [BitVec.toInt_mul, BitVec.toInt_signExtend_of_le hle, BitVec.toInt_signExtend_of_le hle]
    apply Int.bmod_eq_of_le_mul_two <;> push_cast <;> omega
  simp only [mulhN, sx_toNat hn, wrapN_eq]
  congr 1
  rw [setWidth_eq_ofInt hle, BitVec.toInt_sshiftRight, hprod, Int.shiftRight_eq_div_pow]
  push_cast
  rfl

theorem divuN_eq : divuN n x.toNat z.toNat = (if z = 0 then BitVec.allOnes n else x.udiv z).toNat := by
  by_cases h : z = 0
  · simp [divuN, h]
  · have : z.toNat ≠ 0 := fun hz => h (BitVec.eq_of_toNat_eq (by simpa using hz))
    simp only [divuN, h, this, if_false]
    rfl

theorem remuN_eq : remuN n x.toNat z.toNat = (if z = 0 then x else x.umod z).toNat := by
  by_cases h : z = 0
  · simp [remuN, h]
  · have : z.toNat ≠ 0 := fun hz => h (BitVec.eq_of_toNat_eq (by simpa using hz))
    simp only [remuN, h, this, if_false]
    rfl

theorem divN_eq (hn : 0 < n) : divN n x.toNat z.toNat = (if z = 0 then BitVec.allOnes n else x.sdiv z).toNat := by
  by_cases h : z = 0
  · simp [divN, h]
  · have : z.toNat ≠ 0 := fun hz => h (BitVec.eq_of_toNat_eq (by simpa using hz))
    simp only [divN, h, this, if_false, sx_toNat hn, wrapN_eq]
    congr 1
    apply BitVec.eq_of_toInt_eq
    rw [BitVec.toInt_sdiv, BitVec.toInt_ofInt]

theorem remN_eq (hn : 0 < n) : remN n x.toNat z.toNat = (if z = 0 then x else x.srem z).toNat := by
  by_cases h : z = 0
  · simp [remN, h]
  · have : z.toNat ≠ 0 := fun hz => h (BitVec.eq_of_toNat_eq (by simpa using hz))
    simp only [remN, h, this, if_false, sx_toNat hn, wrapN_eq]
    congr 1
    rw [← BitVec.toInt_srem, BitVec.ofInt_toInt]

theorem clzN_eq (hn : 0 < n) : clzN n x.toNat = x.clz.toNat := by
  by_cases h : x = 0
  · subst h
    have : (0#n).clz = BitVec.ofNat n n := BitVec.clz_eq_iff_eq_zero.mpr rfl
    simp [clzN, this, Nat.mod_eq_of_lt Nat.lt_two_pow_self]
  · have h0 : x.toNat ≠ 0 := fun hz => h (BitVec.eq_of_toNat_eq (by simpa using hz))
    have h1 := BitVec.two_pow_sub_clz_le_toNat_of_ne_zero hn h
    have h2 := BitVec.toNat_lt_two_pow_sub_clz (x := x)
    have h3 : x.clz.toNat < n := by
      rcases Nat.lt_or_ge x.clz.toNat n with h | h
      · exact h
      · rw [Nat.sub_eq_zero_of_le h] at h2; omega
    have h4 : Nat.log2 x.toNat = n - 1 - x.clz.toNat := by
      rw [Nat.log2_eq_iff h0]
      exact ⟨h1, by rwa [show n - 1 - x.clz.toNat + 1 = n - x.clz.toNat by omega]⟩
    simp only [clzN, h0, if_false, h4]
    omega

theorem popcN_eq : popcN n x.toNat = x.cpop.toNat := by
  have h : ∀ k, ((List.range k).filter fun i => bitAt x.toNat i).length = x.cpopNatRec k 0 := by
    intro k
    induction k with
    | zero => simp
    | succ k ih =>
      rw [List.range_succ, List.filter_append, List.length_append, ih, BitVec.cpopNatRec_succ,
        BitVec.cpopNatRec_eq (acc := 0 + (x.getLsbD k).toNat)]
      have hb : bitAt x.toNat k = x.getLsbD k := by
        simp [bitAt, BitVec.getLsbD, Nat.testBit_eq_decide_div_mod_eq, beq_eq_decide]
      cases hx : x.getLsbD k <;> simp [hb, hx]
  rw [popcN, h, BitVec.toNat_cpop]

/-! The count of a shift (R172): 5 bits at 32, 6 bits at 64. -/

theorem shCount_eq (hn : n = 32 ∨ n = 64) (c : Nat) : shCount n c = c % n := by
  rcases hn with rfl | rfl <;> rfl

theorem shlN_eq (hn : n = 32 ∨ n = 64) : shlN n x.toNat z.toNat = (x <<< (z.toNat % n)).toNat := by
  simp [shlN, shCount_eq hn, Nat.shiftLeft_eq]

theorem shrN_eq (hn : n = 32 ∨ n = 64) : shrN n x.toNat z.toNat = (x >>> (z.toNat % n)).toNat := by
  simp [shrN, shCount_eq hn, Nat.shiftRight_eq_div_pow]

theorem sraN_eq (hn : n = 32 ∨ n = 64) : sraN n x.toNat z.toNat = (x.sshiftRight (z.toNat % n)).toNat := by
  have h0 : 0 < n := by rcases hn with rfl | rfl <;> decide
  simp only [sraN, shCount_eq hn, sx_toNat h0, wrapN_eq]
  congr 1
  apply BitVec.eq_of_toInt_eq
  rw [← BitVec.ofInt_toInt (x := x.sshiftRight _), BitVec.toInt_sshiftRight, Int.shiftRight_eq_div_pow]
  push_cast
  rfl

theorem rotrN_eq (hn : n = 32 ∨ n = 64) : rotrN n x.toNat z.toNat = (x.rotateRight (z.toNat % n)).toNat := by
  have h0 : 0 < n := by rcases hn with rfl | rfl <;> decide
  have hc : z.toNat % n < n := Nat.mod_lt _ h0
  generalize hcc : z.toNat % n = c at hc
  have hx := x.isLt
  have h1 : x.toNat / 2 ^ c < 2 ^ (n - c) := by
    rw [Nat.div_lt_iff_lt_mul (by positivity), ← Nat.pow_add, Nat.sub_add_cancel hc.le]; exact hx
  simp only [rotrN, shCount_eq hn, hcc, BitVec.rotateRight, BitVec.rotateRightAux, Nat.mod_eq_of_lt hc, BitVec.toNat_or,
    BitVec.toNat_ushiftRight, BitVec.toNat_shiftLeft, Nat.shiftRight_eq_div_pow, Nat.shiftLeft_eq]
  have h2 : x.toNat * 2 ^ (n - c) % 2 ^ n = 2 ^ (n - c) * (x.toNat % 2 ^ c) := by
    rw [Nat.mul_comm, show 2 ^ n = 2 ^ (n - c) * 2 ^ c by rw [← Nat.pow_add, Nat.sub_add_cancel hc.le], Nat.mul_mod_mul_left]
  rw [h2, Nat.or_comm, ← Nat.two_pow_add_eq_or_of_lt h1, Nat.add_mod, h2, Nat.add_comm, Nat.mod_eq_of_lt]
  · rw [Nat.mod_eq_of_lt (h1.trans_le (Nat.pow_le_pow_right (by decide) (by omega)))]
  · have h3 : x.toNat % 2 ^ c < 2 ^ c := Nat.mod_lt _ (by positivity)
    rw [Nat.mod_eq_of_lt (h1.trans_le (Nat.pow_le_pow_right (by decide) (by omega)))]
    calc 2 ^ (n - c) * (x.toNat % 2 ^ c) + x.toNat / 2 ^ c < 2 ^ (n - c) * (x.toNat % 2 ^ c) + 2 ^ (n - c) := by omega
      _ = 2 ^ (n - c) * (x.toNat % 2 ^ c + 1) := by ring
      _ ≤ 2 ^ (n - c) * 2 ^ c := Nat.mul_le_mul_left _ h3
      _ = 2 ^ n := by rw [← Nat.pow_add, Nat.sub_add_cancel hc.le]

theorem eqN_eq : eqN n x.toNat z.toNat = (x == z) := by
  simp [eqN, BitVec.toNat_eq, beq_eq_decide]

theorem neN_eq : neN n x.toNat z.toNat = (x != z) := by
  simp [neN, bne, BitVec.toNat_eq, beq_eq_decide]

theorem ltN_eq (hn : 0 < n) : ltN n x.toNat z.toNat = x.slt z := by simp [ltN, sx_toNat hn, BitVec.slt]

theorem leN_eq (hn : 0 < n) : leN n x.toNat z.toNat = x.sle z := by simp [leN, sx_toNat hn, BitVec.sle]

theorem ltuN_eq : ltuN n x.toNat z.toNat = x.ult z := rfl

theorem leuN_eq : leuN n x.toNat z.toNat = x.ule z := rfl

end Sys2Proof.Machine
end

