-- ==== Sys2Proof/Laws/Issue.lean ====
section
/-!
SUPPORT. What a group of one operation comes to when nothing holds it back.
-/
namespace Sys2Proof.Machine

theorem resolve_one (t : Ctx) (o : Op) (p : List Nat) (h : guardHolds t o.guard = true) :
    resolve t [o] p = ([⟨o, (readSrcs t o.srcs p).1, underflows t o.srcs p⟩], (readSrcs t o.srcs p).2) := by
  simp [resolve, h]

theorem earlySrc_none {t : Ctx} {r : Src} (h : srcFull t r = true) : earlySrc t r = none := by
  cases r with
  | g i b => cases b <;> simp_all [srcFull, earlySrc]
  | q i p => rfl

theorem blockedSrc_false {t : Ctx} {r : Src} (h : srcFull t r = true) : blockedSrc t r = false := by
  cases r with
  | g i b => cases b <;> simp_all [srcFull, blockedSrc]
  | q i p => rfl

/-- The judgement of a group of one operation that nothing holds back: it goes ahead (R63). -/
theorem judge_goes {o : Op} {s : State} (h : goes o s = true) :
    judge [o] (startCycle s) = .go [⟨o, srcVals o.srcs (startCycle s), []⟩] := by
  simp only [goes, Bool.and_eq_true, Bool.not_eq_true', List.isEmpty_iff, Option.isNone_iff_eq_none] at h
  obtain ⟨⟨⟨⟨⟨⟨⟨⟨⟨⟨⟨⟨⟨⟨⟨-, hl⟩, hn⟩, hd⟩, hg⟩, hs⟩, hu⟩, hds⟩, hsc⟩, hst⟩, he⟩, ho⟩, ht⟩, hb⟩, ha⟩, hk⟩ := h
  have hr : resolve (startCycle s).me [o] (List.replicate 8 0) =
      ([⟨o, srcVals o.srcs (startCycle s), []⟩], srcPops o.srcs (startCycle s)) := by
    rw [resolve_one _ _ _ hg, hu]; rfl
  generalize srcVals o.srcs (startCycle s) = v at *
  generalize srcPops o.srcs (startCycle s) = p at *
  have h1 : o.srcs.filterMap (earlySrc (startCycle s).me) = [] := by
    rw [List.filterMap_eq_nil_iff]
    exact fun r hr => earlySrc_none (List.all_eq_true.mp hs r hr)
  have h2 : o.srcs.any (blockedSrc (startCycle s).me) = false := by
    rw [List.any_eq_false]
    exact fun r hr => by simp [blockedSrc_false (List.all_eq_true.mp hs r hr)]
  have h3 : (o.dsts.any fun d => !(startCycle s).me.full.getLsbD d.val) = false := by
    rw [List.any_eq_false]
    intro d hd'
    simp only [List.all_eq_true.mp hds d hd', Bool.not_true]
    exact Bool.false_ne_true
  have h4 : stalled (startCycle s) [o] [⟨o, v, []⟩] = false := by
    simp only [stalled, hl, List.isEmpty_nil, Bool.not_true, Bool.false_and, List.any_cons, List.any_nil,
      h2, h3, hsc, hst, Bool.or_self]
  have h5 : ∀ l f, deltaStall (startCycle s).me l f = false := fun l f => by simp [deltaStall, hn]
  have h6 : groupTraps (startCycle s) [⟨o, v, []⟩] p = [] := by
    simp [groupTraps, h1, ht, ho]
  have hp : portDecode (startCycle s) [o] = none := by simp [portDecode, hd]
  have he' : emptyWait (startCycle s) [⟨o, v, []⟩] = false := by simp [emptyWait, he]
  simp only [judge, hp, hr, h4, h5, h6, he', Bool.or_self, Bool.false_eq_true, if_false, firstTrap, List.findSome?_cons,
    List.findSome?_nil, groupBlock, ha, hb, hk, Option.map_none, Option.orElse_none]

/-- A group of one operation that nothing holds back goes ahead. -/
theorem runGroup_goes {o : Op} {s : State} (h : goes o s = true) :
    runGroup [o] s = goAhead [o] [⟨o, srcVals o.srcs (startCycle s), []⟩] (startCycle s) := by
  have hr : rowLate (delivered s) s.issue.core s.issue.ctx = false := by
    simp only [goes, Bool.and_eq_true, Bool.not_eq_true'] at h
    exact h.1.1.1.1.1.1.1.1.1.1.1.1.1.1.1
  simp [runGroup, hr, judge_goes h]

theorem flow_loopn {t : Ctx} (h : t.loopn = none) (n : Nat) (g : Option (Bool × Nat)) : (flow t n g).loopn = none := by
  rcases g with _ | ⟨_ | _, a⟩ <;> cases hl : t.loop <;> simp only [flow, flowN, h, hl] <;> repeat' (split <;> try rfl)
  all_goals rfl

theorem flow_replay {t : Ctx} (h : t.loopn = none) (n : Nat) (g : Option (Bool × Nat)) : (flow t n g).replay = false := by
  rcases g with _ | ⟨_ | _, a⟩ <;> cases hl : t.loop <;> simp only [flow, flowN, h, hl] <;> repeat' (split <;> try rfl)

@[simp] theorem effectOrder_one (n : Nat) (a : Act) : effectOrder n [a] = [a] := rfl

@[simp] theorem countCycle_loopn (a : State) (t : Ctx) : (countCycle a t).loopn = t.loopn := rfl

@[simp] theorem moveOn_loopn (p : List Nat) (f : Flow) (t : Ctx) : (moveOn p f t).loopn = f.loopn := rfl

/-- A group of one operation as it goes ahead with no LOOPN block running. -/
theorem goAhead_one {o : Op} {v : List Word} {a : State} (hg : guardHolds a.me o.guard = true) (hn : a.me.loopn = none)
    (he : ∀ s, s.issue = a.issue → s.ck = a.ck → s.me.loopn = none → (o.effect a v s).me.loopn = none) :
    goAhead [o] [⟨o, v, []⟩] a =
      modCore ((o.effect a v ((modCore a a.issue.core (giveUp a.issue.d a.issue.ctx)).modMe
        (moveOn (srcPops o.srcs a) (flow a.me a.issue.next (o.goto a v))))).modMe (countCycle a)) a.issue.core
          (noteIssue a) := by
  have hr := resolve_one a.me o (List.replicate 8 0) hg
  have h1 : ∀ f s, loopDeltas a f s = s := fun f s => by simp [loopDeltas, hn]
  have hgo : (List.findSome? (fun b : Act => b.op.goto a b.vals) [⟨o, v, []⟩]) = o.goto a v := by
    simp only [List.findSome?_cons, List.findSome?_nil]
    cases o.goto a v <;> rfl
  have hm : ∀ f : Flow, f.loopn = none → (State.modMe (modCore a a.issue.core (giveUp a.issue.d a.issue.ctx))
      (moveOn (srcPops o.srcs a) f)).me.loopn = none := fun f h => by simp [h]
  have hl := he (State.modMe (modCore a a.issue.core (giveUp a.issue.d a.issue.ctx))
    (moveOn (srcPops o.srcs a) (flow a.me a.issue.next (o.goto a v)))) rfl rfl (hm _ (flow_loopn hn _ _))
  unfold goAhead
  simp only [hr, h1, hgo, effectOrder_one, List.foldl_cons, List.foldl_nil]
  change modCore (if _ || _ && (State.modMe (o.effect a v (State.modMe _ (moveOn (srcPops o.srcs a) _))) _).me.loopn.isSome
    then _ else _) _ _ = _
  rw [modMe_me, countCycle_loopn, hl, flow_replay hn]
  simp [srcPops]

@[simp] theorem giveUp_get (d : Bool) (x : Nat) (k : Core) (y : Nat) : (giveUp d x k).get y = k.get y := by
  unfold giveUp; split <;> rfl

@[simp] theorem noteIssue_get (a : State) (k : Core) (y : Nat) : (noteIssue a k).get y = k.get y := rfl

/-- What a change of the issuing context and of what its core notes of the issue leaves. -/
theorem onlyMe_of {a : State} (f : Ctx → Ctx) :
    OnlyMe a (modCore ((modCore a a.issue.core (giveUp a.issue.d a.issue.ctx)).modMe f) a.issue.core (noteIssue a)) ∧
      (modCore ((modCore a a.issue.core (giveUp a.issue.d a.issue.ctx)).modMe f) a.issue.core (noteIssue a)).me = f a.me := by
  refine ⟨⟨rfl, fun c hc => ?_, ?_, fun x hx => ?_⟩, ?_⟩
  · rw [getCore_modCore_ne _ _ hc, State.modMe, modCore_issue, getCore_modCtx_ne _ _ _ hc, getCore_modCore_ne _ _ hc]
  · simp only [State.modMe, modCore_issue, getCore_modCore_self, getCore_modCtx_self, State.myCore, Core.put, noteIssue]
    generalize getCore a a.issue.core = k
    by_cases h : (a.issue.d && decide (k.owner = .ctx a.issue.ctx)) = true <;> simp [giveUp, h]
  · simp only [getCtx, getCore_modCore_self, State.modMe, modCore_issue, getCore_modCtx_self, noteIssue_get]
    rw [Core.get_put_ne _ _ hx, giveUp_get]
  · simp [State.me, getCtx, State.modMe]

/-- A group of one operation whose effect is on its context alone, with no LOOPN block running: what it leaves. -/
theorem goAhead_ctx {o : Op} {v : List Word} {a : State} (f : Ctx → Ctx) (hg : guardHolds a.me o.guard = true)
    (hn : a.me.loopn = none) (he : ∀ s, s.issue = a.issue → s.ck = a.ck → o.effect a v s = s.modMe f)
    (hf : ∀ t, t.loopn = none → (f t).loopn = none) :
    OnlyMe a (goAhead [o] [⟨o, v, []⟩] a) ∧
      (goAhead [o] [⟨o, v, []⟩] a).me =
        countCycle a (f (moveOn (srcPops o.srcs a) (flow a.me a.issue.next (o.goto a v)) a.me)) := by
  rw [goAhead_one hg hn]
  · rw [he (State.modMe (modCore _ _ _) _) rfl rfl, modMe_modMe, modMe_modMe]
    exact onlyMe_of _
  · intro s hi hc h
    rw [he s hi hc, modMe_me]
    exact hf _ h

theorem goes_guard {o : Op} {s : State} (h : goes o s = true) : guardHolds (startCycle s).me o.guard = true := by
  simp only [goes, Bool.and_eq_true] at h
  exact h.1.1.1.1.1.1.1.1.1.1.1.2

theorem goes_loopn {o : Op} {s : State} (h : goes o s = true) : (startCycle s).me.loopn = none := by
  simp only [goes, Bool.and_eq_true, Option.isNone_iff_eq_none] at h
  exact h.1.1.1.1.1.1.1.1.1.1.1.1.1.2

/-- An instruction that is one operation, which nothing holds back, has its effect. -/
theorem runs_of_goes {i : Instr} {o : Op} {s : State} (hx : exec i s = runOne o s) (h : goes o s = true)
    (he : ∀ t, t.issue = (startCycle s).issue → t.ck = (startCycle s).ck → t.me.loopn = none →
      (o.effect (startCycle s) (srcVals o.srcs (startCycle s)) t).me.loopn = none) :
    Runs i s o.srcs (o.goto (startCycle s) (srcVals o.srcs (startCycle s)))
      (fun a t => o.effect a (srcVals o.srcs a) t) := by
  rw [Runs, hx, runOne, runGroup_goes h, goAhead_one (goes_guard h) (goes_loopn h) he]
  rfl

/-- An instruction that is one operation, with an effect on its context alone, issues as that effect says. -/
theorem issuesAs_of_goes {i : Instr} {o : Op} {s : State} (hx : exec i s = runOne o s) (h : goes o s = true)
    (f : Ctx → Ctx)
    (he : ∀ t, t.issue = (startCycle s).issue → t.ck = (startCycle s).ck →
      o.effect (startCycle s) (srcVals o.srcs (startCycle s)) t = t.modMe f)
    (hf : ∀ t, t.loopn = none → (f t).loopn = none) :
    IssuesAs i s (countCycle (startCycle s) (f (moveOn (srcPops o.srcs (startCycle s))
      (flow (startCycle s).me (startCycle s).issue.next (o.goto (startCycle s) (srcVals o.srcs (startCycle s))))
      (startCycle s).me))) := by
  have := goAhead_ctx (v := srcVals o.srcs (startCycle s)) f (goes_guard h) (goes_loopn h) he hf
  exact ⟨_, by rw [hx, runOne, runGroup_goes h], this⟩

@[simp] theorem scoreboard_nil (k : Core) : scoreboard k [] [] = false := by
  simp [scoreboard]

theorem overflows_isEmpty {o o' : Op} (h : o.pushes = o'.pushes) (t : Ctx) (v v' : List Word) (p : List Nat) :
    (overflows t [⟨o, v, []⟩] p).isEmpty = (overflows t [⟨o', v', []⟩] p).isEmpty := by
  have : ∀ {α : Type} (l : List (Fin 8)) (f g : Fin 8 → Option α), (∀ i, (f i).isNone = (g i).isNone) →
      (l.filterMap f).isEmpty = (l.filterMap g).isEmpty := by
    intro α l f g hfg
    induction l with
    | nil => rfl
    | cons i l ih =>
      have := hfg i
      cases hf : f i <;> cases hg : g i <;> simp_all
  apply this
  intro i
  by_cases hc : o'.pushes.contains i = true
  · simp only [List.filter_cons, List.filter_nil, h, hc, if_true, List.length_singleton]
    split <;> rfl
  · simp only [List.filter_cons, List.filter_nil, h, hc, Bool.false_eq_true, if_false, List.length_nil]

/-- An operation that asks for nothing beyond its operands goes ahead once they are clear. -/
theorem goes_of_clear {o : Op} {s : State} (h : clear o.guard o.srcs o.dsts o.pushes s = true)
    (h1 : o.decode (startCycle s) = none)
    (h2 : scoreboard (startCycle s).myCore (o.tileR (startCycle s)) (o.tileW (startCycle s)) = false)
    (h3 : o.stall (startCycle s) (srcVals o.srcs (startCycle s)) = false)
    (h4 : o.empty (startCycle s) (srcVals o.srcs (startCycle s)) = false)
    (h5 : o.traps (startCycle s) (srcVals o.srcs (startCycle s)) = [])
    (h6 : o.block (startCycle s) (srcVals o.srcs (startCycle s)) = none)
    (h7 : o.kick (startCycle s) (srcVals o.srcs (startCycle s)) = none) (h8 : o.aqs = 0 := by rfl) : goes o s = true := by
  have ha : aqBlock (startCycle s) [⟨o, srcVals o.srcs (startCycle s), []⟩] = none := by simp [aqBlock, h8]
  unfold clear goes at h
  unfold goes
  simp only [h1, h2, h3, h4, h5, h6, h7, ha, scoreboard_nil] at h ⊢
  rw [overflows_isEmpty (o := o) (o' := { slot := 0, guard := o.guard, srcs := o.srcs, dsts := o.dsts, pushes := o.pushes }) rfl _ _
    (srcVals o.srcs (startCycle s))]
  exact h

/-- What an effect on the issuing context alone leaves. -/
theorem onlyMe_after (a : State) (srcs : List Src) (g : Option (Bool × Nat)) (f : Ctx → Ctx) :
    OnlyMe a (after a ((before a srcs g).modMe f)) ∧
      (after a ((before a srcs g).modMe f)).me =
        countCycle a (f (moveOn (srcPops srcs a) (flow a.me a.issue.next g) a.me)) := by
  unfold after before
  rw [modMe_modMe, modMe_modMe]
  exact onlyMe_of _

/-- What an operation with no effect of its own leaves. -/
theorem onlyMe_after_idle (a : State) (srcs : List Src) (g : Option (Bool × Nat)) :
    OnlyMe a (after a (before a srcs g)) ∧ (after a (before a srcs g)).me = advancedTo a srcs g := by
  unfold after before
  rw [modMe_modMe]
  exact onlyMe_of _

theorem issuesAs_of_runs_idle {i : Instr} {s : State} {srcs : List Src} {g : Option (Bool × Nat)}
    (h : Runs i s srcs g fun _ t => t) : IssuesAs i s (advancedTo (startCycle s) srcs g) :=
  ⟨_, h, onlyMe_after_idle _ _ _⟩

theorem issuesAs_of_runs {i : Instr} {s : State} {srcs : List Src} {g : Option (Bool × Nat)} {f : Ctx → Ctx}
    (h : Runs i s srcs g fun _ t => t.modMe f) :
    IssuesAs i s (countCycle (startCycle s) (f (moveOn (srcPops srcs (startCycle s))
      (flow (startCycle s).me (startCycle s).issue.next g) (startCycle s).me))) :=
  ⟨_, h, onlyMe_after _ _ _ _⟩

/-- A branch taken: the target, and the LOOP goes on where the target lies in its body (R147). -/
theorem advancedTo_branch {a : State} (hn : a.me.loopn = none) (srcs : List Src) (tgt : Nat) :
    advancedTo a srcs (some (true, tgt)) =
      { advanced a srcs with pc := tgt, loop := a.me.loop.filter fun l => inBody l.start l.len tgt } := by
  have h := flow_loopn hn a.issue.next none
  simp only [advanced, advancedTo, countCycle, moveOn, flow, hn, Option.filter_none] at h ⊢
  rw [h]

/-- A skip of a body, with no LOOP active (R154). -/
theorem advancedTo_skip {a : State} (hn : a.me.loopn = none) (hl : a.me.loop = none) (srcs : List Src) (dst : Nat) :
    advancedTo a srcs (some (false, dst)) = { advanced a srcs with pc := dst } := by
  simp only [advanced, advancedTo, countCycle, moveOn, flow, hn, hl, flowN]

/-- The place R144 reports a trap of the operation of a slot at. -/
def trapPlace (s : State) (slot : Nat) (r : Trap) : (Nat × Nat × Nat) × Trap :=
  ((r.step, (inSecond s slot).toNat, slot), r)

theorem firstTrap_slot {s : State} {slot : Nat} : ∀ {l : List Trap} {t : (Nat × Nat × Nat) × Trap},
    firstTrap (l.map (trapPlace s slot)) = some t → t.1.2.2 = slot
  | [], t, h => by simp [firstTrap] at h
  | r :: l, t, h => by
    simp only [List.map_cons, firstTrap] at h
    split at h
    · obtain rfl := Option.some.inj h; rfl
    · rename_i u hu
      split at h
      · obtain rfl := Option.some.inj h; exact firstTrap_slot hu
      · obtain rfl := Option.some.inj h; rfl

/-- What a group of one operation whose operands are clear comes to, by what the operation itself asks for: the order of
R63, R92, R144 and R62. -/
def verdictOf (o : Op) (a : State) : Verdict :=
  let v := srcVals o.srcs a
  if scoreboard a.myCore (o.tileR a) (o.tileW a) || o.stall a v then .stall
  else if o.empty a v then .empty
  else match firstTrap ((o.traps a v).map (trapPlace a o.slot)) with
    | some t => .trap t.2.cause t.2.tval (o.onTrap t.2.cause)
    | none => match groupBlock a [⟨o, v, []⟩] with
      | some p => .block p.1 p.2
      | none => match o.kick a v with
        | some f => .wait f
        | none => .go [⟨o, v, []⟩]

theorem judge_one {o : Op} {a : State} (hl : lateKeys a a.issue.core a.issue.ctx = []) (hn : a.me.loopn = none)
    (hg : guardHolds a.me o.guard = true) (hs : o.srcs.all (srcFull a.me) = true)
    (hu : underflows a.me o.srcs (List.replicate 8 0) = []) (hds : (o.dsts.all fun d => a.me.full.getLsbD d.val) = true)
    (ho : overflows a.me [⟨o, srcVals o.srcs a, []⟩] (srcPops o.srcs a) = []) (h1 : o.decode a = none) :
    judge [o] a = verdictOf o a := by
  have hr : resolve a.me [o] (List.replicate 8 0) = ([⟨o, srcVals o.srcs a, []⟩], srcPops o.srcs a) := by
    rw [resolve_one _ _ _ hg, hu]; rfl
  unfold verdictOf
  generalize srcVals o.srcs a = v at *
  generalize srcPops o.srcs a = p at *
  have e1 : o.srcs.filterMap (earlySrc a.me) = [] := by
    rw [List.filterMap_eq_nil_iff]
    exact fun r hr => earlySrc_none (List.all_eq_true.mp hs r hr)
  have e2 : o.srcs.any (blockedSrc a.me) = false := by
    rw [List.any_eq_false]
    exact fun r hr => by simp [blockedSrc_false (List.all_eq_true.mp hs r hr)]
  have e3 : (o.dsts.any fun d => !a.me.full.getLsbD d.val) = false := by
    rw [List.any_eq_false]
    intro d hd'
    simp only [List.all_eq_true.mp hds d hd', Bool.not_true]
    exact Bool.false_ne_true
  have e4 : stalled a [o] [⟨o, v, []⟩] = (scoreboard a.myCore (o.tileR a) (o.tileW a) || o.stall a v) := by
    simp only [stalled, hl, List.isEmpty_nil, Bool.not_true, Bool.false_and, List.any_cons, List.any_nil, e2, e3,
      Bool.or_false, Bool.false_or]
  have e5 : ∀ l f, deltaStall a.me l f = false := fun l f => by simp [deltaStall, hn]
  have e6 : groupTraps a [⟨o, v, []⟩] p = (o.traps a v).map (trapPlace a o.slot) := by
    simp only [groupTraps, List.map_cons, List.map_nil, List.flatten_cons, List.flatten_nil, e1, ho, List.append_nil,
      List.nil_append]
    rfl
  have hp : portDecode a [o] = none := by simp [portDecode, h1]
  have he' : emptyWait a [⟨o, v, []⟩] = o.empty a v := by simp [emptyWait]
  simp only [judge, hp, hr, e4, e5, e6, he', Bool.or_false, List.findSome?_cons, List.findSome?_nil, List.find?_cons,
    List.find?_nil]
  split
  · rfl
  · split
    · rfl
    · cases hf : firstTrap ((o.traps a v).map (trapPlace a o.slot)) with
      | some t => simp [firstTrap_slot hf]
        | none => cases groupBlock a [⟨o, v, []⟩] <;> cases o.kick a v <;> rfl

theorem judge_clear {o : Op} {s : State} (h : clear o.guard o.srcs o.dsts o.pushes s = true)
    (h1 : o.decode (startCycle s) = none) : judge [o] (startCycle s) = verdictOf o (startCycle s) := by
  unfold clear at h
  simp only [goes, Bool.and_eq_true, Bool.not_eq_true', Option.isNone_iff_eq_none] at h
  obtain ⟨⟨⟨⟨⟨⟨⟨⟨⟨⟨⟨⟨⟨⟨⟨-, hl⟩, hn⟩, -⟩, hg⟩, hs⟩, hu⟩, hds⟩, -⟩, -⟩, -⟩, ho⟩, -⟩, -⟩, -⟩, -⟩ := h
  have ho : (overflows (startCycle s).me [⟨o, srcVals o.srcs (startCycle s), []⟩]
    (srcPops o.srcs (startCycle s))).isEmpty = true := (overflows_isEmpty (by rfl) _ _ _ _).trans ho
  exact judge_one (List.isEmpty_iff.mp hl) hn hg hs (List.isEmpty_iff.mp hu) hds (List.isEmpty_iff.mp ho) h1

/-- A group of one operation whose operands are clear, and of whose own checks one fails, traps (R144). -/
theorem judge_trap {o : Op} {s : State} {r : Trap} (h : clear o.guard o.srcs o.dsts o.pushes s = true)
    (h1 : o.decode (startCycle s) = none)
    (h2 : scoreboard (startCycle s).myCore (o.tileR (startCycle s)) (o.tileW (startCycle s)) = false)
    (h3 : o.stall (startCycle s) (srcVals o.srcs (startCycle s)) = false)
    (h4 : o.empty (startCycle s) (srcVals o.srcs (startCycle s)) = false)
    (h5 : o.traps (startCycle s) (srcVals o.srcs (startCycle s)) = [r]) :
    judge [o] (startCycle s) = .trap r.cause r.tval (o.onTrap r.cause) := by
  rw [judge_clear h h1, verdictOf]
  simp only [h2, h3, h4, h5, Bool.or_self, Bool.false_eq_true, if_false, List.map_cons, List.map_nil, firstTrap, trapPlace]

theorem clear_rowLate {gd : Guard} {srcs : List Src} {ds : List (Fin 32)} {ps : List (Fin 8)} {s : State}
    (h : clear gd srcs ds ps s = true) : rowLate (delivered s) s.issue.core s.issue.ctx = false := by
  unfold clear at h
  simp only [goes, Bool.and_eq_true, Bool.not_eq_true'] at h
  exact h.1.1.1.1.1.1.1.1.1.1.1.1.1.1.1

/-- A group of one operation that waits in place, uncounted (R63, R92). -/
theorem runGroup_stall {o : Op} {s : State} (h : clear o.guard o.srcs o.dsts o.pushes s = true)
    (h1 : o.decode (startCycle s) = none) (h2 : scoreboard (startCycle s).myCore (o.tileR (startCycle s))
      (o.tileW (startCycle s)) = true ∨ o.stall (startCycle s) (srcVals o.srcs (startCycle s)) = true) :
    runGroup [o] s = stallGroup s := by
  rw [runGroup, judge_clear h h1, verdictOf, clear_rowLate h]
  rcases h2 with h2 | h2 <;> simp [h2]

/-- A group of one operation that waits in an empty issue cycle (R60). -/
theorem runGroup_empty {o : Op} {s : State} (h : clear o.guard o.srcs o.dsts o.pushes s = true)
    (h1 : o.decode (startCycle s) = none)
    (h2 : scoreboard (startCycle s).myCore (o.tileR (startCycle s)) (o.tileW (startCycle s)) = false)
    (h3 : o.stall (startCycle s) (srcVals o.srcs (startCycle s)) = false)
    (h4 : o.empty (startCycle s) (srcVals o.srcs (startCycle s)) = true) :
    runGroup [o] s = emptyCycle (startCycle s) := by
  rw [runGroup, judge_clear h h1, verdictOf, clear_rowLate h]
  simp [h2, h3, h4]

/-- A group of one operation that blocks (R62). -/
theorem runGroup_block {o : Op} {s : State} {n : Nat} (h : clear o.guard o.srcs o.dsts o.pushes s = true)
    (h1 : o.decode (startCycle s) = none)
    (h2 : scoreboard (startCycle s).myCore (o.tileR (startCycle s)) (o.tileW (startCycle s)) = false)
    (h3 : o.stall (startCycle s) (srcVals o.srcs (startCycle s)) = false)
    (h4 : o.empty (startCycle s) (srcVals o.srcs (startCycle s)) = false)
    (h5 : o.traps (startCycle s) (srcVals o.srcs (startCycle s)) = [])
    (h6 : o.block (startCycle s) (srcVals o.srcs (startCycle s)) = some n) :
    runGroup [o] s = blockGroup s n o.onBlock := by
  rw [runGroup, judge_clear h h1, verdictOf, clear_rowLate h]
  simp [h2, h3, h4, h5, h6, firstTrap, groupBlock]

/-- A group of one operation that traps: what has fallen due is delivered, and the trap is taken. -/
theorem runGroup_trap {o : Op} {s : State} {r : Trap} (h : clear o.guard o.srcs o.dsts o.pushes s = true)
    (h1 : o.decode (startCycle s) = none)
    (h2 : scoreboard (startCycle s).myCore (o.tileR (startCycle s)) (o.tileW (startCycle s)) = false)
    (h3 : o.stall (startCycle s) (srcVals o.srcs (startCycle s)) = false)
    (h4 : o.empty (startCycle s) (srcVals o.srcs (startCycle s)) = false)
    (h5 : o.traps (startCycle s) (srcVals o.srcs (startCycle s)) = [r]) :
    runGroup [o] s =
      takeTrap (o.onTrap r.cause (delivered s)) s.issue.core s.issue.ctx r.cause r.tval s.issue.addr := by
  simp [runGroup, clear_rowLate h, judge_trap h h1 h2 h3 h4 h5]

/-! ## Results -/

/-- A result put in flight, as a change of the context. -/
def giveTo (ck cls : Nat) (w : Write) (f : Flags) (t : Ctx) : Ctx :=
  let fl (w : Write) : Flight :=
    ⟨t.icyc + t.lat.getD cls 1 + 0,
      if t.lat.getD cls 1 < partLatency.getD cls 1 then ck + partLatency.getD cls 1 + 0 else 0,
      ck + t.lat.getD cls 1 + 0, t.icyc, cls, t.icyc + 0, w⟩
  let fs := insertFlight (fl w) t.flights
  { t with flights := if f = 0 then fs else insertFlight (fl (.flags f)) fs }

theorem give_eq (s : State) (cls : Nat) (w : Write) (f : Flags) : give s cls w f = s.modMe (giveTo s.ck cls w f) := by
  unfold give
  by_cases h : f = 0
  · subst h; rfl
  · simp only [h, if_false, expose, exposeFrom, State.modMe, modCtx_issue, modCtx_ck, modCtx_modCtx]
    congr 1
    funext t
    simp only [giveTo, h, if_false]

@[simp] theorem giveTo_loopn (ck cls : Nat) (w : Write) (f : Flags) (t : Ctx) : (giveTo ck cls w f t).loopn = t.loopn := rfl

theorem countCycle_giveTo (a : State) (srcs : List Src) (cls : Nat) (w : Write) (f : Flags) :
    countCycle a (giveTo a.ck cls w f (moveOn (srcPops srcs a) (flow a.me a.issue.next none) a.me)) =
      { advanced a srcs with flights := landing a cls w f } := rfl

/-- An instruction that is one operation which gives one exposed result. -/
theorem gives_of_goes {i : Instr} {o : Op} {s : State} {cls : Nat} {w : Write} {f : Flags} (hx : exec i s = runOne o s)
    (h : goes o s = true) (hg : o.goto (startCycle s) (srcVals o.srcs (startCycle s)) = none)
    (he : ∀ t, t.issue = (startCycle s).issue → o.effect (startCycle s) (srcVals o.srcs (startCycle s)) t = give t cls w f) :
    Gives i s o.srcs cls w f := by
  have := issuesAs_of_goes hx h (giveTo (startCycle s).ck cls w f)
    (fun t hi hc => by rw [he t hi, give_eq, hc]) (fun t ht => ht)
  rw [hg, countCycle_giveTo] at this
  exact this

/-- A long-latency result, as a change of the context. -/
def produceTo (ck lat : Nat) (d : Fin 32) (v : Word) (f : Flags) (t : Ctx) : Ctx :=
  { t with full := t.full &&& ~~~((1 : BitVec 32) <<< d.val), longs := t.longs ++ [⟨ck + lat, d, v, f⟩] }

theorem produceLong_eq (s : State) (lat : Nat) (d : Fin 32) (v : Word) (f : Flags) :
    produceLong s s.issue.core s.issue.ctx lat d v f = s.modMe (produceTo s.ck lat d v f) := rfl

theorem countCycle_produceTo (a : State) (srcs : List Src) (lat : Nat) (d : Fin 32) (v : Word) (f : Flags) :
    countCycle a (produceTo a.ck lat d v f (moveOn (srcPops srcs a) (flow a.me a.issue.next none) a.me)) =
      { advanced a srcs with
        full := a.me.full &&& ~~~((1 : BitVec 32) <<< d.val), longs := a.me.longs ++ [⟨a.ck + lat, d, v, f⟩] } := rfl

/-- An instruction that is one operation which gives one long-latency result. -/
theorem givesLong_of_goes {i : Instr} {o : Op} {s : State} {lat : Nat} {d : Fin 32} {v : Word} {f : Flags}
    (hx : exec i s = runOne o s) (h : goes o s = true)
    (hg : o.goto (startCycle s) (srcVals o.srcs (startCycle s)) = none)
    (he : ∀ t, t.issue = (startCycle s).issue → o.effect (startCycle s) (srcVals o.srcs (startCycle s)) t =
      produceLong t t.issue.core t.issue.ctx lat d v f) :
    GivesLong i s o.srcs lat d v f := by
  have := issuesAs_of_goes hx h (produceTo (startCycle s).ck lat d v f)
    (fun t hi hc => by rw [he t hi, produceLong_eq, hc]) (fun t ht => ht)
  rw [hg, countCycle_produceTo] at this
  exact this

end Sys2Proof.Machine
end

