-- ==== Sys2Proof/Laws/Memory.lean ====
section
/-!
SUPPORT. Memory: its canonical form is kept by every operation that writes it, a byte written reads back, and every other
byte stays as it was (R302, R411; log 1).
-/
namespace Sys2Proof.Machine

/-- A larger start admits fewer lists. -/
theorem memWfFrom_mono {lo hi : Nat} {m : List Host.Cell} (h : memWfFrom hi m = true) (k : lo ≤ hi) :
    memWfFrom lo m = true := by
  cases m with
  | nil => rfl
  | cons c cs =>
    simp only [memWfFrom, Bool.and_eq_true, decide_eq_true_eq] at h ⊢
    exact ⟨⟨by omega, h.1.2⟩, h.2⟩

/-- Below the first address that a list in canonical form lists, every byte reads as 0. -/
theorem memGet_below {lo a : Nat} {m : List Host.Cell} (h : memWfFrom lo m = true) (k : a < lo) : memGet m a = 0 := by
  cases m with
  | nil => rfl
  | cons c cs =>
    simp only [memWfFrom, Bool.and_eq_true, decide_eq_true_eq] at h
    have h1 : ¬ c.1 = a := by omega
    have h2 : a < c.1 := by omega
    simp [memGet, h1, h2]

/-- Two lists joined: the first ends before `mid`, and the second starts there. -/
theorem memWfFrom_append {mid : Nat} : ∀ {lo : Nat} {m n : List Host.Cell}, lo ≤ mid → memWfFrom lo m = true →
    (∀ c ∈ m, c.1 < mid) → memWfFrom mid n = true → memWfFrom lo (m ++ n) = true
  | _, [], _, h, _, _, hn => memWfFrom_mono hn h
  | _, c :: cs, _, _, hm, hb, hn => by
    simp only [memWfFrom, List.cons_append, Bool.and_eq_true, decide_eq_true_eq] at hm ⊢
    have := hb c (by simp)
    exact ⟨hm.1, memWfFrom_append (by omega) hm.2 (fun d hd => hb d (by simp [hd])) hn⟩

theorem memGet_append {mid : Nat} (a : Nat) : ∀ {lo : Nat} {m n : List Host.Cell}, memWfFrom lo m = true →
    (∀ c ∈ m, c.1 < mid) → memWfFrom mid n = true →
    memGet (m ++ n) a = if a < mid then memGet m a else memGet n a
  | _, [], n, _, _, hn => by
    split
    · rename_i h; exact memGet_below hn h
    · rfl
  | _, c :: cs, n, hm, hb, hn => by
    simp only [memWfFrom, Bool.and_eq_true, decide_eq_true_eq] at hm
    have hc := hb c (by simp)
    have ih := memGet_append a hm.2 (fun d hd => hb d (by simp [hd])) hn
    simp only [List.cons_append, memGet, ih]
    by_cases h1 : c.1 = a
    · simp [h1]; intro; omega
    · by_cases h2 : a < c.1
      · have : a < mid := by omega
        simp [h1, h2, this]
      · simp only [h1, h2, if_false]

/-- The part of a list in canonical form below an address. -/
theorem takeWhile_wf (a : Nat) : ∀ {lo : Nat} {m : List Host.Cell}, memWfFrom lo m = true →
    memWfFrom lo (m.takeWhile fun c => decide (c.1 < a)) = true
  | _, [], _ => rfl
  | _, c :: cs, h => by
    simp only [memWfFrom, Bool.and_eq_true, decide_eq_true_eq] at h
    by_cases hc : c.1 < a
    · simp only [List.takeWhile_cons, hc, decide_true, if_true, memWfFrom, Bool.and_eq_true, decide_eq_true_eq]
      exact ⟨h.1, takeWhile_wf a h.2⟩
    · simp [hc, memWfFrom]

theorem takeWhile_below (a : Nat) (m : List Host.Cell) : ∀ c ∈ m.takeWhile fun c => decide (c.1 < a), c.1 < a := by
  intro c hc
  have := List.all_eq_true.mp (List.all_takeWhile (p := fun c : Host.Cell => decide (c.1 < a)) (l := m)) c hc
  simpa using this

/-- The part of a list in canonical form from an address on. -/
theorem dropWhile_wf (a : Nat) : ∀ {lo : Nat} {m : List Host.Cell}, memWfFrom lo m = true →
    memWfFrom a (m.dropWhile fun c => decide (c.1 < a)) = true
  | _, [], _ => rfl
  | lo, c :: cs, h => by
    simp only [memWfFrom, Bool.and_eq_true, decide_eq_true_eq] at h
    by_cases hc : c.1 < a
    · simp only [List.dropWhile_cons, hc, decide_true, if_true]
      exact dropWhile_wf a h.2
    · simp only [List.dropWhile_cons, hc, decide_false, Bool.false_eq_true, if_false, memWfFrom, Bool.and_eq_true,
        decide_eq_true_eq]
      exact ⟨⟨by omega, h.1.2⟩, h.2⟩

theorem memGet_takeWhile {a k : Nat} (hk : k < a) : ∀ {lo : Nat} {m : List Host.Cell}, memWfFrom lo m = true →
    memGet (m.takeWhile fun c => decide (c.1 < a)) k = memGet m k
  | _, [], _ => rfl
  | _, c :: cs, h => by
    simp only [memWfFrom, Bool.and_eq_true, decide_eq_true_eq] at h
    by_cases hc : c.1 < a
    · simp only [List.takeWhile_cons, hc, decide_true, if_true, memGet, memGet_takeWhile hk h.2]
    · have h1 : ¬ c.1 = k := by omega
      have h2 : k < c.1 := by omega
      simp [hc, memGet, h1, h2]

theorem memGet_dropWhile {a k : Nat} (hk : a ≤ k) : ∀ {lo : Nat} {m : List Host.Cell}, memWfFrom lo m = true →
    memGet (m.dropWhile fun c => decide (c.1 < a)) k = memGet m k
  | _, [], _ => rfl
  | _, c :: cs, h => by
    simp only [memWfFrom, Bool.and_eq_true, decide_eq_true_eq] at h
    by_cases hc : c.1 < a
    · have h1 : ¬ c.1 = k := by omega
      have h2 : ¬ k < c.1 := by omega
      simp only [List.dropWhile_cons, hc, decide_true, if_true, memGet, h1, h2, if_false]
      exact memGet_dropWhile hk h.2
    · simp [hc]

/-! ## Cells of bytes -/

theorem cellsOf_bounds : ∀ (bs : List Byte) (a : Nat), ∀ c ∈ cellsOf a bs, a ≤ c.1 ∧ c.1 < a + bs.length
  | [], _, c, h => by simp [cellsOf] at h
  | b :: bs, a, c, h => by
    unfold cellsOf at h
    simp only [List.length_cons]
    split at h
    · have := cellsOf_bounds bs (a + 1) c h; omega
    · rcases List.mem_cons.mp h with rfl | h
      · simp
      · have := cellsOf_bounds bs (a + 1) c h; omega

theorem cellsOf_wf : ∀ (bs : List Byte) (a : Nat), memWfFrom a (cellsOf a bs) = true
  | [], _ => rfl
  | b :: bs, a => by
    unfold cellsOf
    split
    · exact memWfFrom_mono (cellsOf_wf bs (a + 1)) (by omega)
    · rename_i hb
      simp only [memWfFrom, Bool.and_eq_true, decide_eq_true_eq, bne_iff_ne, ne_eq]
      exact ⟨⟨Nat.le_refl _, hb⟩, cellsOf_wf bs (a + 1)⟩

theorem memGet_cellsOf : ∀ (bs : List Byte) (a i : Nat), memGet (cellsOf a bs) (a + i) = bs.getD i 0
  | [], _, _ => rfl
  | b :: bs, a, 0 => by
    unfold cellsOf
    split
    · rename_i hb
      simp only [Nat.add_zero, List.getD_cons_zero, hb]
      exact memGet_below (cellsOf_wf bs (a + 1)) (by omega)
    · simp [memGet]
  | b :: bs, a, i + 1 => by
    have ih := memGet_cellsOf bs (a + 1) i
    rw [show a + 1 + i = a + (i + 1) by omega] at ih
    unfold cellsOf
    split
    · simpa using ih
    · have h1 : ¬ a = a + (i + 1) := by omega
      have h2 : ¬ a + (i + 1) < a := by omega
      simp only [memGet, h1, h2, if_false, ih, List.getD_cons_succ]

/-! ## Writes -/

/-- A write keeps the canonical form. -/
theorem writeBytes_wf {m : List Host.Cell} (h : Memory.wf m = true) (a : Nat) (bs : List Byte) :
    Memory.wf (writeBytes m a bs) = true := by
  refine memWfFrom_append (mid := a) (by omega) (takeWhile_wf a h) (takeWhile_below a m) ?_
  exact memWfFrom_append (mid := a + bs.length) (by omega) (cellsOf_wf bs a) (fun c hc => (cellsOf_bounds bs a c hc).2)
    (dropWhile_wf _ h)

/-- Each byte after a write: the one written, or what was there. -/
theorem memGet_writeBytes {m : List Host.Cell} (h : Memory.wf m = true) (a : Nat) (bs : List Byte) (k : Nat) :
    memGet (writeBytes m a bs) k = if a ≤ k ∧ k < a + bs.length then bs.getD (k - a) 0 else memGet m k := by
  have hd := dropWhile_wf (a + bs.length) h
  have hc : ∀ c ∈ cellsOf a bs, c.1 < a + bs.length := fun c hc => (cellsOf_bounds bs a c hc).2
  have h2 := memWfFrom_append (mid := a + bs.length) (by omega) (cellsOf_wf bs a) hc hd
  unfold writeBytes
  rw [memGet_append k (takeWhile_wf a h) (takeWhile_below a m) h2, memGet_append k (cellsOf_wf bs a) hc hd]
  by_cases h1 : k < a
  · rw [if_pos h1, memGet_takeWhile h1 h, if_neg (by omega)]
  · rw [if_neg h1]
    by_cases h3 : k < a + bs.length
    · rw [if_pos h3, if_pos (by omega)]
      have := memGet_cellsOf bs a (k - a)
      rwa [show a + (k - a) = k by omega] at this
    · rw [if_neg h3, if_neg (by omega), memGet_dropWhile (by omega) h]

/-- A read of the bytes just written gives them back. -/
theorem readBytes_writeBytes {m : List Host.Cell} (h : Memory.wf m = true) (a : Nat) (bs : List Byte) :
    readBytes (writeBytes m a bs) a bs.length = bs := by
  have key : ∀ (n i : Nat), i + n = bs.length → readBytes (writeBytes m a bs) (a + i) n = bs.drop i := by
    intro n
    induction n with
    | zero => intro i hi; simp [readBytes, ← hi]
    | succ n ih =>
      intro i hi
      have hlt : i < bs.length := by omega
      rw [readBytes, memGet_writeBytes h, if_pos (by omega), show a + i - a = i by omega, Nat.add_assoc,
        ih (i + 1) (by omega), List.drop_eq_getElem_cons hlt]
      simp [hlt]
  simpa using key bs.length 0 (by omega)

/-- A read of bytes a write does not touch gives what it gave. -/
theorem readBytes_writeBytes_off {m : List Host.Cell} (h : Memory.wf m = true) (a : Nat) (bs : List Byte) :
    ∀ (n k : Nat), k + n ≤ a ∨ a + bs.length ≤ k → readBytes (writeBytes m a bs) k n = readBytes m k n
  | 0, _, _ => rfl
  | n + 1, k, hk => by
    rw [readBytes, readBytes, memGet_writeBytes h, if_neg (by omega)]
    cases n with
    | zero => rfl
    | succ n => rw [readBytes_writeBytes_off h a bs (n + 1) (k + 1) (by omega)]

theorem foldl_writeBytes_wf : ∀ (ws : List (Nat × List Byte)) {m : List Host.Cell}, Memory.wf m = true →
    Memory.wf (ws.foldl (fun m w => writeBytes m w.1 w.2) m) = true
  | [], _, h => h
  | w :: ws, _, h => foldl_writeBytes_wf ws (writeBytes_wf h w.1 w.2)

/-! ## The operations of the package that write memory -/

/-- A store keeps the canonical form. -/
theorem storeBytes_wf {s : State} (h : Memory.wf s.mem = true) (key : Nat) (bs : List Byte) :
    Memory.wf (storeBytes s key bs).mem = true := writeBytes_wf h key bs

/-- The writes of a unit keep the canonical form. -/
theorem storeAll_wf {s : State} (h : Memory.wf s.mem = true) (ws : List (Nat × List Byte)) :
    Memory.wf (storeAll s ws).mem = true := foldl_writeBytes_wf ws h

/-- Clearing a range keeps the canonical form. -/
theorem clearBytes_wf {s : State} (h : Memory.wf s.mem = true) (a n : Nat) :
    Memory.wf (clearBytes s a n).mem = true :=
  memWfFrom_append (mid := a) (by omega) (takeWhile_wf a h) (takeWhile_below a _)
    (memWfFrom_mono (dropWhile_wf (a + n) h) (by omega))

/-- Each byte after a range is cleared. -/
theorem memGet_clearBytes {s : State} (h : Memory.wf s.mem = true) (a n k : Nat) :
    memGet (clearBytes s a n).mem k = if a ≤ k ∧ k < a + n then 0 else memGet s.mem k := by
  have hd := dropWhile_wf (a + n) h
  show memGet (_ ++ _) k = _
  rw [memGet_append k (takeWhile_wf a h) (takeWhile_below a s.mem) (memWfFrom_mono hd (by omega))]
  by_cases h1 : k < a
  · rw [if_pos h1, memGet_takeWhile h1 h, if_neg (by omega)]
  · rw [if_neg h1]
    by_cases h3 : k < a + n
    · rw [if_pos (by omega), memGet_below hd (by omega)]
    · rw [if_neg (by omega), memGet_dropWhile (by omega) h]

/-- A reset memory is in canonical form. -/
theorem reset_wf : Memory.wf State.reset.mem = true := rfl

end Sys2Proof.Machine
end

