-- ==== Sys2Proof/Laws/PerInstr.lean ====
section
/-!
SUPPORT. The family RoundTrip: what the decoder reads from the word the encoder writes, one lemma per constructor.
-/
namespace Sys2Proof.Laws.RoundTrip
open Sys2Proof

set_option Elab.async false
/-- Every field's value fits its width. -/
def fits : List (Nat × Nat) → Prop
  | [] => True
  | f :: fs => f.2 < 2 ^ f.1 ∧ fits fs

@[simp] theorem fits_nil : fits [] ↔ True := ⟨id, id⟩
@[simp] theorem fits_cons (n v : Nat) (fs : List (Nat × Nat)) : fits ((n, v) :: fs) ↔ v < 2 ^ n ∧ fits fs := ⟨id, id⟩

theorem pack_lt : ∀ {fs : List (Nat × Nat)}, fits fs → pack fs < 2 ^ fieldsWidth fs
  | [], _ => by simp [pack, fieldsWidth]
  | f :: fs, h => by
    have h2 := pack_lt h.2
    simp only [pack, fieldsWidth, Nat.pow_add]
    calc f.2 * 2 ^ fieldsWidth fs + pack fs < (f.2 + 1) * 2 ^ fieldsWidth fs := by
          rw [Nat.add_mul, Nat.one_mul]; exact Nat.add_lt_add_left h2 _
      _ ≤ 2 ^ f.1 * 2 ^ fieldsWidth fs := Nat.mul_le_mul_right _ h.1

theorem pack_fits {fs : List (Nat × Nat)} {n : Nat} (h : fits fs) (hn : n = 2 ^ fieldsWidth fs) : pack fs < n :=
  hn ▸ pack_lt h

theorem sumWidth_map (fs : List (Nat × Nat)) : sumWidth (fs.map (·.1)) = fieldsWidth fs := by
  induction fs with
  | nil => rfl
  | cons f fs ih => simp [sumWidth, fieldsWidth, ih]

theorem unpack_add : ∀ (fs : List (Nat × Nat)), fits fs →
    ∀ k : Nat, unpack (fs.map (·.1)) (k * 2 ^ fieldsWidth fs + pack fs) = fs.map (·.2)
  | [], _, _ => rfl
  | f :: fs, h, k => by
    have h2 := pack_lt h.2
    have ih := unpack_add fs h.2 (k * 2 ^ f.1 + f.2)
    have e : k * 2 ^ fieldsWidth (f :: fs) + pack (f :: fs) = (k * 2 ^ f.1 + f.2) * 2 ^ fieldsWidth fs + pack fs := by
      simp only [pack, fieldsWidth, Nat.pow_add, Nat.add_mul, Nat.mul_assoc, Nat.add_assoc]
    rw [e]
    simp only [List.map_cons, unpack, ih, sumWidth_map]
    congr 1
    rw [Nat.add_comm _ (pack fs), Nat.add_mul_div_right _ _ (Nat.two_pow_pos _), Nat.div_eq_of_lt h2, Nat.zero_add,
      Nat.add_comm, Nat.add_mul_mod_self_right, Nat.mod_eq_of_lt h.1]

/-- The fields of a packed word are those packed. -/
theorem unpack_pack {ws : List Nat} {fs : List (Nat × Nat)} (hw : ws = fs.map (·.1)) (h : fits fs) :
    unpack ws (pack fs) = fs.map (·.2) := by
  subst hw; simpa using unpack_add fs h 0

@[simp] theorem bit_le (b : Bool) : b.toNat ≤ 1 := b.toNat_le
@[simp] theorem fin2_le (x : Fin 2) : x.val ≤ 1 := Nat.le_of_lt_succ x.isLt
@[simp] theorem bv1_le (x : BitVec 1) : x.toNat ≤ 1 := Nat.le_of_lt_succ x.isLt

@[simp] theorem guard_code (g : Guard) : Guard.ofCode g.code = g := by
  obtain ⟨i, p⟩ := g; revert i p; decide
@[simp] theorem guard_lt (g : Guard) : g.code < 16 := by
  obtain ⟨i, p⟩ := g; revert i p; decide
@[simp] theorem fmt_code (f : Fmt) : Fmt.ofCode f.code = some f := by cases f <;> rfl
@[simp] theorem fmt_lt (f : Fmt) : f.code < 256 := by cases f <;> decide
@[simp] theorem rm_code (f : Rm) : Rm.ofCode f.code = some f := by cases f <;> rfl
@[simp] theorem rm_lt {k : Nat} (f : Rm) (h : 4 ≤ k) : f.code < k := Nat.lt_of_lt_of_le (by cases f <;> decide) h
@[simp] theorem zf_code (f : Zf) : Zf.ofCode f.code = some f := by cases f <;> rfl
@[simp] theorem zf_lt (f : Zf) : f.code < 4 := by cases f <;> decide
@[simp] theorem reg_code (r : Reg) : Reg.ofCode r.code = some r := by
  cases r <;> rename_i i <;> revert i <;> decide
@[simp] theorem reg_lt (r : Reg) : r.code < 64 := by
  cases r <;> rename_i i <;> revert i <;> decide
@[simp] theorem src_code (r : Src) : Src.ofCode r.code = some r := by
  cases r <;> rename_i i b <;> revert i b <;> decide
@[simp] theorem src_lt (r : Src) : r.code < 128 := by
  cases r <;> rename_i i b <;> revert i b <;> decide
@[simp] theorem gsrc_code (r : GSrc) : GSrc.ofCode r.code = some r := by
  obtain ⟨i, b⟩ := r; revert i b; decide
@[simp] theorem gsrc_lt (r : GSrc) : r.code < 128 := by
  obtain ⟨i, b⟩ := r; revert i b; decide
@[simp] theorem g_code (r : Fin 32) : gOfCode r.val = some r := by revert r; decide
@[simp] theorem bind_code (r : Option (Fin 16)) : bindOfCode (bindCode r) = some r := by
  cases r with
  | none => rfl
  | some r => revert r; decide
@[simp] theorem bind_lt (r : Option (Fin 16)) : bindCode r < 32 := by
  cases r with
  | none => decide
  | some r => revert r; decide
@[simp] theorem sys_code (r : SysReg) : SysReg.ofCode r.code = some r := by
  cases r <;> first | rfl | (rename_i i; revert i; decide)
@[simp] theorem sys_lt (r : SysReg) : r.code < 256 := by
  cases r <;> first | decide | (rename_i i; revert i; decide)
@[simp] theorem bool_code (b : Bool) : bitOf b.toNat = b := by cases b <;> rfl
@[simp] theorem bool_lt {k : Nat} (b : Bool) (h : 2 ≤ k) : b.toNat < k := Nat.lt_of_lt_of_le (by cases b <;> decide) h
theorem pack_one (n v : Nat) : pack [(n, v)] = v := by simp [pack, fieldsWidth]



@[simp] theorem fin_lt {n k : Nat} (d : Fin n) (h : n ≤ k) : d.val < k := Nat.lt_of_lt_of_le d.isLt h
@[simp] theorem bv7 (x : BitVec 7) : x.toNat < 128 := x.isLt
@[simp] theorem bv8 (x : BitVec 8) : x.toNat < 256 := x.isLt
@[simp] theorem bv9 (x : BitVec 9) : x.toNat < 512 := x.isLt
@[simp] theorem bv16 (x : BitVec 16) : x.toNat < 65536 := x.isLt
@[simp] theorem bv23 (x : BitVec 23) : x.toNat < 8388608 := x.isLt
@[simp] theorem bv32 (x : BitVec 32) : x.toNat < 4294967296 := x.isLt

/-- The reading of a field word of a bundle operation, or of a microword, is the instruction it was written from (R96,
R136). -/
def Statement (i : Instr) : Prop :=
  i.wf = true → (∀ slot w, encode i = some (slot, w) → decodeSlot slot w = some i) ∧
    ∀ w, encodeMicro i = some w → decodeMicro w = some i

theorem splitOp_pack {n m op : Nat} {gd : Guard} {f : Guard → Nat → Nat → Option Instr} {fs : List (Nat × Nat)}
    (ho : op < 2 ^ n) (h : fits fs) (hw : fieldsWidth fs = m) :
    splitOp n m f (pack [(4, gd.code), (n, op), (m, pack fs)]) = f gd op (pack fs) := by
  have h1 : fits [(4, gd.code), (n, op), (m, pack fs)] := ⟨guard_lt gd, ho, hw ▸ pack_lt h, trivial⟩
  rw [splitOp, unpack_pack (ws := [4, n, m]) rfl h1]
  simp

theorem of_fields {i : Instr} {n : Nat} {fs : List (Nat × Nat)} (he : encodeFields i = some (n, fs))
    (hm : encodeMicro i = none) (h : i.wf = true → decodeSlot n (pack fs) = some i) : Statement i := by
  intro hw
  refine ⟨fun slot w hs => ?_, fun w hs => ?_⟩
  · rw [encode, he] at hs
    obtain ⟨rfl, rfl⟩ := Prod.mk.inj (Option.some.inj hs)
    exact h hw
  · rw [hm] at hs; exact absurd hs (by simp)

theorem of_micro {i : Instr} {w : Nat} (he : encodeFields i = none) (hm : encodeMicro i = some w)
    (h : decodeMicro w = some i) : Statement i := by
  intro _
  refine ⟨fun slot w hs => ?_, fun w hs => ?_⟩
  · rw [encode, he] at hs; exact absurd hs (by simp)
  · rw [hm] at hs; obtain rfl := Option.some.inj hs; exact h

/-- A step that is no bundle operation and no microinstruction. -/
theorem of_none {i : Instr} (he : encodeFields i = none) (hm : encodeMicro i = none) : Statement i := by
  intro _
  refine ⟨fun slot w hs => ?_, fun w hs => ?_⟩
  · rw [encode, he] at hs; exact absurd hs (by simp)
  · rw [hm] at hs; exact absurd hs (by simp)

theorem slot_s (s1 : Bool) (w : Nat) : decodeSlot (sSlot s1) w = splitOp 6 22 (decodeSOp s1) w := by
  cases s1
  · rw [sSlot, if_neg Bool.false_ne_true, decodeSlot, decodeS]
  · rw [sSlot, if_pos rfl, decodeSlot, decodeS]

theorem of_s {i : Instr} {s1 : Bool} {gd : Guard} {op : Nat} {fs : List (Nat × Nat)}
    (he : encodeFields i = some (sSlot s1, [(4, gd.code), (6, op), (22, pack fs)])) (hm : encodeMicro i = none)
    (ho : op < 2 ^ 6) (hf : fits fs) (hw : fieldsWidth fs = 22)
    (h : i.wf = true → decodeSOp s1 gd op (pack fs) = some i) : Statement i :=
  of_fields he hm fun hi => (slot_s _ _).trans ((splitOp_pack ho hf hw).trans (h hi))

theorem slot_br (w : Nat) : decodeSlot 0 w = splitOp 5 23 decodeBROp w := by
  rw [decodeSlot, decodeBR]

theorem of_br {i : Instr} {gd : Guard} {op : Nat} {fs : List (Nat × Nat)}
    (he : encodeFields i = some (0, [(4, gd.code), (5, op), (23, pack fs)])) (hm : encodeMicro i = none)
    (ho : op < 2 ^ 5) (hf : fits fs) (hw : fieldsWidth fs = 23)
    (h : i.wf = true → decodeBROp gd op (pack fs) = some i) : Statement i :=
  of_fields he hm fun hi => (slot_br _).trans ((splitOp_pack ho hf hw).trans (h hi))

theorem slot_ls (w : Nat) : decodeSlot 3 w = splitOp 4 24 decodeLSOp w := by
  rw [decodeSlot, decodeLS]

theorem of_ls {i : Instr} {gd : Guard} {op : Nat} {fs : List (Nat × Nat)}
    (he : encodeFields i = some (3, [(4, gd.code), (4, op), (24, pack fs)])) (hm : encodeMicro i = none)
    (ho : op < 2 ^ 4) (hf : fits fs) (hw : fieldsWidth fs = 24)
    (h : i.wf = true → decodeLSOp gd op (pack fs) = some i) : Statement i :=
  of_fields he hm fun hi => (slot_ls _).trans ((splitOp_pack ho hf hw).trans (h hi))

theorem slot_x (w : Nat) : decodeSlot 5 w = splitOp 3 25 decodeXOp w := by
  rw [decodeSlot, decodeX]

theorem of_x {i : Instr} {gd : Guard} {op : Nat} {fs : List (Nat × Nat)}
    (he : encodeFields i = some (5, [(4, gd.code), (3, op), (25, pack fs)])) (hm : encodeMicro i = none)
    (ho : op < 2 ^ 3) (hf : fits fs) (hw : fieldsWidth fs = 25)
    (h : i.wf = true → decodeXOp gd op (pack fs) = some i) : Statement i :=
  of_fields he hm fun hi => (slot_x _).trans ((splitOp_pack ho hf hw).trans (h hi))

theorem slot_k (w : Nat) : decodeSlot 6 w = splitOp 2 26 decodeKOp w := by
  rw [decodeSlot, decodeK]

theorem of_k {i : Instr} {gd : Guard} {op : Nat} {fs : List (Nat × Nat)}
    (he : encodeFields i = some (6, [(4, gd.code), (2, op), (26, pack fs)])) (hm : encodeMicro i = none)
    (ho : op < 2 ^ 2) (hf : fits fs) (hw : fieldsWidth fs = 26)
    (h : i.wf = true → decodeKOp gd op (pack fs) = some i) : Statement i :=
  of_fields he hm fun hi => (slot_k _).trans ((splitOp_pack ho hf hw).trans (h hi))

theorem slot_m (w : Nat) : decodeSlot 8 w = splitOp 3 57 decodeMOp w := by
  rw [decodeSlot, decodeM]

theorem of_m {i : Instr} {gd : Guard} {op : Nat} {fs : List (Nat × Nat)}
    (he : encodeFields i = some (8, [(4, gd.code), (3, op), (57, pack fs)])) (hm : encodeMicro i = none)
    (ho : op < 2 ^ 3) (hf : fits fs) (hw : fieldsWidth fs = 57)
    (h : i.wf = true → decodeMOp gd op (pack fs) = some i) : Statement i :=
  of_fields he hm fun hi => (slot_m _).trans ((splitOp_pack ho hf hw).trans (h hi))

theorem slot_c (w : Nat) : decodeSlot 10 w = splitOp 5 55 decodeCOp w := by
  rw [decodeSlot, decodeC]

theorem of_c {i : Instr} {gd : Guard} {op : Nat} {fs : List (Nat × Nat)}
    (he : encodeFields i = some (10, [(4, gd.code), (5, op), (55, pack fs)])) (hm : encodeMicro i = none)
    (ho : op < 2 ^ 5) (hf : fits fs) (hw : fieldsWidth fs = 55)
    (h : i.wf = true → decodeCOp gd op (pack fs) = some i) : Statement i :=
  of_fields he hm fun hi => (slot_c _).trans ((splitOp_pack ho hf hw).trans (h hi))

theorem alu_reg (r im w d a b) : decAlu r im (pack [(1, 0), (1, Bool.toNat w), (6, Reg.code d), (7, Src.code a),
    (7, Src.code b)]) = some (r w d a b) := by simp [decAlu, unpack_pack]
theorem alu_imm (r im w d a) (b : BitVec 7) : decAlu r im (pack [(1, 1), (1, Bool.toNat w), (6, Reg.code d), (7, Src.code a),
    (7, b.toNat)]) = some (im w d a b) := by simp [decAlu, unpack_pack]
theorem div_reg (r im w) (d : Fin 32) (a b) : decDiv r im (pack [(1, 0), (1, Bool.toNat w), (6, d.val), (7, Src.code a),
    (7, Src.code b)]) = some (r w d a b) := by simp [decDiv, unpack_pack]
theorem div_imm (r im w) (d : Fin 32) (a) (b : BitVec 7) : decDiv r im (pack [(1, 1), (1, Bool.toNat w), (6, d.val),
    (7, Src.code a), (7, b.toNat)]) = some (im w d a b) := by simp [decDiv, unpack_pack]
theorem shift_reg (r im w d a b) : decShift r im (pack [(1, 0), (1, Bool.toNat w), (6, Reg.code d), (7, Src.code a),
    (7, Src.code b)]) = some (r w d a b) := by simp [decShift, unpack_pack]
theorem shift_imm (r im w d a) (b : Fin 64) (h : (!w || decide (b.val < 32)) = true) : decShift r im (pack [(1, 1),
    (1, Bool.toNat w), (6, Reg.code d), (7, Src.code a), (7, b.val)]) = some (im w d a b) := by
  cases w <;> simp_all [decShift, unpack_pack, keepIf, bitOf]
theorem cmp_reg (r im w) (p : Fin 8) (a b) : decCmp r im (pack [(1, 0), (1, Bool.toNat w), (3, p.val), (3, 0), (7, Src.code a),
    (7, Src.code b)]) = some (r w p a b) := by simp [decCmp, unpack_pack]
theorem cmp_imm (r im w) (p : Fin 8) (a) (b : BitVec 7) : decCmp r im (pack [(1, 1), (1, Bool.toNat w), (3, p.val), (3, 0),
    (7, Src.code a), (7, b.toNat)]) = some (im w p a b) := by simp [decCmp, unpack_pack]

theorem nop (s d : Bool) : Statement (.nop s d) := of_none rfl rfl

theorem add (s1 : Bool) (gd : Guard) (w : Bool) (d : Reg) (a b : Src) : Statement (.add s1 gd w d a b) :=
  of_s rfl rfl (by decide) (by simp) rfl fun _ => by rw [decodeSOp]; exact alu_reg _ _ _ _ _ _

theorem addImm (s1 : Bool) (gd : Guard) (w : Bool) (d : Reg) (a : Src) (imm : BitVec 7) : Statement (.addImm s1 gd
    w d a imm) :=
  of_s rfl rfl (by decide) (by simp) rfl fun _ => by rw [decodeSOp]; exact alu_imm _ _ _ _ _ _

theorem sub (s1 : Bool) (gd : Guard) (w : Bool) (d : Reg) (a b : Src) : Statement (.sub s1 gd w d a b) :=
  of_s rfl rfl (by decide) (by simp) rfl fun _ => by rw [decodeSOp]; exact alu_reg _ _ _ _ _ _

theorem subImm (s1 : Bool) (gd : Guard) (w : Bool) (d : Reg) (a : Src) (imm : BitVec 7) : Statement (.subImm s1 gd
    w d a imm) :=
  of_s rfl rfl (by decide) (by simp) rfl fun _ => by rw [decodeSOp]; exact alu_imm _ _ _ _ _ _

theorem and (s1 : Bool) (gd : Guard) (w : Bool) (d : Reg) (a b : Src) : Statement (.and s1 gd w d a b) :=
  of_s rfl rfl (by decide) (by simp) rfl fun _ => by rw [decodeSOp]; exact alu_reg _ _ _ _ _ _

theorem andImm (s1 : Bool) (gd : Guard) (w : Bool) (d : Reg) (a : Src) (imm : BitVec 7) : Statement (.andImm s1 gd
    w d a imm) :=
  of_s rfl rfl (by decide) (by simp) rfl fun _ => by rw [decodeSOp]; exact alu_imm _ _ _ _ _ _

theorem or (s1 : Bool) (gd : Guard) (w : Bool) (d : Reg) (a b : Src) : Statement (.or s1 gd w d a b) :=
  of_s rfl rfl (by decide) (by simp) rfl fun _ => by rw [decodeSOp]; exact alu_reg _ _ _ _ _ _

theorem orImm (s1 : Bool) (gd : Guard) (w : Bool) (d : Reg) (a : Src) (imm : BitVec 7) : Statement (.orImm s1 gd w
    d a imm) :=
  of_s rfl rfl (by decide) (by simp) rfl fun _ => by rw [decodeSOp]; exact alu_imm _ _ _ _ _ _

theorem xor (s1 : Bool) (gd : Guard) (w : Bool) (d : Reg) (a b : Src) : Statement (.xor s1 gd w d a b) :=
  of_s rfl rfl (by decide) (by simp) rfl fun _ => by rw [decodeSOp]; exact alu_reg _ _ _ _ _ _

theorem xorImm (s1 : Bool) (gd : Guard) (w : Bool) (d : Reg) (a : Src) (imm : BitVec 7) : Statement (.xorImm s1 gd
    w d a imm) :=
  of_s rfl rfl (by decide) (by simp) rfl fun _ => by rw [decodeSOp]; exact alu_imm _ _ _ _ _ _

theorem andn (s1 : Bool) (gd : Guard) (w : Bool) (d : Reg) (a b : Src) : Statement (.andn s1 gd w d a b) :=
  of_s rfl rfl (by decide) (by simp) rfl fun _ => by rw [decodeSOp]; exact alu_reg _ _ _ _ _ _

theorem andnImm (s1 : Bool) (gd : Guard) (w : Bool) (d : Reg) (a : Src) (imm : BitVec 7) : Statement (.andnImm s1
    gd w d a imm) :=
  of_s rfl rfl (by decide) (by simp) rfl fun _ => by rw [decodeSOp]; exact alu_imm _ _ _ _ _ _

theorem min (s1 : Bool) (gd : Guard) (w : Bool) (d : Reg) (a b : Src) : Statement (.min s1 gd w d a b) :=
  of_s rfl rfl (by decide) (by simp) rfl fun _ => by rw [decodeSOp]; exact alu_reg _ _ _ _ _ _

theorem minImm (s1 : Bool) (gd : Guard) (w : Bool) (d : Reg) (a : Src) (imm : BitVec 7) : Statement (.minImm s1 gd
    w d a imm) :=
  of_s rfl rfl (by decide) (by simp) rfl fun _ => by rw [decodeSOp]; exact alu_imm _ _ _ _ _ _

theorem max (s1 : Bool) (gd : Guard) (w : Bool) (d : Reg) (a b : Src) : Statement (.max s1 gd w d a b) :=
  of_s rfl rfl (by decide) (by simp) rfl fun _ => by rw [decodeSOp]; exact alu_reg _ _ _ _ _ _

theorem maxImm (s1 : Bool) (gd : Guard) (w : Bool) (d : Reg) (a : Src) (imm : BitVec 7) : Statement (.maxImm s1 gd
    w d a imm) :=
  of_s rfl rfl (by decide) (by simp) rfl fun _ => by rw [decodeSOp]; exact alu_imm _ _ _ _ _ _

theorem minu (s1 : Bool) (gd : Guard) (w : Bool) (d : Reg) (a b : Src) : Statement (.minu s1 gd w d a b) :=
  of_s rfl rfl (by decide) (by simp) rfl fun _ => by rw [decodeSOp]; exact alu_reg _ _ _ _ _ _

theorem minuImm (s1 : Bool) (gd : Guard) (w : Bool) (d : Reg) (a : Src) (imm : BitVec 7) : Statement (.minuImm s1
    gd w d a imm) :=
  of_s rfl rfl (by decide) (by simp) rfl fun _ => by rw [decodeSOp]; exact alu_imm _ _ _ _ _ _

theorem maxu (s1 : Bool) (gd : Guard) (w : Bool) (d : Reg) (a b : Src) : Statement (.maxu s1 gd w d a b) :=
  of_s rfl rfl (by decide) (by simp) rfl fun _ => by rw [decodeSOp]; exact alu_reg _ _ _ _ _ _

theorem maxuImm (s1 : Bool) (gd : Guard) (w : Bool) (d : Reg) (a : Src) (imm : BitVec 7) : Statement (.maxuImm s1
    gd w d a imm) :=
  of_s rfl rfl (by decide) (by simp) rfl fun _ => by rw [decodeSOp]; exact alu_imm _ _ _ _ _ _

theorem clz (s1 : Bool) (gd : Guard) (w : Bool) (d : Reg) (a : Src) : Statement (.clz s1 gd w d a) :=
  of_s rfl rfl (by decide) (by simp) rfl fun _ => by simp [decodeSOp, decUn, unpack_pack]

theorem popc (s1 : Bool) (gd : Guard) (w : Bool) (d : Reg) (a : Src) : Statement (.popc s1 gd w d a) :=
  of_s rfl rfl (by decide) (by simp) rfl fun _ => by simp [decodeSOp, decUn, unpack_pack]

theorem cmpeq (s1 : Bool) (gd : Guard) (w : Bool) (pd : Fin 8) (a b : Src) : Statement (.cmpeq s1 gd w pd a b) :=
  of_s rfl rfl (by decide) (by simp) rfl fun _ => by rw [decodeSOp]; exact cmp_reg _ _ _ _ _ _

theorem cmpeqImm (s1 : Bool) (gd : Guard) (w : Bool) (pd : Fin 8) (a : Src) (imm : BitVec 7) : Statement
    (.cmpeqImm s1 gd w pd a imm) :=
  of_s rfl rfl (by decide) (by simp) rfl fun _ => by rw [decodeSOp]; exact cmp_imm _ _ _ _ _ _

theorem cmpne (s1 : Bool) (gd : Guard) (w : Bool) (pd : Fin 8) (a b : Src) : Statement (.cmpne s1 gd w pd a b) :=
  of_s rfl rfl (by decide) (by simp) rfl fun _ => by rw [decodeSOp]; exact cmp_reg _ _ _ _ _ _

theorem cmpneImm (s1 : Bool) (gd : Guard) (w : Bool) (pd : Fin 8) (a : Src) (imm : BitVec 7) : Statement
    (.cmpneImm s1 gd w pd a imm) :=
  of_s rfl rfl (by decide) (by simp) rfl fun _ => by rw [decodeSOp]; exact cmp_imm _ _ _ _ _ _

theorem cmplt (s1 : Bool) (gd : Guard) (w : Bool) (pd : Fin 8) (a b : Src) : Statement (.cmplt s1 gd w pd a b) :=
  of_s rfl rfl (by decide) (by simp) rfl fun _ => by rw [decodeSOp]; exact cmp_reg _ _ _ _ _ _

theorem cmpltImm (s1 : Bool) (gd : Guard) (w : Bool) (pd : Fin 8) (a : Src) (imm : BitVec 7) : Statement
    (.cmpltImm s1 gd w pd a imm) :=
  of_s rfl rfl (by decide) (by simp) rfl fun _ => by rw [decodeSOp]; exact cmp_imm _ _ _ _ _ _

theorem cmple (s1 : Bool) (gd : Guard) (w : Bool) (pd : Fin 8) (a b : Src) : Statement (.cmple s1 gd w pd a b) :=
  of_s rfl rfl (by decide) (by simp) rfl fun _ => by rw [decodeSOp]; exact cmp_reg _ _ _ _ _ _

theorem cmpleImm (s1 : Bool) (gd : Guard) (w : Bool) (pd : Fin 8) (a : Src) (imm : BitVec 7) : Statement
    (.cmpleImm s1 gd w pd a imm) :=
  of_s rfl rfl (by decide) (by simp) rfl fun _ => by rw [decodeSOp]; exact cmp_imm _ _ _ _ _ _

theorem cmpltu (s1 : Bool) (gd : Guard) (w : Bool) (pd : Fin 8) (a b : Src) : Statement (.cmpltu s1 gd w pd a b) :=
  of_s rfl rfl (by decide) (by simp) rfl fun _ => by rw [decodeSOp]; exact cmp_reg _ _ _ _ _ _

theorem cmpltuImm (s1 : Bool) (gd : Guard) (w : Bool) (pd : Fin 8) (a : Src) (imm : BitVec 7) : Statement
    (.cmpltuImm s1 gd w pd a imm) :=
  of_s rfl rfl (by decide) (by simp) rfl fun _ => by rw [decodeSOp]; exact cmp_imm _ _ _ _ _ _

theorem cmpleu (s1 : Bool) (gd : Guard) (w : Bool) (pd : Fin 8) (a b : Src) : Statement (.cmpleu s1 gd w pd a b) :=
  of_s rfl rfl (by decide) (by simp) rfl fun _ => by rw [decodeSOp]; exact cmp_reg _ _ _ _ _ _

theorem cmpleuImm (s1 : Bool) (gd : Guard) (w : Bool) (pd : Fin 8) (a : Src) (imm : BitVec 7) : Statement
    (.cmpleuImm s1 gd w pd a imm) :=
  of_s rfl rfl (by decide) (by simp) rfl fun _ => by rw [decodeSOp]; exact cmp_imm _ _ _ _ _ _

theorem div (s1 : Bool) (gd : Guard) (w : Bool) (d : Fin 32) (a b : Src) : Statement (.div s1 gd w d a b) :=
  of_s rfl rfl (by decide) (by simp) rfl fun _ => by rw [decodeSOp]; exact div_reg _ _ _ _ _ _

theorem divImm (s1 : Bool) (gd : Guard) (w : Bool) (d : Fin 32) (a : Src) (imm : BitVec 7) : Statement (.divImm s1
    gd w d a imm) :=
  of_s rfl rfl (by decide) (by simp) rfl fun _ => by rw [decodeSOp]; exact div_imm _ _ _ _ _ _

theorem divu (s1 : Bool) (gd : Guard) (w : Bool) (d : Fin 32) (a b : Src) : Statement (.divu s1 gd w d a b) :=
  of_s rfl rfl (by decide) (by simp) rfl fun _ => by rw [decodeSOp]; exact div_reg _ _ _ _ _ _

theorem divuImm (s1 : Bool) (gd : Guard) (w : Bool) (d : Fin 32) (a : Src) (imm : BitVec 7) : Statement (.divuImm
    s1 gd w d a imm) :=
  of_s rfl rfl (by decide) (by simp) rfl fun _ => by rw [decodeSOp]; exact div_imm _ _ _ _ _ _

theorem rem (s1 : Bool) (gd : Guard) (w : Bool) (d : Fin 32) (a b : Src) : Statement (.rem s1 gd w d a b) :=
  of_s rfl rfl (by decide) (by simp) rfl fun _ => by rw [decodeSOp]; exact div_reg _ _ _ _ _ _

theorem remImm (s1 : Bool) (gd : Guard) (w : Bool) (d : Fin 32) (a : Src) (imm : BitVec 7) : Statement (.remImm s1
    gd w d a imm) :=
  of_s rfl rfl (by decide) (by simp) rfl fun _ => by rw [decodeSOp]; exact div_imm _ _ _ _ _ _

theorem remu (s1 : Bool) (gd : Guard) (w : Bool) (d : Fin 32) (a b : Src) : Statement (.remu s1 gd w d a b) :=
  of_s rfl rfl (by decide) (by simp) rfl fun _ => by rw [decodeSOp]; exact div_reg _ _ _ _ _ _

theorem remuImm (s1 : Bool) (gd : Guard) (w : Bool) (d : Fin 32) (a : Src) (imm : BitVec 7) : Statement (.remuImm
    s1 gd w d a imm) :=
  of_s rfl rfl (by decide) (by simp) rfl fun _ => by rw [decodeSOp]; exact div_imm _ _ _ _ _ _

theorem fabs (s1 : Bool) (gd : Guard) (d : Reg) (a : Src) : Statement (.fabs s1 gd d a) :=
  of_s rfl rfl (by decide) (by simp) rfl fun _ => by simp [decodeSOp, decF1, unpack_pack]

theorem fneg (s1 : Bool) (gd : Guard) (d : Reg) (a : Src) : Statement (.fneg s1 gd d a) :=
  of_s rfl rfl (by decide) (by simp) rfl fun _ => by simp [decodeSOp, decF1, unpack_pack]

theorem fadd (s1 : Bool) (gd : Guard) (d : Reg) (a b : Src) : Statement (.fadd s1 gd d a b) :=
  of_s rfl rfl (by decide) (by simp) rfl fun _ => by simp [decodeSOp, decF2, unpack_pack]

theorem fsub (s1 : Bool) (gd : Guard) (d : Reg) (a b : Src) : Statement (.fsub s1 gd d a b) :=
  of_s rfl rfl (by decide) (by simp) rfl fun _ => by simp [decodeSOp, decF2, unpack_pack]

theorem fmul (s1 : Bool) (gd : Guard) (d : Reg) (a b : Src) : Statement (.fmul s1 gd d a b) :=
  of_s rfl rfl (by decide) (by simp) rfl fun _ => by simp [decodeSOp, decF2, unpack_pack]

theorem fmin (s1 : Bool) (gd : Guard) (d : Reg) (a b : Src) : Statement (.fmin s1 gd d a b) :=
  of_s rfl rfl (by decide) (by simp) rfl fun _ => by simp [decodeSOp, decF2, unpack_pack]

theorem fmax (s1 : Bool) (gd : Guard) (d : Reg) (a b : Src) : Statement (.fmax s1 gd d a b) :=
  of_s rfl rfl (by decide) (by simp) rfl fun _ => by simp [decodeSOp, decF2, unpack_pack]

theorem fcmpeq (s1 : Bool) (gd : Guard) (pd : Fin 8) (a b : Src) : Statement (.fcmpeq s1 gd pd a b) :=
  of_s rfl rfl (by decide) (by simp) rfl fun _ => by simp [decodeSOp, decFcmp, unpack_pack]

theorem fcmplt (s1 : Bool) (gd : Guard) (pd : Fin 8) (a b : Src) : Statement (.fcmplt s1 gd pd a b) :=
  of_s rfl rfl (by decide) (by simp) rfl fun _ => by simp [decodeSOp, decFcmp, unpack_pack]

theorem fcmple (s1 : Bool) (gd : Guard) (pd : Fin 8) (a b : Src) : Statement (.fcmple s1 gd pd a b) :=
  of_s rfl rfl (by decide) (by simp) rfl fun _ => by simp [decodeSOp, decFcmp, unpack_pack]

theorem fcmpun (s1 : Bool) (gd : Guard) (pd : Fin 8) (a b : Src) : Statement (.fcmpun s1 gd pd a b) :=
  of_s rfl rfl (by decide) (by simp) rfl fun _ => by simp [decodeSOp, decFcmp, unpack_pack]

theorem fcvti (s1 : Bool) (gd : Guard) (d : Reg) (a : Src) (rm : Rm) : Statement (.fcvti s1 gd d a rm) :=
  of_s rfl rfl (by decide) (by simp) rfl fun h => by
    have e : pack [(1, 0), (1, false.toNat), (6, d.code), (7, a.code), (7, rm.code)] =
        pack [(1, 0), (1, false.toNat), (6, d.code), (7, a.code), (5, 0), (2, rm.code)] := by simp [pack, fieldsWidth]
    simp [Instr.wf] at h
    rw [e]
    simp [decodeSOp, decFcvt, unpack_pack, keepIf, h]

theorem icvtf (s1 : Bool) (gd : Guard) (d : Reg) (a : Src) (rm : Rm) : Statement (.icvtf s1 gd d a rm) :=
  of_s rfl rfl (by decide) (by simp) rfl fun h => by
    have e : pack [(1, 0), (1, false.toNat), (6, d.code), (7, a.code), (7, rm.code)] =
        pack [(1, 0), (1, false.toNat), (6, d.code), (7, a.code), (5, 0), (2, rm.code)] := by simp [pack, fieldsWidth]
    simp [Instr.wf] at h
    rw [e]
    simp [decodeSOp, decFcvt, unpack_pack, keepIf, h]

theorem fdiv (s1 : Bool) (gd : Guard) (d : Fin 32) (a b : Src) : Statement (.fdiv s1 gd d a b) :=
  of_s rfl rfl (by decide) (by simp) rfl fun _ => by simp [decodeSOp, decF2g, unpack_pack]

theorem fsqrt (s1 : Bool) (gd : Guard) (d : Fin 32) (a : Src) : Statement (.fsqrt s1 gd d a) :=
  of_s rfl rfl (by decide) (by simp) rfl fun _ => by simp [decodeSOp, decF1g, unpack_pack]

theorem fma (s1 : Bool) (gd : Guard) (d : Fin 32) (a b : Src) : Statement (.fma s1 gd d a b) :=
  of_s rfl rfl (by decide) (by simp) rfl fun _ => by simp [decodeSOp, decF2g, unpack_pack]

theorem movw (s1 : Bool) (gd : Guard) (hw : Fin 4) (z : Bool) (d : Fin 32) (imm : BitVec 16) : Statement (.movw s1
    gd hw z d imm) := by
  have h1 : decodeSOp s1 gd (0x3C + hw.val) = decMovw (.movw s1 gd hw) := by
    funext body
    match hw with
    | 0 => show decodeSOp s1 gd 0x3C body = _; rw [decodeSOp]
    | 1 => show decodeSOp s1 gd 0x3D body = _; rw [decodeSOp]
    | 2 => show decodeSOp s1 gd 0x3E body = _; rw [decodeSOp]
    | 3 => show decodeSOp s1 gd 0x3F body = _; rw [decodeSOp]
  exact of_s rfl rfl (Nat.add_lt_add_left hw.isLt 0x3C) (by simp) rfl fun _ => by simp [h1, decMovw, unpack_pack]

theorem mul (s1 : Bool) (gd : Guard) (w : Bool) (d : Reg) (a b : Src) : Statement (.mul s1 gd w d a b) :=
  of_s rfl rfl (by decide) (by simp) rfl fun _ => by rw [decodeSOp]; exact alu_reg _ _ _ _ _ _

theorem mulImm (s1 : Bool) (gd : Guard) (w : Bool) (d : Reg) (a : Src) (imm : BitVec 7) : Statement (.mulImm s1 gd
    w d a imm) :=
  of_s rfl rfl (by decide) (by simp) rfl fun _ => by rw [decodeSOp]; exact alu_imm _ _ _ _ _ _

theorem mulh (s1 : Bool) (gd : Guard) (w : Bool) (d : Reg) (a b : Src) : Statement (.mulh s1 gd w d a b) :=
  of_s rfl rfl (by decide) (by simp) rfl fun _ => by rw [decodeSOp]; exact alu_reg _ _ _ _ _ _

theorem mulhImm (s1 : Bool) (gd : Guard) (w : Bool) (d : Reg) (a : Src) (imm : BitVec 7) : Statement (.mulhImm s1
    gd w d a imm) :=
  of_s rfl rfl (by decide) (by simp) rfl fun _ => by rw [decodeSOp]; exact alu_imm _ _ _ _ _ _

theorem mulhu (s1 : Bool) (gd : Guard) (w : Bool) (d : Reg) (a b : Src) : Statement (.mulhu s1 gd w d a b) :=
  of_s rfl rfl (by decide) (by simp) rfl fun _ => by rw [decodeSOp]; exact alu_reg _ _ _ _ _ _

theorem mulhuImm (s1 : Bool) (gd : Guard) (w : Bool) (d : Reg) (a : Src) (imm : BitVec 7) : Statement (.mulhuImm
    s1 gd w d a imm) :=
  of_s rfl rfl (by decide) (by simp) rfl fun _ => by rw [decodeSOp]; exact alu_imm _ _ _ _ _ _

theorem shl (s1 : Bool) (gd : Guard) (w : Bool) (d : Reg) (a b : Src) : Statement (.shl s1 gd w d a b) :=
  of_s rfl rfl (by decide) (by simp) rfl fun _ => by rw [decodeSOp]; exact shift_reg _ _ _ _ _ _

theorem shlImm (s1 : Bool) (gd : Guard) (w : Bool) (d : Reg) (a : Src) (c : Fin 64) : Statement (.shlImm s1 gd w d
    a c) :=
  of_s rfl rfl (by decide) (by simp) rfl fun h => by rw [decodeSOp]; exact shift_imm _ _ _ _ _ _ h

theorem shr (s1 : Bool) (gd : Guard) (w : Bool) (d : Reg) (a b : Src) : Statement (.shr s1 gd w d a b) :=
  of_s rfl rfl (by decide) (by simp) rfl fun _ => by rw [decodeSOp]; exact shift_reg _ _ _ _ _ _

theorem shrImm (s1 : Bool) (gd : Guard) (w : Bool) (d : Reg) (a : Src) (c : Fin 64) : Statement (.shrImm s1 gd w d
    a c) :=
  of_s rfl rfl (by decide) (by simp) rfl fun h => by rw [decodeSOp]; exact shift_imm _ _ _ _ _ _ h

theorem sra (s1 : Bool) (gd : Guard) (w : Bool) (d : Reg) (a b : Src) : Statement (.sra s1 gd w d a b) :=
  of_s rfl rfl (by decide) (by simp) rfl fun _ => by rw [decodeSOp]; exact shift_reg _ _ _ _ _ _

theorem sraImm (s1 : Bool) (gd : Guard) (w : Bool) (d : Reg) (a : Src) (c : Fin 64) : Statement (.sraImm s1 gd w d
    a c) :=
  of_s rfl rfl (by decide) (by simp) rfl fun h => by rw [decodeSOp]; exact shift_imm _ _ _ _ _ _ h

theorem rotr (s1 : Bool) (gd : Guard) (w : Bool) (d : Reg) (a b : Src) : Statement (.rotr s1 gd w d a b) :=
  of_s rfl rfl (by decide) (by simp) rfl fun _ => by rw [decodeSOp]; exact shift_reg _ _ _ _ _ _

theorem rotrImm (s1 : Bool) (gd : Guard) (w : Bool) (d : Reg) (a : Src) (c : Fin 64) : Statement (.rotrImm s1 gd w
    d a c) :=
  of_s rfl rfl (by decide) (by simp) rfl fun h => by rw [decodeSOp]; exact shift_imm _ _ _ _ _ _ h

theorem bara (gd : Guard) (sc : Fin 8) (bar : Fin 1024) : Statement (.bara gd sc bar) :=
  of_br rfl rfl (by decide) (by simp) rfl fun h => by
    simp [Instr.wf] at h
    simp [decodeBROp, decodeBROp.decBar, unpack_pack, keepIf, h]

theorem barw (gd : Guard) (sc : Fin 8) (bar : Fin 1024) : Statement (.barw gd sc bar) :=
  of_br rfl rfl (by decide) (by simp) rfl fun h => by
    simp [Instr.wf] at h
    simp [decodeBROp, decodeBROp.decBar, unpack_pack, keepIf, h]

theorem barp (gd : Guard) (sc : Fin 8) (bar : Fin 1024) (pd : Fin 8) : Statement (.barp gd sc bar pd) :=
  of_br rfl rfl (by decide) (by simp) rfl fun h => by
    simp [Instr.wf] at h
    simp [decodeBROp, unpack_pack, keepIf, h]

theorem bra (gd : Guard) (off : BitVec 23) : Statement (.bra gd off) :=
  of_br rfl rfl (by decide) (by simp) rfl fun _ => by simp [decodeBROp, pack_one]

theorem bri (gd : Guard) (a : GSrc) : Statement (.bri gd a) :=
  of_br rfl rfl (by decide) (by simp) rfl fun _ => by simp [decodeBROp, unpack_pack]

theorem call (gd : Guard) (off : BitVec 23) : Statement (.call gd off) :=
  of_br rfl rfl (by decide) (by simp) rfl fun _ => by simp [decodeBROp, pack_one]

theorem breakI (gd : Guard) : Statement (.breakI gd) :=
  of_br rfl rfl (by decide) (by simp) rfl fun _ => by simp [decodeBROp, pack_one]

theorem trapi (gd : Guard) (imm : BitVec 16) : Statement (.trapi gd imm) :=
  of_br rfl rfl (by decide) (by simp) rfl fun _ => by simp [decodeBROp, unpack_pack]

theorem ctxfrz (gd : Guard) (a : GSrc) : Statement (.ctxfrz gd a) :=
  of_br rfl rfl (by decide) (by simp) rfl fun _ => by simp [decodeBROp, decodeBROp.decA16, unpack_pack]

theorem ctxres (gd : Guard) (a : GSrc) : Statement (.ctxres gd a) :=
  of_br rfl rfl (by decide) (by simp) rfl fun _ => by simp [decodeBROp, decodeBROp.decA16, unpack_pack]

theorem drain (gd : Guard) : Statement (.drain gd) :=
  of_br rfl rfl (by decide) (by simp) rfl fun _ => by simp [decodeBROp, pack_one]

theorem eret (gd : Guard) : Statement (.eret gd) :=
  of_br rfl rfl (by decide) (by simp) rfl fun _ => by simp [decodeBROp, pack_one]

theorem fence (gd : Guard) (sc : Fin 8) : Statement (.fence gd sc) :=
  of_br rfl rfl (by decide) (by simp) rfl fun _ => by simp [decodeBROp, unpack_pack]

theorem lnstart (gd : Guard) (a b : GSrc) : Statement (.lnstart gd a b) :=
  of_br rfl rfl (by decide) (by simp) rfl fun _ => by simp [decodeBROp, unpack_pack]

theorem loop (gd : Guard) (len : Fin 256) (a : GSrc) : Statement (.loop gd len a) := by
  have h1 : pack [(7, a.code), (7, 0)] < 16384 := pack_fits (by simp) (by simp [fieldsWidth])
  refine of_br rfl rfl (by decide) ⟨by simp, by simp, h1, trivial⟩ (by simp [fieldsWidth]) fun _ => ?_
  rw [decodeBROp, unpack_pack (ws := [8, 1, 14]) (fs := [(8, len.val), (1, 0), (14, pack [(7, a.code), (7, 0)])]) rfl
    ⟨by simp, by simp, h1, trivial⟩]
  simp [unpack_pack]

theorem loopImm (gd : Guard) (len : Fin 256) (count : Fin 16384) : Statement (.loopImm gd len count) :=
  of_br rfl rfl (by decide) (by simp) rfl fun _ => by simp [decodeBROp, unpack_pack]

theorem loopn (gd : Guard) (st : Fin 4) (len : Fin 1024) (n : Fin 8) (ga gb : Fin 32) : Statement (.loopn gd st
    len n ga gb) := by
  have h1 : decodeBROp gd (0x04 + st.val) = decodeBROp.decLoopn gd st := by
    funext body
    match st with
    | 0 => show decodeBROp gd 4 body = _; rw [decodeBROp]
    | 1 => show decodeBROp gd 5 body = _; rw [decodeBROp]
    | 2 => show decodeBROp gd 6 body = _; rw [decodeBROp]
    | 3 => show decodeBROp gd 7 body = _; rw [decodeBROp]
  exact of_br rfl rfl (Nat.lt_trans (Nat.add_lt_add_left st.isLt 4) (by decide)) (by simp) rfl fun _ => by
    simp [h1, decodeBROp.decLoopn, unpack_pack]

theorem nsub (gd : Guard) (a : GSrc) : Statement (.nsub gd a) :=
  of_br rfl rfl (by decide) (by simp) rfl fun _ => by simp [decodeBROp, decodeBROp.decA16, unpack_pack]

theorem retire (gd : Guard) : Statement (.retire gd) :=
  of_br rfl rfl (by decide) (by simp) rfl fun _ => by simp [decodeBROp, pack_one]

theorem tblrd (gd : Guard) (d : Fin 32) (tbl : Fin 16) (a : GSrc) : Statement (.tblrd gd d tbl a) :=
  of_br rfl rfl (by decide) (by simp) rfl fun h => by
    simp [Instr.wf] at h
    simp [decodeBROp, unpack_pack, keepIf, h]

theorem tblwr (gd : Guard) (tbl : Fin 16) (a b : GSrc) : Statement (.tblwr gd tbl a b) :=
  of_br rfl rfl (by decide) (by simp) rfl fun h => by
    simp [Instr.wf] at h
    simp [decodeBROp, unpack_pack, keepIf, h]

theorem xrd (gd : Guard) (d : Fin 32) (xn : SysReg) : Statement (.xrd gd d xn) :=
  of_br rfl rfl (by decide) (by simp) rfl fun _ => by simp [decodeBROp, unpack_pack]

theorem xwr (gd : Guard) (a : GSrc) (xn : SysReg) : Statement (.xwr gd a xn) :=
  of_br rfl rfl (by decide) (by simp) rfl fun _ => by simp [decodeBROp, unpack_pack]

theorem ld (gd : Guard) (sz : Fin 4) (d : Fin 32) (a : GSrc) (off : BitVec 9) : Statement (.ld gd sz d a off) :=
  of_ls rfl rfl (by decide) (by simp) rfl fun _ => by simp [decodeLSOp, decodeLSOp.decLoad, unpack_pack]

theorem ldsx (gd : Guard) (sz : Fin 4) (d : Fin 32) (a : GSrc) (off : BitVec 9) : Statement (.ldsx gd sz d a off) :=
  of_ls rfl rfl (by decide) (by simp) rfl fun _ => by simp [decodeLSOp, decodeLSOp.decLoad, unpack_pack]

theorem st (gd : Guard) (sz : Fin 4) (v : Src) (a : GSrc) (off : BitVec 8) : Statement (.st gd sz v a off) :=
  of_ls rfl rfl (by decide) (by simp) rfl fun _ => by simp [decodeLSOp, decodeLSOp.decStore, unpack_pack]

theorem tmcst (gd : Guard) (sz : Fin 4) (v : Src) (a : GSrc) (off : BitVec 8) : Statement (.tmcst gd sz v a off) :=
  of_ls rfl rfl (by decide) (by simp) rfl fun _ => by simp [decodeLSOp, decodeLSOp.decStore, unpack_pack]

theorem aadd (gd : Guard) (sz : Fin 4) (d : Fin 32) (a : GSrc) (v : Src) : Statement (.aadd gd sz d a v) :=
  of_ls rfl rfl (by decide) (by simp) rfl fun h => by
    simp [Instr.wf] at h
    simp [decodeLSOp, decodeLSOp.decAtom, unpack_pack, keepIf, h]

theorem amax (gd : Guard) (sz : Fin 4) (d : Fin 32) (a : GSrc) (v : Src) : Statement (.amax gd sz d a v) :=
  of_ls rfl rfl (by decide) (by simp) rfl fun h => by
    simp [Instr.wf] at h
    simp [decodeLSOp, decodeLSOp.decAtom, unpack_pack, keepIf, h]

theorem amin (gd : Guard) (sz : Fin 4) (d : Fin 32) (a : GSrc) (v : Src) : Statement (.amin gd sz d a v) :=
  of_ls rfl rfl (by decide) (by simp) rfl fun h => by
    simp [Instr.wf] at h
    simp [decodeLSOp, decodeLSOp.decAtom, unpack_pack, keepIf, h]

theorem acas (gd : Guard) (sz : Fin 4) (d : Fin 32) (a : GSrc) (v : Src) : Statement (.acas gd sz d a v) :=
  of_ls rfl rfl (by decide) (by simp) rfl fun h => by
    simp [Instr.wf] at h
    simp [decodeLSOp, decodeLSOp.decAtom, unpack_pack, keepIf, h]

theorem aswp (gd : Guard) (sz : Fin 4) (d : Fin 32) (a : GSrc) (v : Src) : Statement (.aswp gd sz d a v) :=
  of_ls rfl rfl (by decide) (by simp) rfl fun h => by
    simp [Instr.wf] at h
    simp [decodeLSOp, decodeLSOp.decAtom, unpack_pack, keepIf, h]

theorem pAnd (gd : Guard) (k : Bool) (d a b : Fin 8) : Statement (.pAnd gd k d a b) :=
  of_fields rfl rfl fun _ => by simp [decodeSlot, decodeP, unpack_pack]

theorem pOr (gd : Guard) (k : Bool) (d a b : Fin 8) : Statement (.pOr gd k d a b) :=
  of_fields rfl rfl fun _ => by simp [decodeSlot, decodeP, unpack_pack]

theorem pXor (gd : Guard) (k : Bool) (d a b : Fin 8) : Statement (.pXor gd k d a b) :=
  of_fields rfl rfl fun _ => by simp [decodeSlot, decodeP, unpack_pack]

theorem pAndn (gd : Guard) (k : Bool) (d a b : Fin 8) : Statement (.pAndn gd k d a b) :=
  of_fields rfl rfl fun _ => by simp [decodeSlot, decodeP, unpack_pack]

theorem vcmp (a : GSrc) (hb : Fin 16) : Statement (.vcmp a hb) :=
  of_fields rfl rfl fun _ => by simp [decodeSlot, decodeV, unpack_pack]

theorem aqpush (gd : Guard) (sz16 : Bool) (a : Src) : Statement (.aqpush gd sz16 a) :=
  of_x rfl rfl (by decide) (by simp) rfl fun _ => by simp [decodeXOp, unpack_pack]

theorem dqpop (gd : Guard) (d : Reg) : Statement (.dqpop gd d) :=
  of_x rfl rfl (by decide) (by simp) rfl fun h => by
    cases d with
    | h i => simp [Instr.wf] at h
    | g i => simp [decodeXOp, unpack_pack]; clear h; revert i; decide
    | q i => simp [decodeXOp, unpack_pack]; clear h; revert i; decide

theorem dqpopt (gd : Guard) (t : Fin 32) (row : Fin 64) (seg : Fin 16) : Statement (.dqpopt gd t row seg) :=
  of_x rfl rfl (by decide) (by simp) rfl fun h => by
    simp [Instr.wf] at h
    simp [decodeXOp, unpack_pack, keepIf, h]

theorem aqstat (gd : Guard) (d : Fin 32) : Statement (.aqstat gd d) :=
  of_x rfl rfl (by decide) (by simp) rfl fun _ => by simp [decodeXOp, unpack_pack]

theorem kset (gd : Guard) (side : Bool) (lat : Fin 16) (a : Src) : Statement (.kset gd side lat a) :=
  of_k rfl rfl (by decide) (by simp) rfl fun _ => by simp [decodeKOp, unpack_pack]

theorem kseti (gd : Guard) (side : Bool) (lat : Fin 16) (imm : BitVec 8) : Statement (.kseti gd side lat imm) :=
  of_k rfl rfl (by decide) (by simp) rfl fun _ => by simp [decodeKOp, unpack_pack]

theorem kclr (gd : Guard) (side : Bool) : Statement (.kclr gd side) :=
  of_k rfl rfl (by decide) (by simp) rfl fun _ => by simp [decodeKOp, unpack_pack]

theorem xcvt (gd : Guard) (dt st : Fin 32) (row cnt : Fin 64) (fs fd : Fmt) (rm : Rm) : Statement (.xcvt gd dt st
    row cnt fs fd rm) :=
  of_fields rfl rfl fun _ => by simp [decodeSlot, decodeT, unpack_pack]

theorem xexp (gd : Guard) (dt st : Fin 32) (row cnt : Fin 64) (fs fd : Fmt) : Statement (.xexp gd dt st row cnt fs
    fd) :=
  of_fields rfl rfl fun _ => by simp [decodeSlot, decodeT, keepIf, unpack_pack]

theorem xtbl (gd : Guard) (st : Fin 32) (row : Fin 64) : Statement (.xtbl gd st row) :=
  of_fields rfl rfl fun _ => by simp [decodeSlot, decodeT, keepIf, unpack_pack]

theorem xtrn (gd : Guard) (dt st : Fin 32) (row cnt : Fin 64) (fs fd : Fmt) : Statement (.xtrn gd dt st row cnt fs
    fd) :=
  of_fields rfl rfl fun _ => by simp [decodeSlot, decodeT, keepIf, unpack_pack]

theorem xhad (gd : Guard) (dt st : Fin 32) (row cnt : Fin 64) (n : Fin 4) (seed : Fin 32) (fd : Fmt) : Statement
    (.xhad gd dt st row cnt n seed fd) :=
  have h1 : n.val * 32 + seed.val < 256 := by omega
  have h2 : (n.val * 32 + seed.val) / 32 = n.val := by omega
  have h3 : Fin.ofNat 32 (n.val * 32 + seed.val) = seed := Fin.ext (by simp [Fin.ofNat])
  of_fields rfl rfl fun _ => by simp [decodeSlot, decodeT, unpack_pack, keepIf, h1, h2, h3] <;> exact h3

theorem mldb (gd : Guard) (bk : Fin 4) (bt : Fin 32) (fb : Fmt) (pb : Option (Fin 16)) : Statement (.mldb gd bk bt
    fb pb) :=
  of_m rfl rfl (by decide) (by simp) rfl fun _ => by simp [decodeMOp, unpack_pack]

theorem mmul (gd : Guard) (bk : Fin 4) (at_ : Fin 32) (arow acnt : Fin 64) (fa : Fmt) (acc : Bool) (zt : Fin 32)
    (zf : Zf) (pa pz : Option (Fin 16)) : Statement (.mmul gd bk at_ arow acnt fa acc zt zf pa pz) :=
  of_m rfl rfl (by decide) (by simp) rfl fun h => by
    simp [decodeMOp, unpack_pack, keepIf]
    rintro rfl
    simp [Instr.wf, accForm] at h
    obtain ⟨⟨rfl, rfl⟩, rfl⟩ := h
    exact ⟨rfl, rfl, rfl⟩

theorem mmuls (gd : Guard) (bk : Fin 4) (at_ : Fin 32) (arow acnt : Fin 64) (fa : Fmt) (acc : Bool) (zt : Fin 32)
    (zf : Zf) (pa pz : Option (Fin 16)) (st : Fin 32) (srow : Fin 64) : Statement (.mmuls gd bk at_ arow acnt fa acc
    zt zf pa pz st srow) :=
  of_m rfl rfl (by decide) (by simp) rfl fun h => by
    simp [decodeMOp, unpack_pack, keepIf]
    rintro rfl
    simp [Instr.wf, accForm] at h
    obtain ⟨⟨rfl, rfl⟩, rfl⟩ := h
    exact ⟨rfl, rfl, rfl⟩

theorem tdaddr (gd : Guard) (y0 cnt : Fin 64) (t : Fin 32) (row : Fin 64) (a b : GSrc) : Statement (.tdaddr gd y0
    cnt t row a b) :=
  of_m rfl rfl (by decide) (by simp) rfl fun _ => by simp [decodeMOp, unpack_pack]

theorem tdaddrAq (gd : Guard) (y0 cnt : Fin 64) (a b : GSrc) : Statement (.tdaddrAq gd y0 cnt a b) :=
  of_m rfl rfl (by decide) (by simp) rfl fun _ => by simp [decodeMOp, keepIf, unpack_pack]

theorem tdesc (gd : Guard) (y0 cnt : Fin 64) (t : Fin 32) (row : Fin 64) (lv : Fin 32) : Statement (.tdesc gd y0
    cnt t row lv) :=
  of_m rfl rfl (by decide) (by simp) rfl fun _ => by simp [decodeMOp, unpack_pack]

theorem tdleaf (gd : Guard) (y0 cnt : Fin 64) (t : Fin 32) (row : Fin 64) : Statement (.tdleaf gd y0 cnt t row) :=
  of_m rfl rfl (by decide) (by simp) rfl fun _ => by simp [decodeMOp, unpack_pack]

theorem tdpath (gd : Guard) (y0 cnt : Fin 64) (t : Fin 32) (row : Fin 64) : Statement (.tdpath gd y0 cnt t row) :=
  of_m rfl rfl (by decide) (by simp) rfl fun _ => by simp [decodeMOp, unpack_pack]

theorem rsum (gd : Guard) (ax : Bool) (st : Fin 32) (srow cnt : Fin 64) (dt : Fin 32) (drow : Fin 64) (fs fd :
    Fmt) (pa pz : Option (Fin 16)) (km : Fin 4) : Statement (.rsum gd ax st srow cnt dt drow fs fd pa pz km) :=
  of_fields rfl rfl fun _ => by simp [decodeSlot, decodeR, unpack_pack]

theorem rmax (gd : Guard) (ax : Bool) (st : Fin 32) (srow cnt : Fin 64) (dt : Fin 32) (drow : Fin 64) (fs fd :
    Fmt) (pa pz : Option (Fin 16)) (km : Fin 4) : Statement (.rmax gd ax st srow cnt dt drow fs fd pa pz km) :=
  of_fields rfl rfl fun _ => by simp [decodeSlot, decodeR, unpack_pack]

theorem rssq (gd : Guard) (ax : Bool) (st : Fin 32) (srow cnt : Fin 64) (dt : Fin 32) (drow : Fin 64) (fs fd :
    Fmt) (pa pz : Option (Fin 16)) (km : Fin 4) : Statement (.rssq gd ax st srow cnt dt drow fs fd pa pz km) :=
  of_fields rfl rfl fun _ => by simp [decodeSlot, decodeR, unpack_pack]

theorem rnorm (gd : Guard) (ax : Bool) (st : Fin 32) (srow cnt : Fin 64) (dt : Fin 32) (drow : Fin 64) (fs fd :
    Fmt) (pa pz : Option (Fin 16)) (km : Fin 4) : Statement (.rnorm gd ax st srow cnt dt drow fs fd pa pz km) :=
  of_fields rfl rfl fun _ => by simp [decodeSlot, decodeR, unpack_pack]

theorem rsortk (gd : Guard) (st : Fin 32) (srow cnt : Fin 64) (dt : Fin 32) (drow : Fin 64) (y0 : Fin 64) :
    Statement (.rsortk gd st srow cnt dt drow y0) :=
  of_fields rfl rfl fun _ => by simp [decodeSlot, decodeR, keepIf, unpack_pack]

theorem rcmpr (gd : Guard) (st : Fin 32) (srow cnt : Fin 64) (dt : Fin 32) (drow : Fin 64) (fs : Fmt) (sel : Fin
    32) (part : Fin 4) : Statement (.rcmpr gd st srow cnt dt drow fs sel part) :=
  of_fields rfl rfl fun _ => by simp [decodeSlot, decodeR, keepIf, unpack_pack]

theorem tld (gd : Guard) (t : Fin 32) (row cnt : Fin 64) (a : GSrc) (n : Fin 8) (bar : Fin 1024) (p : Option (Fin
    16)) (fmt : Fmt) (rm : Rm) (ps : Bool) : Statement (.tld gd t row cnt a n bar p fmt rm ps) :=
  of_c rfl rfl (by decide) (by simp) rfl fun h => by
    simp [Instr.wf] at h
    simp [decodeCOp, decCopy, unpack_pack, keepIf, h]

theorem tst (gd : Guard) (t : Fin 32) (row cnt : Fin 64) (a : GSrc) (n : Fin 8) (bar : Fin 1024) (p : Option (Fin
    16)) (fmt : Fmt) (rm : Rm) (ps : Bool) : Statement (.tst gd t row cnt a n bar p fmt rm ps) :=
  of_c rfl rfl (by decide) (by simp) rfl fun h => by
    simp [Instr.wf] at h
    simp [decodeCOp, decCopy, unpack_pack, keepIf, h]

theorem tldc (gd : Guard) (t : Fin 32) (row cnt : Fin 64) (a : GSrc) (n : Fin 8) (bar : Fin 1024) (p : Option (Fin
    16)) (fmt : Fmt) (rm : Rm) (xr : Fin 8) : Statement (.tldc gd t row cnt a n bar p fmt rm xr) :=
  of_c rfl rfl (by decide) (by simp) rfl fun h => by
    simp [Instr.wf] at h
    simp [decodeCOp, decTldc, unpack_pack, keepIf, h]

theorem twin (gd : Guard) (t : Fin 32) (row cnt : Fin 64) (a : GSrc) (n : Fin 8) (bar : Fin 1024) (p : Option (Fin
    16)) (fmt : Fmt) (rm : Rm) (ps : Bool) : Statement (.twin gd t row cnt a n bar p fmt rm ps) :=
  of_c rfl rfl (by decide) (by simp) rfl fun h => by
    simp [Instr.wf] at h
    simp [decodeCOp, decCopy, unpack_pack, keepIf, h]

theorem tgath (gd : Guard) (t : Fin 32) (row cnt : Fin 64) (a : GSrc) (it : Fin 32) (irow : Fin 64) (bar : Fin
    1024) (p : Option (Fin 16)) (ps : Bool) : Statement (.tgath gd t row cnt a it irow bar p ps) :=
  of_c rfl rfl (by decide) (by simp) rfl fun _ => by simp [decodeCOp, decGather, keepIf, unpack_pack]

theorem tgath2 (gd : Guard) (t : Fin 32) (row cnt : Fin 64) (a : GSrc) (it : Fin 32) (irow : Fin 64) (bar : Fin
    1024) (p : Option (Fin 16)) (ps : Bool) : Statement (.tgath2 gd t row cnt a it irow bar p ps) :=
  of_c rfl rfl (by decide) (by simp) rfl fun h => by
    simp [Instr.wf] at h
    simp [decodeCOp, decGather, unpack_pack, keepIf, h]

theorem tscat (gd : Guard) (t : Fin 32) (row cnt : Fin 64) (a : GSrc) (it : Fin 32) (irow : Fin 64) (bar : Fin
    1024) (p : Option (Fin 16)) (ps : Bool) : Statement (.tscat gd t row cnt a it irow bar p ps) :=
  of_c rfl rfl (by decide) (by simp) rfl fun _ => by simp [decodeCOp, decGather, keepIf, unpack_pack]

theorem tredAdd (gd : Guard) (t : Fin 32) (row cnt : Fin 64) (a : GSrc) (it : Fin 32) (irow : Fin 64) (bar : Fin
    1024) (p : Option (Fin 16)) (ps : Bool) (i32 : Bool) : Statement (.tredAdd gd t row cnt a it irow bar p ps i32) :=
  of_c rfl rfl (by decide) (by simp) rfl fun _ => by simp [decodeCOp, decGather, keepIf, unpack_pack]

theorem tredMax (gd : Guard) (t : Fin 32) (row cnt : Fin 64) (a : GSrc) (it : Fin 32) (irow : Fin 64) (bar : Fin
    1024) (p : Option (Fin 16)) (ps : Bool) (i32 : Bool) : Statement (.tredMax gd t row cnt a it irow bar p ps i32) :=
  of_c rfl rfl (by decide) (by simp) rfl fun _ => by simp [decodeCOp, decGather, keepIf, unpack_pack]

theorem nset (gd : Guard) (n l : Fin 8) (a b : GSrc) : Statement (.nset gd n l a b) :=
  of_c rfl rfl (by decide) (by simp) rfl fun h => by
    simp [Instr.wf] at h
    simp [decodeCOp, unpack_pack, keepIf, h]

theorem nclr (gd : Guard) (n : Fin 8) : Statement (.nclr gd n) :=
  of_c rfl rfl (by decide) (by simp) rfl fun _ => by simp [decodeCOp, unpack_pack]

theorem nmcSgdfade (gd : Guard) (a : GSrc) (bar : Fin 1024) : Statement (.nmcSgdfade gd a bar) :=
  of_c rfl rfl (by decide) (by simp) rfl fun _ => by simp [decodeCOp, decDesc, decAddrBar, unpack_pack]

theorem nmcFill (gd : Guard) (a : GSrc) (bar : Fin 1024) : Statement (.nmcFill gd a bar) :=
  of_c rfl rfl (by decide) (by simp) rfl fun _ => by simp [decodeCOp, decDesc, decAddrBar, unpack_pack]

theorem nmcCopy (gd : Guard) (a : GSrc) (bar : Fin 1024) : Statement (.nmcCopy gd a bar) :=
  of_c rfl rfl (by decide) (by simp) rfl fun _ => by simp [decodeCOp, decDesc, decAddrBar, unpack_pack]

theorem nmcScale (gd : Guard) (a : GSrc) (bar : Fin 1024) : Statement (.nmcScale gd a bar) :=
  of_c rfl rfl (by decide) (by simp) rfl fun _ => by simp [decodeCOp, decDesc, decAddrBar, unpack_pack]

theorem nmcAccum (gd : Guard) (a : GSrc) (bar : Fin 1024) : Statement (.nmcAccum gd a bar) :=
  of_c rfl rfl (by decide) (by simp) rfl fun _ => by simp [decodeCOp, decDesc, decAddrBar, unpack_pack]

theorem nmfence (gd : Guard) (stack : Option (Fin 16)) : Statement (.nmfence gd stack) := by
  cases stack with
  | none => exact of_c rfl rfl (by decide) (by simp) rfl fun _ => by simp [decodeCOp, unpack_pack]
  | some k => exact of_c rfl rfl (by decide) (by simp) rfl fun _ => by simp [decodeCOp, unpack_pack]

theorem lsend (gd : Guard) (port : Fin 16) (vl : Fin 4) (a : GSrc) (bar : Fin 1024) : Statement (.lsend gd port vl
    a bar) :=
  of_c rfl rfl (by decide) (by simp) rfl fun _ => by simp [decodeCOp, decodeCOp.decLink, unpack_pack]

theorem lrecv (gd : Guard) (port : Fin 16) (vl : Fin 4) (a : GSrc) (bar : Fin 1024) : Statement (.lrecv gd port vl
    a bar) :=
  of_c rfl rfl (by decide) (by simp) rfl fun _ => by simp [decodeCOp, decodeCOp.decLink, unpack_pack]

theorem lstat (gd : Guard) (d : Fin 32) (port : Fin 16) : Statement (.lstat gd d port) :=
  of_c rfl rfl (by decide) (by simp) rfl fun _ => by simp [decodeCOp, unpack_pack]

theorem imgdec (gd : Guard) (a : GSrc) (bar : Fin 1024) : Statement (.imgdec gd a bar) :=
  of_c rfl rfl (by decide) (by simp) rfl fun _ => by simp [decodeCOp, decDesc, decAddrBar, unpack_pack]

theorem slabgrow (gd : Guard) (a : GSrc) (bar : Fin 1024) : Statement (.slabgrow gd a bar) :=
  of_c rfl rfl (by decide) (by simp) rfl fun _ => by simp [decodeCOp, decDesc, decAddrBar, unpack_pack]

theorem lanternStart : Statement (.lanternStart) := of_none rfl rfl

theorem pld (sd w : Fin 16) : Statement (.pld sd w) :=
  of_micro rfl rfl (by simp [decodeMicro, packMicro, unpack_pack, keepIf])

theorem sgld (sa : Fin 16) : Statement (.sgld sa) :=
  of_micro rfl rfl (by simp [decodeMicro, packMicro, unpack_pack])

theorem glim (sd sa sb : Fin 16) : Statement (.glim sd sa sb) :=
  of_micro rfl rfl (by simp [decodeMicro, packMicro, unpack_pack])

theorem kgth (sa sb : Fin 16) : Statement (.kgth sa sb) :=
  of_micro rfl rfl (by simp [decodeMicro, packMicro, unpack_pack])

theorem vgth (sa sb : Fin 16) : Statement (.vgth sa sb) :=
  of_micro rfl rfl (by simp [decodeMicro, packMicro, unpack_pack])

theorem qkmm (q : Bool) (sa : Fin 16) : Statement (.qkmm q sa) :=
  of_micro rfl rfl (by simp [decodeMicro, packMicro, unpack_pack, keepIf])

theorem osmx (sa : Fin 16) : Statement (.osmx sa) :=
  of_micro rfl rfl (by simp [decodeMicro, packMicro, unpack_pack])

theorem pvmm : Statement (.pvmm) :=
  of_micro rfl rfl (by simp [decodeMicro, packMicro, unpack_pack])

theorem rscl : Statement (.rscl) :=
  of_micro rfl rfl (by simp [decodeMicro, packMicro, unpack_pack])

theorem owrt : Statement (.owrt) :=
  of_micro rfl rfl (by simp [decodeMicro, packMicro, unpack_pack])

theorem sgap (sa sb : Fin 16) : Statement (.sgap sa sb) :=
  of_micro rfl rfl (by simp [decodeMicro, packMicro, unpack_pack])

theorem ewait (g : Bool) : Statement (.ewait g) :=
  of_micro rfl rfl (by simp [decodeMicro, packMicro, unpack_pack, keepIf])

theorem bsig (sc : Fin 8) (sa : Fin 16) : Statement (.bsig sc sa) :=
  of_micro rfl rfl (by simp [decodeMicro, packMicro, unpack_pack, keepIf])

theorem loops (sa : Fin 16) (tgt : Fin 512) : Statement (.loops sa tgt) :=
  of_micro rfl rfl (by simp [decodeMicro, packMicro, unpack_pack])

theorem brc (cond : Fin 4) (sa sb : Fin 16) (tgt : Fin 512) : Statement (.brc cond sa sb tgt) :=
  of_micro rfl rfl (by simp [decodeMicro, packMicro, unpack_pack, keepIf])

theorem done : Statement (.done) :=
  of_micro rfl rfl (by simp [decodeMicro, packMicro, unpack_pack])

theorem saddi (sd sa : Fin 16) (imm : BitVec 32) : Statement (.saddi sd sa imm) :=
  of_micro rfl rfl (by simp [decodeMicro, packMicro, unpack_pack])

theorem smovi (sd : Fin 16) (imm : BitVec 32) : Statement (.smovi sd imm) :=
  of_micro rfl rfl (by simp [decodeMicro, packMicro, unpack_pack])

theorem exposedResultDelivery (core ctx : Nat) : Statement (.exposedResultDelivery core ctx) := of_none rfl rfl

theorem longLatencyLanding (core ctx idx : Nat) : Statement (.longLatencyLanding core ctx idx) := of_none rfl rfl

theorem tmcstLanding : Statement (.tmcstLanding) := of_none rfl rfl

theorem watchdog (core ctx : Nat) : Statement (.watchdog core ctx) := of_none rfl rfl

theorem segmentExpansion (core ctx : Nat) : Statement (.segmentExpansion core ctx) := of_none rfl rfl

theorem chunkPerform (core ctx cmd unit : Nat) : Statement (.chunkPerform core ctx cmd unit) := of_none rfl rfl

theorem ringClaim (core ctx cmd : Nat) : Statement (.ringClaim core ctx cmd) := of_none rfl rfl

theorem dataQueueArrival (core ctx idx : Nat) : Statement (.dataQueueArrival core ctx idx) := of_none rfl rfl

theorem asyncTrap (core ctx : Nat) : Statement (.asyncTrap core ctx) := of_none rfl rfl

theorem nmcExecution (stack : Nat) : Statement (.nmcExecution stack) := of_none rfl rfl

theorem imageDecode (chiplet : Nat) : Statement (.imageDecode chiplet) := of_none rfl rfl

theorem slabgrowChunk (core ctx cmd : Nat) (newBase : Option Nat) : Statement (.slabgrowChunk core ctx cmd newBase) := of_none rfl rfl

theorem freezeLimit (core ctx : Nat) : Statement (.freezeLimit core ctx) := of_none rfl rfl

theorem contextFreeze (core ctx : Nat) : Statement (.contextFreeze core ctx) := of_none rfl rfl

theorem saveImageWritten (core ctx : Nat) : Statement (.saveImageWritten core ctx) := of_none rfl rfl

theorem shoot (chiplet : Nat) (v : BitVec 64) : Statement (.shoot chiplet v) := of_none rfl rfl

theorem wake (chiplet : Nat) (v : BitVec 64) : Statement (.wake chiplet v) := of_none rfl rfl

theorem barrierCfgWrite (chiplet slot : Nat) (v : BitVec 64) : Statement (.barrierCfgWrite chiplet slot v) := of_none rfl rfl

theorem barrierForce (chiplet slot : Nat) (v : BitVec 64) : Statement (.barrierForce chiplet slot v) := of_none rfl rfl

theorem pkgWordWrite (v : BitVec 64) : Statement (.pkgWordWrite v) := of_none rfl rfl

theorem scopeWordWrite (v : BitVec 64) : Statement (.scopeWordWrite v) := of_none rfl rfl

theorem pageFaultService (chiplet obj page frame : Nat) (content : List Host.Cell) : Statement (.pageFaultService
    chiplet obj page frame content) := of_none rfl rfl

theorem pageEviction (chiplet obj page dest : Nat) : Statement (.pageEviction chiplet obj page dest) := of_none rfl rfl

theorem copyOnWrite (chiplet obj page : Nat) : Statement (.copyOnWrite chiplet obj page) := of_none rfl rfl

theorem nodeAccept : Statement (.nodeAccept) := of_none rfl rfl

theorem dispatch (kind : Nat) (picks : List Nat) : Statement (.dispatch kind picks) := of_none rfl rfl

theorem nodeAging (node : Nat) : Statement (.nodeAging node) := of_none rfl rfl

theorem nodeComplete (node : Nat) : Statement (.nodeComplete node) := of_none rfl rfl

theorem groupEnd (gid : Nat) : Statement (.groupEnd gid) := of_none rfl rfl

theorem groupMigration (gid die : Nat) (picks : List Nat) : Statement (.groupMigration gid die picks) := of_none rfl rfl

theorem messageSend (port lane : Nat) : Statement (.messageSend port lane) := of_none rfl rfl

theorem messageReceive (port lane : Nat) (msg : Option (List Byte)) : Statement (.messageReceive port lane msg) := of_none rfl rfl

theorem laneLoss (port : Nat) : Statement (.laneLoss port) := of_none rfl rfl

theorem flitReplayLimit (port : Nat) : Statement (.flitReplayLimit port) := of_none rfl rfl

theorem trainingFrame (port : Nat) : Statement (.trainingFrame port) := of_none rfl rfl

theorem trainingEnd (port lanes : Nat) : Statement (.trainingEnd port lanes) := of_none rfl rfl

theorem trainingTimeout (port : Nat) : Statement (.trainingTimeout port) := of_none rfl rfl

theorem portDrainRequest (port : Nat) : Statement (.portDrainRequest port) := of_none rfl rfl

theorem portResetRequest (port : Nat) : Statement (.portResetRequest port) := of_none rfl rfl

theorem fabricPathLoss (dieA dieB : Nat) : Statement (.fabricPathLoss dieA dieB) := of_none rfl rfl

theorem alloc (ch : Nat) (pick : Option Nat) : Statement (.alloc ch pick) := of_none rfl rfl

theorem free (ch : Nat) : Statement (.free ch) := of_none rfl rfl

theorem copyin (ch : Nat) : Statement (.copyin ch) := of_none rfl rfl

theorem copyout (ch : Nat) : Statement (.copyout ch) := of_none rfl rfl

theorem load (ch : Nat) (kid : Option Nat) : Statement (.load ch kid) := of_none rfl rfl

theorem unload (ch : Nat) : Statement (.unload ch) := of_none rfl rfl

theorem submit (ch : Nat) : Statement (.submit ch) := of_none rfl rfl

theorem queryNode (ch : Nat) : Statement (.queryNode ch) := of_none rfl rfl

theorem queryKernel (ch : Nat) : Statement (.queryKernel ch) := of_none rfl rfl

theorem queryPort (ch : Nat) : Statement (.queryPort ch) := of_none rfl rfl

theorem queryPool (ch : Nat) : Statement (.queryPool ch) := of_none rfl rfl

theorem outboxRead (ch : Nat) : Statement (.outboxRead ch) := of_none rfl rfl

theorem cstatWrite (ch : Nat) (v : BitVec 64) : Statement (.cstatWrite ch v) := of_none rfl rfl

theorem pcieLinkLoss : Statement (.pcieLinkLoss) := of_none rfl rfl

theorem attestation (nonce : Nat) : Statement (.attestation nonce) := of_none rfl rfl

theorem packageReset (boot : BootInputs) : Statement (.packageReset boot) := of_none rfl rfl

theorem testModeRequest : Statement (.testModeRequest) := of_none rfl rfl

theorem powerClampWindow (averageW : Nat) (tempC : List Nat) : Statement (.powerClampWindow averageW tempC) := of_none rfl rfl

theorem thermalTrip (island tempC : Nat) : Statement (.thermalTrip island tempC) := of_none rfl rfl

theorem requestDropped (ch : Nat) : Statement (.requestDropped ch) := of_none rfl rfl

theorem malformedRequest (ch : Nat) : Statement (.malformedRequest ch) := of_none rfl rfl

end Sys2Proof.Laws.RoundTrip
end

