-- ==== Sys2Proof/Laws/Quiet.lean ====
section
/-!
SUPPORT. What delivery, rows that enter the matrix unit, and traps can change: cores, supervisor interrupts, lifetime records
and the counter of free values, and nothing else (R61, R217, R331).
-/
namespace Sys2Proof.Machine

/-- Between two states only cores, supervisor interrupts, lifetime records and the counter of free values differ. -/
def Quiet (s t : State) : Prop :=
  ∃ c i l f, t = { s with cores := c, supIrq := i, life := l, freeCtr := f }

theorem Quiet.refl (s : State) : Quiet s s := ⟨_, _, _, _, rfl⟩

theorem Quiet.trans {s t u : State} (h : Quiet s t) (k : Quiet t u) : Quiet s u := by
  obtain ⟨_, _, _, _, rfl⟩ := h
  obtain ⟨_, _, _, _, rfl⟩ := k
  exact ⟨_, _, _, _, rfl⟩

theorem Quiet.mem {s t : State} (h : Quiet s t) : t.mem = s.mem := by obtain ⟨_, _, _, _, rfl⟩ := h; rfl
theorem Quiet.poison {s t : State} (h : Quiet s t) : t.poison = s.poison := by obtain ⟨_, _, _, _, rfl⟩ := h; rfl
theorem Quiet.ck {s t : State} (h : Quiet s t) : t.ck = s.ck := by obtain ⟨_, _, _, _, rfl⟩ := h; rfl
theorem Quiet.issue {s t : State} (h : Quiet s t) : t.issue = s.issue := by obtain ⟨_, _, _, _, rfl⟩ := h; rfl
theorem Quiet.slots {s t : State} (h : Quiet s t) : t.slots = s.slots := by obtain ⟨_, _, _, _, rfl⟩ := h; rfl
theorem Quiet.tables {s t : State} (h : Quiet s t) : t.tables = s.tables := by obtain ⟨_, _, _, _, rfl⟩ := h; rfl
theorem Quiet.groups {s t : State} (h : Quiet s t) : t.groups = s.groups := by obtain ⟨_, _, _, _, rfl⟩ := h; rfl
theorem Quiet.sched {s t : State} (h : Quiet s t) : t.sched = s.sched := by obtain ⟨_, _, _, _, rfl⟩ := h; rfl

/-- A fold of steps each of which is quiet. -/
theorem Quiet.foldl {α : Type} {f : State → α → State} (h : ∀ s a, Quiet s (f s a)) :
    ∀ (l : List α) (s : State), Quiet s (l.foldl f s)
  | [], s => .refl s
  | a :: l, s => (h s a).trans (Quiet.foldl h l (f s a))

theorem Quiet.ite {s t u : State} {p : Prop} [Decidable p] (h : Quiet s t) (k : Quiet s u) :
    Quiet s (if p then t else u) := by
  split
  · exact h
  · exact k

theorem quiet_setCore (s : State) (c : Nat) (k : Core) : Quiet s (setCore s c k) := ⟨_, _, _, _, rfl⟩
theorem quiet_modCore (s : State) (c : Nat) (f : Core → Core) : Quiet s (modCore s c f) := ⟨_, _, _, _, rfl⟩
theorem quiet_setCtx (s : State) (c x : Nat) (t : Ctx) : Quiet s (setCtx s c x t) := ⟨_, _, _, _, rfl⟩
theorem quiet_modCtx (s : State) (c x : Nat) (f : Ctx → Ctx) : Quiet s (modCtx s c x f) := ⟨_, _, _, _, rfl⟩
theorem quiet_modMe (s : State) (f : Ctx → Ctx) : Quiet s (s.modMe f) := ⟨_, _, _, _, rfl⟩
theorem quiet_count (s : State) (r i : Nat) : Quiet s (count s r i) := ⟨_, _, _, _, rfl⟩
theorem quiet_freeCtr (s : State) (n : Nat) : Quiet s { s with freeCtr := n } := ⟨_, _, _, _, rfl⟩

theorem quiet_report (s : State) (c x : Nat) (a : Async) : Quiet s (report s c x a) := by
  unfold report
  exact .ite ⟨_, _, _, _, rfl⟩ (quiet_setCtx _ _ _ _)

theorem quiet_foldFlags (s : State) (c x : Nat) (f : Flags) : Quiet s (foldFlags s c x f) :=
  .ite (.refl s) (quiet_modCtx _ _ _ _)

theorem quiet_foldAt (s : State) (c x k : Nat) (f : Flags) : Quiet s (foldAt s c x k f) :=
  .ite (.refl s) (quiet_modCtx _ _ _ _)

theorem quiet_applyAccAdd (s : State) (c x row : Nat) (vals : List Nat) (fl : Option Flags) :
    Quiet s (applyAccAdd s c x row vals fl) :=
  (quiet_setCore _ _ _).trans (quiet_foldFlags _ _ _ _)

theorem quiet_stopRows (s : State) (c x op slot : Nat) (r : PRun) : Quiet s (stopRows s c x op slot r) :=
  ((quiet_setCore _ _ _).trans (quiet_modCtx _ _ _ _)).trans (quiet_foldFlags _ _ _ _)

theorem quiet_applyAccOut (s : State) (c x row : Nat) (vals : List Nat) (zt : Nat) (zf : Zf) (pz : Option Nat)
    (op epc : Nat) (last : Bool) (fl : Option Flags) :
    Quiet s (applyAccOut s c x row vals zt zf pz op epc last fl) := by
  unfold applyAccOut
  extract_lets
  split
  · exact (quiet_setCore _ _ _).trans (quiet_foldFlags _ _ _ _)
  · refine .ite (.refl s) ?_
    extract_lets
    split
    · exact (quiet_stopRows _ _ _ _ _ _).trans (quiet_report _ _ _ _)
    · exact (quiet_setCore _ _ _).trans (quiet_foldFlags _ _ _ _)

/-- A result that reaches its destination. -/
theorem quiet_applyWrite (s : State) (c x : Nat) (w : Write) : Quiet s (applyWrite s c x w) := by
  cases w with
  | tile => unfold applyWrite; exact quiet_modCore _ _ _
  | latch => unfold applyWrite; exact quiet_modCore _ _ _
  | flags => unfold applyWrite; exact quiet_foldFlags _ _ _ _
  | rowFlags => unfold applyWrite; exact quiet_foldFlags _ _ _ _
  | accAdd => unfold applyWrite; exact quiet_applyAccAdd _ _ _ _ _ _
  | accOut => unfold applyWrite; exact quiet_applyAccOut _ _ _ _ _ _ _ _ _ _ _ _
  | _ => unfold applyWrite; exact quiet_modCtx _ _ _ _

theorem quiet_deliver (s : State) (c x : Nat) : Quiet s (deliver s c x) := by
  unfold deliver
  exact (Quiet.ite (.refl s) (quiet_setCtx _ _ _ _)).trans (.foldl (fun s _ => quiet_applyWrite s c x _) _ _)

theorem quiet_exposeFrom (row : Nat) (s : State) (c x cls e : Nat) (w : Write) :
    Quiet s (exposeFrom row s c x cls e w) := quiet_modCtx _ _ _ _

theorem quiet_expose (s : State) (c x cls e : Nat) (w : Write) : Quiet s (expose s c x cls e w) :=
  quiet_exposeFrom _ _ _ _ _ _ _

theorem quiet_give (s : State) (cls : Nat) (w : Write) (f : Flags) : Quiet s (give s cls w f) :=
  (quiet_expose _ _ _ _ _ _).trans (.ite (.refl _) (quiet_expose _ _ _ _ _ _))

theorem quiet_landLong (s : State) (c x : Nat) (r : LongRes) : Quiet s (landLong s c x r) :=
  (quiet_modCtx _ _ _ _).trans (quiet_foldAt _ _ _ _ _)

theorem quiet_landDue (s : State) (c x : Nat) : Quiet s (landDue s c x) :=
  .foldl (fun s r => quiet_landLong s c x r) _ _

/-! ## Rows that enter the matrix unit -/

theorem quiet_exposeRow (s : State) (c x : Nat) (ro : RowsOp) (i p : Nat) (w : Write) :
    Quiet s (exposeRow s c x ro i p w) := quiet_modCtx _ _ _ _

theorem quiet_countCore (s : State) (c : Nat) : Quiet s (countCore s c) := quiet_count _ _ _

theorem quiet_noteBad (s : State) (c x epc : Nat) (rows : List (Nat × Nat × Nat)) :
    Quiet s (noteBad s c x epc rows) := by
  simp only [noteBad]
  split
  · exact .refl s
  · exact ((quiet_freeCtr s _).trans (quiet_count _ _ _)).trans (quiet_report _ _ _ _)

theorem quiet_reportPort (s : State) (c x epc h : Nat) (p : Option (Fin 16)) (port : Nat) (f : PFault × Nat) :
    Quiet s (reportPort s c x epc h p port f) := quiet_report _ _ _ _

theorem quiet_bankParity (s : State) (c x : Nat) (ro : RowsOp) (bk : Fin 4) : Quiet s (bankParity s c x ro bk) := by
  simp only [bankParity]
  split
  · exact (((quiet_setCore s _ _).trans (quiet_freeCtr _ _)).trans (quiet_count _ _ _)).trans (quiet_report _ _ _ _)
  · exact .refl s

theorem quiet_enterBank (s : State) (c x : Nat) (ro : RowsOp) (bk : Fin 4) (bt : Nat) (fb : Fmt) (pb : Option (Fin 16))
    (r : Nat) : Quiet s (enterBank s c x ro bk bt fb pb r) := by
  unfold enterBank
  extract_lets
  split
  extract_lets
  split
  · exact (((((quiet_setCore s _ _).trans (quiet_freeCtr _ _)).trans (quiet_modCtx _ _ _ _)).trans
      (quiet_foldFlags _ _ _ _)).trans (quiet_noteBad _ _ _ _ _)).trans (quiet_reportPort _ _ _ _ _ _ _ _)
  · exact .ite ((((quiet_setCore s _ _).trans (quiet_foldFlags _ _ _ _)).trans (quiet_noteBad _ _ _ _ _)).trans
        (quiet_bankParity _ _ _ _ _))
      (((quiet_setCore s _ _).trans (quiet_foldFlags _ _ _ _)).trans (quiet_noteBad _ _ _ _ _))

theorem quiet_enterA (s : State) (c x : Nat) (ro : RowsOp) (bk : Fin 4) (at_ arow n : Nat) (fa : Fmt) (acc : Bool)
    (zt : Nat) (zf : Zf) (pa pz : Option (Fin 16)) (sparse : Bool) (i : Nat) :
    Quiet s (enterA s c x ro bk at_ arow n fa acc zt zf pa pz sparse i) := by
  unfold enterA
  extract_lets
  split
  extract_lets
  split
  · exact ((((quiet_setCore s _ _).trans (quiet_modCtx _ _ _ _)).trans (quiet_foldFlags _ _ _ _)).trans
      (quiet_noteBad _ _ _ _ _)).trans (quiet_reportPort _ _ _ _ _ _ _ _)
  · exact ((quiet_setCore s _ _).trans (quiet_noteBad _ _ _ _ _)).trans (quiet_exposeRow _ _ _ _ _ _ _)

theorem quiet_enterRead (s : State) (c x : Nat) (ro : RowsOp) : Quiet s (enterRead s c x ro) := quiet_modCtx _ _ _ _

theorem quiet_enterRow (s : State) (c x : Nat) (ro : RowsOp) : Quiet s (enterRow s c x ro) := by
  unfold enterRow
  split
  · exact quiet_enterBank _ _ _ _ _ _ _ _ _
  · exact quiet_enterA _ _ _ _ _ _ _ _ _ _ _ _ _ _ _ _
  · exact quiet_enterA _ _ _ _ _ _ _ _ _ _ _ _ _ _ _ _
  · exact quiet_enterRead _ _ _ _

theorem quiet_enterOp (c x op : Nat) : ∀ (n : Nat) (s : State), Quiet s (enterOp c x op n s)
  | 0, s => .refl s
  | n + 1, s => by
    simp only [enterOp]
    split
    · exact .refl s
    · split
      · exact .refl s
      · exact ((quiet_setCtx s _ _ _).trans (quiet_enterRow _ _ _ _)).trans (quiet_enterOp c x op n _)

theorem quiet_enterRows (s : State) (c x : Nat) : Quiet s (enterRows s c x) :=
  .foldl (fun s _ => quiet_enterOp c x _ 192 s) _ _

/-- What the start of an issue cycle changes: besides cores and reports, the latch keeps what the replay buffer held. -/
theorem quiet_delivered (s : State) :
    Quiet { s with issue := { s.issue with rpl := heldCount s s.me } } (delivered s) := quiet_deliver _ _ _

theorem quiet_startCycle (s : State) :
    Quiet { s with issue := { s.issue with rpl := heldCount s s.me } } (startCycle s) :=
  (quiet_delivered s).trans (quiet_enterRows _ _ _)

@[simp] theorem startCycle_mem (s : State) : (startCycle s).mem = s.mem := (quiet_startCycle s).mem
@[simp] theorem startCycle_poison (s : State) : (startCycle s).poison = s.poison := (quiet_startCycle s).poison
@[simp] theorem startCycle_ck (s : State) : (startCycle s).ck = s.ck := (quiet_startCycle s).ck
@[simp] theorem startCycle_slots (s : State) : (startCycle s).slots = s.slots := (quiet_startCycle s).slots
@[simp] theorem startCycle_tables (s : State) : (startCycle s).tables = s.tables := (quiet_startCycle s).tables
@[simp] theorem startCycle_groups (s : State) : (startCycle s).groups = s.groups := (quiet_startCycle s).groups
@[simp] theorem startCycle_core (s : State) : (startCycle s).issue.core = s.issue.core := by
  rw [(quiet_startCycle s).issue]
@[simp] theorem startCycle_ctx (s : State) : (startCycle s).issue.ctx = s.issue.ctx := by
  rw [(quiet_startCycle s).issue]
@[simp] theorem startCycle_addr (s : State) : (startCycle s).issue.addr = s.issue.addr := by
  rw [(quiet_startCycle s).issue]
@[simp] theorem delivered_mem (s : State) : (delivered s).mem = s.mem := (quiet_delivered s).mem
@[simp] theorem delivered_slots (s : State) : (delivered s).slots = s.slots := (quiet_delivered s).slots
@[simp] theorem delivered_tables (s : State) : (delivered s).tables = s.tables := (quiet_delivered s).tables
@[simp] theorem delivered_groups (s : State) : (delivered s).groups = s.groups := (quiet_delivered s).groups
@[simp] theorem delivered_core (s : State) : (delivered s).issue.core = s.issue.core := by
  rw [(quiet_delivered s).issue]
@[simp] theorem delivered_ctx (s : State) : (delivered s).issue.ctx = s.issue.ctx := by
  rw [(quiet_delivered s).issue]

/-! ## Traps -/

theorem quiet_freezeCtx (s : State) (c x : Nat) : Quiet s (freezeCtx s c x) := quiet_modCtx _ _ _ _

theorem freezeGroup_mem (s : State) (g : Nat) : (freezeGroup s g).mem = s.mem := by
  unfold freezeGroup
  split
  · rfl
  · split
    · exact (Quiet.foldl (fun s (p : Place) => quiet_freezeCtx s p.core p.ctx) _ s).mem
    · rfl

/-- A trap changes cores, the groups' states, and the counter of free values. -/
theorem takeTrap_mem (s : State) (c x cause tval epc : Nat) : (takeTrap s c x cause tval epc).mem = s.mem := by
  unfold takeTrap
  extract_lets
  split
  · rfl
  · exact freezeGroup_mem _ _

end Sys2Proof.Machine
end

