-- ==== Sys2Proof/Tests/Slice0.lean ====
section
/-!
SUPPORT. Tests of the model against the spec's worked encodings, examples and rules, and a witness for the hypotheses of
each statement.
-/
namespace Sys2Proof.Tests

open Sys2Proof Sys2Proof.Machine

set_option Elab.async false

/-- The guard `(p0)`. -/
abbrev p0 : Guard := ⟨false, 0⟩

/-- Context 0 of core `c` is Current with a group, and its core as `h` says. -/
def labOn (c : Nat) (f : Ctx → Ctx) (h : Core → Core) : State :=
  let s : State := { State.reset with issue := { State.reset.issue with core := c, ctx := 0 } }
  modCore s c fun k => h (k.put 0 (f { k.get 0 with st := .current, tcnt := 8, group := 1 }))

/-- Context 0 of core 0, changed by `f`. -/
def lab (f : Ctx → Ctx) : State := labOn 0 f id

/-- The state after an instruction; the state before it where it gives none. -/
def nxt (i : Instr) (s : State) : State :=
  match exec i s with
  | .next t => t
  | _ => s

/-- Four no-operation bundles of code at address 0. -/
def code4 (t : Ctx) : Ctx := { t with half0 := some ⟨0, 0, [8, 8, 8, 8]⟩ }

/-- `lab`, with a window of 4 KiB granted to group 1 at the start of core 0's vault. -/
def vlab (f : Ctx → Ctx) : State := { lab f with tables := [((2, 0, 0), 2 ^ 48 + 2 ^ 33 + 1), ((2, 0, 1), 0)] }

/-- `lab`, with barrier slot 5 of chiplet 0 granted to group 1 at scope 2: one arrival expected, no bytes. -/
def blab (f : Ctx → Ctx) (g : Slot → Slot) : State :=
  { lab f with slots := [((0, 5), g { Slot.reset with cfg := 2 ^ 48 + 2 ^ 30 + 2 ^ 17 + 1 })] }

/-- Group 1 on context 0 of core 0. -/
def grp : Group := ⟨1, .running, 0, 0, 1, 1, 8, 1, 0, 2, [⟨0, 0, 0⟩], [0], [], [], [], 0, 0⟩

/-- A frozen or retired context on every place of a group. -/
def stopped (s : State) (g : Group) : Bool :=
  g.places.all fun p => (getCtx s p.core p.ctx).st == .frozen || (getCtx s p.core p.ctx).st == .retired

/-! ## Ill-formed terms -/

theorem test_wf_fcvti_sr : Instr.wf (.fcvti false ⟨false, 0⟩ (.g 0) (.g 0 false) .sr) = false := by decide
theorem test_wf_icvtf_sr : Instr.wf (.icvtf false ⟨false, 0⟩ (.g 0) (.g 0 false) .sr) = false := by decide
theorem test_wf_shift_w : Instr.wf (.shlImm false ⟨false, 0⟩ true (.g 0) (.g 0 false) 32) = false := by decide
theorem test_wf_barrier : Instr.wf (.bara ⟨false, 0⟩ 2 1023) = false := by decide
theorem test_wf_table : Instr.wf (.tblrd ⟨false, 0⟩ 0 9 ⟨0, false⟩) = false := by decide
theorem test_wf_atomic : Instr.wf (.aadd ⟨false, 0⟩ 1 0 ⟨0, false⟩ (.g 0 false)) = false := by decide
theorem test_wf_dqpop : Instr.wf (.dqpop ⟨false, 0⟩ (.h 0)) = false := by decide
theorem test_wf_dqpopt : Instr.wf (.dqpopt ⟨false, 0⟩ 0 0 12) = false := by decide
theorem test_wf_nset : Instr.wf (.nset ⟨false, 0⟩ 0 6 ⟨0, false⟩ ⟨0, false⟩) = false := by decide
theorem test_wf_tld_rm : Instr.wf (.tld ⟨false, 0⟩ 0 0 0 ⟨0, false⟩ 0 0 none .f32 .rz false) = false := by decide
theorem test_wf_twin_a : Instr.wf (.twin ⟨false, 0⟩ 0 0 0 ⟨31, false⟩ 0 0 none .f32 .rne false) = false := by decide
theorem test_wf_tldc_xr : Instr.wf (.tldc ⟨false, 0⟩ 0 0 0 ⟨0, false⟩ 0 0 none .f32 .rne 6) = false := by decide
theorem test_wf_gath2_a : Instr.wf (.tgath2 ⟨false, 0⟩ 0 0 0 ⟨31, false⟩ 0 0 0 none false) = false := by decide
theorem test_wf_mmul_acc : Instr.wf (.mmul ⟨false, 0⟩ 0 0 0 0 .i8 true 1 .f32 none none) = false := by decide

/-! ## Witnesses: hypotheses that hold together -/

theorem witness_guardFalse : (opAdd false ⟨true, 0⟩ false (.g 1) (.g 2 false) (.g 3 false)).decode (startCycle (lab id)) = none ∧
    rowLate (delivered (lab id)) 0 0 = false ∧ lateKeys (startCycle (lab id)) 0 0 = [] ∧
    (startCycle (lab id)).me.loopn = none ∧ guardHolds (startCycle (lab id)).me ⟨true, 0⟩ = false := by decide

/-- An address of a word whose port program does not decode. -/
theorem witness_nop : rowLate (delivered (lab id)) 0 0 = false ∧ (startCycle (lab id)).me.loopn = none := by decide

/-- Operands of every class: g, `.b`, a popped and a peeked queue register, an h and a q destination. -/
theorem witness_clear_scalar :
    clear p0 [.g 1 false, .g 2 true] (Dest.full (.g 31)) (Dest.push (.g 31)) (lab id) = true ∧
    clear p0 [.q 0 false, .q 0 true] (Dest.full (.h 15)) (Dest.push (.h 15))
      (lab fun t => { t with q := t.q.set 0 [7, 8] }) = true ∧
    clear p0 [.g 0 false] (Dest.full (.q 7)) (Dest.push (.q 7)) (lab id) = true ∧
    clear ⟨true, 7⟩ [.g 0 false, .g 0 false] [0] [] (lab id) = true := by decide

theorem witness_operandChecks :
    let o := opAdd false p0 false (.g 3) (.g 1 false) (.q 7 false)
    let s := lab fun t => { t with q := t.q.set 7 [0, 0, 0, 0] }
    let e := lab fun t => { t with full := 0xFFFFFFFD, q := t.q.set 7 [5] }
    let u := lab id
    let b := lab fun t => { t with full := 0xFFFFFFFD }
    let v := opAdd false p0 false (.q 7) (.g 1 false) (.g 2 false)
    o.decode s = none ∧ o.srcs.filterMap (earlySrc (startCycle e).me) = [1] ∧ o.traps (startCycle e) [] = [] ∧
    underflows (startCycle u).me o.srcs (List.replicate 8 0) = [7] ∧
    overflows (startCycle s).me [⟨v, [0, 0], []⟩] (srcPops v.srcs (startCycle s)) = [(7, 1)] ∧
    [Src.g 1 true].any (blockedSrc (startCycle b).me) = true := by decide

theorem witness_floatEdges :
    let nan := 0x7FC00001; let inf := 0xFF800000
    nan % 2 ^ 31 > 0x7F800000 ∧ inf % 2 ^ 31 = 0x7F800000 ∧ 0x80000000 % 2 ^ 31 = 0 ∧ 0xBF800000 / 2 ^ 31 = 1 ∧
    ¬ 0xBF800000 % 2 ^ 31 > 0x7F800000 := by decide

theorem witness_branches :
    let s := lab code4
    let o := lab fun t => { code4 t with g := (t.g.set 1 4).set 2 3 |>.set 3 0x100 }
    clear p0 [] [] [] s = true ∧ codeCovers (startCycle s) (startCycle s).me (branchTarget (startCycle s) 3) = true ∧
    codeCovers (startCycle s) (startCycle s).me (branchTarget (startCycle s) 4) = false ∧
    codeCovers (startCycle s) (startCycle s).me (branchTarget (startCycle s) (-1)) = false ∧
    clear p0 [.g 1 false] [] [] o = true ∧ (val [.g 1 false] o 0).toNat = 4 ∧ (val [.g 2 false] o 0).toNat % 2 = 1 ∧
    codeCovers (startCycle o) (startCycle o).me 4 = true ∧ codeCovers (startCycle o) (startCycle o).me 0x100 = false := by
  decide

theorem witness_traps : clear p0 [] [] [] (lab id) = true ∧ isSup 0 = false ∧ isSup 64 = true ∧
    clear p0 [] [] [] (labOn 64 id id) = true ∧ (labOn 64 id id).issue.core = 64 := by decide

/-- A group on contexts 0 and 1 of core 0 and 0 of core 1; as the first traps, the second is Ready, and the third Current, at a
block or not. -/
theorem witness_trapEntry :
    let g : Group := ⟨1, .running, 0, 0, 1, 1, 8, 1, 0, 2, [⟨0, 0, 0⟩, ⟨0, 1, 1⟩, ⟨1, 0, 2⟩], [0, 0, 0], [], [], [], 0, 0⟩
    let s := fun (n : Nat) => modCtx (modCtx { lab id with groups := [g] } 0 1 fun t => { t with st := .ready }) 1 0
      fun t => { t with st := .current, blk := n }
    let b := fun (n : Nat) => delivered (s n)
    clear p0 [] [] [] (s 0) = true ∧ groupOf (b 0) (b 0).me.group = some g ∧ (getCtx (b 0) 0 1).st = .ready ∧
    (getCtx (b 3) 1 0).isBlocked = true ∧ (getCtx (b 0) 1 0).st = .current ∧ (getCtx (b 0) 1 0).isBlocked = false := by decide

theorem witness_drains :
    let s := lab fun t => { t with arrivals := [] }
    drained (startCycle s) 0 0 = true ∧ outstandingIn (startCycle s) 5 0 0 = [] ∧
    nmcPending (startCycle s) 0 0 none = false ∧ (startCycle s).myCore.lanternOn = false := by decide

theorem witness_loops :
    let s := lab fun t => { code4 t with g := t.g.set 1 2 }
    let e := { lab (fun t => { code4 t with loop := some ⟨2, 4, 2⟩ }) with issue := ⟨0, 0, 4, 4, 6, false, 0, 0⟩ }
    bodyBroken (startCycle s) (startCycle s).me 2 3 = false ∧ (startCycle s).me.loop = none ∧
    (startCycle e).me.loop = some ⟨2, 4, 2⟩ ∧ (startCycle e).issue.next = 6 ∧
    nestIters (nWords (startCycle s).me 0) = 0 ∧
    nestIters (nWords (startCycle (lab fun t => { t with
      n := t.n.set 7 ((t.n[7]).set 0 (BitVec.ofNat 64 (3 * 2 ^ 40))) })).me 7) = 3 := by decide

/-- Replay 1 of 3 iterations in 2 stages at its block's end, with its register full and with it empty; within the block;
and the last replay, 3. -/
theorem witness_loopnRuns :
    let l : LoopnSt := ⟨2, 4, [3 * 2 ^ 40 + 8, 0, 0, 0, 0, 0], 3, 2, 1, 5, 6⟩
    let s := fun (f : Ctx → Ctx) (l : LoopnSt) (next : Nat) =>
      { lab (fun t => f { t with loopn := some l }) with issue := ⟨0, 0, 4, 4, next, false, 0, 0⟩ }
    let at_ := fun (u : State) (l : LoopnSt) (next : Nat) =>
      rowLate (delivered u) 0 0 = false ∧ (startCycle u).me.loop = none ∧ (startCycle u).me.loopn = some l ∧
        (startCycle u).issue.next = next
    let full := fun (u : State) => [5, 6].all fun (r : Fin 32) => (startCycle u).me.full.getLsbD r.val &&
      !((lateKeys (startCycle u) 0 0).contains (0, r.val, 0))
    at_ (s id l 6) l 6 ∧ full (s id l 6) = true ∧ l.t + 1 < l.iters ∧ l.t + 1 < l.iters + l.stages - 1 ∧ at_ (s id l 4) l 4 ∧
    at_ (s id { l with t := 3 } 6) { l with t := 3 } 6 ∧ ¬(3 + 1 < l.iters) ∧ 3 + 1 = l.iters + l.stages - 1 ∧
    at_ (s (fun t => { t with full := 0xFFFFFFDF }) l 6) l 6 ∧
    (startCycle (s (fun t => { t with full := 0xFFFFFFDF }) l 6)).me.full.getLsbD 5 = false := by decide

theorem witness_submitAndRetire :
    let s := vlab fun t => { t with g := t.g.set 1 64 }
    clear p0 [.g 1 false] [] [] s = true ∧ (val [.g 1 false] s 0).toNat = 64 ∧
    vaultPlace (startCycle s) 0 0 64 64 = some 64 ∧ (startCycle s).fifo.length < 256 ∧
    farOverlaps (startCycle s) 0 0 (vaultKey 64) 64 = false ∧ poisoned (startCycle s) (vaultKey 64) 64 = false ∧
    poisoned (startCycle { s with poison := [vaultKey 72] }) (vaultKey 64) 64 = true ∧
    (startCycle { s with poison := [vaultKey 72] }).me.st = .current ∧
    256 ≤ (startCycle { s with fifo := List.replicate 256 ⟨0, [], []⟩ }).fifo.length ∧
    (startCycle s).me.flights = [] ∧ (startCycle s).me.rows = [] ∧ engineBusy (startCycle s).myCore 0 = false ∧
    lanternOf (startCycle s).myCore 0 = false ∧ drained (startCycle s) 0 0 = true := by decide +kernel

/-- A RETIRE in a Freezing group whose other context is Frozen. -/
theorem witness_retireFreezing :
    let g := { grp with st := .freezing, ctxs := 2, places := [⟨0, 0, 0⟩, ⟨0, 1, 0⟩] }
    let s := modCtx { lab id with groups := [g] } 0 1 fun t => { t with st := .frozen, group := 1, rank := 1 }
    clear p0 [] [] [] s = true ∧ groupOf (startCycle s) (startCycle s).me.group = some g ∧ (startCycle s).me.rank = 0 ∧
    (∃ r, r < g.ctxs ∧ r ≠ 0 ∧ r ∉ g.retired) ∧ drained (startCycle s) 0 0 = true ∧ stopped (nxt (.retire p0) s) g = true := by
  refine ⟨?_, ?_, ?_, ⟨1, ?_, ?_, ?_⟩, ?_, ?_⟩ <;> decide +kernel

theorem witness_tableAccess :
    let s := labOn 64 (fun t => { t with g := t.g.set 1 0 |>.set 2 0x10000000 }) id
    clear p0 [.g 1 false] [3] [] s = true ∧ clear p0 [.g 1 false, .g 2 false] [] [] s = true ∧
    tableTraps (startCycle s) 64 1 0 false = [] ∧ tableTraps (startCycle s) 64 2 0 true = [] ∧
    shootHeld (startCycle s) 0 0 = false ∧ tableWords 64 1 ≤ 0x10000000 ∧ dieOf 64 % 2 = 0 ∧ primary = 64 ∧
    dieOf 129 % 2 = 1 ∧ isSup 129 = true ∧ clear p0 [.g 1 false, .g 2 false] [] [] (labOn 129 id id) = true ∧
    1025 < tableWords 64 0 ∧
    clear p0 [.g 1 false, .g 2 false] [] [] (lab id) = true ∧ isSup (startCycle (lab id)).issue.core = false := by
  decide +kernel

/-- A SHOOT is held while a read of a page it names is on its way to another package. -/
theorem witness_shootHeld :
    let e : DqEnt := ⟨0, 64, 16, false, false, false, [], false, some ⟨0, 64, 2 ^ 47, some (1, 0), 3⟩, none⟩
    let s := modCtx (labOn 64 (fun t => { t with g := t.g.set 1 4096 |>.set 2 (2 ^ 52) }) id) 0 0 fun t => { t with dq := [e] }
    clear p0 [.g 1 false, .g 2 false] [] [] s = true ∧ tableTraps (startCycle s) 64 1 4096 true = [] ∧
    (val [.g 1 false, .g 2 false] s 0).toNat = 4096 ∧ shootHeld (startCycle s) 0 (2 ^ 52) = true := by decide +kernel

theorem witness_systemRegisters : clear p0 [] [3] [] (lab id) = true ∧ clear p0 [.g 1 false] [] [] (lab id) = true ∧
    clear p0 [.g 1 false] [] [] (labOn 64 id id) = true ∧ isSup (startCycle (labOn 64 id id)).issue.core = true ∧
    privReg .xfwdo = true ∧ privReg .xtval = false := by decide

theorem witness_barrierArrival :
    let s := blab id id
    clear p0 [] [] [] s = true ∧ grantTraps (startCycle s) 2 5 = [] ∧ (getSlot (startCycle s) 0 5).ring = false ∧
    outstandingIn (startCycle s) 2 0 0 = [] := by decide

theorem witness_barrierChecks :
    let s := blab id id
    let v := getSlot (startCycle s) 0 5
    clear p0 [] [] [] s = true ∧ (getSlot (startCycle s) 0 6).on = false ∧ cfgReleased (startCycle s) 6 = false ∧
    v.on = true ∧ v.party (startCycle s).me.group (startCycle s).me.rank = some 0 ∧
    slotScope (startCycle s) v = some 2 ∧ cfgReleased (startCycle s) 5 = false := by decide

theorem witness_barrierWaits : ∀ e ∈ [some PEntry.done, some .wrel, none, some .donep, some .wrelp],
    let s := blab id fun v => v.setEntry 0 e
    let a := startCycle s
    clear p0 [] [] [] s = true ∧ grantTraps a 2 5 = [] ∧ cfgReleased a 5 = false ∧ (getSlot a 0 5).ring = false ∧
      (getSlot a 0 5).party a.me.group a.me.rank = some 0 ∧ a.me.arrivals = [] ∧ (getSlot a 0 5).entry 0 = e ∧
      a.me.group = s.me.group ∧ a.me.rank = s.me.rank ∧ a.me.cfgRel = s.me.cfgRel ∧ a.me.arrivals = s.me.arrivals ∧
      a.issue.core = s.issue.core ∧ a.me.barWait ≠ some 5 ∧ a.slots = s.slots ∧ isSup s.issue.core = false := by decide

/-- A ring slot of depth 2 whose free, filled and broken state is as given. -/
def ring (free filled : Nat) (brk : Bool) (v : Slot) : Slot :=
  { v with cfg := v.cfg + 2 ^ 28, size := 256 * 2 ^ 32 + 2 * 2 ^ 24, free := free, filled := filled, brk := brk }

theorem witness_ringWaits :
    let holds := fun (free filled : Nat) (brk : Bool) =>
      let s := blab id (ring free filled brk)
      let a := startCycle s
      let v := getSlot a 0 5
      clear p0 [] [] [] s = true ∧ grantTraps a 2 5 = [] ∧ cfgReleased a 5 = false ∧ v.ring = true ∧ v.brk = brk ∧
        v.filled = filled ∧ v.free = free ∧ v.depth = 2 ∧ a.me.barWait ≠ some 5 ∧ outstandingIn a 2 0 0 = []
    holds 1 0 true ∧ holds 1 1 false ∧ holds 1 0 false ∧ holds 2 0 false := by decide

theorem witness_supervisorWaits :
    let holds := fun (sup : List (Nat × Nat × Bool)) (st : Bool) =>
      let s := { labOn 64 id id with slots := [((0, 5), { Slot.reset with
        cfg := 2 ^ 48 + 2 ^ 30 + 2 ^ 17 + 1, sup := sup, phase := 1, lp := st })] }
      let a := startCycle s
      let v := getSlot a 0 5
      clear p0 [] [] [] s = true ∧ isSup a.issue.core = true ∧ 4 * a.issue.core + a.issue.ctx = 256 ∧
        grantTraps a 2 5 = [] ∧ cfgReleased a 5 = false ∧ v.ring = false ∧ a.me.barWait ≠ some 5 ∧ v.phase = 1 ∧ v.lp = st
    holds [] false ∧ holds [(256, 1, false)] false ∧ holds [(256, 0, false)] false ∧ holds [(256, 0, false)] true := by
  decide

theorem witness_barrierPhases :
    let v : Slot := { Slot.reset with cfg := 2 ^ 17 + 1 }
    v.on = true ∧ v.ring = false ∧ ({ v with cfg := 2 ^ 28 + 1 } : Slot).ring = true ∧ Slot.reset.on = false ∧
    v.ea = 1 ∧ v.eb = 0 := by decide

theorem witness_freezeAndResume :
    let s := fun (n : Nat) => { labOn 64 (fun t => { t with g := t.g.set 1 (BitVec.ofNat 64 n) }) id with groups := [grp] }
    let f := fun (n : Nat) => modCtx (s n) 0 0 fun t => { t with st := .ready, group := 1 }
    let z := modCtx (s 0) 0 0 fun t => { t with st := .frozen, group := 1 }
    clear p0 [.g 1 false] [] [] (s 0) = true ∧ (getCtx (startCycle (s 0)) 0 0).st = .free ∧
    (getCtx (startCycle (f 0)) (selected 0).1 (selected 0).2).st = .ready ∧ groupOf (startCycle (f 0)) 1 = some grp ∧
    grp.st ≠ .frozen ∧ stopped (startCycle (f 0)) grp = false ∧ stopped (startCycle z) grp = true ∧
    (getCtx (startCycle z) 0 0).st = .frozen ∧ (startCycle z).me.frzAt = none ∧
    ¬ (4 / 4 % 2 ^ 13 = 0) ∧ selectorTraps (startCycle (s 0)) 0 = [] ∧ (getCtx (startCycle (s 0)) 0 0).st ≠ .frozen ∧
    clear p0 [.g 1 false] [] [] (lab id) = true := by decide

theorem witness_resume :
    let s := fun (g : Group) => modCtx { labOn 64 id id with groups := [g] } 0 0 fun t => { t with st := .frozen, group := 1 }
    let g := { grp with st := .frozen }
    let k := getCtx State.reset 0 0
    let v : Saved := { rank := 0, hw := 0, ctx := k, now := k, tiles := [], mu := false, banks := Vector.replicate 4 Bank.reset,
                       acc := [], live := 0, latA := [], latB := [], ln := false, lantern := Lantern.reset, ports := [],
                       serving := [], mFree := 0, tFree := 0, rFree := 0 }
    let b := { g with saves := [64], saved := [v] }
    clear p0 [.g 1 false] [] [] (s g) = true ∧ selectorTraps (startCycle (s g)) 0 = [] ∧
    (getCtx (startCycle (s g)) (selected 0).1 (selected 0).2).st = .frozen ∧
    (getCtx (startCycle (s g)) 0 0).group = 1 ∧ groupOf (startCycle (s g)) 1 = some g ∧
    badVersion (startCycle (s g)) g = none ∧ groupOf (startCycle (s b)) 1 = some b ∧
    badVersion (startCycle (s b)) b = some 64 := by decide

theorem witness_nearAccesses :
    let s := vlab fun t => { t with g := t.g.set 1 4088 }
    let e := { s with poison := [vaultKey 4088] }
    clear p0 [.g 1 false] [3] [] s = true ∧ clear p0 [.g 1 false, .g 2 false] [] [] s = true ∧
    clear p0 [.g 1 false, .g 2 false] [3] [] s = true ∧ Memory.wf s.mem = true ∧
    lsAddr (val [.g 1 false] s 0) 0 8 = 4088 ∧ 4088 % 8 = 0 ∧ vaultPlace (startCycle s) 0 0 4088 8 = some 4088 ∧
    isNear 0 (4088 % 2 ^ 33) = true ∧ poisoned (startCycle s) (vaultKey 4088) 8 = false ∧
    poisoned (landedView (startCycle s)) (vaultKey 4088) 8 = false ∧ poisoned (landedView (startCycle e)) (vaultKey 4088) 4 = true ∧
    (∀ m ∈ (startCycle s).mcasts, (startCycle s).ck < m.due) ∧
    poisoned (startCycle e) (vaultKey 4088) 4 = true ∧ (startCycle e).me.st = .current ∧
    clear p0 [.g 1 false, .g 2 false] [] [] e = true ∧ vaultPlace (startCycle e) 0 0 4088 4 = some 4088 := by decide

theorem witness_farAccesses :
    let s := { vlab (fun t => { t with g := t.g.set 1 8 }) with
      tables := [((2, 0, 0), 2 ^ 48 + 2 ^ 33 + 1), ((2, 0, 1), 2 ^ 23)] }
    clear p0 [.g 1 false] [3] [] s = true ∧ clear p0 [.g 1 false, .g 2 false] [] [] s = true ∧
    clear p0 [.g 1 false, .g 2 false] [3] [] s = true ∧ vaultPlace (startCycle s) 0 0 8 8 = some (2 ^ 23 + 8) ∧
    isNear 0 ((2 ^ 23 + 8) % 2 ^ 33) = false ∧ lsAddr (val [.g 1 false] s 0) 0 8 = 8 := by decide

theorem witness_farAccessesPerform :
    let f : Far := ⟨0, 0, .store, vaultKey 8, 8, 0, 8, 0, 5⟩
    let g : Far := ⟨1, 0, .load false, vaultKey 12, 12, 0, 4, 3, 0⟩
    let s := { lab (fun t => { t with far := [f, g] }) with ck := 1 }
    (getCtx s 0 0).far[0]? = some f ∧ (getCtx s 0 0).far[1]? = some g ∧ ¬ (g.addr + g.n ≤ f.addr ∨ f.addr + f.n ≤ g.addr) ∧
    f.ck < s.ck ∧ s.landed ≠ some s.ck ∧ poisoned s f.addr f.n = false ∧ poisoned (landedView s) g.addr g.n = false ∧ FarKind.new f.kind f.n 0 f.v = some 5 ∧ FarKind.new g.kind g.n 0 g.v = none := by decide

theorem witness_scalarAccessTraps :
    let s := vlab fun t => { t with g := t.g.set 1 (2 ^ 33) |>.set 2 4 |>.set 4 4096 }
    clear p0 [.g 1 false] [3] [] s = true ∧ 2 ^ 33 ≤ lsAddr (val [.g 1 false] s 0) 0 8 ∧
    lsAddr (val [.g 2 false] s 0) 0 8 % 8 ≠ 0 ∧ lsAddr (val [.g 4 false] s 0) 0 8 % 8 = 0 ∧
    vaultPlace (startCycle s) 0 0 4096 8 = none := by decide

theorem witness_multicast :
    let s := { vlab (fun t => { t with g := t.g.set 1 8 }) with
      groups := [grp], tables := ((3, 0, 0), 2 ^ 48 + 2 ^ 33 + 1) :: (vlab id).tables }
    let m : Mcast := ⟨0, 0, 0, 0, [vaultKey 8], [1, 2, 3, 4], 8, 0⟩
    let d := { s with mcasts := [m, { m with core := 1, bytes := [5, 6, 7, 8] }] }
    clear p0 [.g 1 false, .g 2 false] [] [] s = true ∧ coreIndex (startCycle s) 0 0 = 0 ∧
    mcastLen (startCycle s) (dieOf 0) 1 = 4096 ∧ 8 % 2 ^ 23 + 8 ≤ 4096 ∧ lsAddr (val [.g 1 false] s 0) 0 8 = 8 ∧
    (d.mcasts.filter fun m => decide (m.due ≤ d.ck)).length = 2 ∧ poisoned d (vaultKey 8) 4 = false ∧ d.poison = [] ∧
    Memory.wf d.mem = true ∧
    clear p0 [.g 1 false, .g 2 false] [] [] (labOn 64 id id) = true := by decide

/-- `lab`, with a nest of 3 iterations of 4 bytes in n0, a tile row of zeros, and 24 in g1. -/
def clab (f : Ctx → Ctx) : State :=
  lab fun t => f { t with n := t.n.set 0 ((t.n[0]).set 0 (BitVec.ofNat 64 (3 * 2 ^ 40 + 4))), g := t.g.set 1 64 }

theorem witness_copiesQueue :
    let s := clab fun t => { t with g := t.g.set 2 64 |>.set 3 64 }
    let b := clab fun t => { t with n := t.n.set 0 ((t.n[0]).set 0 (BitVec.ofNat 64 (2 * 2 ^ 40 + 64))) }
    nestIters (nWords (startCycle s).me 0) = 3 ∧ goes (opTld p0 7 63 0 ⟨1, false⟩ 0 0x3FF none .f32 .rne false) s = true ∧
    goes (opTst p0 7 63 0 ⟨1, false⟩ 0 0x3FF none .f32 .rne false) s = true ∧
    goes (opTwin p0 7 62 1 ⟨2, false⟩ 0 0x3FF none .f32 .rne false) s = true ∧
    goes (opTldc p0 0 0 1 ⟨1, false⟩ 0 0x3FF none .f32 .rne 0) b = true := by decide

theorem witness_indexedCopiesQueue :
    let s := clab fun t => { t with g := t.g.set 2 64 |>.set 3 64 }
    goes (opTgath p0 1 0 0 ⟨1, false⟩ 2 0 0x3FF none false) s = true ∧
    goes (opTgath2 p0 1 0 0 ⟨2, false⟩ 2 0 0x3FF none false) s = true ∧
    goes (opTscat p0 1 0 0 ⟨1, false⟩ 2 0 0x3FF none false) s = true ∧
    goes (opTredAdd p0 1 0 0 ⟨1, false⟩ 2 0 0x3FF none false true) s = true ∧
    goes (opTredMax p0 1 0 0 ⟨1, false⟩ 2 0 0x3FF none false false) s = true := by decide

theorem witness_copyBlocksAndTraps :
    let c : Cmd := freshCmd (clab id) (.nmfence p0 none) none ⟨true, 0, 0, 0, none, false, .f32, .f32, .rne, 1, 4, 0, 0⟩ 0
    let s := clab fun t => { t with cmds := List.replicate 16 c }
    let l := { clab id with cores := [(0, { (clab id).myCore with lantern := { Lantern.reset with phase := .running } })] }
    let o := opTld p0 7 63 0 ⟨1, false⟩ 0 0x3FF none .f32 .rne false
    clear p0 [.g 1 false] [] [] s = true ∧ o.decode (startCycle s) = none ∧ scoreboard (startCycle s).myCore [] [7] = false ∧
    o.empty (startCycle s) (srcVals [.g 1 false] (startCycle s)) = false ∧
    o.traps (startCycle s) (srcVals [.g 1 false] (startCycle s)) = [] ∧ 16 ≤ (startCycle s).me.cmds.length ∧
    clear p0 [.g 1 false] [] [] l = true ∧ (startCycle l).myCore.lanternOn = true ∧
    o.empty (startCycle l) (srcVals [.g 1 false] (startCycle l)) = false ∧
    rowsPending (startCycle s).me 7 63 63 = false ∧ (startCycle s).me.tcnt = 8 ∧ Fmt.isCopy .f32 = true ∧ 2 ≤ 2 ^ 63 / 2 ^ 62 := by
  decide

theorem witness_nestRegisters :
    let s := lab fun t => { t with g := t.g.set 1 (2 ^ 24 - 1) |>.set 2 (-(2 ^ 39)) |>.set 3 (2 ^ 24) |>.set 4 (2 ^ 39) }
    let b := fun i => val [.g i false, .g 2 false] s 0
    let d := fun i => val [.g 1 false, .g i false] s 1
    clear p0 [.g 1 false, .g 2 false] [] [] s = true ∧ (b 1).toNat < 2 ^ 24 ∧ -(2 ^ 39) ≤ (d 2).toInt ∧
    (d 2).toInt < 2 ^ 39 ∧ 2 ^ 24 ≤ (b 3).toNat ∧ ¬ ((d 4).toInt < 2 ^ 39) ∧ clear p0 [] [] [] s = true := by decide

theorem witness_addressDataQueues :
    let e : DqEnt := ⟨0, 64, 16, true, false, false, List.replicate 16 1, false, none, none⟩
    let s := clab fun t => { t with dq := [e], g := t.g.set 2 (2 ^ 48 - 16) }
    let p := clab fun t => { t with dq := [{ e with poison := true }] }
    let f := clab fun t => { t with aq := List.replicate 16 ⟨0, 0, 8⟩, g := t.g.set 2 0 }
    clear p0 [.g 2 false] [] [] s = true ∧ (val [.g 2 false] s 0).toNat = 2 ^ 48 - 16 ∧ (2 ^ 48 - 16) % 16 = 0 ∧
    (startCycle s).me.aq.length < 16 ∧ (startCycle s).myCore.lanternOn = false ∧ clear p0 [.g 2 false] [] [] f = true ∧
    16 ≤ (startCycle f).me.aq.length ∧ clear p0 [] [3] [] s = true ∧ (startCycle s).me.dq = [e] ∧
    clear p0 [] (Dest.full (.q 7)) (Dest.push (.q 7)) s = true ∧ scoreboard (startCycle s).myCore [] [7] = false ∧
    7 < (startCycle s).me.tcnt ∧ (startCycle p).me.dq = [{ e with poison := true }] ∧ (startCycle p).me.st = .current ∧
    clear p0 [] (Dest.full (.g 3)) (Dest.push (.g 3)) p = true := by decide

theorem witness_latchesAndCodebook :
    let s := lab id
    clear p0 [.g 1 false] [] [] s = true ∧ (startCycle s).myCore.lanternOn = false ∧
    ownedElsewhere (startCycle s).myCore 0 = false ∧ clear p0 [] [] [] s = true ∧ goes (opXtbl p0 7 63) s = true := by decide

theorem witness_engines :
    let s := lab fun t => { t with tcnt := 24 }
    goes (opXcvt p0 1 0 0 1 .f32 .f32 .rne) s = true ∧ goes (opXexp p0 1 0 0 0 .i8 .f32) s = true ∧
    goes (opXtrn p0 1 0 0 47 .f32 .f32) s = true ∧ goes (opXhad p0 1 0 0 1 0 3 .f32) s = true ∧
    goes (opMldb p0 3 0 .i8 none) s = true ∧ goes (opMmul p0 0 0 63 0 .i8 true 0 .f32 none none) s = true ∧
    goes (opTdaddr p0 0 0 1 0 ⟨1, false⟩ ⟨2, false⟩) s = true ∧ goes (opTdaddrAq p0 0 0 ⟨1, false⟩ ⟨2, false⟩) s = true ∧
    goes (opTdleaf p0 0 0 1 0) s = true ∧ goes (opTdpath p0 0 0 1 0) s = true ∧ goes (opTdesc p0 0 0 1 0 0) s = true ∧
    goes (opRsum p0 false 0 0 0 1 0 .f32 .f32 none none 0) s = true ∧
    goes (opRmax p0 false 0 0 0 1 0 .f32 .f32 none none 0) s = true ∧
    goes (opRssq p0 false 0 0 0 1 0 .f32 .f32 none none 0) s = true ∧
    goes (opRnorm p0 true 0 0 0 1 0 .f32 .f32 none none 0) s = true ∧
    goes (opRsortk p0 0 0 3 1 0 0) s = true ∧ goes (opRcmpr p0 0 0 7 1 0 .i8 4 0) s = true := by decide

set_option exponentiation.threshold 2000 in
set_option maxRecDepth 20000 in
theorem witness_mmuls :
    goes (opMmuls p0 0 0 0 3 .i8 false 6 .i32 none none 4 0)
      (modCore (lab fun t => { t with tcnt := 24 }) 0 fun k => k.putRow 4 0 0 ((List.replicate 48 [0x88, 0x06]).flatten ++ List.replicate 96 0)) = true := by decide

/-- `lab` with 24 tiles and 64 in g1, where the Lantern runs as `f` says for context 0. -/
def lnOn (f : Lantern → Lantern) : State :=
  modCore (lab fun t => { t with tcnt := 24 }) 0 fun k => { k with
    lantern := f { Lantern.reset with phase := .running } }

/-- A parameter block: one head, one element, keys in BF16, tiles 0 to 9, no barrier, 10 tokens. -/
def lnBlock : List Byte :=
  List.replicate 32 0 ++ [10, 0, 0, 0, 0, 0, 0, 0, 0, 0, 0, 0, 0, 1, 1, 0x11, 0xFF, 0x03, 0, 0, 3, 4, 7, 8, 9] ++
    List.replicate 7 0

theorem witness_lanternStarts :
    let s := vlab fun t => { t with g := t.g.set 1 511 |>.set 2 512 |>.set 3 4032 }
    let b := modCore (vlab fun t => { t with tcnt := 24 }) 0 fun k => { k with
      lantern := { Lantern.reset with phase := .starting } }
    let m := { b with mem := writeBytes b.mem (placeKey b 0 0 0 64) lnBlock }
    clear p0 [.g 1 false, .g 3 false] [] [] s = true ∧ clear p0 [.g 2 false, .g 3 false] [] [] s = true ∧
    (val [.g 1 false, .g 3 false] s 0).toNat = 511 ∧ 511 < (val [.g 2 false, .g 3 false] s 0).toNat ∧
    check143 (startCycle s) 0 0 4032 64 = [] ∧ (startCycle s).myCore.lanternOn = false ∧
    ownedElsewhere (startCycle s).myCore 0 = false ∧ (startCycle s).myCore.serving = [] ∧ isSup (startCycle s).issue.core = false ∧
    (startCycle s).me.flights = [] ∧ (startCycle s).me.rows = [] ∧ m.myCore.lantern.phase = .starting ∧
    farOverlaps m 0 0 (placeKey m 0 0 0 64) 64 = false ∧ poisoned m (placeKey m 0 0 0 64) 64 = false ∧
    (let l := fun (t : State) =>
      let k := placeKey t 0 0 0 64
      ({ t.myCore.lantern with params := readBytes t.mem k 64, bar := leNat (((readBytes t.mem k 64).drop 48).take 2) % 1024 } : Lantern)
     lentInFlight { m.myCore with lantern := l m } (l m) = false ∧
     paramFault (l m) 24 = none ∧ lentInFlight { b.myCore with lantern := l b } (l b) = false ∧
     paramFault (l b) 24 = some 45) := by decide +kernel

theorem witness_lanternWords :
    let s := lnOn fun l => { l with s := l.s.set 1 62 |>.set 2 63 }
    s.myCore.lantern.phase = .running ∧ s.myCore.bad = [] ∧ (getCtx s 0 0).cmds.length < 16 ∧
    s.myCore.lantern.s.getD 1 0 ≤ 62 ∧ 62 < s.myCore.lantern.s.getD 2 0 ∧ (lab id).myCore.lantern.phase ≠ .running := by
  decide

theorem witness_lanternLimit :
    let s := lnOn fun l => { l with params := lnBlock, s := l.s.set 1 9 |>.set 2 1 |>.set 3 3073 |>.set 4 2 }
    let l := s.myCore.lantern
    let m : Cmd := { freshCmd s .done none (plainForm true 1 1) 0 with
      uid := 5, kind := .glim 0 1, ended := true, outs := [0] }
    let c := modCore s 0 fun k => { (k.put 0 { k.get 0 with cmds := [m] }) with lantern := { l with phase := .copying 5 } }
    l.phase = .running ∧ l.len = 10 ∧ 9 + 1 ≤ l.len ∧ l.len < 9 + 2 ∧ (getCtx s 0 0).cmds.length < 16 ∧
    c.myCore.lantern.phase = .copying 5 ∧ ((c.myCore.get 0).cmds.find? fun m => m.uid == 5) = some m ∧ m.ended = true ∧
    m.units = [] ∧ m.stopped = false := by decide

theorem witness_lanternData :
    let s := lnOn fun l => { l with params := lnBlock, s := l.s.set 1 64 |>.set 2 65, score := List.replicate 64 [0] }
    let k := s.myCore
    let tokens := fun j => elemAt 32 (readRow s k (8 + (0 + j) / 48 / 64) ((0 + j) / 48 % 64)).toNat ((0 + j) % 48)
    let f := modCtx s 0 0 fun t => { t with cmds := List.replicate 16 (freshCmd s .done none (plainForm true 1 1) 0) }
    k.lantern.phase = .running ∧ k.bad = [] ∧ (getCtx s 0 0).cmds.length < 16 ∧ k.lantern.ti = 8 ∧
    k.lantern.s.getD 3 0 = 0 ∧ tokens 0 < k.lantern.len ∧ k.lantern.s.getD 1 0 = 64 ∧ 64 < k.lantern.s.getD 2 0 ∧ 0 < k.lantern.heads ∧
    16 ≤ (getCtx f 0 0).cmds.length := by decide +kernel

theorem witness_lanternScores :
    let on := fun (f : Fmt) => modCore (lnOn fun l => { l with params := lnBlock, s := l.s.set 1 64 |>.set 2 65 }) 0 fun k =>
      { k with banks := k.banks.set 2 ⟨f, []⟩ }
    (on .bf16).myCore.lantern.phase = .running ∧ (on .bf16).myCore.bad = [] ∧ (on .bf16).myCore.lantern.s.getD 1 0 ≤ 64 ∧
    64 < (on .bf16).myCore.lantern.s.getD 2 0 ∧ ((on .bf16).myCore.banks[(2 : Fin 4)]).fmt = .bf16 ∧
    ((on .f16).myCore.banks[(2 : Fin 4)]).fmt = .f16 ∧ (on .i8).myCore.lantern.phase = .running ∧
    ((on .i8).myCore.banks[(2 : Fin 4)]).fmt = .i8 := by decide

theorem witness_lanternControl :
    let on := fun (b : Nat) (s : State) => modCore s 0 fun k => { k with
      lantern := { Lantern.reset with
        phase := .running, bar := b, params := List.replicate 50 0 ++ [2] ++ List.replicate 13 0
        s := (List.replicate 16 0).set 1 5 |>.set 2 1023 |>.set 3 6 } }
    let s := on 0x3FF (blab id id)
    let v := getSlot s 0 5
    let r := getSlot (on 5 (blab id (ring 2 0 false))) 0 5
    let g : Cmd := { freshCmd s .done none (plainForm true 1 1) 0 with kind := .glim 0 1 }
    let w := modCtx s 0 0 fun t => { t with cmds := [g] }
    s.myCore.lantern.phase = .running ∧ (s.myCore.get 0).cmds = [] ∧ s.myCore.lantern.bar = 0x3FF ∧ v.on = true ∧
    v.party 1 0 ≠ none ∧ slotScope s v = some 2 ∧ v.ring = false ∧ 1022 < s.myCore.lantern.s.getD 2 0 ∧
    (on 5 (blab id id)).myCore.lantern.bar = 5 ∧ (s.myCore.lantern.params.getD 50 0).toNat = 2 ∧
    (getSlot s 0 6).on = false ∧ slotScope s v ≠ some 3 ∧ r.on = true ∧ r.party 1 0 ≠ none ∧ slotScope s r = some 2 ∧
    r.ring = true ∧ r.free = r.depth ∧ w.myCore.lantern.phase = .running ∧
    ∃ m ∈ (w.myCore.get 0).cmds, m.kind.isLantern = true := by decide +kernel

/-- A SLABGROW of the starting context that has a piece to copy, and one that has copied its last. -/
theorem witness_lanternGrowth :
    let c := fun (n : Nat) => { freshCmd State.reset (.slabgrow p0 ⟨1, false⟩ 0) none (plainForm false 0 0) 0 with
      desc := 1 :: List.replicate 31 0, started := true, chunks := n }
    let s := fun (n : Nat) => modCore (lab fun t => { t with cmds := [c n] }) 0 fun k => { k with
      lantern := { Lantern.reset with phase := .running } }
    (s 1).myCore.lantern.phase = .running ∧ (c 1).kind.isLantern = false ∧ (c 1).isGrow = true ∧
    (c 1).ported < (c 1).chunks ∧ ((s 0).myCore.get 0).cmds.filter (·.isGrow) = [c 0] ∧ (c 0).started = true ∧
    (c 0).chunks ≤ (c 0).ported ∧ slEntry (c 0).desc = 1 ∧ winSize (s 0) 0 1 < 40 := by decide +kernel

/-- Bytes written to memory. -/
def put (s : State) (a : Nat) (bs : List Byte) : State := { s with mem := writeBytes s.mem a bs }

/-- A copy address in vault space. -/
def va (a : Nat) : BitVec 64 := BitVec.ofNat 64 (2 ^ 62 + a)

/-- An NMC descriptor of no element of FP32 whose status word stands at 0 of the vault. -/
def nmDesc : List Byte := List.replicate 24 0 ++ leBytes 8 (2 ^ 62) ++ leBytes 4 0 ++ [0x10] ++ List.replicate 27 0

/-- An IMGDEC descriptor of no byte: patches of 14, one channel. -/
def imDesc : List Byte :=
  List.replicate 13 0 ++ [14, 1, 0] ++ List.replicate 8 0 ++ leBytes 4 196 ++ List.replicate 36 0

/-- A SLABGROW descriptor of entry 1, nothing used. -/
def slDesc : List Byte := 1 :: List.replicate 31 0

/-- Entry 1 of core 0's window table: a slab of 64 KiB at 2^16. -/
def slab (s : State) : State :=
  { s with tables := s.tables ++ [((0, 0, 4), 2 ^ 32 + 16 * 2 ^ 26 + 2 ^ 24 + 1), ((0, 0, 5), 2 ^ 32)] }

theorem witness_nearMemory :
    let s := put (vlab fun t => { t with g := t.g.set 1 (va 64) }) (vaultKey 64) nmDesc
    let e := { s with poison := [vaultKey 64] }
    let z := vlab fun t => { t with g := t.g.set 1 (va 64) }
    let d := fun (s : State) => readBytes (startCycle s).mem (placeKey (startCycle s) 0 0 (2 ^ 62 % 2 ^ 33 + 64) 64) 64
    let ok := fun st => (vaultPlace (startCycle s) 0 0 (bits st 32 0) 16).isSome
    clear p0 [.g 1 false] [] [] s = true ∧ operandTraps (startCycle s) (2 ^ 62 + 64) 64 = [] ∧
    operandWait (startCycle s) (2 ^ 62 + 64) 64 = false ∧
    poisoned (startCycle s) (placeKey (startCycle s) 0 0 64 64) 64 = false ∧ nmReserved 1 false (d s) = false ∧
    nmWrong 1 (d s) ok = false ∧ (startCycle s).me.cmds.length < 16 ∧ (startCycle s).myCore.lanternOn = false ∧
    nmWrong 1 (d z) ok = true ∧ poisoned (startCycle e) (placeKey (startCycle e) 0 0 64 64) 64 = true ∧
    (startCycle e).me.st = .current ∧ clear p0 [.g 1 false] [] [] e = true := by decide

theorem witness_imageAndSlab :
    let s := put (vlab fun t => { t with g := t.g.set 1 (va 64) }) (vaultKey 64) imDesc
    let w := slab (put (vlab fun t => { t with g := t.g.set 1 (va 64) }) (vaultKey 64) slDesc)
    let c : Cmd := { freshCmd w (.slabgrow p0 ⟨1, false⟩ 0) none (plainForm false 0 0) 0 with desc := slDesc }
    let b := modCtx w 0 1 fun t => { t with cmds := [c] }
    let d := readBytes (startCycle w).mem (placeKey (startCycle w) 0 0 64 32) 32
    goes (opImgdec p0 ⟨1, false⟩ 0x3FF) s = true ∧ poisoned (startCycle s) (placeKey (startCycle s) 0 0 64 64) 64 = false ∧
    clear p0 [.g 1 false] [] [] w = true ∧ operandTraps (startCycle w) (2 ^ 62 + 64) 32 = [] ∧
    operandWait (startCycle w) (2 ^ 62 + 64) 32 = false ∧ slabBad (startCycle w) d = false ∧
    growInFlight (startCycle w).myCore (leNat (d.take 1)) = false ∧ clear p0 [.g 1 false] [] [] b = true ∧
    growInFlight (startCycle b).myCore 1 = true := by decide

theorem witness_linkOperations :
    let p := fun (n : Nat) (q : List (List Byte)) =>
      { vlab (fun t => { t with g := t.g.set 1 (va 256) }) with
        ports := [(3, { Port.reset with state := n, recv := [[], q, [], []] })] }
    let s := p 2 [List.replicate 256 7]
    clear p0 [.g 1 false] [] [] s = true ∧ operandTraps (startCycle s) (2 ^ 62 + 256) 256 = [] ∧
    (getPort (startCycle s) 3).state = 2 ∧ (getPort (startCycle s) 3).recv.getD 1 [] = [List.replicate 256 7] ∧
    (getPort (startCycle (p 2 [])) 3).recv.getD 1 [] = [] ∧ (getPort (startCycle (p 5 [])) 3).state = 5 ∧
    (getPort (startCycle (p 4 [])) 3).state = 4 ∧ clear p0 [.g 1 false] [] [] (p 4 []) = true ∧ clear p0 [] [3] [] s = true ∧
    (getPort (startCycle s) 3).running = true ∧ (getPort (startCycle (p 5 [])) 3).running = false ∧
    (startCycle s).bootStep ≠ 8 ∧ (startCycle s).mode = .startup ∧
    ({ startCycle s with mode := .recovery } : State).mode = .recovery := by decide +kernel

theorem witness_resultsArrive :
    let e : DqEnt := ⟨0, 2 ^ 62, 16, false, false, false, [], false, none, none⟩
    let s := vlab fun t => { t with
      flights := [⟨t.icyc, 0, t.icyc, 0, 0, 0, .g 3 7⟩], dq := [e], longs := [⟨0, 3, 7, 0⟩, ⟨0, 3, 8, 0⟩, ⟨9, 4, 8, 0⟩]
      asyncs := [⟨0x13, 0, 5, none, none⟩] }
    let m := vlab fun t => { t with dq := [{ e with addr := 2 ^ 40 }] }
    let w := { vlab (fun t => { t with dq := [{ e with addr := 2 ^ 16 }] }) with
      inPod := true, ports := [(3, { Port.reset with state := 2, peer := 5 })]
      tables := [((0, 0, 4), 2 ^ 32 + 16 * 2 ^ 26 + 1), ((0, 0, 5), 2 ^ 47 + 2 ^ 39 + 5 * 2 ^ 33)] }
    let k := 2 ^ 47 + 2 ^ 39 + 5 * 2 ^ 33
    landsNext (getCtx s 0 0).longs ⟨0, 3, 7, 0⟩ = true ∧ landsNext (getCtx s 0 0).longs ⟨0, 3, 8, 0⟩ = false ∧
    (getCtx s 0 0).longs[1]? = some ⟨0, 3, 8, 0⟩ ∧ (getCtx s 0 0).longs[2]? = some ⟨9, 4, 8, 0⟩ ∧ s.ck < 9 ∧
    placeOf s 0 0 e.addr e.n = .at_ (vaultKey 0) false 0 0 false ∧ isAperture (vaultKey 0) = false ∧
    placeOf w 0 0 (2 ^ 16) = .at_ k false 0 0 false ∧ placeOf w 0 0 (2 ^ 16) 16 = .at_ k false 0 0 false ∧
    isAperture k = true ∧ portTo w (bits k 38 33) = some 3 ∧ earlierMeets w 0 0 0 (homeAt w 0 0 (2 ^ 16)) = false ∧
    (getCtx w 0 0).dq[0]? = some { e with addr := 2 ^ 16 } ∧ (getCtx m 0 0).dq[0]? = some { e with addr := 2 ^ 40 } ∧
    (getCtx s 0 0).longs[0]? = some ⟨0, 3, 7, 0⟩ ∧ (getCtx s 0 0).st = .current ∧
    (getCtx s 0 0).flights = [⟨(getCtx s 0 0).icyc, 0, (getCtx s 0 0).icyc, 0, 0, 0, .g 3 7⟩] ∧ (getCtx s 0 0).dq[0]? = some e ∧
    placeOf s 0 0 e.addr = .at_ (vaultKey 0) false 0 0 false ∧
    earlierMeets s 0 0 e.uid (homeAt s 0 0 e.addr) = false ∧
    placeOf m 0 0 (2 ^ 40) = .miss ∧ placeOf m 0 0 (2 ^ 40) 16 = .miss ∧
    earlierMeets m 0 0 0 (homeAt m 0 0 (2 ^ 40)) = false ∧ (getCtx s 0 0).asyncs ≠ [] ∧ isSup 0 = false := by
  decide

/-- An AQPUSH read of 16 bytes of host memory, neither of its words read, and its upper one. -/
theorem witness_hostReads :
    let e : DqEnt := ⟨0, 2 ^ 16, 16, false, false, false, [], false, none, none⟩
    let s := fun (g : Option (Bool × List Byte)) => { vlab (fun t => { t with dq := [{ e with got := g }] }) with
      pciUp := true, windows := [(0, 0, 2 ^ 20)]
      tables := [((0, 0, 4), 2 ^ 32 + 16 * 2 ^ 26 + 1), ((0, 0, 5), 2 ^ 47)] }
    let up := some (true, List.replicate 8 (1 : Byte))
    placeOf (s none) 0 0 (2 ^ 16) = .at_ (2 ^ 47) false 0 0 false ∧ placeOf (s up) 0 0 (2 ^ 16) 16 = .at_ (2 ^ 47) false 0 0 false ∧
    isAperture (2 ^ 47) = false ∧ isHost (2 ^ 47) = true ∧ (getCtx (s none) 0 0).dq[0]? = some e ∧
    poisoned (s none) (2 ^ 47) 8 = false ∧ poisoned (s up) (2 ^ 47 + 8) 8 = false ∧
    earlierMeets (s up) 0 0 0 (homeAt (s up) 0 0 (2 ^ 16)) = false := by decide +kernel

/-- A kernel image: one context of 8 tiles, one segment of one no-operation bundle, latencies of 1. -/
def image : List Byte :=
  [0x56, 0x4B, 0x49, 0x4D, 1, 3, 0xFF, 1, 8, 0, 1, 0, 0, 0, 0, 0, 0, 0x10, 0, 0, 0, 0, 0, 0] ++
    (List.replicate 12 1 ++ [9, 1, 1, 1]) ++ List.replicate 8 0 ++ leBytes 8 128 ++ List.replicate 32 0 ++ leBytes 8 144 ++
    leBytes 8 0 ++ leBytes 8 531 ++ List.replicate 16 0 ++
    (leBytes 4 0 ++ leBytes 2 1 ++ [0xFF, 0xFF] ++ leBytes 4 528 ++ leBytes 4 3) ++ List.replicate 384 0 ++ [0, 8, 0]

theorem witness_contextEvents :
    let on := fun (f : Ctx → Ctx) => { lab (fun t => f { t with st := .freezing, frzPoint := some 0, group := 1 }) with
      groups := [grp], ck := 2 ^ 32 }
    let b := lab fun t => { t with st := .blocked, since := 0, blk := 4 }
    let f := { lab (fun t => { t with frzAt := some 0 }) with ck := 10000 }
    let s := on id
    let v : Saved := { rank := 0, hw := 0, ctx := getCtx s 0 0, now := getCtx s 0 0, tiles := [], mu := false,
                       banks := Vector.replicate 4 Bank.reset, acc := [], live := 0, latA := [], latB := [], ln := false, lantern := Lantern.reset, ports := [],
                       serving := [], mFree := 0, tFree := 0, rFree := 0 }
    let w := { s with groups := [{ grp with saved := [v] }] }
    let k := { lab (fun t => { t with kernel := 1 }) with kernels := [⟨1, 3, 0, image, 0, 0, 0⟩] }
    isSup 0 = false ∧ (getCtx b 0 0).st = .blocked ∧ (getCtx b 0 0).blk ≠ 0 ∧ (∀ f ∈ (getCtx s 0 0).flights, f.w.rowOf 0 = false) ∧
    (∀ w ∈ grp.saved, w.rank ≠ 0) ∧ (getCtx b 0 0).since + 2 ^ 32 ≤ (on id).ck ∧
    (getCtx f 0 0).frzAt = some 0 ∧ (getCtx f 0 0).st = .current ∧ 0 + 10000 ≤ f.ck ∧
    groupOf s (getCtx s 0 0).group = some grp ∧ captureReady s 0 0 = true ∧
    groupOf w (getCtx w 0 0).group = some { grp with saved := [v] } ∧ [v].find? (fun v => v.rank == 0) = some v ∧
    Memory.wf w.mem = true ∧ v.mu = false ∧ v.ln = false ∧ (getCtx w 0 0).st = .freezing ∧
    halfAt (getCtx k 0 0) 0 = none ∧ holdsSeg (getCtx k 0 0).half0 (getCtx k 0 0).seg = false ∧ segAt (kernelImage k 1) 0 = some ⟨0, 0, 1, 0xFFFF⟩ := by decide +kernel

/-- Object 1 of chiplet 0 with its page table at 2^20 of stack 0, of 4 pages. -/
def objs (s : State) : State := { s with tables := s.tables ++ [((1, 0, 1), 4 * 2 ^ 40 + 2 ^ 20 + 1)] }

/-- A paged window at 2^16 of 64 KiB onto page 0 of object 1, entry 1 of core 0's window table. -/
def paged (s : State) : State :=
  { s with tables := s.tables ++ [((0, 0, 4), 2 ^ 32 + 16 * 2 ^ 26 + 2 ^ 25 + 2 ^ 24 + 1), ((0, 0, 5), 1)] }

/-- A chunk of core 0 is parked on page 0 of object 1, whose entry is absent in `s 0` and present in `s 1`. -/
theorem witness_tableEvents :
    let c : Cmd := { freshCmd State.reset .done none (plainForm true 1 1) 0 with uid := 4, parkedAt := some (2 ^ 24) }
    let p : Park := ⟨0, 0, 4, 2 ^ 24⟩
    let s := fun (n : Nat) => { put (objs (lab fun t => { t with st := .blocked, barWait := some 5, cmds := [c] })) (2 ^ 20)
      (leBytes 8 (n + 2 ^ 21)) with parks := [p] }
    chipletOf 0 = 0 ∧ (getCtx (s 0) 0 0).barWait = some 5 ∧ p.id / 2 ^ 24 = 1 ∧ p.id % 2 ^ 24 = 0 ∧ p.waits (s 0) = true ∧
    readPte (shootDown (s 0) 0 (2 ^ 52)) 0 1 0 = some (2 ^ 21) ∧ readPte (shootDown (s 1) 0 (2 ^ 52)) 0 1 0 = some (2 ^ 21 + 1) ∧
    bitAt (2 ^ 21) 0 = false ∧ bitAt (2 ^ 21 + 1) 0 = true := by decide +kernel

theorem witness_pageEvents :
    let a := objs State.reset
    let b := put a (2 ^ 20) (leBytes 8 (2 ^ 21 + 1))
    let c := { b with tables := b.tables ++ [((1, 0, 4099), 2 ^ 18)] }
    pteKey a 0 1 0 = some (2 ^ 20) ∧ bitAt (memLe a (2 ^ 20) 8) 0 = false ∧ rangeFree a (32 * 65536) 65536 65536 = true ∧
    countKey a (32 * 65536) = none ∧ bitAt (memLe b (2 ^ 20) 8) 0 = true ∧ goodDest (2 ^ 30) = true ∧
    countKey b (2 ^ 21) = none ∧ Memory.wf a.mem = true ∧ Memory.wf b.mem = true ∧ bits (memLe b (2 ^ 20) 8) 47 16 = 32 ∧
    mappersOf b (2 ^ 21) = [(0, 1, 0)] ∧ lockedPage b 0 1 0 = false ∧ shootHeld b 0 (pageWord 1 0) = false ∧
    countKey c (2 ^ 21) = some (2 ^ 18 + 128) ∧ mappersOf c (2 ^ 21) = [(0, 1, 0)] ∧ lockedPage c 0 1 0 = false ∧
    (2 ^ 18 + 128) + 4 ≤ 2 ^ 20 ∧ 2 ^ 20 + 8 ≤ 2 ^ 21 ∧ 2 ^ 21 + 65536 ≤ 2 ^ 30 := by decide +kernel

/-- A store of 4 bytes whose chunk is ready to perform to the shared page 0 of object 1. -/
def cow (frames : Nat) : State :=
  let c : Cmd := { freshCmd State.reset (.tst p0 0 0 0 ⟨1, false⟩ 0 0x3FF none .f32 .rne false) none
      (plainForm false 4 1) (2 ^ 16) with
    chunks := 1, units := [⟨1, 2 ^ 16, [⟨2 ^ 16, 4, 0⟩]⟩], got := [(0, [1, 2, 3, 4])] }
  let s := put (paged (objs (lab fun t => { t with cmds := [c] }))) (2 ^ 20) (leBytes 8 (2 ^ 21 + 4 + 1))
  let s := put s (2 ^ 18 + 4 * 32) (leBytes 4 1)
  let s := put s (2 ^ 17) (leBytes 4 48)
  { s with tables := s.tables ++ [((1, 0, 4098), 2 ^ 40 + 2 ^ 17), ((1, 0, 4099), frames)] }

theorem witness_copyOnWrite :
    let s := cow (2 ^ 18)
    let r := cow 0
    let q : CowReq := ⟨1, 0, 0, 0, 0, 0, none, 1, 2 ^ 16⟩
    let o : Cmd := { freshCmd s .done none (plainForm false 4 1) (2 ^ 16) with uid := 7, units := [⟨1, 2 ^ 16, []⟩] }
    let b := { modCtx s 0 1 (fun t => { t with cmds := [o] }) with cow := [(0, { q with ctx := 1, uid := 7 })] }
    pteKey s 0 1 0 = some (2 ^ 20) ∧ bits (memLe s (2 ^ 20) 8) 47 16 = 32 ∧ Memory.wf s.mem = true ∧
    writeWaits s 0 1 0 = true ∧ cowReady s 0 1 0 = true ∧ cowFirst s 0 1 0 = true ∧ frameCount s (2 ^ 21) = 1 ∧
    cowRequest s 0 1 0 = some q ∧ pageUnit b 0 1 0 = some 0 ∧ unitServes b 0 = some { q with ctx := 1, uid := 7 } ∧
    cowRequest b 0 1 0 = some q ∧ CowReq.same { q with ctx := 1, uid := 7 } q = false ∧
    writeWaits r 0 1 0 = true ∧ cowReady r 0 1 0 = true ∧ cowFirst r 0 1 0 = true ∧ frameCount r (2 ^ 21) ≠ 1 ∧
    poolFrame r 0 = 48 * 65536 ∧ countAt r (48 * 65536) = 192 ∧ countAt r (2 ^ 21) = 128 ∧
    writeWaits (objs State.reset) 0 1 0 = false := by decide +kernel

/-- The grants of `vlab`. -/
def vgrants : List ((Nat × Nat × Nat) × Nat) := (vlab id).tables

/-- An LSEND from 0 of the vault, on port 3 and lane 1, that has not read its message. -/
def lsendCmd : Cmd :=
  { freshCmd State.reset (.lsend p0 3 1 ⟨1, false⟩ 0) (some 5) (plainForm true 256 256) (2 ^ 62) with
    grants := vgrants, chunks := 1, units := [⟨1, 2 ^ 62, [⟨2 ^ 62, 8, 0⟩]⟩] }

theorem witness_messageUnits :
    let s := vlab fun t => { t with cmds := [lsendCmd] }
    let o : CUnit := ⟨1, 2 ^ 62 + 8192, [⟨2 ^ 62 + 8192, 8, 0⟩]⟩
    let r := vlab fun t => { t with cmds := [{ lsendCmd with units := [o] }] }
    let d := { blab (fun t => { t with cmds := [{ lsendCmd with units := [] }] }) id with
      ports := [(3, { Port.reset with state := 3 })] }
    goesOn s 0 0 lsendCmd = true ∧ lsendCmd.form.load = true ∧ lsendCmd.stopped = false ∧ unitReady s 0 0 lsendCmd 0 = true ∧
    placeUnit (lsendCmd.view s) 0 0 ⟨1, 2 ^ 62, [⟨2 ^ 62, 8, 0⟩]⟩ = .at_ (vaultKey 0) false 0 0 false ∧
    holeOf s 0 0 (2 ^ 62) = none ∧ lsendCmd.sent = [] ∧ isHost (vaultKey 0) = false ∧ isAperture (vaultKey 0) = false ∧
    unitBad s lsendCmd ⟨1, 2 ^ 62, [⟨2 ^ 62, 8, 0⟩]⟩ (vaultKey 0) = false ∧
    unitReady r 0 0 { lsendCmd with units := [o] } 0 = true ∧ holeOf r 0 0 (2 ^ 62 + 8192) = none ∧
    placeUnit (lsendCmd.view r) 0 0 o = .range ∧
    (getCtx r 0 0).st = .current ∧ ({ lsendCmd with units := [] } : Cmd).mayWrite d 0 0 = true ∧
    earlierSend (getCtx d 0 0) { lsendCmd with units := [] } 3 1 = false ∧ (getPort d 3).state = 3 ∧
    ((getPort d 3).queued.getD 1 []).length < (getPort d 3).credits.getD 1 0 := by decide +kernel

/-- An IMGDEC whose record, at 0 of the vault, is all it has left to write. -/
theorem witness_imageUnits :
    let u : CUnit := ⟨2, 2 ^ 62, [⟨2 ^ 62, 32, 0⟩]⟩
    let c : Cmd := { freshCmd State.reset (.imgdec p0 ⟨1, false⟩ 5) (some 5) (plainForm false 0 0) 0 with
      grants := vgrants, desc := imDesc, chunks := 2, ported := 2, started := true, ended := true, folded := true
      units := [u], got := [(1, List.replicate 32 0)] }
    let s := { vlab (fun t => { t with cmds := [c] }) with imgq := [(0, [⟨0, 0, 0, none, imDesc, []⟩])] }
    (getCtx s 0 0).cmds[0]? = some c ∧ goesOn s 0 0 c = true ∧ c.form.load = false ∧ c.stopped = false ∧
    unitReady s 0 0 c 0 = true ∧ holeOf s 0 0 u.addr = none ∧ Memory.wf s.mem = true ∧
    placeUnit (c.view s) 0 0 u = .at_ (vaultKey 0) false 0 0 false ∧ c.sent = [] ∧ unitBad s c u (vaultKey 0) = false := by
  decide +kernel

/-- A TST of one word that has streamed it, or a TLD of one word. -/
def wordCmd (load : Bool) : Cmd :=
  let i : Instr := if load then .tld p0 0 0 0 ⟨1, false⟩ 0 0x3FF none .f32 .rne false
    else .tst p0 0 0 0 ⟨1, false⟩ 0 0x3FF none .f32 .rne false
  { freshCmd State.reset i none ⟨load, 0, 0, 0, none, false, .f32, .f32, .rne, 1, 4, 4, 1⟩ (2 ^ 62) with
    grants := vgrants, chunks := 1, units := [⟨1, 2 ^ 62, [⟨2 ^ 62, 4, 0⟩]⟩], got := if load then [] else [(0, [1, 2, 3, 4])]
    started := true, ported := if load then 0 else 1, ended := !load, folded := !load }

theorem witness_rowUnits :
    let s := fun (l : Bool) => vlab fun t => { t with cmds := [wordCmd l] }
    let holds := fun (l : Bool) =>
      goesOn (s l) 0 0 (wordCmd l) = true ∧ pump (s l) 0 0 (wordCmd l) = (s l, wordCmd l) ∧
      unitReady (s l) 0 0 (wordCmd l) 0 = true ∧ failingUnit (s l) 0 0 (wordCmd l) ⟨1, 2 ^ 62, [⟨2 ^ 62, 4, 0⟩]⟩ = ⟨1, 2 ^ 62, [⟨2 ^ 62, 4, 0⟩]⟩ ∧
      placeUnit ((wordCmd l).view (s l)) 0 0 ⟨1, 2 ^ 62, [⟨2 ^ 62, 4, 0⟩]⟩ = .at_ (vaultKey 0) false 0 0 false ∧ (wordCmd l).form.load = l ∧
      holeOf (s l) 0 0 (2 ^ 62) = none ∧ (wordCmd l).sent = [] ∧
      unitBad (s l) (wordCmd l) ⟨1, 2 ^ 62, [⟨2 ^ 62, 4, 0⟩]⟩ (vaultKey 0) = false
    holds true ∧ holds false := by decide +kernel

theorem witness_ringClaims :
    let c := { lsendCmd with bar := some 5 }
    let v : Slot := { Slot.reset with
      cfg := 2 ^ 48 + 2 ^ 30 + 2 ^ 28 + 2 ^ 17 + 1, size := 256 * 2 ^ 32 + 2 * 2 ^ 24, free := 2 }
    let s := { blab (fun t => { t with cmds := [c] }) id with slots := [((0, 5), v)] }
    let f := { s with slots := [((0, 5), { v with free := 0 })] }
    (getCtx s 0 0).cmds[0]? = some c ∧ isCaptured s 0 0 = false ∧ v.on = true ∧ v.ring = true ∧
    c.nextClaim < c.claimChunks ∧ v.claiming = [] ∧ v.free ≤ v.depth ∧ c.chunkBytes c.nextClaim = some 256 ∧ v.claims 256 ≤ v.free ∧
    c.claimTurn s 0 0 = true ∧ c.claimTurn f 0 0 = true ∧
    getSlot s 0 5 = v ∧ (getSlot f 0 5).free < (getSlot f 0 5).claims 256 := by decide +kernel

/-- A SLABGROW of entry 1 in the queue of context 0, as `f` says. -/
def growing (n : Nat) (f : Cmd → Cmd) : State :=
  let c : Cmd := { freshCmd State.reset (.slabgrow p0 ⟨1, false⟩ 0) none (plainForm false 0 0) (vaultKey 64) with
    desc := slDesc, pos := [2 ^ 62 + 64] }
  let s := vlab fun t => { t with cmds := [f c], xfwdn := BitVec.ofNat 64 (2 ^ 24) }
  { s with tables := s.tables ++ [((0, 0, 4), n * 2 ^ 32 + 16 * 2 ^ 26 + 2 ^ 24 + 1), ((0, 0, 5), 2 ^ 32)] }

theorem witness_slabGrowth :
    let c := fun (s : State) => ((getCtx s 0 0).cmds)[0]?
    let a := growing 2 id
    let o := growing 1 id
    let r := growing 2 fun m => { m with started := true, chunks := 1 }
    let z := growing 2 fun m => { m with started := true }
    (∃ m, c a = some m ∧ m.isGrow = true ∧ m.started = false ∧ growReady a 0 0 m = true ∧
      poisoned a (m.base + 16) 1 = false) ∧ winSize a 0 1 = 16 ∧
    bits (winWord o 0 1 0) 63 32 * 2 ^ 16 % 2 ^ 17 ≠ 0 ∧ bits (winWord a 0 1 0) 63 32 * 2 ^ 16 % 2 ^ 17 = 0 ∧
    rangeFree a (2 ^ 17) (2 ^ 17) (2 ^ 17) = true ∧
    (∃ m, c r = some m ∧ m.isGrow = true ∧ m.started = true ∧ m.ported < m.chunks) ∧ Memory.wf r.mem = true ∧
    spotOf r 0 0 none none false false = .at_ 0 false 0 0 false ∧ poisoned r 0 0 = false ∧ isAperture 0 = false ∧
    (∀ m, c r = some m → m.sent = []) ∧
    (∃ m, c z = some m ∧ m.isGrow = true ∧ m.started = true ∧ m.chunks ≤ m.ported) ∧
    swapReady (getCore z 0) 0 = true ∧ winSize z 0 1 < 40 := by
  refine ⟨⟨_, rfl, ?_⟩, ?_, ?_, ?_, ?_, ⟨_, rfl, ?_⟩, ?_, ?_, ?_, ?_, fun m h => ?_, ⟨_, rfl, ?_⟩, ?_, ?_⟩
  all_goals first | decide +kernel | (cases h; rfl)

/-- A growth from package 5's memory: its first piece goes over port 3. -/
theorem witness_farGrowth :
    let k := 2 ^ 47 + 2 ^ 39 + 5 * 2 ^ 33
    let s := { growing 2 (fun m => { m with started := true, chunks := 1 }) with
      inPod := true, ports := [(3, { Port.reset with state := 2, peer := 5 })] }
    spotOf s k 0 none none false false = .at_ k false 0 0 false ∧ isAperture k = true ∧ portTo s (bits k 38 33) = some 3 := by
  decide +kernel

/-- A slab that has grown from 2^32, which entry 1 of core 0 still maps, and one that nothing maps. -/
theorem witness_oldSlabs :
    let s := fun (b : Nat) => { slab State.reset with oldSlabs := [⟨b, 2 ^ 33, 17⟩] }
    (s 0).oldSlabs = [⟨0, 2 ^ 33, 17⟩] ∧ (s 0).tables.find? (mapsSlab (s 0) 0) = none ∧
    (s (2 ^ 32)).tables.find? (mapsSlab (s (2 ^ 32)) (2 ^ 32)) ≠ none ∧
    ((s (2 ^ 32)).tables.find? (slabStale (s (2 ^ 32)) (2 ^ 32))).isSome = true ∧
    (let r := { slab (lab id) with groups := [grp], oldSlabs := (s (2 ^ 32)).oldSlabs }
     r.tables.find? (mapsSlab r (2 ^ 32)) ≠ none ∧ r.tables.find? (slabStale r (2 ^ 32)) = none) := by decide +kernel

theorem witness_nearMemoryWork :
    let d := leBytes 8 0 ++ leBytes 8 4 ++ List.replicate 16 0 ++ leBytes 4 1 ++ [0x10] ++ List.replicate 27 0
    let m : NmCmd := ⟨0, 0, 0, none, 1, d, none, 0, vaultKey 0, true, [0], [0], [], 0, 0, none⟩
    let s := { lab id with nmq := [(0, [m])] }
    let e := fun (n : Option Nat) (st : Nat) => { m with fin := some ⟨0, 0, st, true⟩, node := n }
    (e none 1).fin = some ⟨0, 0, 1, true⟩ ∧ (e (some 3) 2).node = some 3 ∧
    alGet [] { s with nmq := [(0, [e none 1])] }.nmq 0 = [e none 1] ∧ m.fin = none ∧ alGet [] s.nmq 0 = [m] ∧ Memory.wf s.mem = true ∧ nmBursts d = 1 ∧ nmBursts d ≤ ({ m with burst := 1 } : NmCmd).burst ∧
    nmElems d 0 = [0] ∧ onStack 0 (nmKey [0] (nmDeva d) 0) 4 = true ∧ onStack 0 (nmKey [0] (nmDevb d) 0) 4 = true ∧
    poisoned s (nmKey [0] (nmDevb d) 0) 4 = false ∧ poisoned s (nmKey [0] (nmDeva d) (nmFirst d 0) / 32 * 32) 32 = false := by
  decide +kernel

theorem witness_imageWork :
    let c : Cmd := { freshCmd State.reset (.imgdec p0 ⟨1, false⟩ 0) none (plainForm true 0 0) 0 with desc := imDesc }
    let s := { lab (fun t => { t with cmds := [c] }) with imgq := [(0, [⟨0, 0, 0, none, imDesc, []⟩])] }
    (alGet [] s.imgq 0).head? = some ⟨0, 0, 0, none, imDesc, []⟩ ∧ (getCtx s 0 0).cmds.find? (fun m => m.uid == 0) = some c ∧
    c.form.load = true ∧ c.units = [] ∧ c.stopped = false ∧ c.parkedAt = none := by decide +kernel

theorem witness_imageNodeWork :
    let d := leBytes 8 0 ++ leBytes 4 1 ++ [2, 14, 1, 0] ++ leBytes 4 1 ++ leBytes 4 1 ++ leBytes 4 196 ++ leBytes 4 0 ++
      leBytes 8 4096 ++ leBytes 4 1 ++ List.replicate 12 0 ++ leBytes 8 8192
    let s := { State.reset with
      imgq := [(0, [⟨64, 0, 0, some 3, d, []⟩])], tables := [((0, 0, 65536), 20 * 2 ^ 26 + 2 ^ 24 + 1), ((0, 0, 65537), 0)] }
    let r := intake 0 d (readRuns s [(0, 1)])
    d.length = 64 ∧ imageHole s 0 = none ∧ (nodeRange s 0 1).toOption = some [(0, 1)] ∧ poisoned s 0 1 = false ∧
    (∀ o, intake o d (readRuns s [(0, 1)]) = r) ∧ r.1.length = 256 ∧ patchAddr d (imFirst d) = 4096 ∧
    (nodeRange s 4096 256).toOption = some [(4096, 256)] ∧ (nodeRange s 8192 32).toOption = some [(8192, 32)] ∧
    nodeShared s 4096 256 = none ∧ nodeShared s 8192 32 = none ∧ isAperture 0 = false ∧ isAperture 4096 = false ∧
    isAperture 8192 = false ∧ 4096 + 256 ≤ 8192 ∧
    (let l := { s with imgq := [(0, [⟨64, 0, 0, some 3, d, [(19, true)]⟩])] }
     (alGet [] l.imgq 0).head? = some ⟨64, 0, 0, some 3, d, [(19, true)]⟩ ∧ imageHole l 0 = none ∧
       (nodeRange l 0 1).toOption = some [(0, 1)] ∧ (nodeRange l 4096 256).toOption = some [(4096, 256)]) := by
  refine ⟨?_, ?_, ?_, ?_, fun _ => rfl, ?_, ?_, ?_, ?_, ?_, ?_, ?_, ?_, ?_, ?_, ?_, ?_, ?_, ?_⟩ <;> decide +kernel

/-- A node record: kind, contexts, lists of descriptors, work, completion word. -/
def nodeRec (kind gid node ctxs count work donew : Nat) : List Byte :=
  leBytes 4 gid ++ leBytes 2 node ++ leBytes 1 kind ++ [0] ++ leBytes 2 ctxs ++ [0, 0] ++ leBytes 4 count ++ leBytes 8 work ++
    leBytes 16 0 ++ leBytes 8 donew ++ List.replicate 16 0

/-- A node of the node table. -/
def node (i : Nat) (st : NodeSt) (r : List Byte) : Node := ⟨i, r, [], [], 0, 0, st, [], 0, 0, 0, 0, 0, 0, 0⟩

/-- The package in Service, with kernel 1, and memory of 1 MiB at 0 mapped for the primary supervisor. -/
def pkg : State :=
  { State.reset with
    mode := .operating, kernels := [⟨1, 3, 0, image, 0, 0, 0⟩]
    tables := [((0, 0, 65536), 20 * 2 ^ 26 + 2 ^ 24 + 1), ((0, 0, 65537), 0)] }

theorem witness_nodeAccept :
    let s := { pkg with fifo := [⟨0, nodeRec 0 0 0 1 0 1 0, []⟩] }
    let r := { pkg with fifo := [⟨0, nodeRec 4 0 0 1 0 1 0, []⟩] }
    (∃ ops lists, checkNode s (nodeRec 0 0 0 1 0 1 0) (appendWrong s (nodeRec 0 0 0 1 0 1 0)) s.nodes.length =
      .accept ops lists) ∧ bitAt (ndSeal (nodeRec 0 0 0 1 0 1 0)) 0 = false ∧
    checkNode r (nodeRec 4 0 0 1 0 1 0) (appendWrong r (nodeRec 4 0 0 1 0 1 0)) r.nodes.length = .refuse 1 ∧
    wordWaits r (nodeRec 4 0 0 1 0 1 0) = none ∧ pkg.fifo = [] ∧ lackedEntry s ⟨0, nodeRec 0 0 0 1 0 1 0, []⟩ = none ∧
    lackedEntry r ⟨0, nodeRec 4 0 0 1 0 1 0, []⟩ = none := by
  refine ⟨⟨_, _, rfl⟩, ?_, rfl, ?_, ?_, ?_, ?_⟩ <;> decide +kernel

/-- A record names a completion word at 2^21, which an entry of its submitter maps and the primary supervisor's table lacks. -/
theorem witness_nodeRanges :
    let r := nodeRec 0 0 0 1 0 1 (2 ^ 21)
    let w := (2 ^ 21 / 2 ^ 16 * 2 ^ 32 + 16 * 2 ^ 26 + 1, 2 ^ 21)
    let s := { pkg with fifo := [⟨0, r, [w]⟩] }
    s.fifo = [⟨0, r, [w]⟩] ∧ lackedEntry s ⟨0, r, [w]⟩ = some w ∧ freeEntry s = some 1 := by decide +kernel

theorem witness_nodeAging :
    let n : Node := { node 3 .ready (nodeRec 1 0 0 0 0 7 0) with level := 5 }
    let s := { pkg with
      nodes := n :: (List.range 16).map fun d => { node (d + 4) .running (nodeRec 1 0 0 0 0 1 0) with group := d + 1 }
      ck := 100, tables := pkg.tables ++ [((5, 0, 13), 0x100064)] }
    n ∈ s.nodes ∧ n.st = .ready ∧ n.level ≤ 5 ∧ ageOf s n.level ≠ 0 ∧ n.since + ageOf s n.level ≤ s.ck ∧
    canDispatch s 1 = false ∧ canDispatch { s with nodes := [n] } 1 = true ∧ ndKind n.record = 1 ∧ ({ s with ck := 99 } : State).ck < n.since + ageOf s n.level := by decide +kernel

theorem witness_nodeDispatch :
    let s := fun (k : Nat) => { pkg with nodes := [node 3 .ready (nodeRec k 0 0 0 1 1 0)] }
    let b := { pkg with
      nodes := [node 3 .ready (nodeRec 3 0 0 0 1 0 0), { node 4 .running (nodeRec 3 0 0 0 1 0 0) with group := 1 }] }
    let h := { pkg with tables := pkg.tables ++ [((5, 0, 0), 2 ^ 16)] }
    halted pkg = false ∧ headNode (s 1) 1 = some (node 3 .ready (nodeRec 1 0 0 0 1 1 0)) ∧ unitBusy (s 1) 1 0 = false ∧
    headNode (s 2) 2 = some (node 3 .ready (nodeRec 2 0 0 0 1 1 0)) ∧ unitBusy (s 2) 2 0 = false ∧ halted h = true ∧
    halted b = false ∧ headNode b 3 = some (node 3 .ready (nodeRec 3 0 0 0 1 0 0)) ∧
    nodeParks b (node 3 .ready (nodeRec 3 0 0 0 1 0 0)) = none ∧
    unitBusy b 3 (nodeStack b (node 3 .ready (nodeRec 3 0 0 0 1 0 0))) = true ∧
    unitBusy (s 3) 3 (nodeStack (s 3) (node 3 .ready (nodeRec 3 0 0 0 1 1 0))) = false := by decide +kernel

/-- A KIND 3 node whose first DEVA lies on an absent page of object 1. -/
theorem witness_nodeParks :
    let n := { node 3 .ready (nodeRec 3 0 0 0 1 0 0) with lists := [leBytes 8 (2 ^ 21) ++ List.replicate 56 0] }
    let s := { objs { pkg with nodes := [n] } with
      tables := [((0, 0, 65536), 2 ^ 21 / 2 ^ 16 * 2 ^ 32 + 16 * 2 ^ 26 + 2 ^ 25 + 1), ((0, 0, 65537), 1)] ++ (objs pkg).tables.drop 2 }
    halted s = false ∧ headNode s 3 = some n ∧ nodeParks s n = some (2 ^ 24) := by decide +kernel

theorem witness_nodeComplete :
    let n := node 3 .running (nodeRec 2 0 0 0 1 0 0)
    let w := node 3 .running (nodeRec 2 0 0 0 1 0 4096)
    let s := { pkg with nodes := [n] }
    let t := { pkg with nodes := [w] }
    n ∈ s.nodes ∧ n.st = .running ∧ (∀ m ∈ s.nodes, m.index = 3 → m = n) ∧ 2 ≤ ndKind n.record ∧ engineDone s n = true ∧
    n.cause = 0 ∧ Memory.wf s.mem = true ∧ ndDonew n.record = 0 ∧ ndDonew w.record ≠ 0 ∧ engineDone t w = true ∧
    placeOf t primary 0 (ndDonew w.record) = .at_ 4096 false 0 0 false := by decide +kernel

theorem witness_newGroups :
    let n := node 3 .ready (nodeRec 0 0 0 1 0 1 0)
    let s := { pkg with nodes := [n] }
    let h := { s with tables := s.tables ++ [((5, 0, 0), 2 ^ 16)] }
    groupOf s 1 = none ∧ halted s = false ∧ s.mode = .operating ∧ headNode s 0 = some n ∧ n ∈ s.nodes ∧ n.group = 0 ∧
    newCores s (evictable s) n none = some [0] ∧
    (placeOn s n 1 (ndWork n.record) (kernelImage s (ndWork n.record)) [0] [0, 0, 2 ^ 20] (evictable s)).isSome = true ∧
    halted h = true ∧ h.mode = .operating := by decide +kernel

theorem witness_groupsEnd :
    let s := { lab id with groups := [{ grp with retired := [0] }] }
    let r := { lab id with groups := [grp] }
    let m := { State.reset with groups := [{ grp with st := .assigned, places := [] }] }
    let p := { lab id with groups := [{ grp with st := .placing }] }
    groupOf s 1 = some { grp with retired := [0] } ∧ inPlace s { grp with retired := [0] } = true ∧ s.nodes = [] ∧
    quiet s { grp with retired := [0] } = true ∧ groupOf p 1 = some { grp with st := .placing } ∧ (getCtx p 0 0).group = 1 ∧
    (∀ r, r < grp.ctxs → r ∈ [0]) ∧ grp.st ≠ .assigned ∧ groupOf r 1 = some grp ∧ grp.st = .running ∧
    (∃ x, x < grp.ctxs ∧ x ∉ grp.retired) ∧ groupOf m 1 = some { grp with st := .assigned, places := [] } ∧
    m.mode ≠ .operating ∧ grp.ctxs ≤ freeContexts m 15 ∧ pkg.mode = .operating := by
  refine ⟨rfl, ?_, rfl, ?_, rfl, ?_, ?_, ?_, rfl, ?_, ⟨0, ?_, ?_⟩, rfl, ?_, ?_, ?_⟩ <;> decide +kernel

/-- A frozen group whose node is Suspended, and one that is Ended with a store still to perform. -/
theorem witness_endedGroups :
    let n : Node := { node 3 .suspended (nodeRec 0 0 0 1 0 1 0) with group := 1 }
    let f := { grp with st := .frozen, node := 3 }
    let e := { grp with st := .ended, node := 3 }
    let c : Cmd := freshCmd State.reset (.lsend p0 3 1 ⟨1, false⟩ 0) none (plainForm true 256 256) 0
    let s := { lab id with groups := [f], nodes := [n] }
    let r := { lab (fun t => { t with cmds := [c] }) with groups := [e] }
    groupOf s 1 = some f ∧ nodeOf s f = some n ∧ f.ctxs = 1 ∧ f.retired = [] ∧ groupOf r 1 = some e ∧ quiet r e = false := by
  decide +kernel

theorem witness_links :
    let p := fun (q : Port) => { State.reset with ports := [(3, q)], ck := 5000000 }
    let up : Port := { Port.reset with state := 2, queued := [[], [[7]], [], []] }
    let t : Port := { Port.reset with state := 1, trainStart := some 0 }
    (getPort (p up) 3).queued.getD 1 [] = [[7]] ∧ (getPort (p up) 3).running = true ∧
    0 < (getPort (p up) 3).credits.getD 1 0 ∧ (getPort (p up) 3).queued.getD 2 [] = [] ∧
    ((getPort (p up) 3).recv.getD 1 []).length < 64 ∧ (List.replicate 256 (0 : Byte)).length = 256 ∧
    (getPort (p up) 3).state = 2 ∧ (getPort (p t) 3).state = 1 ∧ (getPort (p t) 3).trainStart = some 0 ∧
    (p t).ck ≤ 0 + 5000000 ∧ 0 + 5000000 < ({ p t with ck := 5000001 } : State).ck ∧
    (getPort (p { up with state := 4 }) 3).state = 4 ∧ (getPort (p { up with state := 5 }) 3).state = 5 ∧
    (getPort State.reset 3).state = 0 ∧ (getPort (p { t with fails := 2 }) 3).fails = 2 := by decide +kernel

/-- A request of 64 bytes. -/
def rq (op : Nat) (args : List Byte) : List Byte := leBytes 4 9 ++ leBytes 1 op ++ [0, 0, 0] ++ args ++ List.replicate (56 - args.length) 0

/-- The package in Service, with a request at the head of channel 2, and host window 0 of 1 MiB. -/
def req (r : List Byte) (s : State) : State :=
  { s with channels := [(2, { Channel.reset with en := true, inbox := [r] })], windows := [(0, 0, 2 ^ 20)], pciUp := true }

theorem witness_hostChannels :
    let q := fun (r : List Byte) => req r { pkg with
      nodes := [{ node 3 .ready (nodeRec 0 0 0 1 0 1 0) with gid := 6, id := 1 }], ports := [(3, { Port.reset with state := 2 })] }
    let ra := rq 8 ([0, 0, 0, 0] ++ leBytes 4 6 ++ leBytes 2 1)
    let rk := rq 8 ([1, 0, 0, 0] ++ leBytes 4 1)
    let a := q ra
    (getChannel a 2).en = true ∧ malformed (rq 9 []) = true ∧ (rq 9 []).length = 64 ∧ (getChannel a 2).outbox.length < 256 ∧
    a.pciUp = true ∧ a.graphs = [] ∧ pending a 2 8 = some ra ∧ ra.length = 64 ∧ rqWhat ra = 0 ∧
    (a.nodes.find? fun n => n.gid == leAt ra 12 4 && n.id == leAt ra 16 2).isSome = true ∧
    pending (q rk) 2 8 = some rk ∧ rqWhat rk = 1 ∧ (kernelOf (q rk) (leAt rk 12 4)).isSome = true ∧
    pending (q (rq 8 [2, 3])) 2 8 = some (rq 8 [2, 3]) ∧ rqWhat (rq 8 [2, 3]) = 2 ∧
    (getPort (q (rq 8 [2, 3])) (leAt (rq 8 [2, 3]) 9 1)).running = true ∧
    pending (q (rq 8 [3])) 2 8 = some (rq 8 [3]) ∧ rqWhat (rq 8 [3]) = 3 := by decide +kernel

theorem witness_allocAndFree :
    let ra := rq 1 (leBytes 8 1 ++ [0xFF])
    let a := req ra pkg
    let rf := rq 2 (leBytes 8 0)
    let f := req rf { pkg with allocs := [(2, 0, 2 ^ 20)] }
    pending a 2 1 = some ra ∧ 0 < rqA ra ∧ sizeExp (rqA ra) = 16 ∧ leAt ra 16 1 = 0xFF ∧
    rangeFree a (2 ^ 20) (2 ^ 16) (2 ^ 16) = true ∧ mapped a (2 ^ 20) (2 ^ 16) = false ∧ freeEntry a = some 1 ∧
    pending f 2 2 = some rf ∧ clientEntries f 2 = [(20 * 2 ^ 26 + 2 ^ 24 + 1, 0)] ∧ rqA rf = 0 ∧
    clientEntries a 2 = [] ∧ (∀ w, (mappingCores f w).any (coreRuns f []) = false) := by
  refine ⟨?_, ?_, ?_, ?_, ?_, ?_, ?_, ?_, ?_, ?_, ?_, fun w => List.any_eq_false.2 fun c _ => show ¬(false = true) by decide⟩ <;> decide +kernel

theorem witness_hostCopies :
    let r := fun (op n : Nat) => rq op (leBytes 8 0 ++ leBytes 8 4096 ++ leBytes 8 n)
    let s := fun (op n : Nat) => req (r op n) pkg
    let ok := fun (op n : Nat) => match copyRuns (s op n) (r op n) with | .ok rs => decide (rs = [(4096, n)]) | _ => false
    let fails := fun (op n : Nat) => match copyRuns (s op n) (r op n) with | .fails => true | _ => false
    pending (s 3 64) 2 3 = some (r 3 64) ∧ ok 3 64 = true ∧ pending (s 4 64) 2 4 = some (r 4 64) ∧ ok 4 64 = true ∧
    sharedPages (s 3 64) 4096 64 = [] ∧ poisoned (s 3 64) (2 ^ 47) 64 = false ∧ poisoned (s 4 64) 4096 64 = false ∧
    partialBad (s 3 64) [(4096, List.replicate 64 0)] = false ∧ pending (s 3 (2 ^ 20 + 1)) 2 3 = some (r 3 (2 ^ 20 + 1)) ∧
    fails 3 (2 ^ 20 + 1) = true := by decide +kernel

/-- What is got is these bytes. -/
def gets (g : Got) (bs : List Byte) : Bool := match g with | .ok b => b == bs | _ => false

theorem witness_load :
    let r := rq 5 (leBytes 8 4096)
    let s := fun (b : List Byte) => put (req r { pkg with kernels := [] }) 4096 b
    pending (s []) 2 5 = some r ∧ rqA r = 4096 ∧ gets (imageAt (s image) 4096) image = true ∧
    imageCheck (pkgIndex (s image)) image = 0 ∧ kernelOf (s image) 1 = none ∧ firstFit (s image) image.length = some 0 ∧
    gets (imageAt (s []) 4096) (List.replicate 128 0) = true ∧
    imageCheck (pkgIndex (s [])) (List.replicate 128 0) = 1 := by decide +kernel

theorem witness_loadSteps :
    let r := rq 5 (leBytes 8 4096)
    let s := fun (b : List Byte) => put (req r { pkg with kernels := [] }) 4096 b
    let k : Nat → Kernel := fun n => ⟨1, n, 1, [], 0, 2, rqSeq r + 1⟩
    loadingKernel (s image) 2 r = none ∧ kernelIndex (s image) 1 = 0 ∧ 0 < Config.kernelWords ∧
    loadingKernel { s image with kernels := [k 1] } 2 r = some (k 1) ∧
    loadingKernel { s image with kernels := [k 2] } 2 r = some (k 2) := by
  refine ⟨?_, ?_, Nat.succ_pos _, ?_, ?_⟩ <;> decide +kernel

theorem witness_unload :
    let r := rq 6 (leBytes 4 1)
    let k : Kernel := ⟨1, 5, 0, image, 0, 2, 10⟩
    let u := fun (q : List Group) => req r { pkg with kernels := [k], groups := q }
    pending (u []) 2 6 = some r ∧ leAt r 8 4 = 1 ∧ kernelOf (u []) 1 = some k ∧ k.state = 5 ∧ k.client = 2 ∧
    undispatched (req r pkg) 1 = [] ∧ kernelOf (req r pkg) 1 = some ⟨1, 3, 0, image, 0, 0, 0⟩ ∧
    k.tag = rqSeq r + 1 ∧ kernelInUse (u []) 1 = false ∧ kernelInUse (u [{ grp with kernel := 1 }]) 1 = true := by
  decide +kernel

theorem witness_submit :
    let h := leBytes 4 6 ++ leBytes 4 1 ++ List.replicate 56 0
    let r := rq 7 (leBytes 8 4096)
    let s := fun (k : Nat) => put (req r pkg) 4096 (h ++ nodeRec k 6 0 1 0 1 0)
    let ok := match checkNodes (s 0) 4096 6 1 0 with | .ok ns => ns.length == 1 | _ => false
    let refused := match checkNodes (s 4) 4096 6 1 0 with | .refuse 0 1 => true | _ => false
    pending (s 0) 2 7 = some r ∧ pending (s 4) 2 7 = some r ∧ gets (nodeGet (s 0) (rqA r) 64) h = true ∧
    headerCode (s 0) h = 0 ∧ leAt h 0 4 = 6 ∧ leAt h 4 4 = 1 ∧ ok = true ∧ refused = true ∧
    headerCode (s 0) (List.replicate 64 0) = 2 := by decide +kernel

theorem witness_service :
    let b : BootInputs := ⟨true, 3, 0, 0xFF, [], List.replicate 16 8, [], [], 0, true, 0, 0, 0⟩
    b.fwValid = true ∧ State.reset.rollback ≤ b.fwVersion ∧ 8 ≤ b.lanes.getD 15 0 ∧ State.reset.mode = .startup ∧
    ({ b with fwVersion := 0 } : BootInputs).fwVersion < ({ State.reset with rollback := 1 } : State).rollback ∧
    (∀ p, p < 16 → 4 ≤ b.lanes.getD p 0) ∧ ({ b with lanes := [8, 5, 3] } : BootInputs).lanes.getD 1 0 = 5 ∧
    ({ b with lanes := [8, 5, 3] } : BootInputs).lanes.getD 2 0 < 4 ∧
    stillPackage { pkg with tables := [((5, 0, 0), 2 ^ 16)] } = true ∧ Memory.wf pkg.mem = true ∧
    pkg.mode ≠ .startup ∧ ({ pkg with fwRunning := true } : State).fwRunning = true ∧ State.reset.fwRunning = false := by
  decide +kernel

theorem witness_invariant : State.reset.Inv := show Memory.wf State.reset.mem = true by decide

theorem witness_roundTrip :
    let i : Instr := .addImm false p0 false (.g 3) (.g 4 false) 12
    i.wf = true ∧ (encode i).isSome = true ∧ (Instr.glim 3 1 2).wf = true ∧ (encodeMicro (.glim 3 1 2)).isSome = true := by
  decide

theorem witness_step :
    let s := { lab code4 with sched := [.issue 0] }
    let s0 := { s with sched := [] }
    let a := landDue (makeCurrent s0 0 0) 0 0
    let t := getCtx a 0 0
    let e := { s with sched := [.event .testModeRequest] }
    let l := modCore s 0 fun k => { k with lantern := { Lantern.reset with phase := .running }, control := [(0, 0x1189000000000000)] }
    s.sched = .issue 0 :: [] ∧ (getCore s0 0).lastIssue ≠ some s.ck ∧ chooseCtx s0 0 = some 0 ∧ t.asyncs = [] ∧
    atFreezePoint a 0 0 = false ∧ t.pc % 2 = 0 ∧ halfAt t t.pc = some ⟨0, 0, [8, 8, 8, 8]⟩ ∧
    (decodeBundle (isSup 0) [8, 8, 8, 8]).toOption = some ⟨⟨0, true, false⟩, []⟩ ∧
    Bundle.instrs ⟨⟨0, true, false⟩, []⟩ = [.nop true false] ∧
    e.sched = .event .testModeRequest :: [] ∧ isEvent .testModeRequest = true ∧
    (getCore l 0).lantern.phase = .running ∧ (getCore l 0).lantern.pc < 512 ∧
    (decodeMicro (controlWord (getCore l 0) (getCore l 0).lantern.pc)).isSome = true := by decide +kernel

/-- A bundle with S = 0 and an operation in slot 2, and one with an operation in slot 1, at address 0. -/
theorem witness_twoBundles :
    let ps := [0x40, 0x248A, 2, 0x28, 0xC20C, 0x2020]
    let s := { lab (fun t => { t with half0 := some ⟨0, 0, ps⟩ }) with sched := [.issue 0] }
    let t := getCtx (landDue (makeCurrent { s with sched := [] } 0 0) 0 0) 0 0
    let i : Instr := .add true p0 false (.g 8) (.g 9 true) (.g 10 false)
    let j : Instr := .addImm false ⟨false, 2⟩ false (.g 3) (.g 4 false) 12
    t.pc = 0 ∧ halfAt t 0 = some ⟨0, 0, ps⟩ ∧ (Half.from_ ⟨0, 0, ps⟩ 0) = ps ∧
    (decodeBundle false ps).toOption = some ⟨⟨4, false, false⟩, [i]⟩ ∧
    (decodeBundle false (ps.drop (Header.parcels ⟨4, false, false⟩))).toOption = some ⟨⟨2, true, false⟩, [j]⟩ ∧
    (4 : Nat) &&& 2 = 0 ∧ loopEnd t 6 = false ∧ [(1, j), (2, i)].Perm ([(2, i)] ++ [(1, j)]) ∧
    [(1, j), (2, i)].Pairwise (fun p q => p.1 < q.1) := by
  refine ⟨?_, ?_, ?_, ?_, ?_, ?_, ?_, List.Perm.swap .., ?_⟩ <;> decide +kernel

theorem witness_matrixRows :
    let s := lab fun t => { t with tcnt := 24 }
    let a := startCycle s
    let i : Instr := .mmul p0 0 0 0 63 .i8 true 0 .f32 none none
    let at_ := fun (n : Nat) => lab fun t => { t with rows := [⟨0, i, 0, 0, n, 0, 0, none, 0⟩] }
    let b := modCore (lab fun t => { t with rows := [⟨0, .mldb p0 0 0 .i8 none, 0, 0, 5, 0, 0, none, 0⟩] }) 0 id
    a.me.rows = [] ∧ a.myCore.bad = [] ∧ goes (opMmul p0 0 0 0 0 .i8 true 0 .f32 none none) s = true ∧
    goes (opMldb p0 3 0 .i8 none) s = true ∧ (getCtx (at_ 2) 0 0).rows = [⟨0, i, 0, 0, 2, 0, 0, none, 0⟩] ∧ Fmt.i8.pA = 8 ∧
    (getCtx (at_ 2) 0 0).icyc < 0 + 2 * 8 / 8 ∧ 0 + 0 * 8 / 8 ≤ (getCtx (at_ 0) 0 0).icyc ∧ (getCore b 0).bad = [] ∧
    (getCtx b 0 0).icyc < 0 + 5 / 3 := by decide +kernel

/-- Row 0 of an MMUL and of an MMULS with no port bound, and one with a port slot bound that holds no program. -/
theorem witness_rowOperands (cs : List Nat) :
    operandPort Core.reset 0 none 7 .i8 cs = (cs, 0, none, Core.reset) ∧
    (operandPort Core.reset 0 (some 2) 7 .i8 [1, 2]).2.2.1 = none := ⟨rfl, by decide +kernel⟩

/-- A select row of zeros: its first field names no rising indices. -/
theorem witness_sparseSelect :
    let s := lab fun t => { t with tcnt := 24 }
    let a := startCycle s
    let o := opMmuls p0 0 0 0 3 .i8 false 6 .i32 none none 4 0
    clear p0 [] [] [] s = true ∧ o.decode a = none ∧ scoreboard a.myCore (o.tileR a) (o.tileW a) = false ∧
    o.empty a [] = false ∧ mulTraps a 0 0 0 3 .i8 false 6 .i32 none none true = [] ∧ 4 < a.me.tcnt ∧
    elemAt 16 (readRow a a.myCore (a.me.tbase + 4) 0).toNat 0 = 0 := by decide +kernel

theorem witness_engineRows :
    let s := lab fun t => { t with tcnt := 24 }
    let a := startCycle s
    let k := a.myCore
    goes (opMmul p0 0 0 63 0 .i8 true 0 .f32 none none) s = true ∧ a.me.rows = [] ∧
    (reduceRows .sum false .f32 .f32 (a.me.k[(0 : Fin 8)]) a.me.flags [[0, 0]] ⟨[], rport k none, rport k none, none⟩).fault =
      none := by decide +kernel

/-! ## Decoding: the spec's worked encodings (12 and 16 to 20, 5 to 8), and words written out from R119 to R123 -/

theorem test_decode_branch :
    [0x05300000, 0x06205000, 0x06A05000, 0x08050800].map (decodeSlot 0) =
      [some (.fence p0 3), some (.bara p0 2 20), some (.barw p0 2 20), some (.lnstart p0 ⟨5, false⟩ ⟨4, false⟩)] := by decide

theorem test_decode_matrix :
    [0x041400C046400200, 0x08006A0040000000, 0x0C006E0400000000].map (decodeSlot 8) =
      [some (.mmuls p0 0 5 0 3 .i8 false 6 .i32 none none 4 0), some (.tdesc p0 0 3 10 0 2), some (.tdpath p0 0 3 14 1)] := by
  decide

theorem test_decode_reduce : decodeSlot 9 0x0A00078400104000 = some (.rcmpr p0 0 0 15 1 0 .i8 4 0) := by decide

theorem test_decode_copy :
    [0x0080000B90A000A0, 0x25008A03FF000000, 0x058F800000000000, 0x0692060009000000].map (decodeSlot 10) =
      [some (.tst p0 0 0 0 ⟨23, false⟩ 1 40 none .i32 .rne false), some (.nmcSgdfade ⟨false, 2⟩ ⟨10, false⟩ 0x3FF),
        some (.nmfence p0 none), some (.lrecv p0 2 1 ⟨6, false⟩ 9)] := by decide

theorem test_encode_add :
    encode (.add false p0 false (.g 3) (.g 1 false) (.g 2 false)) = some (1, 49282) := by decide

/-! ## Numbers: the worked cases of R39 and of 02 -/

theorem test_round_fp4 :
    [Fmt.e2m1.convert .rne 0 (.fin false 5 (-1)), Fmt.e2m1.convert .rne 0 (.fin false 5 0),
      Fmt.e2m1.convert .rne 0 (.fin false 1 (-2)), Fmt.e2m1.convert .rz 0 (.fin false 11 (-2))] =
      [(4, 0), (6, 0), (0, flagUNF), (4, 0)] := by decide

theorem test_round_fp8 :
    [Fmt.e4m3.convert .rne 0 (.fin false 17 0), Fmt.e4m3.convert .rne 0 (.fin false 500 0)] =
      [(0x58, 0), (0x7E, flagSAT)] := by decide

theorem test_round_int :
    [Fmt.i8.convert .rne 0 (.fin true 5 (-1)), Fmt.u8.convert .rne 0 (.fin false 3007 (-3)),
      Fmt.i8.convert .rne 0 (.fin false 255 (-1)), Fmt.i8.convert .rz 0 (.fin false 255 (-1))] =
      [(0xFE, 0), (255, flagSAT), (127, flagSAT), (127, 0)] := by decide

/-- A zero-run block of 202 elements passes under r = 4 and fails under r = 3 (R59). -/
theorem test_zeroRun_bound :
    let b := fun (r : Nat) => expandBlock .i8 .rne r ([0x40, 127, 0x05, 0x00, 0xC8, 0xFB] ++ List.replicate 58 0)
    (b 4).map (·.1) = some (5 :: List.replicate 200 0 ++ [0xFB]) ∧ b 3 = none := by decide +kernel

/-- Two rows of 2 white, 3 black and 3 white pixels, in the codes of ITU-T T.6: horizontal mode with runs 2 and 3, V0; then
V0 three times (R190, R191). -/
theorem test_group4 :
    (match g4Image 8 2 [0x2F, 0x78] with | .ok b => b | .error _ => []) =
      [255, 255, 0, 0, 0, 255, 255, 255, 255, 255, 0, 0, 0, 255, 255, 255] := by decide +kernel

/-! ## One step: results in flight, branches, exceptions -/

/-- A register's bits after a full-width wrap, and the latencies of classes 0 and 1 (R86). -/
theorem test_add_wraps :
    (nxt (.add false p0 false (.g 3) (.g 1 false) (.g 2 false))
      (lab fun t => { t with g := t.g.set 1 0xFFFFFFFFFFFFFFFF |>.set 2 3 })).me.flights.map (·.w) = [.g 3 2] := by decide

theorem test_mul_latency :
    (nxt (.mulImm false p0 false (.g 2) (.g 3 false) 4) (lab fun t => { t with g := t.g.set 3 3 })).me.flights.map
      (fun f => (f.due, f.w)) = [(3, .g 2 12)] := by decide

theorem test_clz :
    (nxt (.clz false p0 false (.g 2) (.g 3 false)) (lab fun t => { t with g := t.g.set 3 (2 ^ 16) })).me.flights.map (·.w) =
      [.g 2 47] := by decide

/-- The low 32 bits shifted arithmetically, and their sign taken to 64 (R160, R172). -/
theorem test_sra_word :
    (nxt (.sraImm false p0 true (.g 3) (.g 3 false) 4) (lab fun t => { t with g := t.g.set 3 0x80000000 })).me.flights.map
      (·.w) = [.g 3 0xFFFFFFFFF8000000] := by decide

theorem test_cmpltu :
    (nxt (.cmpltuImm false p0 false 2 (.g 4 false) 16) (lab fun t => { t with g := t.g.set 4 15 })).me.flights.map (·.w) =
      [.p 2 true] := by decide

/-- 1 / 3 in FP32 rounds up to 0x3EAAAAAB, 16 ck later (R75, R168). -/
theorem test_fdiv :
    (nxt (.fdiv false p0 6 (.g 7 false) (.g 8 false)) (lab fun t => { t with
      g := t.g.set 7 0x3F800000 |>.set 8 0x40400000 })).me.longs.map (·.v) = [0x3EAAAAAB] := by decide +kernel

/-- TRAPI #0x0042 takes cause 0x0F with its immediate (R148). -/
theorem test_trapi :
    let t := (nxt (.trapi p0 0x42) (lab id)).me
    t.xcause = 0x0F ∧ t.xtval = 0x42 ∧ t.st = .freezing := by decide

/-- g5 = 5, h2 = 6: VCMP g5, h2 traps with DUP_MISMATCH (R178). -/
theorem test_vcmp :
    (nxt (.vcmp ⟨5, false⟩ 2) (lab fun t => { t with g := t.g.set 5 5, h := t.h.set 2 6 })).me.xcause = 0x07 := by decide

/-- BRA to the third parcel on, and BRI to the address in g31. -/
theorem test_branch :
    (nxt (.bra p0 2) (lab code4)).me.pc = 4 ∧
    (nxt (.bri p0 ⟨31, false⟩) (lab fun t => code4 { t with g := t.g.set 31 6 })).me.pc = 6 := by decide

/-- ST.2 writes its two low bytes, little-endian (R32, R175). -/
theorem test_store :
    readBytes (nxt (.st p0 1 (.g 7 false) ⟨6, false⟩ 1) (vlab fun t => { t with g := t.g.set 7 0x11223344 })).mem (vaultKey 0) 6 =
      [0, 0, 0x44, 0x33, 0, 0] := by decide

/-- LDSX.2 sign-extends (R174). -/
theorem test_ldsx :
    let s := put (vlab id) (vaultKey 0) [0x80, 0xFF]
    (nxt (.ldsx p0 1 5 ⟨6, false⟩ 0) s).me.longs.map (·.v) = [0xFFFFFFFFFFFFFF80] := by decide

/-- ANDN k2, k0, k1: rows in k0 and not in k1 (R177). -/
theorem test_kandn :
    (nxt (.pAndn p0 true 2 0 1) (lab fun t => { t with k := t.k.set 0 0xFF |>.set 1 0x0F })).me.flights.map (·.w) =
      [.k 2 0xF0] := by decide

end Sys2Proof.Tests
end

section
/-!
The no-operation form (O9, R98): no field of a slot decodes to it, and a group that holds no operation goes ahead, with no
effect but its issue cycle.
-/
namespace Sys2Proof.Machine

/-! ## What the layouts of slot fields read

A layout builds its instruction with the constructor it is given: whatever holds of all that the constructor builds holds of
what the layout reads, if it reads anything. -/

@[simp] theorem option_all_ite {α : Type} (c : Prop) [Decidable c] (p : α → Bool) (a b : Option α) :
    (if c then a else b).all p = if c then a.all p else b.all p := apply_ite _ _ _ _

@[simp] theorem option_all_keepIf {α : Type} (p : α → Bool) (a : α) (c : Bool) : (keepIf c a).all p = (!c || p a) := by
  cases c <;> rfl

section Layouts
variable {p : Instr → Bool}

theorem splitOp_all {f : Guard → Nat → Nat → Option Instr} (h : ∀ gd op body, (f gd op body).all p = true)
    (n m word : Nat) : (splitOp n m f word).all p = true := by
  unfold splitOp
  split
  · exact h _ _ _
  · rfl

theorem decAlu_all {r : Bool → Reg → Src → Src → Instr} {im : Bool → Reg → Src → BitVec 7 → Instr}
    (hr : ∀ w d a b, p (r w d a b) = true) (hi : ∀ w d a m, p (im w d a m) = true) (body : Nat) :
    (decAlu r im body).all p = true := by
  unfold decAlu
  split <;> simp [Option.all_bind, Function.comp_def, hr, hi]

theorem decDiv_all {r : Bool → Fin 32 → Src → Src → Instr} {im : Bool → Fin 32 → Src → BitVec 7 → Instr}
    (hr : ∀ w d a b, p (r w d a b) = true) (hi : ∀ w d a m, p (im w d a m) = true) (body : Nat) :
    (decDiv r im body).all p = true := by
  unfold decDiv
  split <;> simp [Option.all_bind, Function.comp_def, hr, hi]

theorem decShift_all {r : Bool → Reg → Src → Src → Instr} {im : Bool → Reg → Src → Fin 64 → Instr}
    (hr : ∀ w d a b, p (r w d a b) = true) (hi : ∀ w d a c, p (im w d a c) = true) (body : Nat) :
    (decShift r im body).all p = true := by
  unfold decShift
  split <;> simp [Option.all_bind, Function.comp_def, hr, hi]

theorem decCmp_all {r : Bool → Fin 8 → Src → Src → Instr} {im : Bool → Fin 8 → Src → BitVec 7 → Instr}
    (hr : ∀ w pd a b, p (r w pd a b) = true) (hi : ∀ w pd a m, p (im w pd a m) = true) (body : Nat) :
    (decCmp r im body).all p = true := by
  unfold decCmp
  split <;> simp [Option.all_bind, Function.comp_def, hr, hi]

theorem decUn_all {r : Bool → Reg → Src → Instr} (h : ∀ w d a, p (r w d a) = true) (body : Nat) :
    (decUn r body).all p = true := by
  unfold decUn
  split <;> simp [Option.all_bind, Function.comp_def, h]

theorem decF2_all {r : Reg → Src → Src → Instr} (h : ∀ d a b, p (r d a b) = true) (body : Nat) :
    (decF2 r body).all p = true := by
  unfold decF2
  split <;> simp [Option.all_bind, Function.comp_def, h]

theorem decF2g_all {r : Fin 32 → Src → Src → Instr} (h : ∀ d a b, p (r d a b) = true) (body : Nat) :
    (decF2g r body).all p = true := by
  unfold decF2g
  split <;> simp [Option.all_bind, Function.comp_def, h]

theorem decF1_all {r : Reg → Src → Instr} (h : ∀ d a, p (r d a) = true) (body : Nat) :
    (decF1 r body).all p = true := by
  unfold decF1
  split <;> simp [Option.all_bind, Function.comp_def, h]

theorem decF1g_all {r : Fin 32 → Src → Instr} (h : ∀ d a, p (r d a) = true) (body : Nat) :
    (decF1g r body).all p = true := by
  unfold decF1g
  split <;> simp [Option.all_bind, Function.comp_def, h]

theorem decFcvt_all {r : Reg → Src → Rm → Instr} (h : ∀ d a rm, p (r d a rm) = true) (body : Nat) :
    (decFcvt r body).all p = true := by
  unfold decFcvt
  split <;> simp [Option.all_bind, Function.comp_def, h]

theorem decFcmp_all {r : Fin 8 → Src → Src → Instr} (h : ∀ pd a b, p (r pd a b) = true) (body : Nat) :
    (decFcmp r body).all p = true := by
  unfold decFcmp
  split <;> simp [Option.all_bind, Function.comp_def, h]

theorem decMovw_all {r : Bool → Fin 32 → BitVec 16 → Instr} (h : ∀ z d m, p (r z d m) = true) (body : Nat) :
    (decMovw r body).all p = true := by
  unfold decMovw
  split <;> simp [h]

theorem decLoopn_all {gd : Guard} {st : Fin 4} (h : ∀ len n ga gb, p (.loopn gd st len n ga gb) = true) (body : Nat) :
    (decodeBROp.decLoopn gd st body).all p = true := by
  unfold decodeBROp.decLoopn
  split <;> simp [h]

theorem decBar_all {r : Fin 8 → Fin 1024 → Instr} (h : ∀ sc bar, p (r sc bar) = true) (body : Nat) :
    (decodeBROp.decBar r body).all p = true := by
  unfold decodeBROp.decBar
  split <;> simp [h]

theorem decA16_all {r : GSrc → Instr} (h : ∀ a, p (r a) = true) (body : Nat) :
    (decodeBROp.decA16 r body).all p = true := by
  unfold decodeBROp.decA16
  split <;> simp [Option.all_map, h]

theorem decLoad_all {r : Fin 4 → Fin 32 → GSrc → BitVec 9 → Instr} (h : ∀ sz d a off, p (r sz d a off) = true)
    (body : Nat) : (decodeLSOp.decLoad r body).all p = true := by
  unfold decodeLSOp.decLoad
  split <;> simp [Option.all_bind, Function.comp_def, h]

theorem decStore_all {r : Fin 4 → Src → GSrc → BitVec 8 → Instr} (h : ∀ sz v a off, p (r sz v a off) = true)
    (body : Nat) : (decodeLSOp.decStore r body).all p = true := by
  unfold decodeLSOp.decStore
  split <;> simp [Option.all_bind, Function.comp_def, h]

theorem decAtom_all {r : Fin 4 → Fin 32 → GSrc → Src → Instr} (h : ∀ sz d a v, p (r sz d a v) = true)
    (body : Nat) : (decodeLSOp.decAtom r body).all p = true := by
  unfold decodeLSOp.decAtom
  split <;> simp [Option.all_bind, Function.comp_def, h]

theorem decCopy_all {r : Fin 32 → Fin 64 → Fin 64 → GSrc → Fin 8 → Fin 1024 → Option (Fin 16) → Fmt → Rm → Bool → Instr}
    (h : ∀ t row cnt a n bar b fmt rm ps, p (r t row cnt a n bar b fmt rm ps) = true) (pair : Bool) (body : Nat) :
    (decCopy r pair body).all p = true := by
  unfold decCopy
  split <;> simp [Option.all_bind, Function.comp_def, h]

theorem decTldc_all {r : Fin 32 → Fin 64 → Fin 64 → GSrc → Fin 8 → Fin 1024 → Option (Fin 16) → Fmt → Rm → Fin 8 → Instr}
    (h : ∀ t row cnt a n bar b fmt rm xr, p (r t row cnt a n bar b fmt rm xr) = true) (body : Nat) :
    (decTldc r body).all p = true := by
  unfold decTldc
  split <;> simp [Option.all_bind, Function.comp_def, h]

theorem decGather_all {r : Fin 32 → Fin 64 → Fin 64 → GSrc → Fin 32 → Fin 64 → Fin 1024 → Option (Fin 16) → Bool →
      Nat → Nat → Option Instr}
    (h : ∀ t row cnt a it irow bar b ps ro fi, (r t row cnt a it irow bar b ps ro fi).all p = true) (pair : Bool)
    (body : Nat) : (decGather r pair body).all p = true := by
  simp only [Option.all_eq_true] at h
  unfold decGather
  split
  · simp only [Option.bind_eq_bind, Option.all_bind, Function.comp_def, option_all_keepIf, Option.all_eq_true, Bool.or_eq_true]
    exact fun _ _ _ _ _ ho => .inr (h _ _ _ _ _ _ _ _ _ _ _ _ ho)
  · rfl

theorem decDesc_all {r : Nat → Nat → Nat → Fin 1024 → Option Instr} (h : ∀ sub a d bar, (r sub a d bar).all p = true)
    (body : Nat) : (decDesc r body).all p = true := by
  unfold decDesc
  split
  · exact h _ _ _ _
  · rfl

theorem decAddrBar_all {r : GSrc → Fin 1024 → Instr} (h : ∀ a bar, p (r a bar) = true) (sub0 sub a d : Nat)
    (bar : Fin 1024) : (decAddrBar r sub0 sub a d bar).all p = true := by
  simp [decAddrBar, Option.all_map, h]

theorem decLink_all {r : Fin 16 → Fin 4 → GSrc → Fin 1024 → Instr} (h : ∀ port vl a bar, p (r port vl a bar) = true)
    (body : Nat) : (decodeCOp.decLink r body).all p = true := by
  unfold decodeCOp.decLink
  split <;> simp [Option.all_map, h]

end Layouts

/-! ## No field of a slot is the no-operation form -/

/-- The instruction is another than the no-operation form. -/
def notNop : Instr → Bool
  | .nop .. => false
  | _ => true

theorem decodeSOp_notNop (s1 : Bool) (gd : Guard) (op body : Nat) : (decodeSOp s1 gd op body).all notNop = true := by
  unfold decodeSOp
  split <;> simp [decAlu_all, decDiv_all, decShift_all, decCmp_all, decUn_all, decF2_all, decF2g_all, decF1_all,
    decF1g_all, decFcvt_all, decFcmp_all, decMovw_all, notNop.eq_def]

theorem decodeBROp_notNop (gd : Guard) (op body : Nat) : (decodeBROp gd op body).all notNop = true := by
  unfold decodeBROp
  repeat' split
  all_goals simp [decLoopn_all, decBar_all, decA16_all, Option.all_bind, Function.comp_def, Option.all_map, notNop.eq_def]

theorem decodeLSOp_notNop (gd : Guard) (op body : Nat) : (decodeLSOp gd op body).all notNop = true := by
  unfold decodeLSOp
  split <;> simp [decLoad_all, decStore_all, decAtom_all, notNop.eq_def]

theorem decodeP_notNop (word : Nat) : (decodeP word).all notNop = true := by
  unfold decodeP
  split
  · dsimp only
    split <;> rfl
  · rfl

theorem decodeXOp_notNop (gd : Guard) (op body : Nat) : (decodeXOp gd op body).all notNop = true := by
  unfold decodeXOp
  repeat' split
  all_goals simp [Option.all_map, notNop.eq_def]

theorem decodeKOp_notNop (gd : Guard) (op body : Nat) : (decodeKOp gd op body).all notNop = true := by
  unfold decodeKOp
  repeat' split
  all_goals simp [Option.all_map, notNop.eq_def]

theorem decodeV_notNop (word : Nat) : (decodeV word).all notNop = true := by
  unfold decodeV
  split <;> simp [Option.all_map, notNop.eq_def]

theorem decodeT_notNop (word : Nat) : (decodeT word).all notNop = true := by
  unfold decodeT
  split
  · dsimp only
    split <;> simp [Option.all_bind, Function.comp_def, notNop.eq_def]
  · rfl

theorem decodeMOp_notNop (gd : Guard) (op body : Nat) : (decodeMOp gd op body).all notNop = true := by
  unfold decodeMOp
  repeat' split
  all_goals simp [Option.all_bind, Function.comp_def, notNop.eq_def]

theorem decodeR_notNop (word : Nat) : (decodeR word).all notNop = true := by
  unfold decodeR
  split
  · dsimp only
    split <;> simp [Option.all_bind, Function.comp_def, notNop.eq_def]
  · rfl

theorem decodeCOp_notNop (gd : Guard) (op body : Nat) : (decodeCOp gd op body).all notNop = true := by
  unfold decodeCOp
  split
  case h_11 =>
    refine decDesc_all (fun sub a d bar => ?_) _
    split <;> simp [decAddrBar_all, notNop.eq_def]
  all_goals try split
  all_goals simp [decCopy_all, decTldc_all, decGather_all, decDesc_all, decAddrBar_all, decLink_all, Option.all_bind,
    Function.comp_def, Option.all_map, notNop.eq_def]

/-- Every slot reads its field by one of the layouts above (R109). -/
theorem decodeSlot_notNop (slot w : Nat) : (decodeSlot slot w).all notNop = true := by
  unfold decodeSlot
  split
  · exact splitOp_all decodeBROp_notNop _ _ _
  · exact splitOp_all (decodeSOp_notNop _) _ _ _
  · exact splitOp_all (decodeSOp_notNop _) _ _ _
  · exact splitOp_all decodeLSOp_notNop _ _ _
  · exact decodeP_notNop _
  · exact splitOp_all decodeXOp_notNop _ _ _
  · exact splitOp_all decodeKOp_notNop _ _ _
  · exact decodeT_notNop _
  · exact splitOp_all decodeMOp_notNop _ _ _
  · exact decodeR_notNop _
  · exact splitOp_all decodeCOp_notNop _ _ _
  · exact decodeV_notNop _
  · rfl

theorem decodeSlot_ne_nop (slot w : Nat) (st d : Bool) : decodeSlot slot w ≠ some (.nop st d) := by
  intro h
  have hn := decodeSlot_notNop slot w
  rw [h] at hn
  exact absurd hn Bool.false_ne_true

/-! ## A header that names no slot -/

theorem decodeHeader_encodeHeader_empty (st d : Bool) :
    decodeHeader (encodeHeader ⟨0, st, d⟩ % 65536) = some ⟨0, st, d⟩ := by
  revert st d; decide

theorem slots_empty (st d : Bool) : Header.slots ⟨0, st, d⟩ = [] := by
  revert st d; decide

/-- A header with MASK 0 takes nothing of what follows it, and it names no slot that a supervisor core refuses (R98, R99). -/
theorem decodeBundle_empty (super st d : Bool) (rest : List Nat) :
    decodeBundle super (encodeHeader ⟨0, st, d⟩ :: rest) = .ok ⟨⟨0, st, d⟩, []⟩ := by
  simp [decodeBundle, decodeHeader_encodeHeader_empty, slots_empty, decodeFields]

/-! ## A group that holds no operation -/

theorem overflows_nil (t : Ctx) (pops : List Nat) : overflows t [] pops = [] := by
  simp [overflows]

/-- Nothing holds back a group of no operation outside a LOOPN block (R63). -/
theorem judge_nil {a : State} (hn : a.me.loopn = none) : judge [] a = .go [] := by
  simp [judge, portDecode, resolve, stalled, deltaStall, hn, emptyWait, groupTraps, overflows_nil, firstTrap, groupBlock,
    aqBlock]

theorem goAhead_nil {a : State} (hn : a.me.loopn = none) : goAhead [] [] a = after a (before a [] none) := by
  have hl := flow_loopn hn a.issue.next none
  have hr := flow_replay hn a.issue.next none
  simp [goAhead, resolve, effectOrder, loopDeltas, hn, hl, hr, after, before, srcPops, readSrcs]

theorem runGroup_nil {s : State} (hr : rowLate (delivered s) s.issue.core s.issue.ctx = false)
    (hn : (startCycle s).me.loopn = none) : runGroup [] s = after (startCycle s) (before (startCycle s) [] none) := by
  simp [runGroup, hr, judge_nil hn, goAhead_nil hn]

/-! ## The obligation -/

theorem exec_nop (st d : Bool) (s : State) :
    exec (.nop st d) s = .next (runGroup [] { s with issue := { s.issue with d := d } }) := rfl

/-- Settles O9: MASK 0 decodes alone and on every core, no layout of a slot builds the form, and a group of no operation
goes ahead with nothing to do. -/
theorem nopIssues : Obligations.NopIssues := by
  refine ⟨fun super st d rest => ?_, decodeSlot_ne_nop, ?_⟩
  · exact ⟨_, decodeBundle_empty super st d rest, rfl, by simp [Header.parcels, slots_empty], rfl⟩
  · intro st d s u hr hn
    rw [exec_nop, runGroup_nil hr hn]
    exact ⟨_, rfl, onlyMe_after_idle _ _ _⟩

end Sys2Proof.Machine
end

section
/-!
The predicate and mask operations of slot P (O10, R177): one class 4 result, read at the start of the group.
-/
namespace Sys2Proof.Machine
open Sys2Proof.Laws.RoundTrip

/-! ## What an operation of slot P gives -/

section SlotP
variable {i : Instr} {o : POpKind} {gd : Guard} {k : Bool} {d x y : Fin 8} {s : State}

/-- An operation of slot P has no source, no destination and no check of its own. -/
theorem goes_slotPOp (h : clear gd [] [] [] s = true) : goes (slotPOp o gd k d x y) s = true :=
  goes_of_clear h rfl (scoreboard_nil _) rfl rfl rfl rfl rfl

theorem gives_slotPOp_bit (hx : exec i s = runOne (slotPOp o gd false d x y) s) (h : clear gd [] [] [] s = true) :
    Gives i s [] 4 (.p d (o.bit ((startCycle s).me.p.getLsbD x.val) ((startCycle s).me.p.getLsbD y.val))) 0 :=
  gives_of_goes (o := slotPOp o gd false d x y) hx (goes_slotPOp h) rfl fun _ _ => rfl

theorem gives_slotPOp_word (hx : exec i s = runOne (slotPOp o gd true d x y) s) (h : clear gd [] [] [] s = true) :
    Gives i s [] 4 (.k d (o.word (startCycle s).me.k[x] (startCycle s).me.k[y])) 0 :=
  gives_of_goes (o := slotPOp o gd true d x y) hx (goes_slotPOp h) rfl fun _ _ => rfl

end SlotP

theorem exec_pAnd (gd : Guard) (k : Bool) (d x y : Fin 8) (s : State) :
    exec (.pAnd gd k d x y) s = runOne (slotPOp .and gd k d x y) s := rfl

theorem exec_pOr (gd : Guard) (k : Bool) (d x y : Fin 8) (s : State) :
    exec (.pOr gd k d x y) s = runOne (slotPOp .or gd k d x y) s := rfl

theorem exec_pXor (gd : Guard) (k : Bool) (d x y : Fin 8) (s : State) :
    exec (.pXor gd k d x y) s = runOne (slotPOp .xor gd k d x y) s := rfl

theorem exec_pAndn (gd : Guard) (k : Bool) (d x y : Fin 8) (s : State) :
    exec (.pAndn gd k d x y) s = runOne (slotPOp .andn gd k d x y) s := rfl

/-! ## The fields of slot P (R119) -/

/-- The layout of R119, as one number. -/
theorem pack_slotP (gd : Guard) (op : Nat) (k : Bool) (d x y : Fin 8) :
    pack [(4, gd.code), (2, op), (1, k.toNat), (3, d.val), (3, x.val), (3, y.val)] =
      gd.code * 2 ^ 12 + op * 2 ^ 10 + k.toNat * 2 ^ 9 + d.val * 64 + x.val * 8 + y.val := by
  simp only [pack, fieldsWidth]
  omega

/-- What the encoder writes for an operation of slot P is the layout's number, and it reads back (R96). -/
theorem decodeSlot_slotP {i : Instr} {gd : Guard} {op : Nat} {k : Bool} {d x y : Fin 8}
    (he : encodeFields i = encPp gd op k d x y) (hr : Statement i) (hw : i.wf = true) :
    decodeSlot 4 (gd.code * 2 ^ 12 + op * 2 ^ 10 + k.toNat * 2 ^ 9 + d.val * 64 + x.val * 8 + y.val) = some i := by
  refine (hr hw).1 4 _ ?_
  rw [← pack_slotP, encode, he]
  rfl

/-! ## p0 reads as 1 whatever is written to it -/

/-- A write to p0 is discarded, and a write to another predicate leaves bit 0 as it was. -/
theorem applyWrite_p_keeps_p0 (s : State) (c n : Nat) (d : Fin 8) (v : Bool) :
    (getCtx (applyWrite s c n (.p d v)) c n).p.getLsbD 0 = (getCtx s c n).p.getLsbD 0 := by
  simp only [applyWrite, getCtx_modCtx_self]
  split
  · rfl
  · next hd =>
    have hpos : 0 < d.val := Nat.pos_of_ne_zero fun h0 => hd (Fin.ext h0)
    cases v <;> simp [hpos]

/-! ## The obligation -/

/-- Settles O10: every operation of slot P is `slotPOp` of its kind, its field is the encoder's, and a write leaves p0. -/
theorem predicateResults : Obligations.PredicateResults := by
  refine fun gd k d x y s => ⟨fun h => ⟨?_, ?_, ?_, ?_, ?_, ?_, ?_, ?_⟩, fun op => ?_, fun c n v =>
    applyWrite_p_keeps_p0 s c n d v⟩
  · exact gives_slotPOp_bit (o := .and) (exec_pAnd ..) h
  · exact gives_slotPOp_bit (o := .or) (exec_pOr ..) h
  · exact gives_slotPOp_bit (o := .xor) (exec_pXor ..) h
  · exact gives_slotPOp_bit (o := .andn) (exec_pAndn ..) h
  · exact gives_slotPOp_word (o := .and) (exec_pAnd ..) h
  · exact gives_slotPOp_word (o := .or) (exec_pOr ..) h
  · exact gives_slotPOp_word (o := .xor) (exec_pXor ..) h
  · exact gives_slotPOp_word (o := .andn) (exec_pAndn ..) h
  · match op with
    | 0 => exact decodeSlot_slotP rfl (pAnd gd k d x y) rfl
    | 1 => exact decodeSlot_slotP rfl (pOr gd k d x y) rfl
    | 2 => exact decodeSlot_slotP rfl (pXor gd k d x y) rfl
    | 3 => exact decodeSlot_slotP rfl (pAndn gd k d x y) rfl

end Sys2Proof.Machine
end

section
/-!
VCMP (O11, R87, R178): the one check of the operation is that its operands are equal; it has no effect.
-/
namespace Sys2Proof.Machine
open Sys2Proof.Laws.RoundTrip

/-! ## The check of VCMP -/

theorem exec_vcmp (r : GSrc) (hb : Fin 16) (s : State) : exec (.vcmp r hb) s = runOne (opVcmp r hb) s := rfl

theorem opVcmp_traps_eq {r : GSrc} {hb : Fin 16} {a : State} {v : List Word} (h : operand v 0 = a.me.h[hb]) :
    (opVcmp r hb).traps a v = [] := if_pos h

theorem opVcmp_traps_ne {r : GSrc} {hb : Fin 16} {a : State} {v : List Word} (h : operand v 0 ≠ a.me.h[hb]) :
    (opVcmp r hb).traps a v = [⟨10, causeDUP, (operand v 0 ^^^ a.me.h[hb]).toNat⟩] := if_neg h

section Vcmp
variable {r : GSrc} {hb : Fin 16} {s : State}

theorem issuesAs_vcmp (hc : clear ⟨false, 0⟩ [gs r] [] [] s = true) (h : val [gs r] s 0 = (startCycle s).me.h[hb]) :
    IssuesAs (.vcmp r hb) s (advanced (startCycle s) [gs r]) := by
  have hg : goes (opVcmp r hb) s = true :=
    goes_of_clear hc rfl (scoreboard_nil _) rfl rfl (opVcmp_traps_eq h) rfl rfl
  have hr : Runs (.vcmp r hb) s [gs r] none fun _ t => t :=
    runs_of_goes (o := opVcmp r hb) (exec_vcmp r hb s) hg fun _ _ _ hn => hn
  exact issuesAs_of_runs_idle hr

theorem exec_vcmp_trap (hc : clear ⟨false, 0⟩ [gs r] [] [] s = true) (h : val [gs r] s 0 ≠ (startCycle s).me.h[hb]) :
    exec (.vcmp r hb) s = .next (takeTrap (delivered s) s.issue.core s.issue.ctx causeDUP
      (val [gs r] s 0 ^^^ (startCycle s).me.h[hb]).toNat s.issue.addr) := by
  rw [exec_vcmp, runOne, runGroup_trap (o := opVcmp r hb) hc rfl (scoreboard_nil _) rfl rfl (opVcmp_traps_ne h)]
  rfl

end Vcmp

/-! ## The fields of slot V (R122) -/

/-- The layout of R122, as one number. -/
theorem pack_slotV (r : GSrc) (hb : Fin 16) :
    pack [(2, 0), (7, r.code), (4, hb.val), (3, 0)] = r.code * 2 ^ 7 + hb.val * 2 ^ 3 := by
  simp only [pack, fieldsWidth]
  omega

theorem decodeSlot_vcmp (r : GSrc) (hb : Fin 16) :
    decodeSlot 11 (r.code * 2 ^ 7 + hb.val * 2 ^ 3) = some (.vcmp r hb) := by
  refine (vcmp r hb rfl).1 11 _ ?_
  rw [← pack_slotV]
  rfl

/-! ## The obligation -/

/-- Settles O11: VCMP's check passes where the operands are equal, and traps with their difference where they are not. -/
theorem vcmpResults : Obligations.VcmpResults := fun r hb _ =>
  ⟨fun hc => ⟨issuesAs_vcmp hc, exec_vcmp_trap hc⟩, decodeSlot_vcmp r hb⟩

end Sys2Proof.Machine
end

section
/-!
The decoder gives back what the encoder writes (O4): the field word of every constructor is `Statement` of that constructor;
the parcels of a bundle of one operation hold the field word, and a slot reads no more of it than its parcels hold (R96).
-/
namespace Sys2Proof.Machine
open Sys2Proof.Laws Sys2Proof.Laws.RoundTrip

/-! ## Every constructor's word reads back -/

theorem roundTrip_statement : ∀ i : Instr, RoundTrip.Statement i
  | .nop .. => RoundTrip.nop _ _
  | .add .. => RoundTrip.add _ _ _ _ _ _
  | .addImm .. => RoundTrip.addImm _ _ _ _ _ _
  | .sub .. => RoundTrip.sub _ _ _ _ _ _
  | .subImm .. => RoundTrip.subImm _ _ _ _ _ _
  | .and .. => RoundTrip.and _ _ _ _ _ _
  | .andImm .. => RoundTrip.andImm _ _ _ _ _ _
  | .or .. => RoundTrip.or _ _ _ _ _ _
  | .orImm .. => RoundTrip.orImm _ _ _ _ _ _
  | .xor .. => RoundTrip.xor _ _ _ _ _ _
  | .xorImm .. => RoundTrip.xorImm _ _ _ _ _ _
  | .andn .. => RoundTrip.andn _ _ _ _ _ _
  | .andnImm .. => RoundTrip.andnImm _ _ _ _ _ _
  | .min .. => RoundTrip.min _ _ _ _ _ _
  | .minImm .. => RoundTrip.minImm _ _ _ _ _ _
  | .max .. => RoundTrip.max _ _ _ _ _ _
  | .maxImm .. => RoundTrip.maxImm _ _ _ _ _ _
  | .minu .. => RoundTrip.minu _ _ _ _ _ _
  | .minuImm .. => RoundTrip.minuImm _ _ _ _ _ _
  | .maxu .. => RoundTrip.maxu _ _ _ _ _ _
  | .maxuImm .. => RoundTrip.maxuImm _ _ _ _ _ _
  | .clz .. => RoundTrip.clz _ _ _ _ _
  | .popc .. => RoundTrip.popc _ _ _ _ _
  | .cmpeq .. => RoundTrip.cmpeq _ _ _ _ _ _
  | .cmpeqImm .. => RoundTrip.cmpeqImm _ _ _ _ _ _
  | .cmpne .. => RoundTrip.cmpne _ _ _ _ _ _
  | .cmpneImm .. => RoundTrip.cmpneImm _ _ _ _ _ _
  | .cmplt .. => RoundTrip.cmplt _ _ _ _ _ _
  | .cmpltImm .. => RoundTrip.cmpltImm _ _ _ _ _ _
  | .cmple .. => RoundTrip.cmple _ _ _ _ _ _
  | .cmpleImm .. => RoundTrip.cmpleImm _ _ _ _ _ _
  | .cmpltu .. => RoundTrip.cmpltu _ _ _ _ _ _
  | .cmpltuImm .. => RoundTrip.cmpltuImm _ _ _ _ _ _
  | .cmpleu .. => RoundTrip.cmpleu _ _ _ _ _ _
  | .cmpleuImm .. => RoundTrip.cmpleuImm _ _ _ _ _ _
  | .div .. => RoundTrip.div _ _ _ _ _ _
  | .divImm .. => RoundTrip.divImm _ _ _ _ _ _
  | .divu .. => RoundTrip.divu _ _ _ _ _ _
  | .divuImm .. => RoundTrip.divuImm _ _ _ _ _ _
  | .rem .. => RoundTrip.rem _ _ _ _ _ _
  | .remImm .. => RoundTrip.remImm _ _ _ _ _ _
  | .remu .. => RoundTrip.remu _ _ _ _ _ _
  | .remuImm .. => RoundTrip.remuImm _ _ _ _ _ _
  | .fabs .. => RoundTrip.fabs _ _ _ _
  | .fneg .. => RoundTrip.fneg _ _ _ _
  | .fadd .. => RoundTrip.fadd _ _ _ _ _
  | .fsub .. => RoundTrip.fsub _ _ _ _ _
  | .fmul .. => RoundTrip.fmul _ _ _ _ _
  | .fmin .. => RoundTrip.fmin _ _ _ _ _
  | .fmax .. => RoundTrip.fmax _ _ _ _ _
  | .fcmpeq .. => RoundTrip.fcmpeq _ _ _ _ _
  | .fcmplt .. => RoundTrip.fcmplt _ _ _ _ _
  | .fcmple .. => RoundTrip.fcmple _ _ _ _ _
  | .fcmpun .. => RoundTrip.fcmpun _ _ _ _ _
  | .fcvti .. => RoundTrip.fcvti _ _ _ _ _
  | .icvtf .. => RoundTrip.icvtf _ _ _ _ _
  | .fdiv .. => RoundTrip.fdiv _ _ _ _ _
  | .fsqrt .. => RoundTrip.fsqrt _ _ _ _
  | .fma .. => RoundTrip.fma _ _ _ _ _
  | .movw .. => RoundTrip.movw _ _ _ _ _ _
  | .mul .. => RoundTrip.mul _ _ _ _ _ _
  | .mulImm .. => RoundTrip.mulImm _ _ _ _ _ _
  | .mulh .. => RoundTrip.mulh _ _ _ _ _ _
  | .mulhImm .. => RoundTrip.mulhImm _ _ _ _ _ _
  | .mulhu .. => RoundTrip.mulhu _ _ _ _ _ _
  | .mulhuImm .. => RoundTrip.mulhuImm _ _ _ _ _ _
  | .shl .. => RoundTrip.shl _ _ _ _ _ _
  | .shlImm .. => RoundTrip.shlImm _ _ _ _ _ _
  | .shr .. => RoundTrip.shr _ _ _ _ _ _
  | .shrImm .. => RoundTrip.shrImm _ _ _ _ _ _
  | .sra .. => RoundTrip.sra _ _ _ _ _ _
  | .sraImm .. => RoundTrip.sraImm _ _ _ _ _ _
  | .rotr .. => RoundTrip.rotr _ _ _ _ _ _
  | .rotrImm .. => RoundTrip.rotrImm _ _ _ _ _ _
  | .bara .. => RoundTrip.bara _ _ _
  | .barw .. => RoundTrip.barw _ _ _
  | .barp .. => RoundTrip.barp _ _ _ _
  | .bra .. => RoundTrip.bra _ _
  | .bri .. => RoundTrip.bri _ _
  | .call .. => RoundTrip.call _ _
  | .breakI .. => RoundTrip.breakI _
  | .trapi .. => RoundTrip.trapi _ _
  | .ctxfrz .. => RoundTrip.ctxfrz _ _
  | .ctxres .. => RoundTrip.ctxres _ _
  | .drain .. => RoundTrip.drain _
  | .eret .. => RoundTrip.eret _
  | .fence .. => RoundTrip.fence _ _
  | .lnstart .. => RoundTrip.lnstart _ _ _
  | .loop .. => RoundTrip.loop _ _ _
  | .loopImm .. => RoundTrip.loopImm _ _ _
  | .loopn .. => RoundTrip.loopn _ _ _ _ _ _
  | .nsub .. => RoundTrip.nsub _ _
  | .retire .. => RoundTrip.retire _
  | .tblrd .. => RoundTrip.tblrd _ _ _ _
  | .tblwr .. => RoundTrip.tblwr _ _ _ _
  | .xrd .. => RoundTrip.xrd _ _ _
  | .xwr .. => RoundTrip.xwr _ _ _
  | .ld .. => RoundTrip.ld _ _ _ _ _
  | .ldsx .. => RoundTrip.ldsx _ _ _ _ _
  | .st .. => RoundTrip.st _ _ _ _ _
  | .tmcst .. => RoundTrip.tmcst _ _ _ _ _
  | .aadd .. => RoundTrip.aadd _ _ _ _ _
  | .amax .. => RoundTrip.amax _ _ _ _ _
  | .amin .. => RoundTrip.amin _ _ _ _ _
  | .acas .. => RoundTrip.acas _ _ _ _ _
  | .aswp .. => RoundTrip.aswp _ _ _ _ _
  | .pAnd .. => RoundTrip.pAnd _ _ _ _ _
  | .pOr .. => RoundTrip.pOr _ _ _ _ _
  | .pXor .. => RoundTrip.pXor _ _ _ _ _
  | .pAndn .. => RoundTrip.pAndn _ _ _ _ _
  | .vcmp .. => RoundTrip.vcmp _ _
  | .aqpush .. => RoundTrip.aqpush _ _ _
  | .dqpop .. => RoundTrip.dqpop _ _
  | .dqpopt .. => RoundTrip.dqpopt _ _ _ _
  | .aqstat .. => RoundTrip.aqstat _ _
  | .kset .. => RoundTrip.kset _ _ _ _
  | .kseti .. => RoundTrip.kseti _ _ _ _
  | .kclr .. => RoundTrip.kclr _ _
  | .xcvt .. => RoundTrip.xcvt _ _ _ _ _ _ _ _
  | .xexp .. => RoundTrip.xexp _ _ _ _ _ _ _
  | .xtbl .. => RoundTrip.xtbl _ _ _
  | .xtrn .. => RoundTrip.xtrn _ _ _ _ _ _ _
  | .xhad .. => RoundTrip.xhad _ _ _ _ _ _ _ _
  | .mldb .. => RoundTrip.mldb _ _ _ _ _
  | .mmul .. => RoundTrip.mmul _ _ _ _ _ _ _ _ _ _ _
  | .mmuls .. => RoundTrip.mmuls _ _ _ _ _ _ _ _ _ _ _ _ _
  | .tdaddr .. => RoundTrip.tdaddr _ _ _ _ _ _ _
  | .tdaddrAq .. => RoundTrip.tdaddrAq _ _ _ _ _
  | .tdesc .. => RoundTrip.tdesc _ _ _ _ _ _
  | .tdleaf .. => RoundTrip.tdleaf _ _ _ _ _
  | .tdpath .. => RoundTrip.tdpath _ _ _ _ _
  | .rsum .. => RoundTrip.rsum _ _ _ _ _ _ _ _ _ _ _ _
  | .rmax .. => RoundTrip.rmax _ _ _ _ _ _ _ _ _ _ _ _
  | .rssq .. => RoundTrip.rssq _ _ _ _ _ _ _ _ _ _ _ _
  | .rnorm .. => RoundTrip.rnorm _ _ _ _ _ _ _ _ _ _ _ _
  | .rsortk .. => RoundTrip.rsortk _ _ _ _ _ _ _
  | .rcmpr .. => RoundTrip.rcmpr _ _ _ _ _ _ _ _ _
  | .tld .. => RoundTrip.tld _ _ _ _ _ _ _ _ _ _ _
  | .tst .. => RoundTrip.tst _ _ _ _ _ _ _ _ _ _ _
  | .tldc .. => RoundTrip.tldc _ _ _ _ _ _ _ _ _ _ _
  | .twin .. => RoundTrip.twin _ _ _ _ _ _ _ _ _ _ _
  | .tgath .. => RoundTrip.tgath _ _ _ _ _ _ _ _ _ _
  | .tgath2 .. => RoundTrip.tgath2 _ _ _ _ _ _ _ _ _ _
  | .tscat .. => RoundTrip.tscat _ _ _ _ _ _ _ _ _ _
  | .tredAdd .. => RoundTrip.tredAdd _ _ _ _ _ _ _ _ _ _ _
  | .tredMax .. => RoundTrip.tredMax _ _ _ _ _ _ _ _ _ _ _
  | .nset .. => RoundTrip.nset _ _ _ _ _
  | .nclr .. => RoundTrip.nclr _ _
  | .nmcSgdfade .. => RoundTrip.nmcSgdfade _ _ _
  | .nmcFill .. => RoundTrip.nmcFill _ _ _
  | .nmcCopy .. => RoundTrip.nmcCopy _ _ _
  | .nmcScale .. => RoundTrip.nmcScale _ _ _
  | .nmcAccum .. => RoundTrip.nmcAccum _ _ _
  | .nmfence .. => RoundTrip.nmfence _ _
  | .lsend .. => RoundTrip.lsend _ _ _ _ _
  | .lrecv .. => RoundTrip.lrecv _ _ _ _ _
  | .lstat .. => RoundTrip.lstat _ _ _
  | .imgdec .. => RoundTrip.imgdec _ _ _
  | .slabgrow .. => RoundTrip.slabgrow _ _ _
  | .lanternStart => RoundTrip.lanternStart
  | .pld .. => RoundTrip.pld _ _
  | .sgld .. => RoundTrip.sgld _
  | .glim .. => RoundTrip.glim _ _ _
  | .kgth .. => RoundTrip.kgth _ _
  | .vgth .. => RoundTrip.vgth _ _
  | .qkmm .. => RoundTrip.qkmm _ _
  | .osmx .. => RoundTrip.osmx _
  | .pvmm => RoundTrip.pvmm
  | .rscl => RoundTrip.rscl
  | .owrt => RoundTrip.owrt
  | .sgap .. => RoundTrip.sgap _ _
  | .ewait .. => RoundTrip.ewait _
  | .bsig .. => RoundTrip.bsig _ _
  | .loops .. => RoundTrip.loops _ _
  | .brc .. => RoundTrip.brc _ _ _ _
  | .done => RoundTrip.done
  | .saddi .. => RoundTrip.saddi _ _ _
  | .smovi .. => RoundTrip.smovi _ _
  | .exposedResultDelivery .. => RoundTrip.exposedResultDelivery _ _
  | .longLatencyLanding .. => RoundTrip.longLatencyLanding _ _ _
  | .tmcstLanding => RoundTrip.tmcstLanding
  | .watchdog .. => RoundTrip.watchdog _ _
  | .segmentExpansion .. => RoundTrip.segmentExpansion _ _
  | .chunkPerform .. => RoundTrip.chunkPerform _ _ _ _
  | .ringClaim .. => RoundTrip.ringClaim _ _ _
  | .dataQueueArrival .. => RoundTrip.dataQueueArrival _ _ _
  | .asyncTrap .. => RoundTrip.asyncTrap _ _
  | .nmcExecution .. => RoundTrip.nmcExecution _
  | .imageDecode .. => RoundTrip.imageDecode _
  | .slabgrowChunk .. => RoundTrip.slabgrowChunk _ _ _ _
  | .freezeLimit .. => RoundTrip.freezeLimit _ _
  | .contextFreeze .. => RoundTrip.contextFreeze _ _
  | .saveImageWritten .. => RoundTrip.saveImageWritten _ _
  | .shoot .. => RoundTrip.shoot _ _
  | .wake .. => RoundTrip.wake _ _
  | .barrierCfgWrite .. => RoundTrip.barrierCfgWrite _ _ _
  | .barrierForce .. => RoundTrip.barrierForce _ _ _
  | .pkgWordWrite .. => RoundTrip.pkgWordWrite _
  | .scopeWordWrite .. => RoundTrip.scopeWordWrite _
  | .pageFaultService .. => RoundTrip.pageFaultService _ _ _ _ _
  | .pageEviction .. => RoundTrip.pageEviction _ _ _ _
  | .copyOnWrite .. => RoundTrip.copyOnWrite _ _ _
  | .nodeAccept => RoundTrip.nodeAccept
  | .dispatch .. => RoundTrip.dispatch _ _
  | .nodeAging .. => RoundTrip.nodeAging _
  | .nodeComplete .. => RoundTrip.nodeComplete _
  | .groupEnd .. => RoundTrip.groupEnd _
  | .groupMigration .. => RoundTrip.groupMigration _ _ _
  | .messageSend .. => RoundTrip.messageSend _ _
  | .messageReceive .. => RoundTrip.messageReceive _ _ _
  | .laneLoss .. => RoundTrip.laneLoss _
  | .flitReplayLimit .. => RoundTrip.flitReplayLimit _
  | .trainingFrame .. => RoundTrip.trainingFrame _
  | .trainingEnd .. => RoundTrip.trainingEnd _ _
  | .trainingTimeout .. => RoundTrip.trainingTimeout _
  | .portDrainRequest .. => RoundTrip.portDrainRequest _
  | .portResetRequest .. => RoundTrip.portResetRequest _
  | .fabricPathLoss .. => RoundTrip.fabricPathLoss _ _
  | .alloc .. => RoundTrip.alloc _ _
  | .free .. => RoundTrip.free _
  | .copyin .. => RoundTrip.copyin _
  | .copyout .. => RoundTrip.copyout _
  | .load .. => RoundTrip.load _ _
  | .unload .. => RoundTrip.unload _
  | .submit .. => RoundTrip.submit _
  | .queryNode .. => RoundTrip.queryNode _
  | .queryKernel .. => RoundTrip.queryKernel _
  | .queryPort .. => RoundTrip.queryPort _
  | .queryPool .. => RoundTrip.queryPool _
  | .outboxRead .. => RoundTrip.outboxRead _
  | .cstatWrite .. => RoundTrip.cstatWrite _ _
  | .pcieLinkLoss => RoundTrip.pcieLinkLoss
  | .attestation .. => RoundTrip.attestation _
  | .packageReset .. => RoundTrip.packageReset _
  | .testModeRequest => RoundTrip.testModeRequest
  | .powerClampWindow .. => RoundTrip.powerClampWindow _ _
  | .thermalTrip .. => RoundTrip.thermalTrip _ _
  | .requestDropped .. => RoundTrip.requestDropped _
  | .malformedRequest .. => RoundTrip.malformedRequest _

/-! ## A slot reads its own parcels only -/

/-- Fields below bit `k` do not see the bits from `k` on. -/
theorem unpack_mod {k : Nat} : ∀ (ws : List Nat) (v : Nat), sumWidth ws ≤ k → unpack ws (v % 2 ^ k) = unpack ws v
  | [], _, _ => rfl
  | w :: ws, v, h => by
    simp only [sumWidth] at h
    have hf : v % 2 ^ k / 2 ^ sumWidth ws % 2 ^ w = v / 2 ^ sumWidth ws % 2 ^ w := by
      apply Nat.eq_of_testBit_eq
      intro i
      simp only [Nat.testBit_mod_two_pow, Nat.testBit_div_two_pow]
      by_cases hi : i < w
      · have : i + sumWidth ws < k := by omega
        simp [hi, this]
      · simp [hi]
    have ht : unpack ws (v % 2 ^ k) = unpack ws v := unpack_mod ws v (by omega)
    simp only [unpack, hf, ht]

theorem decodeSlot_mod_of_split {slot n m : Nat} {f : Guard → Nat → Nat → Option Instr}
    (hs : ∀ w, decodeSlot slot w = splitOp n m f w) (h : sumWidth [4, n, m] ≤ 16 * slotParcels slot) (v : Nat) :
    decodeSlot slot (v % 2 ^ (16 * slotParcels slot)) = decodeSlot slot v := by
  rw [hs, hs, splitOp, splitOp, unpack_mod _ _ h]

/-- What a slot reads of a word is what it reads of the word's low parcels (R64, R96). -/
theorem decodeSlot_mod (slot v : Nat) : decodeSlot slot (v % 2 ^ (16 * slotParcels slot)) = decodeSlot slot v := by
  match slot with
  | 0 => exact decodeSlot_mod_of_split slot_br (by decide) v
  | 1 => exact decodeSlot_mod_of_split (slot_s false) (by decide) v
  | 2 => exact decodeSlot_mod_of_split (slot_s true) (by decide) v
  | 3 => exact decodeSlot_mod_of_split slot_ls (by decide) v
  | 4 => simp only [decodeSlot, decodeP, unpack_mod [4, 2, 1, 3, 3, 3] _ (by decide : _ ≤ 16 * slotParcels 4)]
  | 5 => exact decodeSlot_mod_of_split slot_x (by decide) v
  | 6 => exact decodeSlot_mod_of_split slot_k (by decide) v
  | 7 => simp only [decodeSlot, decodeT, unpack_mod [4, 3, 5, 5, 6, 6, 8, 8, 2, 1] _ (by decide : _ ≤ 16 * slotParcels 7)]
  | 8 => exact decodeSlot_mod_of_split slot_m (by decide) v
  | 9 => simp only [decodeSlot, decodeR,
      unpack_mod [4, 3, 1, 5, 6, 6, 5, 6, 8, 8, 5, 5, 2] _ (by decide : _ ≤ 16 * slotParcels 9)]
  | 10 => exact decodeSlot_mod_of_split slot_c (by decide) v
  | 11 => simp only [decodeSlot, decodeV, unpack_mod [2, 7, 4, 3] _ (by decide : _ ≤ 16 * slotParcels 11)]
  | _ + 12 => rfl

theorem length_parcelsOf : ∀ n v : Nat, (parcelsOf n v).length = n
  | 0, _ => rfl
  | n + 1, v => by simp [parcelsOf, length_parcelsOf n]

/-- The parcels of a word hold its low bits (R96). -/
theorem fieldOf_parcelsOf : ∀ n v : Nat, fieldOf (parcelsOf n v) = v % 2 ^ (16 * n)
  | 0, v => by simp [parcelsOf, fieldOf, Nat.mod_one]
  | n + 1, v => by
    rw [parcelsOf, fieldOf, fieldOf_parcelsOf n, Nat.mod_mod, show 16 * (n + 1) = 16 + 16 * n by omega, Nat.pow_add]
    exact (Nat.mod_mul (x := v)).symm

/-! ## A bundle of one operation -/

theorem decodeHeader_oneSlot : ∀ slot, slot < 12 →
    decodeHeader (encodeHeader ⟨2 ^ slot, true, false⟩ % 65536) = some ⟨2 ^ slot, true, false⟩ ∧
      Header.slots ⟨2 ^ slot, true, false⟩ = [slot] := by decide

theorem decodeFields_one {slot w : Nat} {i : Instr} (h : decodeSlot slot w = some i) :
    decodeFields [slot] (parcelsOf (slotParcels slot) w) = .ok [i] := by
  have hf : fieldOf ((parcelsOf (slotParcels slot) w).take (slotParcels slot)) = w % 2 ^ (16 * slotParcels slot) := by
    rw [List.take_of_length_le (length_parcelsOf _ _).le, fieldOf_parcelsOf]
  rw [decodeFields, hf, decodeSlot_mod, h]
  rfl

theorem decodeSlot_lt {slot w : Nat} {i : Instr} (h : decodeSlot slot w = some i) : slot < 12 := by
  by_contra hs
  obtain ⟨n, rfl⟩ : ∃ n, slot = n + 12 := ⟨slot - 12, by omega⟩
  exact absurd h (Option.some_ne_none i).symm

/-- The bundle that holds one field word reads as the word's operation, with S = 1 and D = 0 (R97). -/
theorem decodeBundle_one {slot w : Nat} {i : Instr} (h : decodeSlot slot w = some i) :
    decodeBundle false (encodeHeader ⟨2 ^ slot, true, false⟩ :: parcelsOf (slotParcels slot) w) =
      .ok ⟨⟨2 ^ slot, true, false⟩, [i]⟩ := by
  obtain ⟨hh, hs⟩ := decodeHeader_oneSlot slot (decodeSlot_lt h)
  simp only [decodeBundle, hh, hs, decodeFields_one h]
  rfl

theorem encodeOne_of_encode {i : Instr} {slot w : Nat} (h : encode i = some (slot, w)) :
    encodeOne i = encodeHeader ⟨2 ^ slot, true, false⟩ :: parcelsOf (slotParcels slot) w := by
  cases i
  case nop => exact absurd h (Option.some_ne_none _).symm
  all_goals simp only [encodeOne, h]

/-! ## What has a word -/

/-- Every constructor is no operation of a slot, or has a field word. -/
theorem opOf_or_encode (i : Instr) : (!(opOf i).isSome || (encode i).isSome) = true := by
  cases i
  case nmfence gd stack => cases stack <;> rfl
  all_goals rfl

/-- Every operation of a slot has a field word. -/
theorem encode_isSome_of_opOf (i : Instr) (h : (opOf i).isSome = true) : (encode i).isSome = true := by
  simpa [h] using opOf_or_encode i

/-- The no-operation form. -/
def isNop : Instr → Bool
  | .nop .. => true
  | _ => false

/-- Every constructor is an event, the no-operation form, or has a field word or a microword. -/
theorem isEvent_or_encode (i : Instr) :
    (isEvent i || isNop i || (encode i).isSome || (encodeMicro i).isSome) = true := by
  cases i
  case nmfence gd stack => cases stack <;> rfl
  all_goals rfl

theorem isNop_iff (i : Instr) : isNop i = true ↔ ∃ s d, i = .nop s d := by
  refine ⟨fun h => ?_, fun ⟨s, d, h⟩ => h ▸ rfl⟩
  unfold isNop at h
  split at h
  · exact ⟨_, _, rfl⟩
  · cases h

/-- An instruction that is no event is the Lantern's start, the no-operation form, an operation or a microinstruction. -/
theorem word_of_not_isEvent (i : Instr) (h : isEvent i = false) :
    i = .lanternStart ∨ (∃ s d, i = .nop s d) ∨ (encode i).isSome = true ∨ (encodeMicro i).isSome = true := by
  have hi := isEvent_or_encode i
  simp only [h, Bool.false_or, Bool.or_eq_true, isNop_iff, or_assoc] at hi
  exact .inr hi

/-! ## The obligation -/

/-- Settles O4: the lemma of each constructor, and the bundle that holds its word. -/
theorem roundTrip : Obligations.RoundTrip := by
  intro i hw
  obtain ⟨hslot, hmicro⟩ := roundTrip_statement i hw
  refine ⟨fun slot w he => ?_, hmicro, ?_, encode_isSome_of_opOf i, word_of_not_isEvent i⟩
  · have hd := hslot slot w he
    refine ⟨hd, _, encodeOne_of_encode he ▸ decodeBundle_one hd, rfl, ?_⟩
    simp [Bundle.instrs]
  · rintro s d rfl
    exact ⟨_, decodeBundle_empty false s d [], rfl, rfl⟩

end Sys2Proof.Machine
end


section
/-!
PROOF. Obligation O3 fails: nothing in the invariant speaks of the image of a checkpoint, and a restore makes that image part
of the memory.
-/
namespace Sys2Proof.Machine

/-- The package halted with no group, its next turn a restore, and a checkpoint's image that lists its bytes out of order. -/
def unsortedImage : State :=
  { State.reset with
    sched := [.restore], tables := [((5, 0, 0), 2 ^ 16)]
    tier := some ⟨[(1, 1), (0, 1)], [], [], [], [], [], [], [], []⟩ }

theorem unsortedImage_inv : unsortedImage.Inv := reset_wf

/-- The restore puts the image's bytes in memory as the image lists them. -/
theorem step_unsortedImage : step unsortedImage = .next (restore { unsortedImage with sched := [] }) := rfl

theorem restore_unsortedImage_mem : (restore { unsortedImage with sched := [] }).mem = [(1, 1), (0, 1)] := by decide

/-- Refutes O3: a restore of a checkpoint whose image is not in canonical form, which the invariant does not exclude, leaves
the memory out of order. -/
theorem not_stepKeepsInvariant : ¬ Obligations.StepKeepsInvariant := by
  intro h
  have hwf : Memory.wf (restore { unsortedImage with sched := [] }).mem = true :=
    h _ _ unsortedImage_inv step_unsortedImage
  rw [restore_unsortedImage_mem] at hwf
  exact absurd hwf (by decide)

end Sys2Proof.Machine
end


section
/-!
Integer operations, compares, divides, multiplies and shifts (O12, O13): each is one of three operations — one exposed
result, one predicate, one long-latency result — of an operation on natural numbers that agrees with one on bit vectors at
both widths.
-/
namespace Sys2Proof.Machine

/-! ## Operations that compute one result -/

section OneResult
variable {i : Instr} {s : State} {slot : Nat} {gd : Guard} {srcs : List Src}

theorem gives_computeOp {d : Reg} {cls : Nat} {f : List Word → Word × Flags}
    (hx : exec i s = runOne (computeOp slot gd d srcs cls f) s)
    (hc : clear gd srcs (Dest.full d) (Dest.push d) s = true) :
    Gives i s srcs cls (Dest.write d (f (srcVals srcs (startCycle s))).1) (f (srcVals srcs (startCycle s))).2 :=
  gives_of_goes (o := computeOp slot gd d srcs cls f) hx
    (goes_of_clear hc rfl (scoreboard_nil _) rfl rfl rfl rfl rfl) rfl fun _ _ => rfl

theorem gives_predOp {pd : Fin 8} {f : List Word → Bool × Flags} (hx : exec i s = runOne (predOp slot gd pd srcs f) s)
    (hc : clear gd srcs [] [] s = true) :
    Gives i s srcs 3 (.p pd (f (srcVals srcs (startCycle s))).1) (f (srcVals srcs (startCycle s))).2 :=
  gives_of_goes (o := predOp slot gd pd srcs f) hx
    (goes_of_clear hc rfl (scoreboard_nil _) rfl rfl rfl rfl rfl) rfl fun _ _ => rfl

theorem givesLong_divideOp {d : Fin 32} {f : List Word → Word × Flags}
    (hx : exec i s = runOne (divideOp slot gd d srcs f) s) (hc : clear gd srcs [d] [] s = true) :
    GivesLong i s srcs 14 d (f (srcVals srcs (startCycle s))).1 (f (srcVals srcs (startCycle s))).2 :=
  givesLong_of_goes (o := divideOp slot gd d srcs f) hx
    (goes_of_clear hc rfl (scoreboard_nil _) rfl rfl rfl rfl rfl) rfl fun _ _ => rfl

end OneResult

/-! ## Integer operations at either width -/

section Integer
variable {i : Instr} {s : State} {slot : Nat} {gd : Guard} {w : Bool} {a b : Src}
  {op : Nat → Nat → Nat → Nat} {f : (n : Nat) → BitVec n → BitVec n → BitVec n}

/-- The operation on numbers is the operation on bit vectors, at both widths of R141. -/
def AgreesWith (op : Nat → Nat → Nat → Nat) (f : (n : Nat) → BitVec n → BitVec n → BitVec n) : Prop :=
  ∀ n, n = 32 ∨ n = 64 → ∀ x z : BitVec n, op n x.toNat z.toNat = (f n x z).toNat

theorem gives_integer {d : Reg} {cls : Nat} (hf : AgreesWith op f)
    (hx : exec i s = runOne (computeOp slot gd d [a, b] cls fun v =>
      (intResult w op (operand v 0) (operand v 1), 0)) s)
    (hc : clear gd [a, b] (Dest.full d) (Dest.push d) s = true) :
    Gives i s [a, b] cls (Dest.write d (atWidth w f (val [a, b] s 0) (val [a, b] s 1))) 0 :=
  intResult_eq hf w _ _ ▸ gives_computeOp hx hc

theorem gives_integer_imm {d : Reg} {cls : Nat} {z : Word} (hf : AgreesWith op f)
    (hx : exec i s = runOne (computeOp slot gd d [a] cls fun v => (intResult w op (operand v 0) z, 0)) s)
    (hc : clear gd [a] (Dest.full d) (Dest.push d) s = true) :
    Gives i s [a] cls (Dest.write d (atWidth w f (val [a] s 0) z)) 0 :=
  intResult_eq hf w _ _ ▸ gives_computeOp hx hc

theorem givesLong_integer {d : Fin 32} (hf : AgreesWith op f)
    (hx : exec i s = runOne (divideOp slot gd d [a, b] fun v =>
      (intResult w op (operand v 0) (operand v 1), 0)) s)
    (hc : clear gd [a, b] [d] [] s = true) :
    GivesLong i s [a, b] 14 d (atWidth w f (val [a, b] s 0) (val [a, b] s 1)) 0 := by
  have h := givesLong_divideOp hx hc
  rw [← intResult_eq hf]
  exact h

theorem givesLong_integer_imm {d : Fin 32} {z : Word} (hf : AgreesWith op f)
    (hx : exec i s = runOne (divideOp slot gd d [a] fun v => (intResult w op (operand v 0) z, 0)) s)
    (hc : clear gd [a] [d] [] s = true) :
    GivesLong i s [a] 14 d (atWidth w f (val [a] s 0) z) 0 := by
  have h := givesLong_divideOp hx hc
  rw [← intResult_eq hf]
  exact h

end Integer

section Relations
variable {i : Instr} {s : State} {slot : Nat} {gd : Guard} {w : Bool} {a b : Src} {pd : Fin 8}
  {r : Nat → Nat → Nat → Bool} {f : (n : Nat) → BitVec n → BitVec n → Bool}

theorem gives_relation (hf : ∀ n, n = 32 ∨ n = 64 → ∀ x z : BitVec n, r n x.toNat z.toNat = f n x z)
    (hx : exec i s = runOne (predOp slot gd pd [a, b] fun v => (relation w r (operand v 0) (operand v 1), 0)) s)
    (hc : clear gd [a, b] [] [] s = true) :
    Gives i s [a, b] 3 (.p pd (relAtWidth w f (val [a, b] s 0) (val [a, b] s 1))) 0 :=
  relation_eq hf w _ _ ▸ gives_predOp hx hc

theorem gives_relation_imm {z : Word} (hf : ∀ n, n = 32 ∨ n = 64 → ∀ x z : BitVec n, r n x.toNat z.toNat = f n x z)
    (hx : exec i s = runOne (predOp slot gd pd [a] fun v => (relation w r (operand v 0) z, 0)) s)
    (hc : clear gd [a] [] [] s = true) :
    Gives i s [a] 3 (.p pd (relAtWidth w f (val [a] s 0) z)) 0 :=
  relation_eq hf w _ _ ▸ gives_predOp hx hc

end Relations

theorem width_pos {n : Nat} (h : n = 32 ∨ n = 64) : 0 < n := by omega

/-! ## O12 -/

theorem integerResults : Claims.IntegerResults := by
  refine fun s1 gd w d a b imm s => ⟨?_, ?_, ?_, ?_, ?_, ?_, ?_, ?_, ?_, ?_, ?_, ?_, ?_, ?_, ?_, ?_, ?_, ?_, ?_, ?_, ?_, ?_⟩
  · exact gives_integer (op := addN) (fun _ _ => addN_eq) rfl
  · exact gives_integer_imm (op := addN) (fun _ _ => addN_eq) rfl
  · exact gives_integer (op := subN) (fun _ _ => subN_eq) rfl
  · exact gives_integer_imm (op := subN) (fun _ _ => subN_eq) rfl
  · exact gives_integer (op := andN) (fun _ _ _ _ => (BitVec.toNat_and ..).symm) rfl
  · exact gives_integer_imm (op := andN) (fun _ _ _ _ => (BitVec.toNat_and ..).symm) rfl
  · exact gives_integer (op := orN) (fun _ _ _ _ => (BitVec.toNat_or ..).symm) rfl
  · exact gives_integer_imm (op := orN) (fun _ _ _ _ => (BitVec.toNat_or ..).symm) rfl
  · exact gives_integer (op := xorN) (fun _ _ _ _ => (BitVec.toNat_xor ..).symm) rfl
  · exact gives_integer_imm (op := xorN) (fun _ _ _ _ => (BitVec.toNat_xor ..).symm) rfl
  · exact gives_integer (op := andnN) (fun _ _ => andnN_eq) rfl
  · exact gives_integer_imm (op := andnN) (fun _ _ => andnN_eq) rfl
  · exact gives_integer (op := minN) (fun _ h x z => minN_eq x z (width_pos h)) rfl
  · exact gives_integer_imm (op := minN) (fun _ h x z => minN_eq x z (width_pos h)) rfl
  · exact gives_integer (op := maxN) (fun _ h x z => maxN_eq x z (width_pos h)) rfl
  · exact gives_integer_imm (op := maxN) (fun _ h x z => maxN_eq x z (width_pos h)) rfl
  · exact gives_integer (op := minuN) (fun _ _ => minuN_eq) rfl
  · exact gives_integer_imm (op := minuN) (fun _ _ => minuN_eq) rfl
  · exact gives_integer (op := maxuN) (fun _ _ => maxuN_eq) rfl
  · exact gives_integer_imm (op := maxuN) (fun _ _ => maxuN_eq) rfl
  · exact gives_integer_imm (op := fun n x _ => clzN n x) (fun _ h x _ => clzN_eq x (width_pos h)) rfl
  · exact gives_integer_imm (op := fun n x _ => popcN n x) (fun _ _ x _ => popcN_eq x) rfl

theorem compareResults : Claims.CompareResults := by
  refine fun s1 gd w pd a b imm s => ⟨?_, ?_, ?_, ?_, ?_, ?_, ?_, ?_, ?_, ?_, ?_, ?_⟩
  · exact gives_relation (r := eqN) (fun _ _ => eqN_eq) rfl
  · exact gives_relation_imm (r := eqN) (fun _ _ => eqN_eq) rfl
  · exact gives_relation (r := neN) (fun _ _ => neN_eq) rfl
  · exact gives_relation_imm (r := neN) (fun _ _ => neN_eq) rfl
  · exact gives_relation (r := ltN) (fun _ h x z => ltN_eq x z (width_pos h)) rfl
  · exact gives_relation_imm (r := ltN) (fun _ h x z => ltN_eq x z (width_pos h)) rfl
  · exact gives_relation (r := leN) (fun _ h x z => leN_eq x z (width_pos h)) rfl
  · exact gives_relation_imm (r := leN) (fun _ h x z => leN_eq x z (width_pos h)) rfl
  · exact gives_relation (r := ltuN) (fun _ _ => ltuN_eq) rfl
  · exact gives_relation_imm (r := ltuN) (fun _ _ => ltuN_eq) rfl
  · exact gives_relation (r := leuN) (fun _ _ => leuN_eq) rfl
  · exact gives_relation_imm (r := leuN) (fun _ _ => leuN_eq) rfl

/-- Settles O12: each operation computes one result, and its operation on numbers is the bit vectors' at both widths. -/
theorem integerArithmetic : Obligations.IntegerArithmetic := ⟨integerResults, compareResults⟩

/-! ## O13 -/

theorem divideResults : Claims.DivideResults := by
  refine fun s1 gd w d a b imm s => ⟨?_, ?_, ?_, ?_, ?_, ?_, ?_, ?_⟩
  · exact givesLong_integer (op := divN) (fun _ h x z => divN_eq x z (width_pos h)) rfl
  · exact givesLong_integer_imm (op := divN) (fun _ h x z => divN_eq x z (width_pos h)) rfl
  · exact givesLong_integer (op := divuN) (fun _ _ => divuN_eq) rfl
  · exact givesLong_integer_imm (op := divuN) (fun _ _ => divuN_eq) rfl
  · exact givesLong_integer (op := remN) (fun _ h x z => remN_eq x z (width_pos h)) rfl
  · exact givesLong_integer_imm (op := remN) (fun _ h x z => remN_eq x z (width_pos h)) rfl
  · exact givesLong_integer (op := remuN) (fun _ _ => remuN_eq) rfl
  · exact givesLong_integer_imm (op := remuN) (fun _ _ => remuN_eq) rfl

theorem multiplyShiftResults : Claims.MultiplyShiftResults := by
  refine fun s1 gd w d a b imm c s => ⟨?_, ?_, ?_, ?_, ?_, ?_, ?_, ?_, ?_, ?_, ?_, ?_, ?_, ?_⟩
  · exact gives_integer (op := mulN) (fun _ _ => mulN_eq) rfl
  · exact gives_integer_imm (op := mulN) (fun _ _ => mulN_eq) rfl
  · exact gives_integer (op := mulhN) (fun _ h x z => mulhN_eq x z (width_pos h)) rfl
  · exact gives_integer_imm (op := mulhN) (fun _ h x z => mulhN_eq x z (width_pos h)) rfl
  · exact gives_integer (op := mulhuN) (fun _ _ => mulhuN_eq) rfl
  · exact gives_integer_imm (op := mulhuN) (fun _ _ => mulhuN_eq) rfl
  · exact gives_integer (op := shlN) (fun _ h x z => shlN_eq x z h) rfl
  · exact gives_integer_imm (op := shlN) (fun _ h x z => shlN_eq x z h) rfl
  · exact gives_integer (op := shrN) (fun _ h x z => shrN_eq x z h) rfl
  · exact gives_integer_imm (op := shrN) (fun _ h x z => shrN_eq x z h) rfl
  · exact gives_integer (op := sraN) (fun _ h x z => sraN_eq x z h) rfl
  · exact gives_integer_imm (op := sraN) (fun _ h x z => sraN_eq x z h) rfl
  · exact gives_integer (op := rotrN) (fun _ h x z => rotrN_eq x z h) rfl
  · exact gives_integer_imm (op := rotrN) (fun _ h x z => rotrN_eq x z h) rfl

/-- Settles O13: as O12, with the class or the latency of each operation. -/
theorem divideMultiplyShift : Obligations.DivideMultiplyShift := ⟨divideResults, multiplyShiftResults⟩

end Sys2Proof.Machine
end


section
/-!
FP32 operations (O14): one result of an operation on values, and the values' edges, read off the class of each pattern — a
NaN, an infinity, or a finite value with its significand and exponent.
-/
namespace Sys2Proof.Machine

/-! ## Results -/

/-- The field of MOVW: the immediate, or the bits it replaces, moved up. -/
theorem ofNat_mul_two_pow (n k : Nat) : BitVec.ofNat 64 (n * 2 ^ k) = BitVec.ofNat 64 n <<< k := by
  apply BitVec.eq_of_toNat_eq
  simp [Nat.shiftLeft_eq, Nat.mod_mul_mod]

theorem ofNat_toNat16 (imm : BitVec 16) : BitVec.ofNat 64 imm.toNat = imm.setWidth 64 := by
  apply BitVec.eq_of_toNat_eq
  simp

theorem movwR_eq (hw : Fin 4) (z : Bool) (imm : BitVec 16) (old : Word) :
    movwR hw z imm old = if z then imm.setWidth 64 <<< (16 * hw.val)
      else (old &&& ~~~((0xFFFF : Word) <<< (16 * hw.val))) ||| (imm.setWidth 64 <<< (16 * hw.val)) := by
  simp only [movwR, ofNat_mul_two_pow, ofNat_toNat16]
  rfl

theorem icvtfR_eq (rm : Rm) (a : Word) :
    icvtfR rm a = (encF (fp32.convert rm 0 (.ofInt a.toInt)).1, (fp32.convert rm 0 (.ofInt a.toInt)).2) := by
  simp only [icvtfR, sx_toNat (by decide : 0 < 64)]

section Results
variable {s : State} {gd : Guard} {d : Reg} {e : Fin 32} {a b : Src} {s1 : Bool}

theorem gives_icvtf {rm : Rm} (hc : clear gd [a] (Dest.full d) (Dest.push d) s = true) :
    Gives (.icvtf s1 gd d a rm) s [a] 2
      (Dest.write d (BitVec.ofNat 64 ((fp32.convert rm 0 (.ofInt (val [a] s 0).toInt)).1 % 2 ^ 32)))
      (fp32.convert rm 0 (.ofInt (val [a] s 0).toInt)).2 := by
  have h := gives_computeOp (i := .icvtf s1 gd d a rm) (f := fun v => icvtfR rm (operand v 0)) rfl hc
  rwa [icvtfR_eq] at h

theorem gives_fma (hc : clear gd [a, b] [e] [] s = true) :
    Gives (.fma s1 gd e a b) s [a, b] 2
      (.g e (encF (ffma32 (lowF (val [a, b] s 0)) (lowF (val [a, b] s 1)) (lowF (startCycle s).me.g[e])).1))
      (ffma32 (lowF (val [a, b] s 0)) (lowF (val [a, b] s 1)) (lowF (startCycle s).me.g[e])).2 :=
  gives_of_goes (o := opFma s1 gd e a b) rfl (goes_of_clear hc rfl (scoreboard_nil _) rfl rfl rfl rfl rfl) rfl
    fun _ _ => rfl

theorem gives_movw {hw : Fin 4} {z : Bool} {imm : BitVec 16} (hc : clear gd [] [e] [] s = true) :
    Gives (.movw s1 gd hw z e imm) s [] 0 (.g e (movwR hw z imm (startCycle s).me.g[e])) 0 :=
  gives_of_goes (o := opMovw s1 gd hw z e imm) rfl (goes_of_clear hc rfl (scoreboard_nil _) rfl rfl rfl rfl rfl) rfl
    fun _ _ => rfl

end Results

theorem floatResults : Claims.FloatResults := by
  refine fun s1 gd d e a b rm hw z imm s => ⟨fun hc => ⟨?_, ?_, ?_, ?_⟩, fun hc => ⟨?_, ?_, ?_, ?_, ?_⟩, ?_, fun hc => ?_⟩
  · exact gives_computeOp (f := fun v => fv (fabs32 (lowF (operand v 0)), 0)) rfl hc
  · exact gives_computeOp (f := fun v => fv (fneg32 (lowF (operand v 0)), 0)) rfl hc
  · exact gives_computeOp (f := fun v => fcvtiR rm (operand v 0)) rfl hc
  · exact gives_icvtf hc
  · exact gives_computeOp (f := fun v => fv (fadd32 (lowF (operand v 0)) (lowF (operand v 1)))) rfl hc
  · exact gives_computeOp (f := fun v => fv (fsub32 (lowF (operand v 0)) (lowF (operand v 1)))) rfl hc
  · exact gives_computeOp (f := fun v => fv (fmul32 (lowF (operand v 0)) (lowF (operand v 1)))) rfl hc
  · exact gives_computeOp (f := fun v => fv (fminmax32 false (lowF (operand v 0)) (lowF (operand v 1)))) rfl hc
  · exact gives_computeOp (f := fun v => fv (fminmax32 true (lowF (operand v 0)) (lowF (operand v 1)))) rfl hc
  · exact gives_fma
  · exact movwR_eq .. ▸ gives_movw hc

theorem floatCompareDivideResults : Claims.FloatCompareDivideResults := by
  refine fun s1 gd pd d a b s => ⟨fun hc => ⟨?_, ?_, ?_, ?_⟩, fun hc => ?_, fun hc => ?_⟩
  · exact gives_predOp (f := fun v => fcmp32 .eq (lowF (operand v 0)) (lowF (operand v 1))) rfl hc
  · exact gives_predOp (f := fun v => fcmp32 .lt (lowF (operand v 0)) (lowF (operand v 1))) rfl hc
  · exact gives_predOp (f := fun v => fcmp32 .le (lowF (operand v 0)) (lowF (operand v 1))) rfl hc
  · exact gives_predOp (f := fun v => fcmp32 .un (lowF (operand v 0)) (lowF (operand v 1))) rfl hc
  · exact givesLong_divideOp (f := fun v => fv (fdiv32 (lowF (operand v 0)) (lowF (operand v 1)))) rfl hc
  · exact givesLong_divideOp (f := fun v => fv (fsqrt32 (lowF (operand v 0)))) rfl hc

/-! ## The class of an FP32 pattern (R35, R36) -/

/-- The significand and the exponent of a finite FP32 pattern (R35). -/
def finMant (v : Nat) : Nat := if v / 2 ^ 23 % 2 ^ 8 = 0 then v % 2 ^ 23 else 2 ^ 23 + v % 2 ^ 23

def finExp (v : Nat) : Int := if v / 2 ^ 23 % 2 ^ 8 = 0 then -149 else ((v / 2 ^ 23 % 2 ^ 8 : Nat) : Int) - 150

section Class
variable {v : Nat}

theorem f32v_eq (hv : v < 2 ^ 32) : f32v v =
    if v / 2 ^ 23 % 2 ^ 8 = 255 then (if v % 2 ^ 23 = 0 then .inf (bitAt v 31) else .nan (!(bitAt (v % 2 ^ 23) 22)))
    else .fin (bitAt v 31) (finMant v) (finExp v) := by
  rw [f32v, Nat.mod_eq_of_lt hv]
  simp only [FloatFmt.value, fp32, finMant, finExp]
  split_ifs <;> simp_all
  omega

theorem f32v_nan (hv : v < 2 ^ 32) (h : 0x7F800000 < v % 2 ^ 31) : ∃ q, f32v v = .nan q := by
  have h1 : v / 2 ^ 23 % 2 ^ 8 = 255 := by omega
  have h2 : v % 2 ^ 23 ≠ 0 := by omega
  exact ⟨_, by rw [f32v_eq hv, if_pos h1, if_neg h2]⟩

theorem f32v_inf (hv : v < 2 ^ 32) (h : v % 2 ^ 31 = 0x7F800000) : f32v v = .inf (bitAt v 31) := by
  have h1 : v / 2 ^ 23 % 2 ^ 8 = 255 := by omega
  have h2 : v % 2 ^ 23 = 0 := by omega
  rw [f32v_eq hv, if_pos h1, if_pos h2]

theorem f32v_fin (hv : v < 2 ^ 32) (h : v % 2 ^ 31 < 0x7F800000) :
    f32v v = .fin (bitAt v 31) (finMant v) (finExp v) := by
  have h1 : v / 2 ^ 23 % 2 ^ 8 ≠ 255 := by omega
  rw [f32v_eq hv, if_neg h1]

theorem finMant_eq_zero (h : v % 2 ^ 31 < 0x7F800000) : finMant v = 0 ↔ v % 2 ^ 31 = 0 := by
  unfold finMant
  split <;> omega

theorem f32v_zero (hv : v < 2 ^ 32) (h : v % 2 ^ 31 = 0) : f32v v = .fin (bitAt v 31) 0 (finExp v) := by
  have h1 : v % 2 ^ 31 < 0x7F800000 := by omega
  rw [f32v_fin hv h1, (finMant_eq_zero h1).mpr h]

theorem isNan_f32v (hv : v < 2 ^ 32) : (f32v v).isNan = decide (0x7F800000 < v % 2 ^ 31) := by
  rcases Nat.lt_trichotomy (v % 2 ^ 31) 0x7F800000 with h | h | h
  · rw [f32v_fin hv h]
    exact (decide_eq_false (by omega)).symm
  · rw [f32v_inf hv h]
    exact (decide_eq_false (by omega)).symm
  · obtain ⟨q, hq⟩ := f32v_nan hv h
    rw [hq]
    exact (decide_eq_true h).symm

/-- The sign bit as a bit and as a quotient. -/
theorem bitAt_sign (hv : v < 2 ^ 32) : bitAt v 31 = decide (v / 2 ^ 31 = 1) := by
  have h : v / 2 ^ 31 % 2 = v / 2 ^ 31 := by omega
  simp only [bitAt, h]
  exact beq_eq_decide ..

end Class

/-- The pattern with the other sign. -/
theorem flip_mod (x : Word32) : (x ^^^ 0x80000000).toNat % 2 ^ 31 = x.toNat % 2 ^ 31 := by
  rw [BitVec.toNat_xor, Nat.xor_mod_two_pow]
  exact Nat.xor_zero _

theorem flip_div (x : Word32) : (x ^^^ 0x80000000).toNat / 2 ^ 31 = 1 - x.toNat / 2 ^ 31 := by
  have hx := x.isLt
  rw [BitVec.toNat_xor, Nat.xor_div_two_pow]
  have h : x.toNat / 2 ^ 31 = 0 ∨ x.toNat / 2 ^ 31 = 1 := by omega
  rcases h with h | h <;> rw [h] <;> rfl

theorem and_mod (x : Word32) : (x &&& 0x7FFFFFFF).toNat = x.toNat % 2 ^ 31 := by
  rw [BitVec.toNat_and]
  exact Nat.and_two_pow_sub_one_eq_mod _ 31

/-! ## The edges -/

section Edges
variable {x y c : Nat}

theorem fabs32_nan (hx : x < 2 ^ 32) (h : 0x7F800000 < x % 2 ^ 31) : fabs32 x = 0x7FC00000 := by
  simp only [fabs32, isNan_f32v hx, decide_eq_true h, if_true, nan32]

theorem fneg32_nan (hx : x < 2 ^ 32) (h : 0x7F800000 < x % 2 ^ 31) : fneg32 x = 0x7FC00000 := by
  simp only [fneg32, isNan_f32v hx, decide_eq_true h, if_true, nan32]

theorem fabs32_number (hx : x < 2 ^ 32) (h : ¬ 0x7F800000 < x % 2 ^ 31) : fabs32 x = x % 2 ^ 31 := by
  simp only [fabs32, isNan_f32v hx, decide_eq_false h, Bool.false_eq_true, if_false]

theorem fneg32_number (hx : x < 2 ^ 32) (h : ¬ 0x7F800000 < x % 2 ^ 31) :
    fneg32 x = (if x / 2 ^ 31 = 1 then x % 2 ^ 31 else x % 2 ^ 31 + 2 ^ 31) := by
  simp only [fneg32, isNan_f32v hx, decide_eq_false h, Bool.false_eq_true, if_false, bitAt_sign hx, decide_eq_true_eq]

theorem fdiv32_by_zero (hx : x < 2 ^ 32) (hy : y < 2 ^ 32) (h : x % 2 ^ 31 < 0x7F800000) (h0 : x % 2 ^ 31 ≠ 0)
    (hy0 : y % 2 ^ 31 = 0) : fdiv32 x y = ((x / 2 ^ 31 + y / 2 ^ 31) % 2 * 2 ^ 31 + 0x7F800000, 0) := by
  have hm : finMant x ≠ 0 := fun hm => h0 ((finMant_eq_zero h).mp hm)
  simp only [fdiv32, f32v_fin hx h, f32v_zero hy hy0, if_true, hm, if_false, bitAt_sign hx, bitAt_sign hy,
    FloatFmt.signed, inf32, fp32]
  have h1 : x / 2 ^ 31 = 0 ∨ x / 2 ^ 31 = 1 := by omega
  have h2 : y / 2 ^ 31 = 0 ∨ y / 2 ^ 31 = 1 := by omega
  rcases h1 with h1 | h1 <;> rcases h2 with h2 | h2 <;> rw [h1, h2] <;> rfl

theorem fdiv32_zeros (hx : x < 2 ^ 32) (hy : y < 2 ^ 32) (hx0 : x % 2 ^ 31 = 0) (hy0 : y % 2 ^ 31 = 0) :
    fdiv32 x y = (0x7FC00000, flagINV) := by
  simp only [fdiv32, f32v_zero hx hx0, f32v_zero hy hy0, if_true, nan32]

theorem fdiv32_infs (hx : x < 2 ^ 32) (hy : y < 2 ^ 32) (hxi : x % 2 ^ 31 = 0x7F800000)
    (hyi : y % 2 ^ 31 = 0x7F800000) : fdiv32 x y = (0x7FC00000, flagINV) := by
  simp only [fdiv32, f32v_inf hx hxi, f32v_inf hy hyi, nan32]

theorem fsqrt32_negative (hx : x < 2 ^ 32) (h : ¬ 0x7F800000 < x % 2 ^ 31) (h0 : x % 2 ^ 31 ≠ 0)
    (hs : x / 2 ^ 31 = 1) : fsqrt32 x = (0x7FC00000, flagINV) := by
  have hb : bitAt x 31 = true := by rw [bitAt_sign hx, hs]; rfl
  rcases Nat.lt_or_eq_of_le (Nat.le_of_not_lt h) with h | h
  · have hm : finMant x ≠ 0 := fun hm => h0 ((finMant_eq_zero h).mp hm)
    simp only [fsqrt32, f32v_fin hx h, hm, if_false, hb, if_true, nan32]
  · simp only [fsqrt32, f32v_inf hx h, hb, nan32]

/-- A product that is invalid without a NaN among its factors gives the canonical NaN, whatever is added. -/
theorem ffma32_invalid (hp : (f32v x).mul (f32v y) = .nan true) (hx : (f32v x).isNan = false)
    (hy : (f32v y).isNan = false) : ffma32 x y c = (0x7FC00000, flagINV) := by
  have hr : rne32 ((Val.nan true).add (f32v c)) = (0x7FC00000, flagINV) := by
    cases f32v c <;> rfl
  have hn : (Val.nan true).isNan = true := rfl
  simp only [ffma32, hp, hx, hy, hr, hn, Bool.not_false, Bool.and_self, Bool.true_or]
  rfl

theorem ffma32_inf_zero (hx : x < 2 ^ 32) (hy : y < 2 ^ 32) (hxi : x % 2 ^ 31 = 0x7F800000) (hy0 : y % 2 ^ 31 = 0) :
    ffma32 x y c = (0x7FC00000, flagINV) := by
  have ex := f32v_inf hx hxi
  have ey := f32v_zero hy hy0
  exact ffma32_invalid (by rw [ex, ey]; rfl) (by rw [ex]; rfl) (by rw [ey]; rfl)

theorem ffma32_zero_inf (hx : x < 2 ^ 32) (hy : y < 2 ^ 32) (hx0 : x % 2 ^ 31 = 0) (hyi : y % 2 ^ 31 = 0x7F800000) :
    ffma32 x y c = (0x7FC00000, flagINV) := by
  have ex := f32v_zero hx hx0
  have ey := f32v_inf hy hyi
  exact ffma32_invalid (by rw [ex, ey]; rfl) (by rw [ex]; rfl) (by rw [ey]; rfl)

theorem isNan_or (hx : x < 2 ^ 32) (hy : y < 2 ^ 32) :
    ((f32v x).isNan || (f32v y).isNan) = decide (0x7F800000 < x % 2 ^ 31 ∨ 0x7F800000 < y % 2 ^ 31) := by
  rw [isNan_f32v hx, isNan_f32v hy, Bool.decide_or]

theorem fminmax32_nan (m : Bool) (hx : x < 2 ^ 32) (hy : y < 2 ^ 32)
    (h : 0x7F800000 < x % 2 ^ 31 ∨ 0x7F800000 < y % 2 ^ 31) : (fminmax32 m x y).1 = 0x7FC00000 := by
  simp only [fminmax32, isNan_or hx hy, decide_eq_true h, if_true, nan32]

theorem scaled_neg_add (n : Bool) (m : Nat) (e q : Int) : scaled n m e q + scaled (!n) m e q = 0 := by
  cases n <;> simp [scaled]

@[simp] theorem scaled_zero (n : Bool) (e q : Int) : scaled n 0 e q = 0 := by
  cases n <;> simp [scaled]

theorem rne32_zero (n : Bool) (e : Int) : rne32 (.fin n 0 e) = (if n then 0x80000000 else 0, 0) := by
  cases n <;> rfl

/-- A finite value and the same with the other sign add to +0. -/
theorem fadd32_cancel {z : Nat} (hx : x < 2 ^ 32) (hz : z < 2 ^ 32) (hm : z % 2 ^ 31 = x % 2 ^ 31)
    (hs : z / 2 ^ 31 = 1 - x / 2 ^ 31) (h : x % 2 ^ 31 < 0x7F800000) : fadd32 x z = (0, 0) := by
  have hb : bitAt z 31 = !bitAt x 31 := by
    have h1 : x / 2 ^ 31 = 0 ∨ x / 2 ^ 31 = 1 := by omega
    rw [bitAt_sign hx, bitAt_sign hz, hs]
    rcases h1 with h1 | h1 <;> rw [h1] <;> rfl
  have e1 : z / 2 ^ 23 % 2 ^ 8 = x / 2 ^ 23 % 2 ^ 8 := by omega
  have e2 : z % 2 ^ 23 = x % 2 ^ 23 := by omega
  have hme : finMant z = finMant x ∧ finExp z = finExp x := by
    simp only [finMant, finExp, e1, e2, and_self]
  rw [fadd32, f32v_fin hx h, f32v_fin hz (hm ▸ h), hme.1, hme.2, hb, Val.add, finAdd, scaled_neg_add, if_pos rfl,
    Bool.and_not_self, rne32_zero]
  rfl

theorem fadd32_zeros (hx : x < 2 ^ 32) (hy : y < 2 ^ 32) (hx0 : x % 2 ^ 31 = 0) (hy0 : y % 2 ^ 31 = 0) :
    fadd32 x y = (if x / 2 ^ 31 = 1 ∧ y / 2 ^ 31 = 1 then 0x80000000 else 0, 0) := by
  rw [fadd32, f32v_zero hx hx0, f32v_zero hy hy0, Val.add, finAdd, scaled_zero, scaled_zero, add_zero, if_pos rfl, rne32_zero,
    bitAt_sign hx, bitAt_sign hy]
  simp only [Bool.and_eq_true, decide_eq_true_eq]

theorem fcmp32_nan (hx : x < 2 ^ 32) (hy : y < 2 ^ 32) (h : 0x7F800000 < x % 2 ^ 31 ∨ 0x7F800000 < y % 2 ^ 31) :
    (fcmp32 .eq x y).1 = false ∧ (fcmp32 .lt x y).1 = false ∧ (fcmp32 .le x y).1 = false := by
  simp only [fcmp32, isNan_or hx hy, decide_eq_true h, Bool.not_true, Bool.false_and, and_self]

theorem fcmp32_un (hx : x < 2 ^ 32) (hy : y < 2 ^ 32) :
    (fcmp32 .un x y).1 = true ↔ 0x7F800000 < x % 2 ^ 31 ∨ 0x7F800000 < y % 2 ^ 31 := by
  simp only [fcmp32, isNan_or hx hy, decide_eq_true_eq]

theorem fcmp32_zeros (hx : x < 2 ^ 32) (hy : y < 2 ^ 32) (hx0 : x % 2 ^ 31 = 0) (hy0 : y % 2 ^ 31 = 0) :
    (fcmp32 .eq x y).1 = true := by
  simp only [fcmp32, f32v_zero hx hx0, f32v_zero hy hy0, Val.isNan, Val.lt, scaled_zero, and_self, if_true,
    Bool.false_and, Bool.or_self, Bool.not_false, Bool.and_self]

end Edges

theorem floatEdges : Claims.FloatEdges := by
  intro x y c isNan isInf isZero sign canonical
  have hx := x.isLt
  have hy := y.isLt
  refine ⟨fun h => ⟨fabs32_nan hx h, fneg32_nan hx h⟩, fun h => ⟨?_, ?_⟩, fun hn hi h0 => ?_, ?_, rfl,
    fun hn h0 hs => fsqrt32_negative hx hn h0 hs, ?_,
    fun h => ⟨fminmax32_nan false hx hy h, fminmax32_nan true hx hy h⟩, ⟨rfl, rfl, rfl, rfl⟩, fun hn hi _ => ?_,
    fadd32_zeros hx hy, fcmp32_nan hx hy, fcmp32_un hx hy, fcmp32_zeros hx hy⟩
  · exact (fabs32_number hx h).trans (and_mod x).symm
  · have h1 := flip_mod x
    have h2 := flip_div x
    rw [fneg32_number hx h]
    split <;> omega
  · exact fdiv32_by_zero hx hy (Nat.lt_of_le_of_ne (Nat.le_of_not_lt hn) hi) h0
  · rintro (⟨hx0, hy0⟩ | ⟨hxi, hyi⟩)
    · exact fdiv32_zeros hx hy hx0 hy0
    · exact fdiv32_infs hx hy hxi hyi
  · rintro (⟨hxi, hy0⟩ | ⟨hx0, hyi⟩)
    · exact ffma32_inf_zero hx hy hxi hy0
    · exact ffma32_zero_inf hx hy hx0 hyi
  · exact fadd32_cancel hx (BitVec.isLt _) (flip_mod x) (flip_div x) (Nat.lt_of_le_of_ne (Nat.le_of_not_lt hn) hi)

/-- Settles O14: each operation gives its one result, and the edges follow from the classes of the patterns. -/
theorem floatingPoint : Obligations.FloatingPoint := ⟨floatResults, floatCompareDivideResults, floatEdges⟩

end Sys2Proof.Machine
end


section
/-!
Reset and placement (O1, O2), worked encodings (O5), and what the rules of issue say of every operation of the table: a guard
that is false (O7), and the waits and traps of its operands (O8).
-/
namespace Sys2Proof.Machine

/-! ## Reset and placement -/

theorem getCtx_reset (c x : Nat) : getCtx State.reset c x = Ctx.reset := by
  simp [getCtx, getCore, State.reset, alGet, Core.get, Core.reset]

/-- Settles O1: both contexts are the reset context but for what the launch gives. -/
theorem placementValues : Obligations.PlacementValues := by
  intro ck kid gid rank tbase gsc b args c x holds t
  have hreset : holds Ctx.reset :=
    ⟨rfl, by decide, by decide, fun i => by rcases i with _ | _ <;> simp [Ctx.reset], by decide, by decide, rfl, rfl, rfl,
      rfl, rfl, rfl, rfl, rfl, rfl⟩
  rw [getCtx_reset]
  refine ⟨hreset, hreset, by decide, by decide, rfl, rfl, rfl, rfl, rfl, ?_, fun i h0 h4 => ?_, fun i h4 => ?_, fun i l => ?_⟩
  · simp [t, launchCtx]
  · have h1 : i ≠ 0 := fun h => by simp [h] at h0
    simp [t, launchCtx, h1, Nat.not_le.mpr h4]
  · have h1 : i ≠ 0 := fun h => by simp [h] at h4
    simp [t, launchCtx, h1, h4]
  · simp [t, launchCtx]

/-- Settles O2: the memory at reset is the empty list. -/
theorem resetInvariant : Obligations.ResetInvariant := ⟨reset_wf, fun _ => rfl⟩

/-! ## Worked encodings -/

/-- Settles O5: each word is decoded. -/
theorem decodedWords : Obligations.DecodedWords := by
  refine ⟨?_, ?_, ?_, ?_, ?_, ?_, ?_, ?_, ?_, ?_, ?_, ?_, ?_, ?_⟩ <;> decide

/-! ## Every operation of the table -/

/-- An instruction of the operation table runs as a group of its own operation. -/
theorem exec_of_opOf {i : Instr} {o : Op} (h : opOf i = some o) (s : State) : exec i s = runOne o s := by
  cases i <;> cases h <;> rfl

/-- Only the report of a CHECKSUM changes anything besides the trap. -/
theorem onTrap_of_opOf {i : Instr} {o : Op} (h : opOf i = some o) {cause : Nat} (hc : cause ≠ causeCHECKSUM) (s : State) :
    o.onTrap cause s = s := by
  cases i with
  | barw => cases h; exact if_neg hc
  | barp => cases h; exact if_neg hc
  | _ => cases h <;> rfl

section Verdicts
variable {ops : List Op} {s : State}

theorem runGroup_of_trap {cause tval : Nat} {f : State → State}
    (hr : rowLate (delivered s) s.issue.core s.issue.ctx = false) (hj : judge ops (startCycle s) = .trap cause tval f) :
    runGroup ops s = takeTrap (f (delivered s)) s.issue.core s.issue.ctx cause tval s.issue.addr := by
  simp only [runGroup, hr, hj, Bool.false_eq_true, if_false]

theorem runGroup_of_stall (hr : rowLate (delivered s) s.issue.core s.issue.ctx = false)
    (hj : judge ops (startCycle s) = .stall) : runGroup ops s = stallGroup s := by
  simp only [runGroup, hr, hj, Bool.false_eq_true, if_false]

theorem runGroup_of_go {as : List Act} (hr : rowLate (delivered s) s.issue.core s.issue.ctx = false)
    (hj : judge ops (startCycle s) = .go as) : runGroup ops s = goAhead ops as (startCycle s) := by
  simp only [runGroup, hr, hj, Bool.false_eq_true, if_false]

end Verdicts

/-! ## A guard that is false (R79) -/

section GuardFalse
variable {o : Op} {a : State}

theorem resolve_guard_false {t : Ctx} (h : guardHolds t o.guard = false) (p : List Nat) : resolve t [o] p = ([], p) := by
  simp [resolve, h]

theorem judge_guard_false (hd : o.decode a = none) (hl : lateKeys a a.issue.core a.issue.ctx = [])
    (hn : a.me.loopn = none) (hg : guardHolds a.me o.guard = false) : judge [o] a = .go [] := by
  simp [judge, portDecode, hd, resolve_guard_false hg, stalled, hl, deltaStall, hn, emptyWait, groupTraps, overflows_nil,
    firstTrap, groupBlock, aqBlock]

theorem goAhead_guard_false (hn : a.me.loopn = none) (hg : guardHolds a.me o.guard = false) :
    goAhead [o] [] a = after a (before a [] none) := by
  have h : goAhead [o] [] a = goAhead [] [] a := by
    rw [goAhead, resolve_guard_false hg]
    rfl
  rw [h, goAhead_nil hn]

/-- A port word that does not decode traps, whatever the guard (R103). -/
theorem judge_decode {idx : Nat} (hd : o.decode a = some idx) :
    judge [o] a = .trap causeILLEGAL (illegalVal idx (inSecond a o.slot) 14) id := by
  simp [judge, portDecode, hd]

end GuardFalse

/-- Settles O7: with its guard false the operation is out of the group before anything is asked of it; its decode is not. -/
theorem guardFalse : Obligations.GuardFalse := by
  intro i o s ho a hr
  refine ⟨fun hd hl hn hg => ?_, fun idx hd => ?_⟩
  · refine ⟨after a (before a [] none), ?_, onlyMe_after_idle a [] none⟩
    rw [exec_of_opOf ho, runOne, runGroup_of_go hr (judge_guard_false hd hl hn hg), goAhead_guard_false hn hg]
  · rw [exec_of_opOf ho, runOne, runGroup_of_trap hr (judge_decode hd)]
    rfl

/-! ## Waits and traps of operands (R76 to R78) -/

theorem firstTrap_mem {u : (Nat × Nat × Nat) × Trap} :
    ∀ {l : List ((Nat × Nat × Nat) × Trap)}, firstTrap l = some u → u ∈ l
  | [], h => by simp [firstTrap] at h
  | t :: ts, h => by
    simp only [firstTrap] at h
    split at h
    · simp_all
    · next v hv =>
      split at h
      · exact List.mem_cons_of_mem _ (firstTrap_mem (Option.some.inj h ▸ hv))
      · simp_all

/-- Of traps at one slot, the one of the least step comes first. -/
theorem placeLt_trapPlace (a : State) (slot : Nat) (q r : Trap) :
    placeLt (trapPlace a slot q).1 (trapPlace a slot r).1 = decide (q.step < r.step) := by
  simp [placeLt, trapPlace]

/-- The trap reported among those of one slot is the first that none comes before (R144). -/
theorem firstTrap_map {a : State} {slot : Nat} {r : Trap} : ∀ {xs ys : List Trap}, (∀ q ∈ xs, r.step < q.step) →
    (∀ q ∈ ys, r.step ≤ q.step) →
    firstTrap ((xs ++ r :: ys).map (trapPlace a slot)) = some (trapPlace a slot r)
  | [], ys, _, hy => by
    simp only [List.nil_append, List.map_cons, firstTrap]
    split
    · rfl
    · next u hu =>
      obtain ⟨q, hq, rfl⟩ := List.mem_map.mp (firstTrap_mem hu)
      simp [placeLt_trapPlace, hy q hq]
  | x :: xs, ys, hx, hy => by
    have ih := firstTrap_map (a := a) (slot := slot) (xs := xs) (fun q hq => hx q (List.mem_cons_of_mem _ hq)) hy
    simp only [List.cons_append, List.map_cons, firstTrap, ih, placeLt_trapPlace, hx x (List.mem_cons_self ..),
      decide_true, if_true]

/-- Every overflow is counted at the slot of the operation. -/
theorem overflows_slot {t : Ctx} {o : Op} {v : List Word} {us ps : List Nat} {p : Nat × Nat}
    (h : p ∈ overflows t [⟨o, v, us⟩] ps) : p.2 = o.slot := by
  simp only [overflows, List.mem_filterMap] at h
  obtain ⟨i, -, hi⟩ := h
  split at hi
  · cases hc : o.pushes.contains i <;> simp only [List.filter, hc] at hi
    · exact absurd hi (by simp)
    · simp only [List.getLast?_singleton, Option.map_some, Option.some.injEq] at hi
      exact hi ▸ rfl
  · exact absurd hi (by simp)

section Operands
variable {o : Op} {a : State} {s : State}

/-- The operation and its values, once its guard holds. -/
def actOf (o : Op) (a : State) : Act :=
  ⟨o, srcVals o.srcs a, underflows a.me o.srcs (List.replicate 8 0)⟩

theorem resolve_actOf (hg : guardHolds a.me o.guard = true) :
    resolve a.me [o] (List.replicate 8 0) = ([actOf o a], srcPops o.srcs a) := resolve_one _ _ _ hg

/-- What a group of one operation comes to when its port decodes and its guard holds, by its waits and its first trap. -/
theorem judge_stalled (hd : o.decode a = none) (hg : guardHolds a.me o.guard = true)
    (h : (o.srcs.any (blockedSrc a.me) || o.dsts.any fun d => !a.me.full.getLsbD d.val) = true) :
    judge [o] a = .stall := by
  have hs : stalled a [o] [actOf o a] = true := by
    simp only [stalled, List.any_cons, List.any_nil, Bool.or_false, Bool.or_eq_true]
    simp only [Bool.or_eq_true] at h
    exact .inr (.inl (.inl h))
  simp only [judge, portDecode, hd, List.findSome?_cons, List.findSome?_nil, Option.map_none, resolve_actOf hg, hs,
    Bool.true_or, if_true]

/-- The checks of an operation's operands and its own, in the order the group lists them. -/
def trapsOf (o : Op) (a : State) : List Trap :=
  (o.srcs.filterMap (earlySrc a.me)).map (fun n => ⟨2, causeEARLY, n⟩) ++
    ((underflows a.me o.srcs (List.replicate 8 0)).map (fun n => ⟨3, causeQUNF, n⟩) ++
      (o.traps a (srcVals o.srcs a) ++
        (overflows a.me [actOf o a] (srcPops o.srcs a)).map fun p => ⟨3, causeQOVF, p.1⟩))

theorem groupTraps_one : groupTraps a [actOf o a] (srcPops o.srcs a) = (trapsOf o a).map (trapPlace a o.slot) := by
  have ho : (overflows a.me [actOf o a] (srcPops o.srcs a)).map (fun p => trapPlace a p.2 ⟨3, causeQOVF, p.1⟩) =
      (overflows a.me [actOf o a] (srcPops o.srcs a)).map (fun p => trapPlace a o.slot ⟨3, causeQOVF, p.1⟩) :=
    List.map_congr_left fun p hp => by rw [overflows_slot hp]
  simp only [trapsOf, List.map_append, List.map_map, Function.comp_def, ← ho, groupTraps, List.map_cons, List.map_nil,
    List.flatten_cons, List.flatten_nil, List.append_nil, List.append_assoc]
  rfl

theorem judge_operand_trap {r : Trap} (hd : o.decode a = none) (hl : lateKeys a a.issue.core a.issue.ctx = [])
    (hn : a.me.loopn = none) (hg : guardHolds a.me o.guard = true)
    (hw : (o.srcs.any (blockedSrc a.me) || o.dsts.any fun d => !a.me.full.getLsbD d.val) = false)
    (hsc : scoreboard a.myCore (o.tileR a) (o.tileW a) = false) (hst : o.stall a (srcVals o.srcs a) = false)
    (he : o.empty a (srcVals o.srcs a) = false)
    (ht : firstTrap ((trapsOf o a).map (trapPlace a o.slot)) = some (trapPlace a o.slot r)) :
    judge [o] a = .trap r.cause r.tval (o.onTrap r.cause) := by
  have h1 : stalled a [o] [actOf o a] = false := by
    simp only [Bool.or_eq_false_iff] at hw
    simp only [stalled, hl, List.isEmpty_nil, Bool.not_true, Bool.false_and, List.any_cons, List.any_nil, actOf, hw.1, hw.2,
      hsc, hst, Bool.or_self]
  have h2 : ∀ l f, deltaStall a.me l f = false := fun l f => by simp [deltaStall, hn]
  have h3 : emptyWait a [actOf o a] = false := by simp [emptyWait, actOf, he]
  simp only [judge, portDecode, hd, List.findSome?_cons, List.findSome?_nil, Option.map_none, resolve_actOf hg, h1, h2, h3,
    Bool.or_self, Bool.false_eq_true, if_false, groupTraps_one, ht]
  simp [trapPlace, actOf]

end Operands

theorem cause_ne_checksum : causeEARLY ≠ causeCHECKSUM ∧ causeQUNF ≠ causeCHECKSUM ∧ causeQOVF ≠ causeCHECKSUM := by decide

/-- Settles O8: of what the operands of an operation ask, the waits come first, and the traps in the order of R144. -/
theorem operandChecks : Obligations.OperandChecks := by
  intro i o s ho a v waits early under full trap hr hd hl hn hg
  have htrap : ∀ {r : Trap}, r.cause ≠ causeCHECKSUM → judge [o] a = .trap r.cause r.tval (o.onTrap r.cause) →
      exec i s = trap r.cause r.tval := fun {r} hc hj => by
    rw [exec_of_opOf ho, runOne, runGroup_of_trap hr hj, onTrap_of_opOf ho hc]
  refine ⟨fun hw => ?_, fun hw hsc hst he => ⟨fun n l hn0 hlt => ?_, fun n l he0 hu hlt => ?_, fun n sl l he0 hu hf hlt => ?_⟩⟩
  · rw [exec_of_opOf ho, runOne, runGroup_of_stall hr (judge_stalled hd hg hw)]
  · have hsteps : trapsOf o a = ⟨2, causeEARLY, n⟩ :: (l.map (fun n => ⟨2, causeEARLY, n⟩) ++
        (under.map (fun n => ⟨3, causeQUNF, n⟩) ++ (o.traps a v ++ full.map fun p => ⟨3, causeQOVF, p.1⟩))) := by
      have hn' : o.srcs.filterMap (earlySrc a.me) = n :: l := hn0
      rw [trapsOf, hn']
      rfl
    refine htrap (r := ⟨2, causeEARLY, n⟩) cause_ne_checksum.1 (judge_operand_trap hd hl hn hg hw hsc hst he ?_)
    rw [hsteps]
    refine firstTrap_map (xs := []) (fun _ h => absurd h (List.not_mem_nil)) fun q hq => ?_
    simp only [List.mem_append, List.mem_map] at hq
    rcases hq with ⟨_, -, rfl⟩ | ⟨_, -, rfl⟩ | hq | ⟨_, -, rfl⟩
    · exact Nat.le_refl _
    · exact Nat.le_succ _
    · exact Nat.le_of_lt (hlt q hq)
    · exact Nat.le_succ _
  · have hsteps : trapsOf o a = ⟨3, causeQUNF, n⟩ :: (l.map (fun n => ⟨3, causeQUNF, n⟩) ++
        (o.traps a v ++ full.map fun p => ⟨3, causeQOVF, p.1⟩)) := by
      have he' : o.srcs.filterMap (earlySrc a.me) = [] := he0
      have hu' : underflows a.me o.srcs (List.replicate 8 0) = n :: l := hu
      rw [trapsOf, he', hu']
      rfl
    refine htrap (r := ⟨3, causeQUNF, n⟩) cause_ne_checksum.2.1 (judge_operand_trap hd hl hn hg hw hsc hst he ?_)
    rw [hsteps]
    refine firstTrap_map (xs := []) (fun _ h => absurd h (List.not_mem_nil)) fun q hq => ?_
    simp only [List.mem_append, List.mem_map] at hq
    rcases hq with ⟨_, -, rfl⟩ | hq | ⟨_, -, rfl⟩
    · exact Nat.le_refl _
    · exact Nat.le_of_lt (hlt q hq)
    · exact Nat.le_refl _
  · have hsteps : trapsOf o a = o.traps a v ++ ⟨3, causeQOVF, n⟩ :: l.map fun p => ⟨3, causeQOVF, p.1⟩ := by
      have he' : o.srcs.filterMap (earlySrc a.me) = [] := he0
      have hu' : underflows a.me o.srcs (List.replicate 8 0) = [] := hu
      have hf' : overflows a.me [actOf o a] (srcPops o.srcs a) = (n, sl) :: l := hf
      rw [trapsOf, he', hu', hf']
      rfl
    refine htrap (r := ⟨3, causeQOVF, n⟩) cause_ne_checksum.2.2 (judge_operand_trap hd hl hn hg hw hsc hst he ?_)
    rw [hsteps]
    refine firstTrap_map hlt fun q hq => ?_
    obtain ⟨_, -, rfl⟩ := List.mem_map.mp hq
    exact Nat.le_refl _

end Sys2Proof.Machine
end


section
/-!
Branches (O15), supervisor traps and ERET (O17), drains and fences (O18).
-/
namespace Sys2Proof.Machine

/-! ## An instruction that is one operation which does not go ahead -/

section OneOperation
variable {i : Instr} {o : Op} {s : State}

theorem exec_trap {step cause tval : Nat} (hx : exec i s = runOne o s) (h : clear o.guard o.srcs o.dsts o.pushes s = true)
    (h1 : o.decode (startCycle s) = none)
    (h2 : scoreboard (startCycle s).myCore (o.tileR (startCycle s)) (o.tileW (startCycle s)) = false)
    (h3 : o.stall (startCycle s) (srcVals o.srcs (startCycle s)) = false)
    (h4 : o.empty (startCycle s) (srcVals o.srcs (startCycle s)) = false)
    (h5 : o.traps (startCycle s) (srcVals o.srcs (startCycle s)) = [⟨step, cause, tval⟩])
    (h6 : ∀ u, o.onTrap cause u = u) :
    exec i s = .next (takeTrap (delivered s) s.issue.core s.issue.ctx cause tval s.issue.addr) := by
  rw [hx, runOne, runGroup_trap h h1 h2 h3 h4 h5, h6]

theorem exec_stall (hx : exec i s = runOne o s) (h : clear o.guard o.srcs o.dsts o.pushes s = true)
    (h1 : o.decode (startCycle s) = none)
    (h2 : o.stall (startCycle s) (srcVals o.srcs (startCycle s)) = true) : exec i s = .next (stallGroup s) := by
  rw [hx, runOne, runGroup_stall h h1 (.inr h2)]

end OneOperation

/-! ## Branches (R147) -/

@[simp] theorem trapIf_true (t : Trap) : trapIf true t = [t] := rfl
@[simp] theorem trapIf_false (t : Trap) : trapIf false t = [] := rfl

theorem targetTraps_covered {a : State} {tgt : Nat} (h : codeCovers a a.me tgt = true) : targetTraps a tgt = [] := by
  simp [targetTraps, h]

theorem targetTraps_outside {a : State} {tgt : Nat} (h : codeCovers a a.me tgt = false) :
    targetTraps a tgt = [illegalAt a 0] := by
  simp [targetTraps, h]

theorem opBra_traps (gd : Guard) (off : BitVec 23) (a : State) (v : List Word) :
    (opBra gd off).traps a v = targetTraps a (branchTarget a off) := rfl

theorem opCall_traps (gd : Guard) (off : BitVec 23) (a : State) (v : List Word) :
    (opCall gd off).traps a v = targetTraps a (branchTarget a off) := rfl

theorem opBri_traps_even (gd : Guard) (r : GSrc) (a : State) {v : List Word} (h : (operand v 0).toNat % 2 = 0) :
    (opBri gd r).traps a v = targetTraps a (operand v 0).toNat :=
  if_neg (by omega)

theorem opBri_traps_odd (gd : Guard) (r : GSrc) (a : State) {v : List Word} (h : (operand v 0).toNat % 2 = 1) :
    (opBri gd r).traps a v = [⟨7, causeALIGN, (operand v 0).toNat⟩] := if_pos h

theorem illegalVal_slot0 (b : Bool) : illegalVal 0 b 0 = if b then 16 else 0 := by cases b <;> rfl

/-- What a taken branch that puts a result in flight leaves of its context. -/
theorem countCycle_giveTo_branch {a : State} (hn : a.me.loopn = none) (srcs : List Src) (tgt cls : Nat) (w : Write)
    (f : Flags) :
    countCycle a (giveTo a.ck cls w f (moveOn (srcPops srcs a) (flow a.me a.issue.next (some (true, tgt))) a.me)) =
      { advanced a srcs with
        pc := tgt, loop := a.me.loop.filter fun l => inBody l.start l.len tgt, flights := landing a cls w f } := by
  have h : countCycle a (giveTo a.ck cls w f (moveOn (srcPops srcs a) (flow a.me a.issue.next (some (true, tgt))) a.me)) =
      { advancedTo a srcs (some (true, tgt)) with flights := landing a cls w f } := rfl
  rw [h, advancedTo_branch hn]

section Branch
variable {gd : Guard} {off : BitVec 23} {r : GSrc} {s : State}

theorem issuesAs_bra (hc : clear gd [] [] [] s = true)
    (h : codeCovers (startCycle s) (startCycle s).me (branchTarget (startCycle s) off) = true) :
    IssuesAs (.bra gd off) s (advancedTo (startCycle s) [] (some (true, branchTarget (startCycle s) off))) := by
  have hg : goes (opBra gd off) s = true :=
    goes_of_clear hc rfl (scoreboard_nil _) rfl rfl ((opBra_traps ..).trans (targetTraps_covered h)) rfl rfl
  exact issuesAs_of_runs_idle (runs_of_goes (o := opBra gd off) rfl hg fun _ _ _ hn => hn)

theorem issuesAs_bri (hc : clear gd [gs r] [] [] s = true) (h2 : (val [gs r] s 0).toNat % 2 = 0)
    (h : codeCovers (startCycle s) (startCycle s).me (val [gs r] s 0).toNat = true) :
    IssuesAs (.bri gd r) s (advancedTo (startCycle s) [gs r] (some (true, (val [gs r] s 0).toNat))) := by
  have hg : goes (opBri gd r) s = true :=
    goes_of_clear hc rfl (scoreboard_nil _) rfl rfl ((opBri_traps_even _ _ _ h2).trans (targetTraps_covered h))
      rfl rfl
  exact issuesAs_of_runs_idle (runs_of_goes (o := opBri gd r) rfl hg fun _ _ _ hn => hn)

theorem goes_call (hc : clear gd [] [31] [] s = true)
    (h : codeCovers (startCycle s) (startCycle s).me (branchTarget (startCycle s) off) = true) :
    goes (opCall gd off) s = true :=
  goes_of_clear hc rfl (scoreboard_nil _) rfl rfl ((opCall_traps ..).trans (targetTraps_covered h)) rfl rfl

theorem issuesAs_call (hc : clear gd [] [31] [] s = true)
    (h : codeCovers (startCycle s) (startCycle s).me (branchTarget (startCycle s) off) = true) :
    IssuesAs (.call gd off) s (countCycle (startCycle s) (giveTo (startCycle s).ck 0
      (.g 31 (BitVec.ofNat 64 (startCycle s).issue.next)) 0 (moveOn (srcPops [] (startCycle s))
        (flow (startCycle s).me (startCycle s).issue.next (some (true, branchTarget (startCycle s) off)))
        (startCycle s).me))) :=
  issuesAs_of_goes (o := opCall gd off) rfl (goes_call hc h) (giveTo (startCycle s).ck 0 _ 0)
    (fun t _ hk => (give_eq t 0 _ 0).trans (by rw [hk])) fun _ ht => ht

theorem exec_bra_outside (hc : clear gd [] [] [] s = true)
    (h : codeCovers (startCycle s) (startCycle s).me (branchTarget (startCycle s) off) = false) :
    exec (.bra gd off) s = .next (takeTrap (delivered s) s.issue.core s.issue.ctx causeILLEGAL
      (illegalVal 0 (inSecond (startCycle s) 0) 0) s.issue.addr) :=
  exec_trap (o := opBra gd off) rfl hc rfl (scoreboard_nil _) rfl rfl
    ((opBra_traps ..).trans (targetTraps_outside h)) fun _ => rfl

theorem exec_call_outside (hc : clear gd [] [31] [] s = true)
    (h : codeCovers (startCycle s) (startCycle s).me (branchTarget (startCycle s) off) = false) :
    exec (.call gd off) s = .next (takeTrap (delivered s) s.issue.core s.issue.ctx causeILLEGAL
      (illegalVal 0 (inSecond (startCycle s) 0) 0) s.issue.addr) :=
  exec_trap (o := opCall gd off) rfl hc rfl (scoreboard_nil _) rfl rfl
    ((opCall_traps ..).trans (targetTraps_outside h)) fun _ => rfl

theorem exec_bri_odd (hc : clear gd [gs r] [] [] s = true) (h : (val [gs r] s 0).toNat % 2 = 1) :
    exec (.bri gd r) s = .next (takeTrap (delivered s) s.issue.core s.issue.ctx causeALIGN (val [gs r] s 0).toNat
      s.issue.addr) :=
  exec_trap (o := opBri gd r) rfl hc rfl (scoreboard_nil _) rfl rfl
    (opBri_traps_odd _ _ _ h) fun _ => rfl

theorem exec_bri_outside (hc : clear gd [gs r] [] [] s = true) (h2 : (val [gs r] s 0).toNat % 2 = 0)
    (h : codeCovers (startCycle s) (startCycle s).me (val [gs r] s 0).toNat = false) :
    exec (.bri gd r) s = .next (takeTrap (delivered s) s.issue.core s.issue.ctx causeILLEGAL
      (illegalVal 0 (inSecond (startCycle s) 0) 0) s.issue.addr) :=
  exec_trap (o := opBri gd r) rfl hc rfl (scoreboard_nil _) rfl rfl
    ((opBri_traps_even _ _ _ h2).trans (targetTraps_outside h)) fun _ => rfl

end Branch

/-- A group whose operands are clear stands outside a LOOPN block. -/
theorem clear_loopn {gd : Guard} {srcs : List Src} {ds : List (Fin 32)} {ps : List (Fin 8)} {s : State}
    (h : clear gd srcs ds ps s = true) : (startCycle s).me.loopn = none := by
  unfold clear at h
  exact goes_loopn h

theorem branchResults : Claims.BranchResults := by
  intro gd off r s a own tgt reg stays
  refine ⟨fun hc h => ?_, fun hc h => ?_, fun hc h2 h => ?_⟩
  · have hb := issuesAs_bra hc h
    rwa [advancedTo_branch (clear_loopn hc)] at hb
  · have hb := issuesAs_call hc h
    rwa [countCycle_giveTo_branch (clear_loopn hc)] at hb
  · have hb := issuesAs_bri hc h2 h
    rwa [advancedTo_branch (clear_loopn hc)] at hb

theorem branchTraps : Claims.BranchTraps := by
  intro gd off r s a tgt reg whr trap
  have hw : illegalVal 0 (inSecond a 0) 0 = whr := illegalVal_slot0 _
  refine ⟨fun hc h => ?_, fun hc h => ?_, exec_bri_odd, fun hc h2 h => ?_⟩
  · exact (exec_bra_outside hc h).trans (by rw [hw])
  · exact (exec_call_outside hc h).trans (by rw [hw])
  · exact (exec_bri_outside hc h2 h).trans (by rw [hw])

/-- Settles O15: each branch has one check of its own, the cover of its target, and BRI the evenness before it. -/
theorem branches : Obligations.Branches := ⟨branchResults, branchTraps⟩

/-! ## Drains and fences (R150, R152, R198, R316) -/

theorem opDrain_stall (gd : Guard) (a : State) (v : List Word) :
    (opDrain gd).stall a v = !(drained a a.issue.core a.issue.ctx) := rfl

theorem opFence_stall (gd : Guard) (sc : Fin 8) (a : State) (v : List Word) :
    (opFence gd sc).stall a v = !(outstandingIn a (scopeCode a sc) a.issue.core a.issue.ctx).isEmpty := rfl

/-- FENCE traps only where it names the context's own scope and that is 0. -/
theorem opFence_traps (gd : Guard) {sc : Fin 8} {a : State} (v : List Word) (h : ¬(sc = 7 ∧ scopeCode a sc = 0)) :
    (opFence gd sc).traps a v = [] := by
  have hb : (sc == 7 && scopeCode a sc == 0) = false := by
    rw [Bool.eq_false_iff]
    simpa using h
  simp only [opFence, hb, trapIf_false]

theorem opNmfence_stall (gd : Guard) (stack : Option (Fin 16)) (a : State) (v : List Word) :
    (opNmfence gd stack).stall a v = nmcPending a a.issue.core a.issue.ctx stack := rfl

theorem opNmfence_block (gd : Guard) (stack : Option (Fin 16)) {a : State} (v : List Word)
    (h : a.myCore.lanternOn = false) : (opNmfence gd stack).block a v = none := by
  simp [opNmfence, h]

section Fences
variable {gd : Guard} {sc : Fin 8} {stack : Option (Fin 16)} {s : State}

theorem issuesAs_drain (hc : clear gd [] [] [] s = true)
    (h : drained (startCycle s) (startCycle s).issue.core (startCycle s).issue.ctx = true) :
    IssuesAs (.drain gd) s (advanced (startCycle s) []) := by
  have hst : (opDrain gd).stall (startCycle s) (srcVals [] (startCycle s)) = false := by
    rw [opDrain_stall, h]
    rfl
  have hg : goes (opDrain gd) s = true := goes_of_clear hc rfl (scoreboard_nil _) hst rfl rfl rfl rfl
  exact issuesAs_of_runs_idle (runs_of_goes (o := opDrain gd) rfl hg fun _ _ _ hn => hn)

theorem exec_drain_stall (hc : clear gd [] [] [] s = true)
    (h : drained (startCycle s) (startCycle s).issue.core (startCycle s).issue.ctx = false) :
    exec (.drain gd) s = .next (stallGroup s) := by
  have hst : (opDrain gd).stall (startCycle s) (srcVals [] (startCycle s)) = true := by
    rw [opDrain_stall, h]
    rfl
  exact exec_stall (o := opDrain gd) rfl hc rfl hst

theorem issuesAs_fence (hc : clear gd [] [] [] s = true) (h7 : ¬(sc = 7 ∧ scopeCode (startCycle s) sc = 0))
    (h : outstandingIn (startCycle s) (scopeCode (startCycle s) sc) (startCycle s).issue.core (startCycle s).issue.ctx = []) :
    IssuesAs (.fence gd sc) s (advanced (startCycle s) []) := by
  have hst : (opFence gd sc).stall (startCycle s) (srcVals [] (startCycle s)) = false := by
    rw [opFence_stall, h]
    rfl
  have hg : goes (opFence gd sc) s = true := goes_of_clear hc rfl (scoreboard_nil _) hst rfl (opFence_traps gd _ h7) rfl rfl
  exact issuesAs_of_runs_idle (runs_of_goes (o := opFence gd sc) rfl hg fun _ _ _ hn => hn)

theorem exec_fence_stall (hc : clear gd [] [] [] s = true)
    (h : outstandingIn (startCycle s) (scopeCode (startCycle s) sc) (startCycle s).issue.core (startCycle s).issue.ctx ≠ []) :
    exec (.fence gd sc) s = .next (stallGroup s) := by
  have hst : (opFence gd sc).stall (startCycle s) (srcVals [] (startCycle s)) = true := by
    rw [opFence_stall, List.isEmpty_eq_false_iff.mpr h]
    rfl
  exact exec_stall (o := opFence gd sc) rfl hc rfl hst

theorem issuesAs_nmfence (hc : clear gd [] [] [] s = true)
    (h : nmcPending (startCycle s) (startCycle s).issue.core (startCycle s).issue.ctx stack = false)
    (hl : (startCycle s).myCore.lanternOn = false) :
    IssuesAs (.nmfence gd stack) s (advanced (startCycle s) []) := by
  have hg : goes (opNmfence gd stack) s = true := goes_of_clear hc rfl (scoreboard_nil _)
    ((opNmfence_stall ..).trans h) rfl rfl (opNmfence_block gd stack _ hl) rfl
  exact issuesAs_of_runs_idle (runs_of_goes (o := opNmfence gd stack) rfl hg fun _ _ _ hn => hn)

theorem exec_nmfence_stall (hc : clear gd [] [] [] s = true)
    (h : nmcPending (startCycle s) (startCycle s).issue.core (startCycle s).issue.ctx stack = true) :
    exec (.nmfence gd stack) s = .next (stallGroup s) :=
  exec_stall (o := opNmfence gd stack) rfl hc rfl ((opNmfence_stall ..).trans h)

end Fences

/-- No command of a base die, queued or under way, keeps NMFENCE waiting (R198). -/
theorem nmcPending_none {s : State} {c x : Nat} (stack : Option (Fin 16))
    (hc : ∀ m ∈ (getCtx s c x).cmds, m.isNmc = false) (hn : (getCtx s c x).nmc = []) : nmcPending s c x stack = false := by
  have h : ((getCtx s c x).cmds.any fun m => m.isNmc && fenceMeets stack (homeAt s c x (nmDeva m.desc))) = false :=
    List.any_eq_false.mpr fun m hm => by simp [hc m hm]
  simp only [nmcPending, h, hn, List.any_nil, Bool.or_self]

/-- Settles O18: each has one in-place wait, on the accesses it orders, and no effect. -/
theorem drainsAndFences : Obligations.DrainsAndFences :=
  ⟨fun _ _ _ hc => ⟨issuesAs_drain hc, exec_drain_stall hc, issuesAs_fence hc, exec_fence_stall hc⟩,
    fun _ stack _ hc => ⟨issuesAs_nmfence hc, exec_nmfence_stall hc, nmcPending_none stack⟩⟩

end Sys2Proof.Machine
end


section
/-!
SUPPORT. A group that goes ahead, as one change of its core: what an effect on the issuing core leaves of the package, of
the core and of the issuing context.
-/
namespace Sys2Proof.Machine

theorem modCtx_eq_modCore (s : State) (c x : Nat) (f : Ctx → Ctx) :
    modCtx s c x f = modCore s c fun k => k.put x (f (k.get x)) := rfl

/-- The issuing core as the effect of its group's operation finds it. -/
def Core.beforeEffect (a : State) (srcs : List Src) (g : Option (Bool × Nat)) (k : Core) : Core :=
  (giveUp a.issue.d a.issue.ctx k).put a.issue.ctx (moveOn (srcPops srcs a) (flow a.me a.issue.next g) (k.get a.issue.ctx))

/-- The issuing core once its group's issue cycle is counted. -/
def Core.afterEffect (a : State) (k : Core) : Core :=
  noteIssue a (k.put a.issue.ctx (countCycle a (k.get a.issue.ctx)))

theorem before_eq_modCore (a : State) (srcs : List Src) (g : Option (Bool × Nat)) :
    before a srcs g = modCore a a.issue.core (Core.beforeEffect a srcs g) := by
  simp only [before, State.modMe, modCore_issue, modCtx_eq_modCore, modCore_modCore, giveUp_get]
  rfl

theorem after_modCore (a : State) (srcs : List Src) (g : Option (Bool × Nat)) (F : Core → Core) :
    after a (modCore (before a srcs g) a.issue.core F) =
      modCore a a.issue.core fun k => (F (k.beforeEffect a srcs g)).afterEffect a := by
  simp only [after, before_eq_modCore, State.modMe, modCore_issue, modCtx_eq_modCore, modCore_modCore]
  rfl

@[simp] theorem Core.beforeEffect_get (a : State) (srcs : List Src) (g : Option (Bool × Nat)) (k : Core) :
    (k.beforeEffect a srcs g).get a.issue.ctx =
      moveOn (srcPops srcs a) (flow a.me a.issue.next g) (k.get a.issue.ctx) := by
  simp [Core.beforeEffect]

@[simp] theorem Core.afterEffect_get (a : State) (k : Core) :
    (k.afterEffect a).get a.issue.ctx = countCycle a (k.get a.issue.ctx) := by
  simp [Core.afterEffect]

theorem modCore_me (a : State) (F : Core → Core) :
    (modCore a a.issue.core F).me = (F a.myCore).get a.issue.ctx := by
  simp [State.me, State.myCore, getCtx]

theorem modCore_myCore (a : State) (F : Core → Core) : (modCore a a.issue.core F).myCore = F a.myCore := by
  simp [State.myCore]

@[simp] theorem myCore_get (a : State) : a.myCore.get a.issue.ctx = a.me := rfl

/-! ## Groups of one operation whose sources, control and effect are known -/

section Effect
variable {i : Instr} {o : Op} {s : State} {srcs : List Src} {g : Option (Bool × Nat)}

theorem exec_of_effect (hx : exec i s = runOne o s) (h : goes o s = true) (hs : o.srcs = srcs)
    (hg : o.goto (startCycle s) (srcVals srcs (startCycle s)) = g)
    (hl : ∀ t, t.issue = (startCycle s).issue → t.ck = (startCycle s).ck → t.me.loopn = none →
      (o.effect (startCycle s) (srcVals srcs (startCycle s)) t).me.loopn = none) :
    exec i s = .next (after (startCycle s) (o.effect (startCycle s) (srcVals srcs (startCycle s))
      (before (startCycle s) srcs g))) := by
  subst hs hg
  exact runs_of_goes hx h hl

theorem issuesAs_of_effect {f : Ctx → Ctx} (hx : exec i s = runOne o s) (h : goes o s = true) (hs : o.srcs = srcs)
    (hg : o.goto (startCycle s) (srcVals srcs (startCycle s)) = g)
    (he : ∀ t, t.issue = (startCycle s).issue → t.ck = (startCycle s).ck →
      o.effect (startCycle s) (srcVals srcs (startCycle s)) t = t.modMe f)
    (hf : ∀ t, t.loopn = none → (f t).loopn = none) :
    IssuesAs i s (countCycle (startCycle s) (f (moveOn (srcPops srcs (startCycle s))
      (flow (startCycle s).me (startCycle s).issue.next g) (startCycle s).me))) := by
  subst hs hg
  exact issuesAs_of_goes hx h f he hf

theorem issuesAs_of_idle (hx : exec i s = runOne o s) (h : goes o s = true) (hs : o.srcs = srcs)
    (hg : o.goto (startCycle s) (srcVals srcs (startCycle s)) = g)
    (he : ∀ t, o.effect (startCycle s) (srcVals srcs (startCycle s)) t = t) :
    IssuesAs i s (advancedTo (startCycle s) srcs g) := by
  have hr := exec_of_effect hx h hs hg fun t _ _ hn => by rwa [he]
  rw [he] at hr
  exact ⟨_, hr, onlyMe_after_idle _ _ _⟩

end Effect

/-! ## Exposed results of an operation of many rows -/

/-- A result of a class put in flight by a context `t` in ck `ck` (R61, R82). -/
def flightIn (ck : Nat) (t : Ctx) (cls : Nat) (w : RowWrite) : Flight :=
  let T := t.lat.getD cls 1
  let L := partLatency.getD cls 1
  ⟨t.icyc + T + w.2.1, if T < L then ck + L + w.2.1 else 0, ck + T + w.2.1, t.icyc, cls, t.icyc + w.1, w.2.2⟩

/-- The context with writes of a class in flight. -/
def exposeAll (ck cls : Nat) (ws : List RowWrite) (t : Ctx) : Ctx :=
  { t with flights := ws.foldl (fun fs w => insertFlight (flightIn ck t cls w) fs) t.flights }

theorem exposeFrom_modCore (a : State) (F : Core → Core) (cls : Nat) (w : RowWrite) :
    exposeFrom w.1 (modCore a a.issue.core F) a.issue.core a.issue.ctx cls w.2.1 w.2.2 =
      modCore a a.issue.core fun k => (F k).put a.issue.ctx (exposeAll a.ck cls [w] ((F k).get a.issue.ctx)) := by
  rw [exposeFrom, modCtx_eq_modCore, modCore_modCore]
  rfl

/-- Writes put in flight one after the other by a package whose issuing core has changed. -/
theorem foldl_exposeFrom (a : State) (cls : Nat) : ∀ (ws : List RowWrite) (F : Core → Core),
    ws.foldl (fun s w => exposeFrom w.1 s s.issue.core s.issue.ctx cls w.2.1 w.2.2) (modCore a a.issue.core F) =
      modCore a a.issue.core fun k => (F k).put a.issue.ctx (exposeAll a.ck cls ws ((F k).get a.issue.ctx))
  | [], F => by
    have h : ∀ k : Core, (F k).put a.issue.ctx (exposeAll a.ck cls [] ((F k).get a.issue.ctx)) = F k := fun k =>
      Core.put_get _ _
    simp only [List.foldl_nil, h]
  | w :: ws, F => by
    rw [List.foldl_cons, modCore_issue, exposeFrom_modCore, foldl_exposeFrom a cls ws]
    simp only [Core.put_put, Core.get_put_self]
    rfl

/-- The same of a package whose issuing context has changed. -/
theorem foldl_exposeFrom_modMe (cls : Nat) : ∀ (ws : List RowWrite) (s : State) (f : Ctx → Ctx),
    ws.foldl (fun s w => exposeFrom w.1 s s.issue.core s.issue.ctx cls w.2.1 w.2.2) (s.modMe f) =
      s.modMe fun t => exposeAll s.ck cls ws (f t)
  | [], _, _ => rfl
  | w :: ws, s, f => by
    have h : exposeFrom w.1 (s.modMe f) s.issue.core s.issue.ctx cls w.2.1 w.2.2 =
        s.modMe fun t => exposeAll s.ck cls [w] (f t) := modMe_modMe ..
    exact (congrArg (List.foldl _ · ws) h).trans (foldl_exposeFrom_modMe cls ws s _)

theorem exposeAll_flights (a : State) (srcs : List Src) (g : Flow) (cls : Nat) (ws : List RowWrite) :
    (exposeAll a.ck cls ws (moveOn (srcPops srcs a) g a.me)).flights = addFlights a cls ws := rfl

end Sys2Proof.Machine
end


section
/-!
Trap entry on a compute context (O16) and on a supervisor core, and the return from it (O17).
-/
namespace Sys2Proof.Machine

/-! ## Supervisor cores (R28, R151) -/

/-- The context that enters the trap handler of its supervisor core. -/
def handlerCtx (ck c cause tval epc : Nat) (t : Ctx) : Ctx :=
  { t with
    xcause := cause, xepc := BitVec.ofNat 64 epc, xtval := BitVec.ofNat 64 tval, since := ck, mark := none
    blk := if cause = causeWATCHDOG then t.blk else 0
    barWait := if cause = causeWATCHDOG then t.barWait else none
    pc := Config.supHandler c, frzAt := none }

section Supervisor
variable {s : State} {c : Nat} (h : isSup c = true) (x cause tval epc : Nat)
include h

theorem takeTrap_sup : takeTrap s c x cause tval epc = modCore (modCtx { s with freeCtr := s.freeCtr + 1 } c x
    (handlerCtx s.ck c cause tval epc)) c fun k => { k with inTrap := true } := by
  simp only [takeTrap, h, if_true, modCtx_modCtx]
  rfl

theorem getCore_takeTrap_sup : getCore (takeTrap s c x cause tval epc) c =
    { (getCore s c).put x (handlerCtx s.ck c cause tval epc (getCtx s c x)) with inTrap := true } := by
  rw [takeTrap_sup h, getCore_modCore_self, getCore_modCtx_self]
  rfl

theorem getCtx_takeTrap_sup : getCtx (takeTrap s c x cause tval epc) c x =
    handlerCtx s.ck c cause tval epc (getCtx s c x) := by
  rw [getCtx, getCore_takeTrap_sup h]
  exact Core.get_put_self _ _ _

end Supervisor

/-- A core whose context `x` has left its trap handler. -/
def Core.leaveHandler (x : Nat) (k : Core) : Core :=
  { k.put x { k.get x with pc := (k.get x).xepc.toNat } with inTrap := false }

theorem Core.leaveHandler_get (x : Nat) (k : Core) :
    (k.leaveHandler x).get x = { k.get x with pc := (k.get x).xepc.toNat } := Core.get_put_self ..

theorem returnTrap_eq (s : State) (c x : Nat) : returnTrap s c x = modCore s c (Core.leaveHandler x) := by
  rw [returnTrap, modCtx_eq_modCore, modCore_modCore]
  rfl

section Eret
variable (a : State) (srcs : List Src)

theorem after_returnTrap : after a (returnTrap (before a srcs none) a.issue.core a.issue.ctx) =
    modCore a a.issue.core fun k => ((k.beforeEffect a srcs none).leaveHandler a.issue.ctx).afterEffect a := by
  rw [returnTrap_eq, after_modCore]

theorem after_returnTrap_me : (after a (returnTrap (before a srcs none) a.issue.core a.issue.ctx)).me =
    { advanced a srcs with pc := a.me.xepc.toNat } := by
  rw [after_returnTrap, modCore_me, Core.afterEffect_get, Core.leaveHandler_get, Core.beforeEffect_get]
  rfl

theorem after_returnTrap_inTrap :
    (after a (returnTrap (before a srcs none) a.issue.core a.issue.ctx)).myCore.inTrap = false := by
  rw [after_returnTrap, modCore_myCore]
  rfl

end Eret

theorem opEret_traps_sup (gd : Guard) {a : State} (v : List Word) (h : isSup a.issue.core = true) :
    (opEret gd).traps a v = [] := by
  simp [opEret, h]

theorem opEret_traps_compute (gd : Guard) {a : State} (v : List Word) (h : isSup a.issue.core = false) :
    (opEret gd).traps a v = [⟨1, causePRIV, openVal a⟩] := by
  simp [opEret, h]

theorem returnTrap_loopn (t : State) {c x : Nat} (hi : t.issue.core = c) (hx : t.issue.ctx = x) :
    (returnTrap t c x).me.loopn = t.me.loopn := by
  subst hi hx
  rw [returnTrap_eq, modCore_me, Core.leaveHandler_get]
  rfl

theorem runs_eret {gd : Guard} {s : State} (hc : clear gd [] [] [] s = true) (h : isSup s.issue.core = true) :
    Runs (.eret gd) s [] none fun a t => returnTrap t a.issue.core a.issue.ctx := by
  have ha : isSup (startCycle s).issue.core = true := by rwa [startCycle_core]
  have hg : goes (opEret gd) s = true :=
    goes_of_clear hc rfl (scoreboard_nil _) rfl rfl (opEret_traps_sup gd _ ha) rfl rfl
  exact runs_of_goes (o := opEret gd) rfl hg fun t hi _ hn =>
    (returnTrap_loopn t (by rw [hi]) (by rw [hi])).trans hn

/-! ## Compute contexts (R148, R331) -/

/-- The context that takes a trap of a compute core: it freezes where it stands. -/
def trappedCtx (ck cause tval epc : Nat) (t : Ctx) : Ctx :=
  { t with
    xcause := cause, xepc := BitVec.ofNat 64 epc, xtval := BitVec.ofNat 64 tval, since := ck, mark := none
    blk := if cause = causeWATCHDOG then t.blk else 0
    barWait := if cause = causeWATCHDOG then t.barWait else none
    st := .freezing, frzAt := some (t.frzAt.getD ck), frzPoint := some ck, frzCause := cause }

theorem takeTrap_compute {s : State} {c : Nat} (h : isSup c = false) (x cause tval epc : Nat) :
    takeTrap s c x cause tval epc = freezeGroup (modCtx { s with freeCtr := s.freeCtr + 1 } c x
      (trappedCtx s.ck cause tval epc)) (getCtx s c x).group := by
  simp only [takeTrap, h, Bool.false_eq_true, if_false, modCtx_modCtx, getCtx_modCtx_self]
  rfl

/-- What a freeze that reaches a context in ck `ck` makes of it (R331, R387). -/
def frozenBy (ck : Nat) (t : Ctx) : Ctx :=
  if t.st = .ready ∨ t.isBlocked then
    { t with st := .freezing, frzAt := some ck, frzPoint := some ck, frzCause := causePREEMPT, since := ck }
  else if t.st = .current then { t with frzAt := some (t.frzAt.getD ck), since := ck }
  else t

theorem freezeCtx_eq (s : State) (c x : Nat) : freezeCtx s c x = modCtx s c x (frozenBy s.ck) := rfl

theorem frozenBy_freezing {ck : Nat} {t : Ctx} (h : t.st = .freezing) : frozenBy ck t = t := by
  simp [frozenBy, Ctx.isBlocked, h]

theorem frozenBy_stopped {ck : Nat} {t : Ctx} (h : t.st = .ready ∨ t.isBlocked = true) :
    frozenBy ck t =
      { t with st := .freezing, frzAt := some ck, frzPoint := some ck, frzCause := causePREEMPT, since := ck } := if_pos h

theorem frozenBy_current {ck : Nat} {t : Ctx} (h : t.st = .current) (hb : t.isBlocked = false) :
    frozenBy ck t = { t with frzAt := some (t.frzAt.getD ck), since := ck } := by
  simp [frozenBy, h, hb]

/-- A freeze that reaches a context twice is one freeze. -/
theorem frozenBy_frozenBy (ck : Nat) (t : Ctx) : frozenBy ck (frozenBy ck t) = frozenBy ck t := by
  by_cases h : t.st = .ready ∨ t.isBlocked = true
  · rw [frozenBy_stopped h, frozenBy_freezing rfl]
  · by_cases hc : t.st = .current
    · have hb : t.isBlocked = false := Bool.eq_false_iff.mpr fun hb => h (.inr hb)
      rw [frozenBy_current hc hb]
      exact frozenBy_current (t := { t with frzAt := some (t.frzAt.getD ck), since := ck }) hc hb
    · have hi : frozenBy ck t = t := by rw [frozenBy, if_neg h, if_neg hc]
      rw [hi, hi]

/-- A context is named by its number modulo 4. -/
theorem getCtx_mod (s : State) (c : Nat) {x y : Nat} (h : y % 4 = x % 4) : getCtx s c y = getCtx s c x := by
  simp only [getCtx, Core.get, (ofNat4_eq y x).mpr h]

theorem modCtx_mod (s : State) (c : Nat) {x y : Nat} (f : Ctx → Ctx) (h : y % 4 = x % 4) :
    modCtx s c y f = modCtx s c x f := by
  simp only [modCtx, setCtx, Core.put, getCtx_mod s c h, (ofNat4_eq y x).mpr h]

/-- Some place of the list is the context `x` of core `c`. -/
def standsAt (c x : Nat) (p : Place) : Bool := decide (p.core = c ∧ p.ctx % 4 = x % 4)

theorem getCtx_freezeCtx_at {s : State} {c x d y : Nat} (hc : d = c) (hx : y % 4 = x % 4) :
    getCtx (freezeCtx s d y) c x = frozenBy s.ck (getCtx s c x) := by
  subst hc
  rw [freezeCtx_eq, modCtx_mod s d _ hx, getCtx_modCtx_self]

theorem getCtx_freezeCtx_ne {s : State} {c x d y : Nat} (h : ¬(d = c ∧ y % 4 = x % 4)) :
    getCtx (freezeCtx s d y) c x = getCtx s c x := by
  rw [freezeCtx_eq]
  refine getCtx_modCtx_ne s _ ?_
  by_cases hc : c = d
  · exact .inr fun hx => h ⟨hc.symm, hx.symm⟩
  · exact .inl hc

/-- The contexts at the places of a list, each reached by a freeze. -/
theorem getCtx_freezePlaces (c x : Nat) : ∀ (ps : List Place) (s : State),
    getCtx (ps.foldl (fun s p => freezeCtx s p.core p.ctx) s) c x =
      if ps.any (standsAt c x) then frozenBy s.ck (getCtx s c x) else getCtx s c x
  | [], s => rfl
  | p :: ps, s => by
    rw [List.foldl_cons, getCtx_freezePlaces c x ps]
    have hk : (freezeCtx s p.core p.ctx).ck = s.ck := rfl
    by_cases hp : p.core = c ∧ p.ctx % 4 = x % 4
    · rw [getCtx_freezeCtx_at hp.1 hp.2, hk, frozenBy_frozenBy]
      simp [standsAt, hp]
    · rw [getCtx_freezeCtx_ne hp, hk]
      simp [standsAt, hp]

theorem getCtx_freezeGroup (s : State) (gid c x : Nat) :
    getCtx (freezeGroup s gid) c x =
      if ((groupOf s gid).filter fun g => g.st == .running).any (fun g => g.places.any (standsAt c x)) then
        frozenBy s.ck (getCtx s c x)
      else getCtx s c x := by
  unfold freezeGroup
  split
  · next h => simp [h]
  · next g h =>
    by_cases hr : g.st = .running
    · have e : ∀ (u : State) (f : Group → Group), getCtx (modGroup u gid f) c x = getCtx u c x := fun _ _ => rfl
      rw [if_pos hr, e, getCtx_freezePlaces]
      simp [h, Option.filter, hr]
    · simp [h, hr]

/-- A freeze of a group changes cores and the groups' states. -/
theorem freezeGroup_issue_ck (s : State) (gid : Nat) :
    (freezeGroup s gid).issue = s.issue ∧ (freezeGroup s gid).ck = s.ck := by
  unfold freezeGroup
  split
  · exact ⟨rfl, rfl⟩
  · next g _ =>
    split
    · have q : Quiet s (g.places.foldl (fun s p => freezeCtx s p.core p.ctx) s) :=
        Quiet.foldl (fun s (p : Place) => quiet_freezeCtx s p.core p.ctx) _ s
      exact ⟨q.issue, q.ck⟩
    · exact ⟨rfl, rfl⟩

/-- A freeze of a group passes over a context that is Freezing already. -/
theorem getCtx_freezeGroup_freezing {s : State} {gid c x : Nat} (h : (getCtx s c x).st = .freezing) :
    getCtx (freezeGroup s gid) c x = getCtx s c x := by
  rw [getCtx_freezeGroup, frozenBy_freezing h, ite_self]

section Compute
variable {s : State} {c : Nat} (h : isSup c = false) (x cause tval epc : Nat)
include h

theorem takeTrap_issue_ck : (takeTrap s c x cause tval epc).issue = s.issue ∧ (takeTrap s c x cause tval epc).ck = s.ck := by
  rw [takeTrap_compute h]
  exact freezeGroup_issue_ck _ _

/-- The context that takes the trap. -/
theorem getCtx_takeTrap : getCtx (takeTrap s c x cause tval epc) c x = trappedCtx s.ck cause tval epc (getCtx s c x) := by
  have hs : ∀ u : State, getCtx (modCtx u c x (trappedCtx s.ck cause tval epc)) c x =
      trappedCtx s.ck cause tval epc (getCtx u c x) := fun u => getCtx_modCtx_self ..
  rw [takeTrap_compute h, getCtx_freezeGroup_freezing (by rw [hs]; rfl), hs]
  rfl

/-- Another context at a place of the group of the one that takes the trap, the group running. -/
theorem getCtx_takeTrap_of_place {g : Group} {d y : Nat} (hg : groupOf s (getCtx s c x).group = some g)
    (hr : g.st = .running) (hp : g.places.any (standsAt d y) = true) (hne : d ≠ c ∨ y % 4 ≠ x % 4) :
    getCtx (takeTrap s c x cause tval epc) d y = frozenBy s.ck (getCtx s d y) := by
  have hs : ∀ u : State, getCtx (modCtx u c x (trappedCtx s.ck cause tval epc)) d y = getCtx u d y := fun u =>
    getCtx_modCtx_ne u _ hne
  have hg' : groupOf (modCtx { s with freeCtr := s.freeCtr + 1 } c x (trappedCtx s.ck cause tval epc))
      (getCtx s c x).group = some g := hg
  rw [takeTrap_compute h, getCtx_freezeGroup, hg', hs]
  simp only [Option.filter, hr, beq_self_eq_true, if_true, Option.any_some, hp]
  rfl

end Compute

theorem opBreakI_traps (gd : Guard) (a : State) (v : List Word) : (opBreakI gd).traps a v = [⟨12, causeBREAK, 0⟩] := rfl

theorem opTrapi_traps (gd : Guard) (imm : BitVec 16) (a : State) (v : List Word) :
    (opTrapi gd imm).traps a v = [⟨12, causeTRAPI, imm.toNat⟩] := rfl

section Taken
variable {gd : Guard} {s : State}

theorem exec_breakI (hc : clear gd [] [] [] s = true) :
    exec (.breakI gd) s =
      .next (takeTrap (delivered s) s.issue.core s.issue.ctx causeBREAK 0 s.issue.addr) :=
  exec_trap (o := opBreakI gd) rfl hc rfl (scoreboard_nil _) rfl rfl (opBreakI_traps ..) fun _ => rfl

theorem exec_trapi {imm : BitVec 16} (hc : clear gd [] [] [] s = true) :
    exec (.trapi gd imm) s =
      .next (takeTrap (delivered s) s.issue.core s.issue.ctx causeTRAPI imm.toNat s.issue.addr) :=
  exec_trap (o := opTrapi gd imm) rfl hc rfl (scoreboard_nil _) rfl rfl (opTrapi_traps ..) fun _ => rfl

theorem exec_eret_compute (hc : clear gd [] [] [] s = true) (h : isSup s.issue.core = false) :
    exec (.eret gd) s = .next (takeTrap (delivered s) s.issue.core s.issue.ctx causePRIV (openVal (startCycle s))
      s.issue.addr) := by
  have ha : isSup (startCycle s).issue.core = false := by rwa [startCycle_core]
  exact exec_trap (o := opEret gd) rfl hc rfl (scoreboard_nil _) rfl rfl (opEret_traps_compute gd _ ha) fun _ => rfl

end Taken

theorem delivered_ck (s : State) : (delivered s).ck = s.ck := (quiet_delivered s).ck

/-- The issuing context, in terms of the state before its results were delivered. -/
theorem me_delivered (s : State) : (delivered s).me = getCtx (delivered s) s.issue.core s.issue.ctx := by
  rw [State.me, delivered_core, delivered_ctx]

theorem me_of_issue {s t : State} (h : t.issue = (delivered s).issue) :
    t.me = getCtx t s.issue.core s.issue.ctx ∧ t.myCore = getCore t s.issue.core := by
  rw [State.me, State.myCore, h, delivered_core, delivered_ctx]
  exact ⟨rfl, rfl⟩

/-- Settles O16: the trap is taken by the context, and the freeze reaches the other places of its running group. -/
theorem trapEntry : Obligations.TrapEntry := by
  intro gd imm s hc hsup hx b entered
  have key : ∀ cause tval, cause ≠ causeWATCHDOG →
      entered (takeTrap b s.issue.core s.issue.ctx cause tval s.issue.addr) cause tval := by
    intro cause tval hw
    have hi := takeTrap_issue_ck (s := b) hsup s.issue.ctx cause tval s.issue.addr
    have hme : (takeTrap b s.issue.core s.issue.ctx cause tval s.issue.addr).me =
        trappedCtx s.ck cause tval s.issue.addr b.me := by
      rw [(me_of_issue hi.1).1, getCtx_takeTrap hsup, delivered_ck, ← me_delivered]
    refine ⟨takeTrap_mem .., hi.2, ?_⟩
    rw [hme]
    refine ⟨rfl, rfl, rfl, rfl, rfl, rfl, ?_, fun g hg hr p hp hp4 hne => ?_⟩
    · simp only [trappedCtx, hw, if_false]
    · have hcx : p.core ≠ s.issue.core ∨ p.ctx % 4 ≠ s.issue.ctx % 4 := by
        by_contra hcon
        simp only [not_or, not_not] at hcon
        exact hne (Prod.ext hcon.1 (by simpa [Nat.mod_eq_of_lt hp4, Nat.mod_eq_of_lt hx] using hcon.2))
      have hany : g.places.any (standsAt p.core p.ctx) = true :=
        List.any_eq_true.mpr ⟨p, hp, by simp [standsAt]⟩
      rw [me_delivered] at hg
      have hk := getCtx_takeTrap_of_place hsup s.issue.ctx cause tval s.issue.addr hg hr hany hcx
      rw [delivered_ck] at hk
      intro k k'
      have hk' : k' = frozenBy s.ck k := hk
      refine ⟨fun hst => ?_, fun hst hb => ?_⟩
      · rw [hk', frozenBy_stopped hst]
        exact ⟨rfl, rfl, rfl⟩
      · rw [hk', frozenBy_current hst hb]
  exact ⟨⟨_, exec_breakI hc, key causeBREAK 0 (by decide)⟩, ⟨_, exec_trapi hc, key causeTRAPI imm.toNat (by decide)⟩⟩

/-- Settles O17: on a supervisor core the trap enters the handler and ERET leaves it; elsewhere ERET has no privilege. -/
theorem supervisorTrapReturn : Obligations.SupervisorTrapReturn := by
  intro gd s hc
  refine ⟨fun hsup => ⟨⟨_, exec_breakI hc, ?_⟩, _, runs_eret hc hsup, after_returnTrap_inTrap .., after_returnTrap_me ..,
    ?_⟩, fun hsup => ⟨_, exec_eret_compute hc hsup, ?_⟩⟩
  · have hi : (takeTrap (delivered s) s.issue.core s.issue.ctx causeBREAK 0 s.issue.addr).issue = (delivered s).issue := by
      rw [takeTrap_sup hsup]
      rfl
    obtain ⟨hme, hmc⟩ := me_of_issue hi
    rw [hme, hmc, getCtx_takeTrap_sup hsup, getCore_takeTrap_sup hsup, ← me_delivered, takeTrap_mem, delivered_mem]
    exact ⟨rfl, rfl, rfl, rfl, rfl, rfl, rfl, rfl⟩
  · rw [after_returnTrap]
    rfl
  · rw [(me_of_issue (takeTrap_issue_ck hsup ..).1).1, getCtx_takeTrap hsup]
    rfl

end Sys2Proof.Machine
end


section
/-!
LOOP and LOOPN (O19): control at the end of a body, the replays of a LOOPN block, and its stage predicates.
-/
namespace Sys2Proof.Machine

/-! ## LOOP (R89, R154) -/

theorem loopOp_traps_fits (gd : Guard) (len : Fin 256) (srcs : List Src) (count : List Word → Nat) {a : State}
    (v : List Word) (hb : bodyBroken a a.me a.issue.next (len.val + 1) = false) (hl : a.me.loop = none) :
    (loopOp gd len srcs count).traps a v = [] := by
  simp [loopOp, loopTraps, hb, hl]

section LoopOp
variable (gd : Guard) (len : Fin 256) (srcs : List Src) {count : List Word → Nat} (a s : State) {v : List Word}

theorem loopOp_goto_zero (h : count v = 0) :
    (loopOp gd len srcs count).goto a v = some (false, a.issue.next + 2 * (len.val + 1)) := if_pos h

theorem loopOp_goto_pos (h : count v ≠ 0) : (loopOp gd len srcs count).goto a v = none := if_neg h

theorem loopOp_effect_zero (h : count v = 0) : (loopOp gd len srcs count).effect a v s = s := if_pos h

theorem loopOp_effect_pos (h : count v ≠ 0) : (loopOp gd len srcs count).effect a v s =
    s.modMe fun t => { t with loop := some ⟨a.issue.next, 2 * (len.val + 1), count v⟩ } := if_neg h

end LoopOp

/-- Control with no loop active goes on. -/
theorem flow_on {t : Ctx} (hl : t.loop = none) (hn : t.loopn = none) (next : Nat) :
    flow t next none = ⟨next, none, none, false, false⟩ := by
  simp only [flow, flowN, hl, hn]

/-- What LOOP leaves of its context (R154). -/
def loopStarted (a : State) (srcs : List Src) (body count : Nat) : Ctx :=
  if count = 0 then { advanced a srcs with pc := a.issue.next + body }
  else { advanced a srcs with pc := a.issue.next, loop := some ⟨a.issue.next, body, count⟩ }

theorem loopStarted_pos (a : State) (srcs : List Src) (body : Nat) {count : Nat} (h : count ≠ 0) :
    loopStarted a srcs body count =
      { advanced a srcs with pc := a.issue.next, loop := some ⟨a.issue.next, body, count⟩ } := if_neg h

theorem countCycle_loopStarts {a : State} (hl : a.me.loop = none) (hn : a.me.loopn = none) (srcs : List Src) (l : LoopSt) :
    countCycle a { moveOn (srcPops srcs a) (flow a.me a.issue.next none) a.me with loop := some l } =
      { advanced a srcs with pc := a.issue.next, loop := some l } := by
  simp only [advanced, advancedTo, flow_on hl hn]
  rfl

theorem issuesAs_loopOp {i : Instr} {s : State} {gd : Guard} {len : Fin 256} {srcs : List Src}
    {count : List Word → Nat} (hx : exec i s = runOne (loopOp gd len srcs count) s) (hc : clear gd srcs [] [] s = true)
    (hb : bodyBroken (startCycle s) (startCycle s).me (startCycle s).issue.next (len.val + 1) = false)
    (hl : (startCycle s).me.loop = none) :
    IssuesAs i s (loopStarted (startCycle s) srcs (2 * (len.val + 1)) (count (srcVals srcs (startCycle s)))) := by
  have hn := clear_loopn hc
  have hg : goes (loopOp gd len srcs count) s = true :=
    goes_of_clear hc rfl (scoreboard_nil _) rfl rfl (loopOp_traps_fits gd len srcs count _ hb hl) rfl rfl
  by_cases h0 : count (srcVals srcs (startCycle s)) = 0
  · rw [loopStarted, if_pos h0, ← advancedTo_skip hn hl]
    exact issuesAs_of_idle (srcs := srcs) hx hg rfl (loopOp_goto_zero gd len srcs _ h0) fun t => loopOp_effect_zero gd len srcs _ t h0
  · have h := issuesAs_of_effect (srcs := srcs) hx hg rfl (loopOp_goto_pos gd len srcs _ h0)
      (fun t _ _ => loopOp_effect_pos gd len srcs _ t h0) fun _ ht => ht
    rwa [countCycle_loopStarts hl hn, ← loopStarted_pos _ _ _ h0] at h

/-- The group that ends a LOOP's body (R89). -/
theorem advanced_loop_end {a : State} {l : LoopSt} (hl : a.me.loop = some l) (hn : a.me.loopn = none)
    (he : a.issue.next = l.start + l.len) :
    (advanced a []).pc = (if 1 < l.left then l.start else a.issue.next) ∧
      (advanced a []).loop = (if 1 < l.left then some { l with left := l.left - 1 } else none) := by
  by_cases h : 1 < l.left <;>
    simp [advanced, advancedTo, countCycle, moveOn, flow, flowN, hl, hn, he, h]

theorem loopResults : Claims.LoopResults := by
  intro gd len r n s a body fits count started
  refine ⟨fun hc hf => ?_, fun hc hf => ?_, fun l => advanced_loop_end⟩
  · exact issuesAs_loopOp (len := len) (count := fun v => (operand v 0).toNat % 2 ^ 32) rfl hc hf.1 hf.2
  · exact issuesAs_loopOp (len := len) (count := fun _ => n.val) rfl hc hf.1 hf.2

/-! ## Stage predicates (R90) -/

/-- The predicates once the first `n` stages of a replay have been set. -/
def stageBits (l : LoopnSt) (n : Nat) (p : BitVec 8) : BitVec 8 :=
  (List.range n).foldl (fun (p : BitVec 8) st =>
    if st ≤ l.t ∧ l.t - st + 1 ≤ l.iters then p ||| ((1 : BitVec 8) <<< (4 + st))
    else p &&& ~~~((1 : BitVec 8) <<< (4 + st))) p

theorem stageBits_succ (l : LoopnSt) (n : Nat) (p : BitVec 8) :
    stageBits l (n + 1) p = if n ≤ l.t ∧ l.t - n + 1 ≤ l.iters then stageBits l n p ||| ((1 : BitVec 8) <<< (4 + n))
      else stageBits l n p &&& ~~~((1 : BitVec 8) <<< (4 + n)) := by
  simp only [stageBits, List.range_succ, List.foldl_append, List.foldl_cons, List.foldl_nil]

theorem getLsbD_one_shift {k : Nat} (h : k < 8) (j : Nat) : ((1 : BitVec 8) <<< k).getLsbD j = decide (j = k) := by
  rw [BitVec.getLsbD_shiftLeft]
  by_cases hj : j < 8
  · have h1 : (1 : BitVec 8).getLsbD (j - k) = decide (j - k = 0) := by
      simp [BitVec.getLsbD_one]
    rw [h1]
    simp only [hj, decide_true, Bool.true_and, ← Bool.decide_and, ← decide_not]
    exact decide_eq_decide.mpr (by omega)
  · simp only [hj, decide_false, Bool.false_and]
    exact (decide_eq_false (by omega)).symm

theorem getLsbD_setBit {k : Nat} (h : k < 8) (p : BitVec 8) (j : Nat) :
    (p ||| ((1 : BitVec 8) <<< k)).getLsbD j = (p.getLsbD j || decide (j = k)) := by
  rw [BitVec.getLsbD_or, getLsbD_one_shift h]

theorem getLsbD_clearBit {k : Nat} (h : k < 8) (p : BitVec 8) (j : Nat) :
    (p &&& ~~~((1 : BitVec 8) <<< k)).getLsbD j = (p.getLsbD j && !decide (j = k)) := by
  rw [BitVec.getLsbD_and, BitVec.getLsbD_not, getLsbD_one_shift h]
  by_cases h8 : j < 8
  · simp [h8]
  · simp [BitVec.getLsbD_of_ge _ _ (Nat.le_of_not_lt h8)]

/-- Stage `j - 4` of a replay runs iteration t - (j - 4), where there is one. -/
theorem stageBits_getLsbD (l : LoopnSt) (p : BitVec 8) (j : Nat) : ∀ {n : Nat}, n ≤ 4 →
    (stageBits l n p).getLsbD j =
      if 4 ≤ j ∧ j < 4 + n then decide (j - 4 ≤ l.t ∧ l.t - (j - 4) + 1 ≤ l.iters) else p.getLsbD j
  | 0, _ => by
    have h : ¬(4 ≤ j ∧ j < 4 + 0) := by omega
    rw [if_neg h]
    rfl
  | n + 1, hn => by
    have ih := stageBits_getLsbD l p j (n := n) (by omega)
    have h8 : 4 + n < 8 := by omega
    rw [stageBits_succ]
    by_cases hj : j = 4 + n
    · have hin : 4 ≤ j ∧ j < 4 + (n + 1) := by omega
      have hsub : j - 4 = n := by omega
      rw [if_pos hin, hsub]
      split
      · next hc => rw [getLsbD_setBit h8, decide_eq_true hj, decide_eq_true hc, Bool.or_true]
      · next hc => rw [getLsbD_clearBit h8, decide_eq_true hj, decide_eq_false hc, Bool.not_true, Bool.and_false]
    · have hiff : (4 ≤ j ∧ j < 4 + n) ↔ (4 ≤ j ∧ j < 4 + (n + 1)) := by omega
      simp only [hiff] at ih
      rw [← ih]
      split
      · rw [getLsbD_setBit h8, decide_eq_false hj, Bool.or_false]
      · rw [getLsbD_clearBit h8, decide_eq_false hj, Bool.not_false, Bool.and_true]

section FirstReplay
variable {l : LoopnSt} {n : Nat}

theorem stageBits_first_running (ht : l.t = 0) (hi : l.iters ≠ 0) (hn : n ≤ 4) (h : 1 ≤ n) (p : BitVec 8) :
    (stageBits l n p).getLsbD 4 = true := by
  rw [stageBits_getLsbD l p 4 hn, if_pos (by omega), ht]
  exact decide_eq_true (by omega)

theorem stageBits_first_idle (ht : l.t = 0) (hn : n ≤ 4) (p : BitVec 8) {i : Nat} (h5 : 5 ≤ i) (hi : i < 4 + n) :
    (stageBits l n p).getLsbD i = false := by
  rw [stageBits_getLsbD l p i hn, if_pos (by omega), ht]
  exact decide_eq_false (by omega)

theorem stageBits_other (l : LoopnSt) (hn : n ≤ 4) (p : BitVec 8) {i : Nat} (hi : i < 4 ∨ 4 + n ≤ i) :
    (stageBits l n p).getLsbD i = p.getLsbD i := by
  rw [stageBits_getLsbD l p i hn, if_neg (by omega)]

end FirstReplay

theorem stagePreds_flights (t : Ctx) (l : LoopnSt) : (stagePreds t l).flights =
    t.flights.filter fun f => !(Claims.stageWrite l.stages f && decide (f.due ≤ t.icyc)) := by
  refine List.filter_congr fun f _ => ?_
  unfold Claims.stageWrite
  cases f.w <;> rfl

theorem stagePreds_eq (t : Ctx) (l : LoopnSt) :
    stagePreds t l = { t with
      p := stageBits l l.stages t.p
      flights := t.flights.filter fun f => !(Claims.stageWrite l.stages f && decide (f.due ≤ t.icyc)) } := by
  rw [← stagePreds_flights]
  rfl

/-! ## LOOPN starts (R90, R155) -/

theorem opLoopn_traps_fits (gd : Guard) (st : Fin 4) (len : Fin 1024) (n : Fin 8) (ga gb : Fin 32) {a : State}
    (v : List Word) (hb : bodyBroken a a.me a.issue.next (len.val + 1) = false) (hl : a.me.loop = none)
    (hn : a.me.loopn = none) : (opLoopn gd st len n ga gb).traps a v = [] := by
  simp [opLoopn, hb, hl, hn]

section OpLoopn
variable (gd : Guard) (st : Fin 4) (len : Fin 1024) (n : Fin 8) (ga gb : Fin 32) (a s : State) (v : List Word)

theorem opLoopn_goto_zero (h : nestIters (nWords a.me n) = 0) :
    (opLoopn gd st len n ga gb).goto a v = some (false, a.issue.next + 2 * (len.val + 1)) := if_pos h

theorem opLoopn_goto_pos (h : nestIters (nWords a.me n) ≠ 0) : (opLoopn gd st len n ga gb).goto a v = none := if_neg h

theorem opLoopn_effect_zero (h : nestIters (nWords a.me n) = 0) : (opLoopn gd st len n ga gb).effect a v s = s :=
  if_pos h

theorem opLoopn_effect_pos (h : nestIters (nWords a.me n) ≠ 0) : (opLoopn gd st len n ga gb).effect a v s =
    s.modMe fun t => { t with
      loopn := some ⟨a.issue.next, 2 * (len.val + 1), nWords a.me n, nestIters (nWords a.me n), st.val + 1, 0, ga, gb⟩ } :=
  if_neg h

end OpLoopn

/-- A group of one operation that starts a LOOPN block: its first replay sets the stage predicates. -/
theorem goAhead_starts {o : Op} {v : List Word} {a : State} {f : Ctx → Ctx} (hg : guardHolds a.me o.guard = true)
    (hn : a.me.loopn = none) (he : ∀ s, o.effect a v s = s.modMe f) (hf : ∀ t, (f t).loopn.isSome = true) :
    goAhead [o] [⟨o, v, []⟩] a = modCore ((modCore a a.issue.core (giveUp a.issue.d a.issue.ctx)).modMe fun t =>
      setStages (countCycle a (f (moveOn (srcPops o.srcs a) (flow a.me a.issue.next (o.goto a v)) t)))) a.issue.core
        (noteIssue a) := by
  have hr := resolve_one a.me o (List.replicate 8 0) hg
  have h1 : ∀ f s, loopDeltas a f s = s := fun f s => by simp [loopDeltas, hn]
  have hgo : (List.findSome? (fun b : Act => b.op.goto a b.vals) [⟨o, v, []⟩]) = o.goto a v := by
    simp only [List.findSome?_cons, List.findSome?_nil]
    cases o.goto a v <;> rfl
  have hs : ∀ (u : State) (k : Ctx → Ctx), (u.modMe fun t => countCycle a (f (k t))).me.loopn.isSome = true := fun u k => by
    rw [modMe_me, countCycle_loopn, hf]
  unfold goAhead
  simp only [hr, h1, hgo, effectOrder_one, List.foldl_cons, List.foldl_nil, he, hn, modMe_modMe, hs, Option.isNone_none,
    Bool.and_self, Bool.or_true, if_true]
  rfl

/-- The context that LOOPN leaves (R90, R155). -/
def loopnStarted (a : State) (l : LoopnSt) : Ctx :=
  { advanced a [] with
    loopn := some l
    p := stageBits l l.stages a.me.p
    flights := a.me.flights.filter fun f => !(Claims.stageWrite l.stages f && decide (f.due ≤ a.me.icyc + 1)) }

/-- The predicates of the first replay: stage 0 runs, no other stage does, and the rest are kept. -/
theorem loopnStarted_p (a : State) {start len iters stages : Nat} {ws : List Nat} {ga gb : Fin 32} (hi : iters ≠ 0)
    (hn : stages ≤ 4) (h1 : 1 ≤ stages) :
    let p := (loopnStarted a ⟨start, len, ws, iters, stages, 0, ga, gb⟩).p
    p.getLsbD 4 = true ∧ (∀ i, 5 ≤ i → i < 4 + stages → p.getLsbD i = false) ∧
      ∀ i, i < 4 ∨ 4 + stages ≤ i → p.getLsbD i = a.me.p.getLsbD i :=
  ⟨stageBits_first_running rfl hi hn h1 _, fun _ h5 h => stageBits_first_idle rfl hn _ h5 h,
    fun _ h => stageBits_other _ hn _ h⟩

theorem setStages_countCycle (a : State) (l : LoopnSt) :
    setStages (countCycle a { moveOn (srcPops [] a) (flow a.me a.issue.next none) a.me with loopn := some l }) =
      loopnStarted a l := stagePreds_eq ..

theorem exec_loopn_starts {gd : Guard} {st : Fin 4} {len : Fin 1024} {n : Fin 8} {ga gb : Fin 32} {s : State}
    (hc : clear gd [] [] [] s = true)
    (hb : bodyBroken (startCycle s) (startCycle s).me (startCycle s).issue.next (len.val + 1) = false)
    (hl : (startCycle s).me.loop = none) (h0 : nestIters (nWords (startCycle s).me n) ≠ 0) :
    IssuesAs (.loopn gd st len n ga gb) s (loopnStarted (startCycle s) ⟨(startCycle s).issue.next, 2 * (len.val + 1),
      nWords (startCycle s).me n, nestIters (nWords (startCycle s).me n), st.val + 1, 0, ga, gb⟩) := by
  have hn := clear_loopn hc
  have hg : goes (opLoopn gd st len n ga gb) s = true :=
    goes_of_clear hc rfl (scoreboard_nil _) rfl rfl (opLoopn_traps_fits gd st len n ga gb _ hb hl hn) rfl rfl
  have h := goAhead_starts (goes_guard hg) hn (fun t => opLoopn_effect_pos gd st len n ga gb _ t _ h0) (fun _ => rfl)
    (v := srcVals [] (startCycle s))
  rw [opLoopn_goto_pos gd st len n ga gb _ _ h0] at h
  refine ⟨_, congrArg Host.Outcome.next ((runGroup_goes hg).trans h), ?_⟩
  rw [← setStages_countCycle]
  exact onlyMe_of _

theorem loopnStarts : Claims.LoopnStarts := by
  intro gd st len n ga gb s a ws hc hb hl
  have hn := clear_loopn hc
  have hst : st.val + 1 ≤ 4 := by omega
  have hin : ∀ {i}, i < 5 + st.val → i < 4 + (st.val + 1) := fun hi => by omega
  have hout : ∀ {i}, i < 4 ∨ 5 + st.val ≤ i → i < 4 ∨ 4 + (st.val + 1) ≤ i := fun hi => by omega
  refine ⟨fun h0 => ?_, fun h0 => ?_⟩
  · have hg : goes (opLoopn gd st len n ga gb) s = true :=
      goes_of_clear hc rfl (scoreboard_nil _) rfl rfl (opLoopn_traps_fits gd st len n ga gb _ hb hl hn) rfl rfl
    rw [← advancedTo_skip hn hl]
    exact issuesAs_of_idle (o := opLoopn gd st len n ga gb) (srcs := []) rfl hg rfl
      (opLoopn_goto_zero gd st len n ga gb _ _ h0) fun t => opLoopn_effect_zero gd st len n ga gb _ t _ h0
  · obtain ⟨t, hx, ho, hm⟩ := exec_loopn_starts (gd := gd) (st := st) (ga := ga) (gb := gb) hc hb hl h0
    refine ⟨t, hx, ho, ?_⟩
    rw [hm]
    obtain ⟨hp4, hp, ho⟩ := loopnStarted_p a (start := a.issue.next) (len := 2 * (len.val + 1)) (ws := ws) (ga := ga)
      (gb := gb) h0 hst (Nat.succ_le_succ (Nat.zero_le _))
    exact ⟨rfl, hp4, fun i h5 hi => hp i h5 (hin hi), fun i hi => ho i (hout hi), rfl⟩

/-! ## LOOPN replays (R90, R155) -/

/-- The moves of the named registers that end iteration `l.t`, where another iteration is left (R155). -/
def deltaWrites (a : State) (l : LoopnSt) (d : Bool) : List RowWrite :=
  if d then l.regs.map fun r => (0, 0, .g r (BitVec.ofInt 64 ((a.me.g[r]).toNat + l.step))) else []

theorem loopDeltas_eq {a : State} {l : LoopnSt} (hn : a.me.loopn = some l) (f : Flow) (s : State) :
    loopDeltas a f s = (deltaWrites a l f.delta).foldl
      (fun s w => exposeFrom w.1 s s.issue.core s.issue.ctx 0 w.2.1 w.2.2) s := by
  simp only [loopDeltas, hn, deltaWrites]
  split
  · rw [List.foldl_map]
    rfl
  · rfl

/-- The context that a group of no operation leaves of a LOOPN block with control `f`. -/
def replayed (a : State) (l : LoopnSt) (f : Flow) (t : Ctx) : Ctx :=
  let u := countCycle a (exposeAll a.ck 0 (deltaWrites a l f.delta) (moveOn (srcPops [] a) f t))
  if f.replay then setStages u else u

theorem goAhead_nil_loopn {a : State} {l : LoopnSt} (hn : a.me.loopn = some l) :
    goAhead [] [] a = modCore ((modCore a a.issue.core (giveUp a.issue.d a.issue.ctx)).modMe
      (replayed a l (flow a.me a.issue.next none))) a.issue.core (noteIssue a) := by
  have hs : a.me.loopn.isNone = false := by rw [hn]; rfl
  have he := foldl_exposeFrom_modMe 0 (deltaWrites a l (flow a.me a.issue.next none).delta)
    (modCore a a.issue.core (giveUp a.issue.d a.issue.ctx)) (moveOn (srcPops [] a) (flow a.me a.issue.next none))
  have h : goAhead [] [] a = modCore (if (flow a.me a.issue.next none).replay ||
      (a.me.loopn.isNone && (((loopDeltas a (flow a.me a.issue.next none) ((modCore a a.issue.core
        (giveUp a.issue.d a.issue.ctx)).modMe (moveOn (srcPops [] a) (flow a.me a.issue.next none)))).modMe
          (countCycle a)).me.loopn.isSome)) then
      ((loopDeltas a (flow a.me a.issue.next none) ((modCore a a.issue.core
        (giveUp a.issue.d a.issue.ctx)).modMe (moveOn (srcPops [] a) (flow a.me a.issue.next none)))).modMe
          (countCycle a)).modMe setStages
      else (loopDeltas a (flow a.me a.issue.next none) ((modCore a a.issue.core
        (giveUp a.issue.d a.issue.ctx)).modMe (moveOn (srcPops [] a) (flow a.me a.issue.next none)))).modMe
          (countCycle a)) a.issue.core (noteIssue a) := rfl
  rw [h, loopDeltas_eq hn, he, hs, Bool.false_and, Bool.or_false]
  simp only [modMe_modMe]
  unfold replayed
  cases (flow a.me a.issue.next none).replay <;> rfl

/-- Control at a group of a LOOPN block, with no LOOP inside. -/
theorem flow_in_loopn {t : Ctx} {l : LoopnSt} (hl : t.loop = none) (hn : t.loopn = some l) (next : Nat) :
    flow t next none = flowN (some l) none next := by
  simp only [flow, hl, hn]

theorem flowN_within {l : LoopnSt} {next : Nat} (h : next ≠ l.start + l.len) :
    flowN (some l) none next = ⟨next, none, some l, false, false⟩ := by
  simp only [flowN, h, if_false]

theorem flowN_end {l : LoopnSt} {next : Nat} (h : next = l.start + l.len) :
    flowN (some l) none next =
      if l.t + 1 < l.iters + l.stages - 1 then
        ⟨l.start, none, some { l with t := l.t + 1 }, decide (l.t + 1 < l.iters), true⟩
      else ⟨next, none, none, decide (l.t + 1 < l.iters), false⟩ := by
  have hd : decide (l.t + 2 ≤ l.iters) = decide (l.t + 1 < l.iters) := rfl
  simp only [flowN, h, if_true, hd]

theorem flowN_end_delta {l : LoopnSt} {next : Nat} (h : next = l.start + l.len) :
    (flowN (some l) none next).delta = decide (l.t + 1 < l.iters) := by
  rw [flowN_end h]
  split <;> rfl

/-- A group of no operation in a LOOPN block waits only for the registers that move on (R155). -/
theorem judge_nil_loopn {a : State} : judge [] a =
    if deltaStall a.me (lateKeys a a.issue.core a.issue.ctx) (flow a.me a.issue.next none) then .stall else .go [] := by
  simp [judge, portDecode, resolve, stalled, emptyWait, groupTraps, overflows_nil, firstTrap, groupBlock, aqBlock]

theorem deltaStall_loopn {t : Ctx} {l : LoopnSt} (hn : t.loopn = some l) (late : List Key) (f : Flow) :
    deltaStall t late f = (f.delta && l.regs.any fun r => !t.full.getLsbD r.val || late.contains (0, r.val, 0)) := by
  simp only [deltaStall, hn]

/-- A group of no operation in a LOOPN block that goes ahead. -/
theorem runGroup_nil_loopn {u : State} {l : LoopnSt} (hr : rowLate (delivered u) u.issue.core u.issue.ctx = false)
    (hn : (startCycle u).me.loopn = some l)
    (hd : deltaStall (startCycle u).me (lateKeys (startCycle u) (startCycle u).issue.core (startCycle u).issue.ctx)
      (flow (startCycle u).me (startCycle u).issue.next none) = false) :
    OnlyMe (startCycle u) (runGroup [] u) ∧ (runGroup [] u).me =
      replayed (startCycle u) l (flow (startCycle u).me (startCycle u).issue.next none) (startCycle u).me := by
  have hj : judge [] (startCycle u) = .go [] := by rw [judge_nil_loopn, hd]; rfl
  rw [runGroup_of_go hr hj, goAhead_nil_loopn hn]
  exact onlyMe_of _

/-- The context that a replay which goes on within its block leaves. -/
theorem replayed_within {a : State} {l : LoopnSt} (hl : a.me.loop = none) (hn : a.me.loopn = some l)
    (h : a.issue.next ≠ l.start + l.len) :
    replayed a l (flow a.me a.issue.next none) a.me = { advanced a [] with pc := a.issue.next, loopn := some l } := by
  rw [flow_in_loopn hl hn, flowN_within h, advanced, advancedTo, flow_in_loopn hl hn, flowN_within h]
  rfl

/-- The results in flight once the named registers move on. -/
theorem exposeAll_deltaWrites (a : State) (l : LoopnSt) (p : Prop) [Decidable p] (f : Flow) :
    (exposeAll a.ck 0 (deltaWrites a l (decide p)) (moveOn (srcPops [] a) f a.me)).flights =
      if p then addFlights a 0 (l.regs.map fun r => (0, 0, .g r (BitVec.ofInt 64 ((a.me.g[r]).toNat + l.step))))
      else a.me.flights := by
  by_cases h : p
  · rw [if_pos h, decide_eq_true h, exposeAll_flights]
    rfl
  · rw [if_neg h, decide_eq_false h]
    rfl

/-- The context that the last replay of a block leaves. -/
theorem replayed_last {a : State} {l : LoopnSt} (hl : a.me.loop = none) (hn : a.me.loopn = some l)
    (h : a.issue.next = l.start + l.len) (hlast : ¬ l.t + 1 < l.iters + l.stages - 1) :
    replayed a l (flow a.me a.issue.next none) a.me = { advanced a [] with
      pc := a.issue.next
      loopn := none
      flights := (exposeAll a.ck 0 (deltaWrites a l (decide (l.t + 1 < l.iters)))
        (moveOn (srcPops [] a) ⟨a.issue.next, none, none, decide (l.t + 1 < l.iters), false⟩ a.me)).flights } := by
  rw [flow_in_loopn hl hn, flowN_end h, if_neg hlast, advanced, advancedTo, flow_in_loopn hl hn, flowN_end h,
    if_neg hlast]
  rfl

/-- The context that a replay which runs the block again leaves. -/
theorem replayed_again {a : State} {l : LoopnSt} (hl : a.me.loop = none) (hn : a.me.loopn = some l)
    (h : a.issue.next = l.start + l.len) (hmore : l.t + 1 < l.iters + l.stages - 1) :
    replayed a l (flow a.me a.issue.next none) a.me = { advanced a [] with
      pc := l.start
      loopn := some { l with t := l.t + 1 }
      p := stageBits { l with t := l.t + 1 } l.stages a.me.p
      flights := ((exposeAll a.ck 0 (deltaWrites a l (decide (l.t + 1 < l.iters)))
        (moveOn (srcPops [] a) ⟨l.start, none, some { l with t := l.t + 1 }, decide (l.t + 1 < l.iters), true⟩
          a.me)).flights.filter fun f => !(Claims.stageWrite l.stages f && decide (f.due ≤ a.me.icyc + 1))) } := by
  rw [flow_in_loopn hl hn, flowN_end h, if_pos hmore, advanced, advancedTo, flow_in_loopn hl hn, flowN_end h,
    if_pos hmore]
  exact stagePreds_eq ..

theorem loopnRuns : Claims.LoopnRuns := by
  intro st d s l u a late adds regs delta fs hr hl hn
  refine ⟨fun h => ?_, fun h had hempty => ?_, fun h hfull => ?_⟩
  · have hd : deltaStall a.me late (flow a.me a.issue.next none) = false := by
      rw [deltaStall_loopn hn, flow_in_loopn hl hn, flowN_within h]
      rfl
    obtain ⟨ho, hm⟩ := runGroup_nil_loopn (u := u) hr hn hd
    exact ⟨_, exec_nop st d s, ho, hm.trans (replayed_within hl hn h)⟩
  · have hd : deltaStall a.me late (flow a.me a.issue.next none) = true := by
      obtain ⟨r, hr, hf⟩ := hempty
      rw [deltaStall_loopn hn, flow_in_loopn hl hn, flowN_end_delta h, decide_eq_true had, Bool.true_and]
      exact List.any_eq_true.mpr ⟨r, hr, by rw [hf]; rfl⟩
    have hj : judge [] (startCycle u) = .stall := by
      rw [judge_nil_loopn]
      exact if_pos hd
    rw [exec_nop, runGroup_of_stall hr hj]
  · have hd : deltaStall a.me late (flow a.me a.issue.next none) = false := by
      rw [deltaStall_loopn hn, flow_in_loopn hl hn, flowN_end_delta h]
      by_cases had : l.t + 1 < l.iters
      · rw [decide_eq_true had, Bool.true_and]
        refine List.any_eq_false.mpr fun r hr => ?_
        obtain ⟨hf, hlate⟩ := hfull had r hr
        simp [hf, hlate]
      · rw [decide_eq_false had, Bool.false_and]
    obtain ⟨ho, hm⟩ := runGroup_nil_loopn (u := u) hr hn hd
    refine ⟨_, exec_nop st d s, ho, fun hlast => ?_, fun hmore h4 => ?_⟩
    · rw [hm, replayed_last hl hn h (by omega), exposeAll_deltaWrites]
      rfl
    · rw [hm, replayed_again hl hn h hmore, exposeAll_deltaWrites]
      refine ⟨rfl, fun i hi => ?_, fun i hi => stageBits_other _ h4 _ hi⟩
      rw [stageBits_getLsbD _ _ _ h4, if_pos (by omega)]
      have hsub : 4 + i - 4 = i := Nat.add_sub_cancel_left ..
      have hiff : (i ≤ l.t + 1 ∧ l.t + 1 - i + 1 ≤ l.iters) ↔ (i ≤ l.t + 1 ∧ l.t + 1 < l.iters + i) := by omega
      rw [hsub]
      exact decide_eq_decide.mpr hiff

/-- Settles O19: LOOP's two forms are one operation; LOOPN's replays are one rule of control with the stage predicates. -/
theorem loops : Obligations.Loops := ⟨loopResults, loopnStarts, loopnRuns⟩

end Sys2Proof.Machine
end


section
/-!
Barrier slots: arrivals (O23), what is checked first (O24, which fails), and the end of a ck (O26).
-/
namespace Sys2Proof.Machine

/-! ## Arrivals (R145, R318, R404) -/

@[simp] theorem modSlot_me (s : State) (ch b : Nat) (f : Slot → Slot) : (modSlot s ch b f).me = s.me := rfl

@[simp] theorem countArrival_me (s : State) (c x b : Nat) : (countArrival s c x b).me = s.me := rfl

/-- A ring slot that is free whole takes no arrival. -/
def ringWhole (v : Slot) : Bool := v.on && v.ring && v.free == v.depth

theorem opBara_traps {gd : Guard} {sc : Fin 8} {bar : Fin 1024} {a : State} (v : List Word)
    (h : grantTraps a sc bar.val = []) :
    (opBara gd sc bar).traps a v =
      trapIf (ringWhole (getSlot a a.chiplet bar.val)) ⟨4, causeRESERVED, bar.val⟩ :=
  congrArg (· ++ _) h

/-- A slot that passes the checks of a grant is in force. -/
theorem on_of_grantTraps {a : State} {sc : Fin 8} {b : Nat} (h : grantTraps a sc b = []) :
    (getSlot a a.chiplet b).on = true := by
  by_contra hn
  rw [grantTraps, if_pos (by simpa using hn)] at h
  cases h

theorem ringWhole_iff {v : Slot} (h : v.on = true) : ringWhole v = true ↔ v.ring = true ∧ v.free = v.depth := by
  simp [ringWhole, h]

/-- A context that has noted an arrival and the accesses it waits for. -/
def Ctx.noteArrival (r : PendArr) (t : Ctx) : Ctx := { t with arrivals := t.arrivals ++ [r] }

theorem countCycle_noteArrival (a : State) (srcs : List Src) (r : PendArr) :
    countCycle a ((moveOn (srcPops srcs a) (flow a.me a.issue.next none) a.me).noteArrival r) =
      { advanced a srcs with arrivals := a.me.arrivals ++ [r] } := rfl

section Arrival
variable {gd : Guard} {sc : Fin 8} {bar : Fin 1024} {s : State}

theorem opBara_effect_counts (a : State) (v : List Word) (t : State)
    (h : outstandingIn a (scopeCode a sc) a.issue.core a.issue.ctx = []) :
    (opBara gd sc bar).effect a v t = countArrival t a.issue.core a.issue.ctx bar.val :=
  if_pos (by rw [h]; rfl)

theorem opBara_effect_notes (a : State) (v : List Word) (t : State)
    (h : outstandingIn a (scopeCode a sc) a.issue.core a.issue.ctx ≠ []) :
    (opBara gd sc bar).effect a v t = t.modMe (Ctx.noteArrival
      ⟨bar.val, scopeCode a sc, outstandingIn a (scopeCode a sc) a.issue.core a.issue.ctx⟩) :=
  if_neg (by simpa using h)

theorem goes_bara (hc : clear gd [] [] [] s = true) (hg : grantTraps (startCycle s) sc bar.val = [])
    (hw : ringWhole (getSlot (startCycle s) (startCycle s).chiplet bar.val) = false) : goes (opBara gd sc bar) s = true :=
  goes_of_clear hc rfl (scoreboard_nil _) rfl rfl ((opBara_traps _ hg).trans (by rw [hw]; rfl)) rfl rfl

end Arrival

/-- Settles O23: the arrival is counted at once or noted with what it waits for; a ring that is free whole takes none. -/
theorem barrierArrival : Obligations.BarrierArrival := by
  intro gd sc bar s hc a v code need whole hg
  have hiff := ringWhole_iff (on_of_grantTraps hg)
  have hfalse : ¬whole → ringWhole v = false := fun hw => Bool.eq_false_iff.mpr fun h => hw (hiff.mp h)
  refine ⟨fun hw hn => ?_, fun hw hn => ?_, fun hw => ?_⟩
  · have hr := exec_of_effect (i := .bara gd sc bar) (o := opBara gd sc bar) (srcs := []) (g := none) rfl
      (goes_bara hc hg (hfalse hw)) rfl rfl fun t _ _ hl => by
        rw [opBara_effect_counts _ _ _ hn, countArrival_me]
        exact hl
    rw [opBara_effect_counts _ _ _ hn] at hr
    exact hr
  · have hr := issuesAs_of_effect (i := .bara gd sc bar) (o := opBara gd sc bar) (srcs := []) (g := none) rfl
      (goes_bara hc hg (hfalse hw)) rfl rfl (fun t _ _ => opBara_effect_notes _ _ t hn) fun _ hl => hl
    rw [countCycle_noteArrival] at hr
    exact hr
  · exact exec_trap (o := opBara gd sc bar) rfl hc rfl (scoreboard_nil _) rfl rfl
      ((opBara_traps _ hg).trans (by rw [hiff.mpr hw]; rfl)) fun _ => rfl

/-! ## The order of BARA's checks (R144, R394, R402, R404) -/

/-- Context 0 of core 0 of group 1 is about to issue; slot 5 is a ring that is free whole, granted to group 1 at scope 2. -/
def wholeRing : State :=
  let s : State := { State.reset with slots := [((0, 5), { Slot.reset with
    cfg := 2 ^ 48 + 2 ^ 30 + 2 ^ 28 + 1, size := 256 * 2 ^ 32 + 2 * 2 ^ 24, free := 2 })] }
  modCtx s 0 0 fun t => { t with st := .current, group := 1 }

/-- The guard p0. -/
def alwaysRuns : Guard := ⟨false, 0⟩

theorem wholeRing_meets : clear alwaysRuns [] [] [] wholeRing = true ∧ isSup wholeRing.issue.core = false ∧
    isSup (startCycle wholeRing).issue.core = false ∧
    (getSlot (startCycle wholeRing) (startCycle wholeRing).chiplet 5).on = true ∧
    (getSlot (startCycle wholeRing) (startCycle wholeRing).chiplet 5).party (startCycle wholeRing).me.group
      (startCycle wholeRing).me.rank ≠ none ∧
    slotScope (startCycle wholeRing) (getSlot (startCycle wholeRing) (startCycle wholeRing).chiplet 5) ≠ some 1 ∧
    cfgReleased (startCycle wholeRing) 5 = false := by decide

/-- The check of the ring, step 4 of R144, comes before that of the scope, step 6. -/
theorem bara_wholeRing_cause : (runGroup [opBara alwaysRuns 1 5] wholeRing).me.xcause = causeRESERVED := by decide

/-- Refutes O24: a BARA of another scope at a ring that is free whole traps with RESERVED_COMBO and not with
SCOPE_INVALID, for the check of the ring comes first. -/
theorem not_barrierChecks : ¬ Obligations.BarrierChecks := by
  intro h
  obtain ⟨hc, hs, ha, hon, hp, hsc, hcfg⟩ := wholeRing_meets
  obtain ⟨⟨t, ht, hcause, -⟩, -⟩ := (h alwaysRuns 1 5 0 wholeRing hc hs ha).2 hon hp hsc hcfg
  have hx : runGroup [opBara alwaysRuns 1 5] wholeRing = t := Host.Outcome.next.inj ht
  rw [← hx, bara_wholeRing_cause] at hcause
  exact absurd hcause (by decide)

/-! ## The end of a ck (R318, R400) -/

/-- Entries of arrivals of a ck, as `Slot.setEntry` sets them one by one. -/
def arrivedEntries (ps : List Nat) (es : List (Nat × PEntry)) : List (Nat × PEntry) :=
  ps.foldl (fun es p => (p, .arr) :: es.filter fun q => q.1 != p) es

theorem foldl_setEntry_arr : ∀ (ps : List Nat) (v : Slot),
    ps.foldl (fun w p => Slot.setEntry w p (some .arr)) v = { v with entries := arrivedEntries ps v.entries }
  | [], _ => rfl
  | p :: ps, v => by
    rw [List.foldl_cons, foldl_setEntry_arr ps]
    rfl

/-- A slot once its counts of a ck are taken off it. -/
def Slot.counted (v : Slot) : Slot :=
  { v with arrNow := 0, arrParties := [], bytesNow := 0, poisonNow := false, forceNow := none }

/-- A counting slot that has taken the arrivals and the bytes of a ck. -/
def Slot.taken (v : Slot) : Slot :=
  { v.counted with
    entries := arrivedEntries v.arrParties v.entries
    arr := min 2047 (v.arr + v.arrNow), bytes := v.bytes + v.bytesNow }

theorem endCk_idle {v : Slot} (h : (v.on && !v.ring) = false) : v.endCk = v.counted := by
  rw [Slot.endCk, h]
  rfl

theorem endCk_counting {v : Slot} (h : (v.on && !v.ring) = true) :
    v.endCk = if v.poisonNow then { v.taken.complete true with bytes := 0 }
      else match v.forceNow with
        | some q => { v.taken.complete q with bytes := 0 }
        | none => if v.ea ≤ v.taken.arr ∧ v.eb ≤ v.taken.bytes then
            { v.taken.complete false with bytes := v.taken.bytes - v.eb } else v.taken := by
  simp only [Slot.endCk, h, if_true, foldl_setEntry_arr]
  rfl

/-- Settles O26: by what ends the phase, in the order poison, FORCE, the counts. -/
theorem barrierPhases : Obligations.BarrierPhases := by
  intro v w arr bytes arrived ends released
  have harr : arrived.entries = arrivedEntries v.arrParties v.entries := congrArg Slot.entries (foldl_setEntry_arr _ v)
  by_cases h : (v.on && !v.ring) = true
  · have hv : v.on = true ∧ v.ring = false := by simpa using h
    have hw : w = _ := endCk_counting h
    have hno : ¬(v.on = false ∨ v.ring = true) := by simp [hv]
    rw [harr]
    by_cases hp : v.poisonNow = true
    · have he : ends = some true := if_pos hp
      rw [if_pos hp] at hw
      rw [hw, he]
      refine ⟨⟨rfl, rfl, rfl, rfl, rfl⟩, fun hn => absurd hn hno, fun _ _ => ⟨fun hn => absurd hn (by simp), ?_⟩⟩
      rintro q ⟨⟩
      exact ⟨rfl, rfl, rfl, by rw [hp]; rfl, rfl⟩
    · rw [if_neg hp] at hw
      have hp' : v.poisonNow = false := by simpa using hp
      cases hf : v.forceNow with
      | some q =>
        have he : ends = some q := by simp only [ends, hp', hf, Bool.false_eq_true, if_false]
        rw [hf] at hw
        rw [hw, he]
        refine ⟨⟨rfl, rfl, rfl, rfl, rfl⟩, fun hn => absurd hn hno, fun _ _ => ⟨fun hn => absurd hn (by simp), ?_⟩⟩
        rintro q' ⟨⟩
        exact ⟨rfl, rfl, rfl, by rw [hp']; rfl, rfl⟩
      | none =>
        rw [hf] at hw
        by_cases hn : v.ea ≤ arr ∧ v.eb ≤ bytes
        · have he : ends = some false := by
            simp only [ends, hp', hf, Bool.false_eq_true, if_false]
            exact if_pos hn
          have hw' : w = { v.taken.complete false with bytes := v.taken.bytes - v.eb } := hw.trans (if_pos hn)
          rw [hw', he]
          refine ⟨⟨rfl, rfl, rfl, rfl, rfl⟩, fun hn => absurd hn hno, fun _ _ => ⟨fun hn => absurd hn (by simp), ?_⟩⟩
          rintro q ⟨⟩
          exact ⟨rfl, rfl, rfl, by rw [hp']; rfl, rfl⟩
        · have he : ends = none := by
            simp only [ends, hp', hf, Bool.false_eq_true, if_false]
            exact if_neg hn
          have hw' : w = v.taken := hw.trans (if_neg hn)
          rw [hw', he]
          exact ⟨⟨rfl, rfl, rfl, rfl, rfl⟩, fun hn => absurd hn hno,
            fun _ _ => ⟨fun _ => ⟨rfl, rfl, rfl, rfl, rfl⟩, fun q hq => absurd hq (by simp)⟩⟩
  · have hi : w = v.counted := endCk_idle (by simpa using h)
    rw [hi]
    exact ⟨⟨rfl, rfl, rfl, rfl, rfl⟩, fun _ => ⟨rfl, rfl, rfl, rfl, rfl⟩, fun hon hr => absurd (by simp [hon, hr]) h⟩

end Sys2Proof.Machine
end


section
/-!
SUPPORT. What every trap and every block leave, what no delivery changes, and a context after its group.
-/
namespace Sys2Proof.Machine

/-! ## What every trap leaves, and what no delivery changes -/

@[simp] theorem freezeGroup_slots (s : State) (gid : Nat) : (freezeGroup s gid).slots = s.slots := by
  unfold freezeGroup
  split
  · rfl
  · split
    · exact (Quiet.foldl (fun s (p : Place) => quiet_freezeCtx s p.core p.ctx) _ s).slots
    · rfl

@[simp] theorem freezeGroup_tables (s : State) (gid : Nat) : (freezeGroup s gid).tables = s.tables := by
  unfold freezeGroup
  split
  · rfl
  · split
    · exact (Quiet.foldl (fun s (p : Place) => quiet_freezeCtx s p.core p.ctx) _ s).tables
    · rfl

section Trap
variable (s : State) (c x cause tval epc : Nat)

@[simp] theorem takeTrap_slots : (takeTrap s c x cause tval epc).slots = s.slots := by
  cases h : isSup c
  · rw [takeTrap_compute h, freezeGroup_slots]
    rfl
  · rw [takeTrap_sup h]
    rfl

@[simp] theorem takeTrap_tables : (takeTrap s c x cause tval epc).tables = s.tables := by
  cases h : isSup c
  · rw [takeTrap_compute h, freezeGroup_tables]
    rfl
  · rw [takeTrap_sup h]
    rfl

@[simp] theorem takeTrap_issue : (takeTrap s c x cause tval epc).issue = s.issue := by
  cases h : isSup c
  · exact (takeTrap_issue_ck h ..).1
  · rw [takeTrap_sup h]
    rfl

/-- The trap's registers, on every core. -/
theorem getCtx_takeTrap_registers : (getCtx (takeTrap s c x cause tval epc) c x).xcause = cause ∧
    (getCtx (takeTrap s c x cause tval epc) c x).xtval = BitVec.ofNat 64 tval := by
  cases h : isSup c
  · rw [getCtx_takeTrap h]
    exact ⟨rfl, rfl⟩
  · rw [getCtx_takeTrap_sup h]
    exact ⟨rfl, rfl⟩

theorem takeTrap_me_registers (hi : s.issue.core = c) (hx : s.issue.ctx = x) :
    (takeTrap s c x cause tval epc).me.xcause = cause ∧
    (takeTrap s c x cause tval epc).me.xtval = BitVec.ofNat 64 tval := by
  have h := getCtx_takeTrap_registers s c x cause tval epc
  rwa [State.me, takeTrap_issue, hi, hx]

end Trap

/-- What a context is to the barrier slots: its group, its rank, and the waits a CFG write released. -/
def Ctx.membership (t : Ctx) : Nat × Nat × List (Nat × Option Nat) := (t.group, t.rank, t.cfgRel)

section Membership
variable (s : State) (c x : Nat)

theorem getCtx_setCore_self (k : Core) : getCtx (setCore s c k) c x = k.get x := by rw [getCtx, getCore_setCore_self]

theorem membership_foldFlags (f : Flags) : (getCtx (foldFlags s c x f) c x).membership = (getCtx s c x).membership := by
  unfold foldFlags
  split
  · rfl
  · rw [getCtx_modCtx_self]
    rfl

theorem membership_report (e : Async) : (getCtx (report s c x e) c x).membership = (getCtx s c x).membership := by
  unfold report
  extract_lets t
  split
  · rfl
  · rw [getCtx_setCtx_self]
    change (if t.isBlocked then t.released else t).membership = _
    split <;> rfl

theorem endOp_get (k : Core) (op : Nat) : (k.endOp op).get x = k.get x := by
  unfold Core.endOp
  exact List.foldlRecOn (motive := fun k' : Core => k'.get x = k.get x) _ _ rfl fun k' hk v _ => hk

theorem putResultRow_get (k : Core) (zt row w : Nat) (codes : List (Option Nat)) :
    (putResultRow k zt row w codes).get x = k.get x := by
  unfold putResultRow
  refine List.foldlRecOn (motive := fun k' : Core => k'.get x = k.get x) _ _ rfl fun k' hk _ _ => ?_
  exact hk

theorem membership_stopRows (op slot : Nat) (r : PRun) :
    (getCtx (stopRows s c x op slot r) c x).membership = (getCtx s c x).membership := by
  unfold stopRows
  rw [membership_foldFlags, getCtx_modCtx_self, getCtx_setCore_self]
  have h := congrArg Ctx.membership (endOp_get x ((getCore s c).setRun slot op r) op)
  exact h

theorem membership_applyAccOut (row : Nat) (vals : List Nat) (zt : Nat) (zf : Zf) (pz : Option Nat)
    (op epc : Nat) (last : Bool) (fl : Option Flags) :
    (getCtx (applyAccOut s c x row vals zt zf pz op epc last fl) c x).membership = (getCtx s c x).membership := by
  unfold applyAccOut
  extract_lets
  split
  · rw [membership_foldFlags, getCtx_setCore_self]
    exact congrArg Ctx.membership (putResultRow_get ..)
  · split
    · rfl
    · extract_lets
      split
      · rw [membership_report, membership_stopRows]
      · rw [membership_foldFlags, getCtx_setCore_self]
        change (Core.get (if last then _ else _) x).membership = _
        split <;> exact congrArg Ctx.membership (putResultRow_get ..)

/-- No result that reaches its destination changes what its context is to the slots. -/
theorem membership_applyWrite (w : Write) : (getCtx (applyWrite s c x w) c x).membership = (getCtx s c x).membership := by
  have hk : ∀ f : Core → Core, (∀ k, (f k).get x = k.get x) →
      (getCtx (modCore s c f) c x).membership = (getCtx s c x).membership := fun f hf => by
    rw [getCtx, getCore_modCore_self, hf]
    rfl
  cases w with
  | tile => exact hk _ fun k => by split <;> rfl
  | latch => exact hk _ fun k => by split <;> rfl
  | flags => exact membership_foldFlags ..
  | rowFlags => exact membership_foldFlags ..
  | accAdd row vals fl =>
    unfold applyWrite applyAccAdd
    rw [membership_foldFlags, getCtx_setCore_self]
    rfl
  | accOut => exact membership_applyAccOut ..
  | p i v =>
    unfold applyWrite
    rw [getCtx_modCtx_self]
    split <;> rfl
  | _ =>
    unfold applyWrite
    rw [getCtx_modCtx_self]
    rfl

theorem membership_deliver : (getCtx (deliver s c x) c x).membership = (getCtx s c x).membership := by
  unfold deliver
  extract_lets t r
  refine List.foldlRecOn
    (motive := fun u : State => (getCtx u c x).membership = (getCtx s c x).membership) _ _ ?_ fun u hu f _ => ?_
  · split
    · rfl
    · rw [getCtx_setCtx_self]
      rfl
  · rw [membership_applyWrite, hu]

theorem membership_delivered : (delivered s).me.membership = s.me.membership := by
  rw [me_delivered, delivered, membership_deliver]
  rfl

end Membership

/-! ## A group that blocks (R62) -/

/-- A context whose group blocks with condition `n`: Blocked where another of its core is Ready. -/
def Ctx.blocks (ck n : Nat) (ready : Bool) (t : Ctx) : Ctx :=
  { t.waits ck n with st := if ready then .blocked else t.st }

theorem othersReady_iff (s : State) : othersReady s = true ↔ OtherReady s := by
  simp only [othersReady, OtherReady, List.any_eq_true, List.mem_range, Bool.and_eq_true, bne_iff_ne, beq_iff_eq, ne_eq]

/-- A change of the issuing core that leaves its issuing context. -/
theorem modCore_me_same {t : State} {c : Nat} {F : Core → Core} (hc : t.issue.core = c)
    (hF : ∀ k : Core, (F k).get t.issue.ctx = k.get t.issue.ctx) : (modCore t c F).me = t.me := by
  subst hc
  rw [modCore_me, hF]
  rfl

theorem blockGroup_me {s : State} {n : Nat} {f : State → State} (hi : (f s).issue = s.issue) :
    (blockGroup s n f).me = (f s).me.blocks s.ck n (othersReady s) :=
  (modCore_me_same (t := (f s).modMe (Ctx.blocks s.ck n (othersReady s)))
    (F := fun k => { k with lastIssue := some s.ck, cur := s.issue.ctx }) (congrArg Issue.core hi) fun _ => rfl).trans
    (modMe_me _ _)

theorem blocksAs_blockGroup {s : State} {n : Nat} {f : State → State} {u : Ctx} (hi : (f s).issue = s.issue)
    (hst : (f s).me.st = u.st) (hu : (f s).me.waits s.ck n = u) : BlocksAs u s (blockGroup s n f) := by
  subst hu
  refine ⟨fun h => ?_, fun h => ?_⟩
  · rw [blockGroup_me hi, (othersReady_iff s).mpr h]
    rfl
  · have hr : othersReady s = false := Bool.eq_false_iff.mpr fun hr => h ((othersReady_iff s).mp hr)
    rw [blockGroup_me hi, hr]
    rfl

/-- A block that records nothing of its own. -/
theorem blocks_blockGroup (s : State) (n : Nat) : Blocks n s (blockGroup s n fun s => s) :=
  blocksAs_blockGroup rfl rfl rfl

/-! ## A context after its group -/

theorem after_me {a t : State} (h : t.issue = a.issue) : (after a t).me = countCycle a t.me :=
  (modCore_me_same (t := t.modMe (countCycle a)) (congrArg Issue.core h) fun _ => noteIssue_get _ _ _).trans (modMe_me _ _)

@[simp] theorem before_me (a : State) (srcs : List Src) (g : Option (Bool × Nat)) :
    (before a srcs g).me = moveOn (srcPops srcs a) (flow a.me a.issue.next g) a.me := by
  rw [before_eq_modCore, modCore_me, Core.beforeEffect_get]
  rfl

@[simp] theorem before_issue (a : State) (srcs : List Src) (g : Option (Bool × Nat)) : (before a srcs g).issue = a.issue := rfl
@[simp] theorem before_ck (a : State) (srcs : List Src) (g : Option (Bool × Nat)) : (before a srcs g).ck = a.ck := rfl
@[simp] theorem before_mem (a : State) (srcs : List Src) (g : Option (Bool × Nat)) : (before a srcs g).mem = a.mem := rfl
@[simp] theorem before_slots (a : State) (srcs : List Src) (g : Option (Bool × Nat)) : (before a srcs g).slots = a.slots := rfl
@[simp] theorem after_mem (a t : State) : (after a t).mem = t.mem := rfl
@[simp] theorem after_slots (a t : State) : (after a t).slots = t.slots := rfl

end Sys2Proof.Machine
end


section
/-!
Waits at barriers (O25): what a wait finds, and what it leaves where it passes, blocks and fails.
-/
namespace Sys2Proof.Machine

/-! ## Slots read back -/

@[simp] theorem getSlot_modSlot_self (s : State) (ch b : Nat) (f : Slot → Slot) :
    getSlot (modSlot s ch b f) ch b = f (getSlot s ch b) := alGet_alSet_self ..

theorem getSlot_congr {s t : State} (h : s.slots = t.slots) (ch b : Nat) : getSlot s ch b = getSlot t ch b := by
  rw [getSlot, getSlot, h]

theorem startCycle_chiplet (s : State) : (startCycle s).chiplet = s.chiplet := by rw [State.chiplet, startCycle_core]; rfl

theorem delivered_chiplet (s : State) : (delivered s).chiplet = s.chiplet := by rw [State.chiplet, delivered_core]; rfl

/-- The slot of the issuing context is that of the state before its results were delivered. -/
theorem getSlot_startCycle (s : State) (b : Nat) :
    getSlot (startCycle s) (startCycle s).chiplet b = getSlot s s.chiplet b := by
  rw [startCycle_chiplet, getSlot_congr (startCycle_slots s)]

theorem entry_setEntry_none (v : Slot) (p : Nat) : (v.setEntry p none).entry p = none := by
  have h : (v.entries.filter fun q => q.1 != p).find? (fun q => q.1 == p) = none := by
    simp only [List.find?_eq_none, List.mem_filter]
    rintro q ⟨-, hq⟩
    simpa using hq
  rw [Slot.entry, Slot.setEntry, h]
  rfl

theorem entry_setEntry_some (v : Slot) (p : Nat) (e : PEntry) : (v.setEntry p (some e)).entry p = some e := by
  simp [Slot.entry, Slot.setEntry]

theorem supEntry_filter (v : Slot) (id : Nat) :
    { v with sup := v.sup.filter fun p => p.1 != id }.supEntry id = none := by
  have h : (v.sup.filter fun p => p.1 != id).find? (fun p => p.1 == id) = none := by
    simp only [List.find?_eq_none, List.mem_filter]
    rintro q ⟨-, hq⟩
    simpa using hq
  rw [Slot.supEntry, h]
  rfl

/-! ## What a wait leaves of its slot (R401, R404) -/

/-- The slot without the record of the supervisor's context `id`. -/
def Slot.forget (id : Nat) (v : Slot) : Slot := { v with sup := v.sup.filter fun p => p.1 != id }

/-- The slot without the entry `e` of a party. -/
def Slot.dropEntry (e : PEntry) (p : Option Nat) (v : Slot) : Slot :=
  match p with
  | some p => if v.entry p = some e then v.setEntry p none else v
  | none => v

/-- The slot once a wait of the context `t` has passed. -/
def Slot.afterPass (id : Nat) (t : Ctx) (v : Slot) : Slot :=
  if v.ring then { v.forget id with filled := v.filled - 1 }
  else (v.forget id).dropEntry .wrel (v.party t.group t.rank)

/-- The slot once a BARW of the context `t` has blocked on it as slot `b`. -/
def Slot.afterHold (sup : Bool) (id b : Nat) (t : Ctx) (v : Slot) : Slot :=
  if v.ring then v
  else if sup then if v.supEntry id = none then { v with sup := (id, v.phase, false) :: v.sup } else v
  else match v.party t.group t.rank with
    | some p => if v.entry p = none ∧ (t.arrivals.any fun a => a.slot == b) = false then v.setEntry p (some .wait) else v
    | none => v

/-- The slot once a wait of the context `t` on it as slot `b` has failed. -/
def Slot.afterFail (id b : Nat) (t : Ctx) (v : Slot) : Slot :=
  (v.forget id).dropEntry .wrelp (((t.cfgRel.find? fun q => q.1 == b).map (·.2)).getD (v.party t.group t.rank))

/-- The context once its wait is over. -/
def Ctx.waitOver (t : Ctx) : Ctx := { t with barWait := none }

theorem passWait_eq (a : State) (b : Nat) (s : State) : passWait a b s =
    (modSlot s a.chiplet b (Slot.afterPass (supId a) a.me)).modMe Ctx.waitOver := rfl

theorem holdWait_eq (b : Nat) (s : State) : holdWait b s =
    (modSlot s s.chiplet b (Slot.afterHold (isSup s.issue.core) (supId s) b s.me)).modMe fun t =>
      { t with barWait := some b } := rfl

section Slots
variable {v : Slot} {p id b : Nat} {t : Ctx} {e : PEntry}

theorem entry_dropEntry : (v.dropEntry e (some p)).entry p = if v.entry p = some e then none else v.entry p := by
  unfold Slot.dropEntry
  by_cases h : v.entry p = some e
  · simp only [h, if_true, entry_setEntry_none]
  · simp only [h, if_false]

theorem dropEntry_same (q : Option Nat) : (v.dropEntry e q).sup = v.sup ∧ (v.dropEntry e q).filled = v.filled ∧
    (v.dropEntry e q).brk = v.brk := by
  unfold Slot.dropEntry
  split
  · split
    · exact ⟨rfl, rfl, rfl⟩
    · exact ⟨rfl, rfl, rfl⟩
  · exact ⟨rfl, rfl, rfl⟩

theorem supEntry_dropEntry_forget (q : Option Nat) : ((v.forget id).dropEntry e q).supEntry id = none := by
  rw [Slot.supEntry, (dropEntry_same q).1]
  exact supEntry_filter v id

theorem afterPass_filled (hr : v.ring = true) : (v.afterPass id t).filled = v.filled - 1 := by
  rw [Slot.afterPass, if_pos hr]

theorem afterPass_entry (hr : v.ring = false) (hp : v.party t.group t.rank = some p) :
    (v.afterPass id t).entry p = if v.entry p = some .wrel then none else v.entry p := by
  rw [Slot.afterPass, hr, hp]
  exact entry_dropEntry

theorem afterPass_supEntry (hr : v.ring = false) : (v.afterPass id t).supEntry id = none := by
  rw [Slot.afterPass, hr]
  exact supEntry_dropEntry_forget _

theorem afterHold_ring (hr : v.ring = true) (sup : Bool) : v.afterHold sup id b t = v := if_pos hr

theorem afterHold_entry (hr : v.ring = false) (hp : v.party t.group t.rank = some p)
    (ha : ∀ r ∈ t.arrivals, r.slot ≠ b) :
    (v.afterHold false id b t).entry p = if v.entry p = none then some .wait else v.entry p := by
  have ha' : (t.arrivals.any fun a => a.slot == b) = false := by
    simpa only [List.any_eq_false, beq_iff_eq] using ha
  simp only [Slot.afterHold, hr, hp, ha', Bool.false_eq_true, if_false, and_true]
  by_cases h : v.entry p = none
  · simp only [h, if_true, entry_setEntry_some]
  · simp only [h, if_false]

theorem afterHold_supEntry_new (hr : v.ring = false) (hn : v.supEntry id = none) :
    (v.afterHold true id b t).supEntry id = some (v.phase, false) := by
  simp only [Slot.afterHold, hr, hn, Bool.false_eq_true, if_false, if_true]
  simp [Slot.supEntry]

theorem afterHold_supEntry_old {q : Nat × Bool} (hr : v.ring = false) (hn : v.supEntry id = some q) :
    (v.afterHold true id b t).supEntry id = some q := by
  have hne : v.supEntry id ≠ none := by simp [hn]
  rw [Slot.afterHold, hr, if_neg Bool.false_ne_true, if_pos rfl, if_neg hne, hn]

theorem afterFail_entry (hf : (t.cfgRel.any fun q => q.1 == b) = false) (hp : v.party t.group t.rank = some p) :
    (v.afterFail id b t).entry p = if v.entry p = some .wrelp then none else v.entry p := by
  have hn : (t.cfgRel.find? fun q => q.1 == b) = none := by
    simpa only [List.find?_eq_none, List.any_eq_false] using hf
  rw [Slot.afterFail, hn, hp]
  exact entry_dropEntry

theorem afterFail_supEntry : (v.afterFail id b t).supEntry id = none := supEntry_dropEntry_forget _

theorem afterFail_ring : (v.afterFail id b t).filled = v.filled ∧ (v.afterFail id b t).brk = v.brk :=
  (dropEntry_same _).2

end Slots

/-! ## What a wait finds (R401, R404) -/

section Outcome
variable {a : State} {b p : Nat}

theorem waitOutcome_party (hs : isSup a.issue.core = false) (hr : (getSlot a a.chiplet b).ring = false)
    (ha : ∀ r ∈ a.me.arrivals, r.slot ≠ b) (hp : (getSlot a a.chiplet b).party a.me.group a.me.rank = some p) (w : Bool) :
    waitOutcome a b w = match (getSlot a a.chiplet b).entry p with
      | some .done | some .wrel => .pass
      | some .donep | some .wrelp => .fail
      | _ => .hold := by
  have ha' : (a.me.arrivals.any fun r => r.slot == b) = false := by
    simpa only [List.any_eq_false, beq_iff_eq] using ha
  simp only [waitOutcome, hr, hs, ha', hp, Bool.false_eq_true, if_false] <;> rfl

theorem waitOutcome_ring (hr : (getSlot a a.chiplet b).ring = true) (w : Bool) :
    waitOutcome a b w = if (getSlot a a.chiplet b).brk then .fail
      else if 0 < (getSlot a a.chiplet b).filled then .pass else .hold := by
  simp only [waitOutcome, hr, if_true]

theorem waitOutcome_supBarp (hs : isSup a.issue.core = true) (hr : (getSlot a a.chiplet b).ring = false) :
    waitOutcome a b false = .hold := by
  simp only [waitOutcome, hr, hs, Bool.false_eq_true, if_false, if_true]

theorem waitOutcome_supFirst (hs : isSup a.issue.core = true) (hr : (getSlot a a.chiplet b).ring = false)
    (hn : (getSlot a a.chiplet b).supEntry (supId a) = none) : waitOutcome a b true = .hold := by
  simp only [waitOutcome, hr, hs, hn, Bool.false_eq_true, if_false, if_true]

theorem waitOutcome_supAgain {ph : Nat} {rel : Bool} (hs : isSup a.issue.core = true)
    (hr : (getSlot a a.chiplet b).ring = false)
    (hn : (getSlot a a.chiplet b).supEntry (supId a) = some (ph, rel)) :
    waitOutcome a b true = if (getSlot a a.chiplet b).phase = ph then .hold
      else if (getSlot a a.chiplet b).lp then .fail else .pass := by
  simp only [waitOutcome, hr, hs, hn, Bool.false_eq_true, if_false, if_true]

end Outcome

/-! ## BARW and BARP by what the wait finds (R146) -/

section Wait
variable {gd : Guard} {sc : Fin 8} {bar : Fin 1024} {pd : Fin 8}

theorem opBarw_traps {a : State} (v : List Word) (hr : cfgReleased a bar.val = false)
    (hg : grantTraps a sc bar.val = []) : (opBarw gd sc bar).traps a v =
      trapIf (waitOutcome a bar.val true == .fail) ⟨9, causeCHECKSUM, bar.val⟩ := by
  have h : (opBarw gd sc bar).traps a v = barwTraps a sc bar.val := rfl
  rw [h, barwTraps, hr, hg]
  rfl

theorem opBarp_traps {a : State} (v : List Word) (hg : grantTraps a sc bar.val = []) :
    (opBarp gd sc bar pd).traps a v =
      trapIf (waitOutcome a bar.val false == .fail) ⟨9, causeCHECKSUM, bar.val⟩ := congrArg (· ++ _) hg

theorem opBarw_block_hold {a : State} (v : List Word) (h : waitOutcome a bar.val true = .hold) :
    (opBarw gd sc bar).block a v = some 4 := if_pos (.inr h)

theorem opBarw_block_pass {a : State} (v : List Word) (h : waitOutcome a bar.val true = .pass)
    (hw : a.me.barWait ≠ some bar.val) : (opBarw gd sc bar).block a v = none := if_neg (by simp [h, hw])

theorem opBarp_effect_pass {a : State} (v : List Word) (t : State) (h : waitOutcome a bar.val false = .pass) :
    (opBarp gd sc bar pd).effect a v t = give (passWait a bar.val t) 3 (.p pd true) 0 := if_pos h

theorem opBarp_effect_hold {a : State} (v : List Word) (t : State) (h : waitOutcome a bar.val false = .hold) :
    (opBarp gd sc bar pd).effect a v t = give t 3 (.p pd false) 0 := if_neg (by simp [h])

theorem onTrap_checksum (u : State) : (opBarw gd sc bar).onTrap causeCHECKSUM u = failWait bar.val u ∧
    (opBarp gd sc bar pd).onTrap causeCHECKSUM u = failWait bar.val u := ⟨rfl, rfl⟩

@[simp] theorem passWait_me (a : State) (b : Nat) (t : State) : (passWait a b t).me = t.me.waitOver := by
  rw [passWait_eq, modMe_me]
  rfl

theorem getSlot_passWait (a : State) (b : Nat) (t : State) :
    getSlot (passWait a b t) a.chiplet b = (getSlot t a.chiplet b).afterPass (supId a) a.me :=
  getSlot_modSlot_self t a.chiplet b (Slot.afterPass (supId a) a.me)

variable {s : State} (hc : clear gd [] [] [] s = true)
include hc

theorem exec_barw_pass (hr : cfgReleased (startCycle s) bar.val = false)
    (hg : grantTraps (startCycle s) sc bar.val = []) (ho : waitOutcome (startCycle s) bar.val true = .pass)
    (hw : (startCycle s).me.barWait ≠ some bar.val) :
    exec (.barw gd sc bar) s = .next (after (startCycle s) (passWait (startCycle s) bar.val (before (startCycle s) [] none))) := by
  have hgoes : goes (opBarw gd sc bar) s = true :=
    goes_of_clear hc rfl (scoreboard_nil _) rfl rfl ((opBarw_traps _ hr hg).trans (by rw [ho]; rfl))
      (opBarw_block_pass _ ho hw) rfl
  exact exec_of_effect (i := .barw gd sc bar) (o := opBarw gd sc bar) (srcs := []) (g := none) rfl hgoes rfl rfl
    fun t _ _ hl => (congrArg Ctx.loopn (passWait_me (startCycle s) bar.val t)).trans hl

theorem goes_barp (hg : grantTraps (startCycle s) sc bar.val = []) (ho : waitOutcome (startCycle s) bar.val false ≠ .fail) :
    goes (opBarp gd sc bar pd) s = true :=
  goes_of_clear hc rfl (scoreboard_nil _) rfl rfl ((opBarp_traps _ hg).trans (by rw [beq_false_of_ne ho]; rfl)) rfl rfl

theorem exec_barp_pass (hg : grantTraps (startCycle s) sc bar.val = [])
    (ho : waitOutcome (startCycle s) bar.val false = .pass) :
    exec (.barp gd sc bar pd) s = .next (after (startCycle s)
      (give (passWait (startCycle s) bar.val (before (startCycle s) [] none)) 3 (.p pd true) 0)) := by
  have h := exec_of_effect (i := .barp gd sc bar pd) (o := opBarp gd sc bar pd) (srcs := []) (g := none) rfl
    (goes_barp hc hg (by rw [ho]; decide)) rfl rfl fun t _ _ hl => by
      rw [opBarp_effect_pass _ _ ho, give_eq, modMe_me, giveTo_loopn, passWait_me]
      exact hl
  rwa [opBarp_effect_pass _ _ ho] at h

theorem gives_barp_hold (hg : grantTraps (startCycle s) sc bar.val = [])
    (ho : waitOutcome (startCycle s) bar.val false = .hold) : Gives (.barp gd sc bar pd) s [] 3 (.p pd false) 0 :=
  gives_of_goes (o := opBarp gd sc bar pd) rfl (goes_barp hc hg (by rw [ho]; decide)) rfl fun t _ =>
    opBarp_effect_hold _ t ho

theorem exec_barw_block (hr : cfgReleased (startCycle s) bar.val = false)
    (hg : grantTraps (startCycle s) sc bar.val = []) (ho : waitOutcome (startCycle s) bar.val true = .hold) :
    exec (.barw gd sc bar) s = .next (blockGroup s 4 (holdWait bar.val)) := by
  have hx : exec (.barw gd sc bar) s = runOne (opBarw gd sc bar) s := rfl
  rw [hx, runOne, runGroup_block (o := opBarw gd sc bar) hc rfl (scoreboard_nil _) rfl rfl
    ((opBarw_traps _ hr hg).trans (by rw [ho]; rfl)) (opBarw_block_hold _ ho)]
  rfl

theorem exec_barw_fail (hr : cfgReleased (startCycle s) bar.val = false)
    (hg : grantTraps (startCycle s) sc bar.val = []) (ho : waitOutcome (startCycle s) bar.val true = .fail) :
    exec (.barw gd sc bar) s = .next (takeTrap (failWait bar.val (delivered s)) s.issue.core s.issue.ctx causeCHECKSUM
      bar.val s.issue.addr) := by
  have hx : exec (.barw gd sc bar) s = runOne (opBarw gd sc bar) s := rfl
  rw [hx, runOne, runGroup_trap (o := opBarw gd sc bar) hc rfl (scoreboard_nil _) rfl rfl
    ((opBarw_traps _ hr hg).trans (by rw [ho]; rfl)), (onTrap_checksum (pd := 0) _).1]

theorem exec_barp_fail (hg : grantTraps (startCycle s) sc bar.val = [])
    (ho : waitOutcome (startCycle s) bar.val false = .fail) :
    exec (.barp gd sc bar pd) s = .next (takeTrap (failWait bar.val (delivered s)) s.issue.core s.issue.ctx causeCHECKSUM
      bar.val s.issue.addr) := by
  have hx : exec (.barp gd sc bar pd) s = runOne (opBarp gd sc bar pd) s := rfl
  rw [hx, runOne, runGroup_trap (o := opBarp gd sc bar pd) hc rfl (scoreboard_nil _) rfl rfl
    ((opBarp_traps _ hg).trans (by rw [ho]; rfl)), (onTrap_checksum _).2]

end Wait

/-! ## What is left -/

section Left
variable (a : State) (b : Nat)

theorem after_pass : (after a (passWait a b (before a [] none))).mem = a.mem ∧
    (after a (passWait a b (before a [] none))).me = { advanced a [] with barWait := none } ∧
    getSlot (after a (passWait a b (before a [] none))) a.chiplet b =
      (getSlot a a.chiplet b).afterPass (supId a) a.me := by
  refine ⟨rfl, ?_, getSlot_passWait a b _⟩
  rw [after_me (a := a) (t := passWait a b (before a [] none)) rfl, passWait_me, before_me]
  rfl

theorem after_give_pass (pd : Fin 8) :
    (after a (give (passWait a b (before a [] none)) 3 (.p pd true) 0)).mem = a.mem ∧
    (after a (give (passWait a b (before a [] none)) 3 (.p pd true) 0)).me =
      { advanced a [] with barWait := none, flights := landing a 3 (.p pd true) 0 } ∧
    getSlot (after a (give (passWait a b (before a [] none)) 3 (.p pd true) 0)) a.chiplet b =
      (getSlot a a.chiplet b).afterPass (supId a) a.me := by
  have hm : ∀ f, (after a ((passWait a b (before a [] none)).modMe f)).me =
      countCycle a (f (moveOn (srcPops [] a) (flow a.me a.issue.next none) a.me).waitOver) := fun f => by
    rw [after_me (a := a) (t := (passWait a b (before a [] none)).modMe f) rfl, modMe_me, passWait_me, before_me]
  rw [give_eq, hm]
  exact ⟨rfl, rfl, getSlot_passWait a b _⟩

end Left

section Left
variable (s : State) (b : Nat)

theorem block_hold : (blockGroup s 4 (holdWait b)).mem = s.mem ∧
    BlocksAs { s.me.waits s.ck 4 with barWait := some b } s (blockGroup s 4 (holdWait b)) ∧
    getSlot (blockGroup s 4 (holdWait b)) (startCycle s).chiplet b =
      (getSlot s s.chiplet b).afterHold (isSup s.issue.core) (supId s) b s.me := by
  have hm : (holdWait b s).me = { s.me with barWait := some b } := by
    rw [holdWait_eq, modMe_me]
    rfl
  rw [startCycle_chiplet]
  exact ⟨rfl, blocksAs_blockGroup rfl (by rw [hm]; rfl) (by rw [hm]; rfl),
    getSlot_modSlot_self s s.chiplet b (Slot.afterHold (isSup s.issue.core) (supId s) b s.me)⟩

theorem trap_fail :
    let t := takeTrap (failWait b (delivered s)) s.issue.core s.issue.ctx causeCHECKSUM b s.issue.addr
    t.mem = s.mem ∧ t.me.xcause = 0x18 ∧ t.me.xtval = BitVec.ofNat 64 b ∧
    getSlot t (startCycle s).chiplet b =
      (getSlot s s.chiplet b).afterFail (supId (delivered s)) b (delivered s).me := by
  intro t
  obtain ⟨hcause, hval⟩ := takeTrap_me_registers (failWait b (delivered s)) s.issue.core s.issue.ctx causeCHECKSUM b
    s.issue.addr (delivered_core s) (delivered_ctx s)
  refine ⟨(takeTrap_mem ..).trans (delivered_mem s), hcause, hval, ?_⟩
  have hslot : getSlot (failWait b (delivered s)) (delivered s).chiplet b =
      (getSlot (delivered s) (delivered s).chiplet b).afterFail (supId (delivered s)) b (delivered s).me :=
    getSlot_modSlot_self (delivered s) (delivered s).chiplet b (Slot.afterFail (supId (delivered s)) b (delivered s).me)
  rw [getSlot_congr (takeTrap_slots ..), startCycle_chiplet, ← delivered_chiplet, hslot, delivered_chiplet,
    getSlot_congr (delivered_slots s)]

end Left

/-! ## The claims -/

/-- A wait released by no CFG write has none on record in its context. -/
theorem cfgRel_of_cfgReleased {a : State} {b : Nat} (h : cfgReleased a b = false) :
    (a.me.cfgRel.any fun q => q.1 == b) = false := (Bool.or_eq_false_iff.mp h).1

/-- The membership of the issuing context as its results are delivered, where it is that of the start of the group. -/
theorem me_delivered_membership {s : State} (hg : (startCycle s).me.group = s.me.group)
    (hr : (startCycle s).me.rank = s.me.rank) (hc : (startCycle s).me.cfgRel = s.me.cfgRel) :
    (delivered s).me.group = (startCycle s).me.group ∧ (delivered s).me.rank = (startCycle s).me.rank ∧
    (delivered s).me.cfgRel = (startCycle s).me.cfgRel := by
  have h := membership_delivered s
  simp only [Ctx.membership, Prod.mk.injEq] at h
  rw [hg, hr, hc]
  exact h

theorem barrierWaits_pass : Claims.BarrierWaits := by
  intro gd sc bar pd s p hc a v hs hg hr hring hp ha
  refine ⟨fun he => ?_, fun he => ?_⟩
  · have ho : ∀ w, waitOutcome a bar.val w = .pass := fun w => by
      rw [waitOutcome_party hs hring ha hp]
      rcases he with he | he <;> rw [he]
    have hentry : (v.afterPass (supId a) a.me).entry p = if v.entry p = some .done then some .done else none := by
      rw [afterPass_entry hring hp]
      rcases he with he | he <;> rw [he] <;> rfl
    refine ⟨fun hw => ?_, ?_⟩
    · obtain ⟨hmem, hme, hslot⟩ := after_pass a bar.val
      exact ⟨_, exec_barw_pass hc hr hg (ho true) hw, hmem, hme, (congrArg (Slot.entry · p) hslot).trans hentry⟩
    · obtain ⟨hmem, hme, hslot⟩ := after_give_pass a bar.val pd
      exact ⟨_, exec_barp_pass hc hg (ho false), hmem, hme, (congrArg (Slot.entry · p) hslot).trans hentry⟩
  · refine gives_barp_hold hc hg ?_
    rw [waitOutcome_party hs hring ha hp]
    rcases he with he | he | he <;> rw [he]

theorem barrierWaits_block : Claims.BarrierBlocks := by
  intro gd sc bar s p hc a v hs hcore hgrp hrank hslots harr hg hr hring hp ha he
  have ho : waitOutcome a bar.val true = .hold := by
    rw [waitOutcome_party (by rw [hcore]; exact hs) hring ha hp]
    rcases he with he | he | he <;> rw [he]
  obtain ⟨hmem, hblocks, hslot⟩ := block_hold s bar.val
  have hv : v = getSlot s s.chiplet bar.val := getSlot_startCycle s bar.val
  rw [← hv, hs] at hslot
  refine ⟨_, exec_barw_block hc hr hg ho, hmem, hblocks, (congrArg (Slot.entry · p) hslot).trans ?_⟩
  exact afterHold_entry hring (by rw [← hgrp, ← hrank]; exact hp) (by rw [← harr]; exact ha)

theorem barrierWaits_fail : Claims.BarrierFails := by
  intro gd sc bar pd s p hc a v hs hgrp hrank hcfg hg hr hring hp ha he i hi
  have ho : ∀ w, waitOutcome a bar.val w = .fail := fun w => by
    rw [waitOutcome_party hs hring ha hp]
    rcases he with he | he <;> rw [he]
  have hx : exec i s = .next (takeTrap (failWait bar.val (delivered s)) s.issue.core s.issue.ctx causeCHECKSUM
      bar.val s.issue.addr) := by
    simp only [List.mem_cons, List.not_mem_nil, or_false] at hi
    rcases hi with rfl | rfl
    · exact exec_barw_fail hc hr hg (ho true)
    · exact exec_barp_fail hc hg (ho false)
  obtain ⟨hmem, hcause, hval, hslot⟩ := trap_fail s bar.val
  obtain ⟨hg', hr', hc'⟩ := me_delivered_membership hgrp hrank hcfg
  have hv : v = getSlot s s.chiplet bar.val := getSlot_startCycle s bar.val
  refine ⟨_, hx, hmem, hcause, hval, (congrArg (Slot.entry · p) hslot).trans ?_⟩
  rw [← hv, afterFail_entry (by rw [hc']; exact cfgRel_of_cfgReleased hr) (by rw [hg', hr']; exact hp)]
  rcases he with he | he <;> rw [he] <;> rfl

theorem barrierWaits_ring : Claims.RingWaits := by
  intro gd sc bar pd s hc a at_ v hg hr hring
  have hv : v = getSlot s s.chiplet bar.val := getSlot_startCycle s bar.val
  refine ⟨fun hb i hi => ?_, fun hb hf => ?_, fun hb hf => ?_⟩
  · have ho : ∀ w, waitOutcome a bar.val w = .fail := fun w => (waitOutcome_ring hring w).trans (if_pos hb)
    have hx : exec i s = .next (takeTrap (failWait bar.val (delivered s)) s.issue.core s.issue.ctx causeCHECKSUM
        bar.val s.issue.addr) := by
      simp only [List.mem_cons, List.not_mem_nil, or_false] at hi
      rcases hi with rfl | rfl
      · exact exec_barw_fail hc hr hg (ho true)
      · exact exec_barp_fail hc hg (ho false)
    obtain ⟨hmem, hcause, hval, hslot⟩ := trap_fail s bar.val
    rw [← hv] at hslot
    exact ⟨_, hx, hmem, hcause, hval, (congrArg Slot.filled hslot).trans afterFail_ring.1,
      (congrArg Slot.brk hslot).trans (afterFail_ring.2.trans hb)⟩
  · have ho : ∀ w, waitOutcome a bar.val w = .pass := fun w =>
      (waitOutcome_ring hring w).trans ((if_neg (by rw [hb]; decide)).trans (if_pos hf))
    have hfill : (v.afterPass (supId a) a.me).filled = v.filled - 1 := afterPass_filled hring
    refine ⟨fun hw => ?_, ?_⟩
    · obtain ⟨hmem, hme, hslot⟩ := after_pass a bar.val
      exact ⟨_, exec_barw_pass hc hr hg (ho true) hw, hmem, hme, (congrArg Slot.filled hslot).trans hfill⟩
    · obtain ⟨hmem, hme, hslot⟩ := after_give_pass a bar.val pd
      exact ⟨_, exec_barp_pass hc hg (ho false), hmem, (congrArg Slot.filled hslot).trans hfill, hme⟩
  · have ho : ∀ w, waitOutcome a bar.val w = .hold := fun w =>
      (waitOutcome_ring hring w).trans ((if_neg (by rw [hb]; decide)).trans (if_neg (by rw [hf]; decide)))
    obtain ⟨hmem, hblocks, hslot⟩ := block_hold s bar.val
    rw [← hv, afterHold_ring hring] at hslot
    exact ⟨gives_barp_hold hc hg (ho false), _, exec_barw_block hc hr hg (ho true), hmem, hslot, hblocks⟩

theorem barrierWaits_supervisor : Claims.SupervisorWaits := by
  intro gd sc bar pd s hc a id at_ v blocks hs hg hr hring
  have hv : v = getSlot s s.chiplet bar.val := getSlot_startCycle s bar.val
  have hid : id = supId a := rfl
  have hid' : supId s = id := by simp only [supId, id, a, startCycle_core, startCycle_ctx]
  have hs' : isSup s.issue.core = true := (startCycle_core s) ▸ hs
  have held : ∀ ph, waitOutcome a bar.val true = .hold →
      (v.afterHold true id bar.val s.me).supEntry id = some (ph, false) → blocks ph := fun ph ho he => by
    obtain ⟨hmem, hblocks, hslot⟩ := block_hold s bar.val
    rw [← hv, hs', hid'] at hslot
    exact ⟨_, exec_barw_block hc hr hg ho, hmem, hblocks, (congrArg (Slot.supEntry · id) hslot).trans he⟩
  refine ⟨gives_barp_hold hc hg (waitOutcome_supBarp hs hring), fun hn => ?_, fun ph hph => ⟨fun he => ?_, fun hne hlp hw => ?_,
    fun hne hlp => ?_⟩⟩
  · exact held _ (waitOutcome_supFirst hs hring hn) (afterHold_supEntry_new hring hn)
  · exact held _ ((waitOutcome_supAgain hs hring hph).trans (if_pos he)) (afterHold_supEntry_old hring hph)
  · have ho : waitOutcome a bar.val true = .pass :=
      (waitOutcome_supAgain hs hring hph).trans ((if_neg hne).trans (if_neg (by rw [hlp]; decide)))
    obtain ⟨hmem, hme, hslot⟩ := after_pass a bar.val
    exact ⟨_, exec_barw_pass hc hr hg ho hw, hmem, hme,
      (congrArg (Slot.supEntry · id) hslot).trans (afterPass_supEntry hring)⟩
  · have ho : waitOutcome a bar.val true = .fail :=
      (waitOutcome_supAgain hs hring hph).trans ((if_neg hne).trans (if_pos hlp))
    obtain ⟨hmem, hcause, hval, hslot⟩ := trap_fail s bar.val
    have hidd : supId (delivered s) = id := by rw [← hid']; simp only [supId, delivered_core, delivered_ctx]
    rw [hidd] at hslot
    exact ⟨_, exec_barw_fail hc hr hg ho, hmem, hcause, hval,
      (congrArg (Slot.supEntry · id) hslot).trans afterFail_supEntry⟩

/-- Settles O25: by what the wait finds at its slot. -/
theorem barrierWaits : Obligations.BarrierWaits :=
  ⟨barrierWaits_pass, barrierWaits_block, barrierWaits_fail, barrierWaits_ring, barrierWaits_supervisor⟩

end Sys2Proof.Machine
end


section
/-!
Node submission (O20) and near accesses (O28), which both fail in the same way: an error is reported to a context that has
blocked in place (R62, log 103), and the report ends its wait.
-/
namespace Sys2Proof.Machine

/-- The issuing context, changed by `f`, of a package at reset whose context 0 of core `c` keeps its core while its BARW at slot 0
is blocked. -/
def heldState (c : Nat) (f : Ctx → Ctx) : State :=
  let s : State := { State.reset with issue := { State.reset.issue with core := c, ctx := 0 } }
  modCtx s c 0 fun t => f { t with st := .current, blk := 4, barWait := some 0 }

/-! ## NSUB under an error (R156, R453) -/

/-- Context 0 of die 0's supervisor core, blocked in place, is about to submit the record at address 0, under which an error
stands. -/
def spoiltRecord : State := { heldState 64 id with poison := [vaultKey 0] }

theorem spoiltRecord_meets : clear alwaysRuns [gs ⟨1, false⟩] [] [] spoiltRecord = true ∧
    (val [gs ⟨1, false⟩] spoiltRecord 0).toNat = 0 ∧
    vaultPlace (startCycle spoiltRecord) (startCycle spoiltRecord).issue.core (startCycle spoiltRecord).issue.ctx 0 64 = some 0 ∧
    farOverlaps (startCycle spoiltRecord) (startCycle spoiltRecord).issue.core (startCycle spoiltRecord).issue.ctx (vaultKey 0) 64 = false ∧
    (startCycle spoiltRecord).fifo.length < 256 ∧ poisoned (startCycle spoiltRecord) (vaultKey 0) 64 = true ∧
    (startCycle spoiltRecord).me.st = .current := by decide

theorem nsub_spoiltRecord_barWait : (runGroup [opNsub alwaysRuns ⟨1, false⟩] spoiltRecord).me.barWait = none ∧
    (advanced (startCycle spoiltRecord) [gs ⟨1, false⟩]).barWait = some 0 := by decide

/-- Refutes O20: the report of an error under NSUB's record ends the wait of a context that has blocked in place, and so
changes more of it than its list of reports. -/
theorem not_submitAndRetire : ¬ Obligations.SubmitAndRetire := by
  rintro ⟨h, -⟩
  obtain ⟨hc, hv, hplace, hfar, hfifo, hbad, hst⟩ := spoiltRecord_meets
  have hs := h alwaysRuns ⟨1, false⟩ spoiltRecord 0 hc
  simp only [hv] at hs
  obtain ⟨t, i, ht, -, -, -, -, hme⟩ := (hs (by decide) (by decide) hplace hfar).2.1 hfifo hbad hst
  have hx : runGroup [opNsub alwaysRuns ⟨1, false⟩] spoiltRecord = t := Host.Outcome.next.inj ht
  have hw := congrArg Ctx.barWait hme
  rw [← hx, nsub_spoiltRecord_barWait.1] at hw
  exact absurd (hw.trans nsub_spoiltRecord_barWait.2) (by decide)

/-! ## A load under an error (R143, R453) -/

/-- Context 0 of core 0, blocked in place, with 4 KiB at the start of its vault granted to its group, is about to load the
word at address 0, under which an error stands. -/
def spoiltWord : State :=
  { heldState 0 (fun t => { t with group := 1 }) with
    tables := [((2, 0, 0), 2 ^ 48 + 2 ^ 33 + 1), ((2, 0, 1), 0)], poison := [vaultKey 0] }

theorem spoiltWord_meets : clear alwaysRuns [gs ⟨1, false⟩] [3] [] spoiltWord = true ∧
    ((((val [gs ⟨1, false⟩] spoiltWord 0).toNat : Int) + (0 : BitVec 9).toInt * ((2 ^ (3 : Fin 4).val : Nat) : Int)) %
      (2 ^ 64 : Int)).toNat = 0 ∧
    vaultPlace (startCycle spoiltWord) (startCycle spoiltWord).issue.core (startCycle spoiltWord).issue.ctx 0 (2 ^ (3 : Fin 4).val) = some 0 ∧
    isNear (startCycle spoiltWord).issue.core (0 % 2 ^ 33) = true ∧
    poisoned (landedView (startCycle spoiltWord)) (vaultKey 0) (2 ^ (3 : Fin 4).val) = true ∧
    (startCycle spoiltWord).me.st = .current := by decide

theorem ld_spoiltWord_barWait : (runGroup [opLd alwaysRuns 3 3 ⟨1, false⟩ 0] spoiltWord).me.barWait = none ∧
    (advanced (startCycle spoiltWord) [gs ⟨1, false⟩]).barWait = some 0 := by decide

/-- Refutes O28: the report of an error under a load ends the wait of a context that has blocked in place. -/
theorem not_nearAccesses : ¬ Obligations.NearAccesses := by
  rintro ⟨h, -⟩
  obtain ⟨hc, hv, hplace, hnear, hbad, hst⟩ := spoiltWord_meets
  have hs := h alwaysRuns 3 3 ⟨1, false⟩ 0 spoiltWord 0 hc
  simp only [hv] at hs
  obtain ⟨t, ht, -, hme⟩ := (hs ⟨by decide, by decide, hplace⟩ hnear).2.2 hbad hst false
  have hx : runGroup [opLd alwaysRuns 3 3 ⟨1, false⟩ 0] spoiltWord = t := Host.Outcome.next.inj ht
  have hw := congrArg Ctx.barWait hme
  rw [← hx, ld_spoiltWord_barWait.1] at hw
  exact absurd (hw.trans ld_spoiltWord_barWait.2) (by decide)

end Sys2Proof.Machine
end


section
/-!
Tables (O21, which fails past the end of the discovery table), system registers (O22), freezing and resuming (O27).
-/
namespace Sys2Proof.Machine

/-! ## TBLRD and TBLWR (R158) -/

/-- A read past the discovery table's nine words shows the PKG word, as word 8 does. -/
theorem tableRead_past_discovery : tableRead (tableWrite State.reset 64 8 8 1) 64 8 9 = 1 ∧
    tableRead State.reset 64 8 9 = 0 := by decide

/-- Refutes O21: a write of the PKG word, word 8 of table 8, changes what index 9, past the table, reads as. -/
theorem not_tableAccess : ¬ Obligations.TableAccess := by
  rintro ⟨-, h⟩
  have h9 := (h 64 8 8 1 State.reset (by decide) (by decide) (by decide) (by decide)).2.1 9 (by decide) (by decide)
  exact absurd (tableRead_past_discovery.1.symm.trans (h9.trans tableRead_past_discovery.2)) (by decide)

/-! ## The values of the system registers (R10, R17, R20, R69, R70, R336) -/

section SysRead
variable (s : State) (c x : Nat)

theorem toNat_ofNat64 {n : Nat} (h : n < 2 ^ 64) : (BitVec.ofNat 64 n).toNat = n := by
  rw [BitVec.toNat_ofNat, Nat.mod_eq_of_lt h]

theorem toNat_sysRead_xstatus : (sysRead s c x .xstatus).toNat =
    ((getCtx s c x).flags &&& flagsWritable).toNat * 256 + (getCtx s c x).rplp.toNat * 16
      + (decide ((getCtx s c x).ilk ≠ 0)).toNat * 8 + (decide ((getCore s c).owner = .ctx x)).toNat * 4 + (isSup c).toNat := by
  have hf := ((getCtx s c x).flags &&& flagsWritable).isLt
  have hb : ∀ b : Bool, b.toNat ≤ 1 := Bool.toNat_le
  have h1 := hb (getCtx s c x).rplp
  have h2 := hb (decide ((getCtx s c x).ilk ≠ 0))
  have h3 := hb (decide ((getCore s c).owner = .ctx x))
  have h4 := hb (isSup c)
  have hv : xstatusVal s c x = ((getCtx s c x).flags &&& flagsWritable).toNat * 256 + (getCtx s c x).rplp.toNat * 16
      + (decide ((getCtx s c x).ilk ≠ 0)).toNat * 8 + (decide ((getCore s c).owner = .ctx x)).toNat * 4 + (isSup c).toNat := by
    have hs : (if isSup c then 1 else 0) = (isSup c).toNat := by cases isSup c <;> rfl
    have hi : ((getCtx s c x).ilk != 0) = decide ((getCtx s c x).ilk ≠ 0) := by
      rw [Bool.eq_iff_iff, bne_iff_ne, decide_eq_true_iff]
    have ho : ((getCore s c).owner == .ctx x) = decide ((getCore s c).owner = .ctx x) := by
      rw [Bool.eq_iff_iff, beq_iff_eq, decide_eq_true_iff]
    rw [← hs, ← hi, ← ho]
    rfl
  have hr : sysRead s c x .xstatus = BitVec.ofNat 64 (xstatusVal s c x) := rfl
  rw [hr, hv, toNat_ofNat64]
  omega

theorem toNat_sysRead_xctx : (sysRead s c x .xctx).toNat = (getCtx s c x).group % 65536 * 2 ^ 32
    + (getCtx s c x).rank % 256 * 2 ^ 24 + (getCtx s c x).tbase % 256 * 2 ^ 16 + (getCtx s c x).tcnt % 256 * 2 ^ 8 + x % 4 := by
  have hr : sysRead s c x .xctx = BitVec.ofNat 64 (xctxVal (getCtx s c x) x) := rfl
  rw [hr, toNat_ofNat64]
  · rfl
  · unfold xctxVal
    omega

theorem sysRead_xrpl_fields : let v := (sysRead s c x .xrpl).toNat
    bits v 25 16 = (getCtx s c x).rplLast % 1024 ∧ bits v 9 0 = s.issue.rpl % 1024 ∧ bits v 15 10 = 0 ∧ bits v 63 26 = 0 := by
  have hr : sysRead s c x .xrpl = BitVec.ofNat 64 (xrplVal s (getCtx s c x)) := rfl
  have hlt : xrplVal s (getCtx s c x) < 2 ^ 64 := by unfold xrplVal; omega
  intro v
  have hv : v = (getCtx s c x).rplLast % 1024 * 2 ^ 16 + s.issue.rpl % 1024 := by
    simp only [v, hr, toNat_ofNat64 hlt]
    rfl
  rw [hv]
  unfold bits
  omega

theorem toNat_sysRead_xlnt : (sysRead s c x .xlnt).toNat =
    (getCore s c).lantern.pc % 512 * 2 ^ 39 + (getCore s c).lantern.cause % 256 * 2 ^ 24
      + (getCore s c).lantern.endCode % 4 * 2 ^ 16 + (getCore s c).lantern.bar % 1024 * 2 ^ 6
      + (getCore s c).lantern.owner % 4 * 4 + (decide ((getCore s c).lantern.owner = x)).toNat * 2
      + (getCore s c).lanternOn.toNat := by
  have hr : sysRead s c x .xlnt = BitVec.ofNat 64 (xlntVal (getCore s c) x) := rfl
  have h1 := Bool.toNat_le ((getCore s c).lantern.owner == x)
  have h2 := Bool.toNat_le (getCore s c).lanternOn
  rw [hr, toNat_ofNat64]
  · rfl
  · unfold xlntVal
    dsimp only
    omega

theorem toNat_sysRead_xcore (hd : c / 65 < 16) (hp : tabGet s 8 0 8 < 64) : (sysRead s c x .xcore).toNat =
    tabGet s 8 0 8 * 2 ^ 26 + c / 65 * 2 ^ 22 + if c % 65 = 64 then 2 ^ 21 else c % 65 * 2 ^ 15 := by
  have hr : sysRead s c x .xcore = BitVec.ofNat 64 (xcoreVal s c) := rfl
  have hv : xcoreVal s c = tabGet s 8 0 8 * 2 ^ 26 + c / 65 * 2 ^ 22 + if c % 65 = 64 then 2 ^ 21 else c % 65 * 2 ^ 15 := by
    simp only [xcoreVal, pkgIndex, dieBits, dieOf, isSup, beq_iff_eq]
  rw [hr, hv, toNat_ofNat64]
  split <;> omega

theorem scopeWord_low {n : Nat} (h : n < 6) {q : Nat × Nat × Nat} (hq : scopeCosts[n]? = some q) :
    scopeWord s n = q.2.2 * 2 ^ 48 + q.2.1 * 2 ^ 32 + q.1 * 2 ^ 16 + 2 ^ 7 + n := by
  rw [scopeWord, if_pos h, List.getD_eq_getElem?_getD, hq]
  rfl

theorem scopeCosts_lt {n : Nat} {q : Nat × Nat × Nat} (hq : scopeCosts[n]? = some q) :
    q.1 < 2 ^ 16 ∧ q.2.1 < 2 ^ 16 ∧ q.2.2 < 2 ^ 15 := by
  have h : ∀ q ∈ scopeCosts, q.1 < 2 ^ 16 ∧ q.2.1 < 2 ^ 16 ∧ q.2.2 < 2 ^ 15 := by decide
  exact h q (List.mem_of_getElem? hq)

theorem toNat_sysRead_scope_low {n : Fin 8} (h : n.val < 6) {q : Nat × Nat × Nat} (hq : scopeCosts[n.val]? = some q) :
    (sysRead s c x (.xscope n)).toNat = q.2.2 * 2 ^ 48 + q.2.1 * 2 ^ 32 + q.1 * 2 ^ 16 + 2 ^ 7 + n.val := by
  have hn : n ≠ 7 := fun e => absurd (congrArg Fin.val e) (by simp; omega)
  have hr : sysRead s c x (.xscope n) = BitVec.ofNat 64 (scopeWord s n.val) := by rw [sysRead, if_neg hn]
  obtain ⟨h1, h2, h3⟩ := scopeCosts_lt hq
  rw [hr, scopeWord_low s h hq, toNat_ofNat64]
  omega

theorem toNat_sysRead_scope6 {n : Fin 8} (h : n.val = 6) : (sysRead s c x (.xscope n)).toNat =
    bits (tabGet s 8 0 6) 63 16 * 2 ^ 16 + bits (tabGet s 8 0 6) 7 7 * 2 ^ 7 + 6 := by
  have hn : n ≠ 7 := fun e => absurd (congrArg Fin.val e) (by simp; omega)
  have hr : sysRead s c x (.xscope n) = BitVec.ofNat 64 (scopeWord s 6) := by rw [sysRead, if_neg hn, h]
  have hv : scopeWord s 6 = bits (tabGet s 8 0 6) 63 16 * 2 ^ 16 + bits (tabGet s 8 0 6) 7 7 * 2 ^ 7 + 6 := rfl
  rw [hr, hv, toNat_ofNat64]
  unfold bits
  omega

theorem sysRead_scope7 {n m : Fin 8} (hn : n.val = 7) (hm : m.val < 7) (hg : (getCtx s c x).gsc = m.val) :
    sysRead s c x (.xscope n) = sysRead s c x (.xscope m) := by
  have hn' : n = 7 := Fin.ext hn
  have hm' : m ≠ 7 := fun e => absurd (congrArg Fin.val e) (by simp; omega)
  have hg' : ((getCore s c).get x).gsc = m.val := hg
  simp only [sysRead, hn', hm', if_true, if_false, hg']

end SysRead

/-- Every system register read, XRD included. -/
theorem systemRegisterReads : Claims.SystemRegisterReads := by
  intro gd d xn s a read
  refine ⟨fun hc => ?_, toNat_sysRead_xstatus a _ _, rfl, rfl, rfl, rfl, rfl, rfl, ?_, rfl, rfl, rfl, rfl, rfl,
    toNat_sysRead_xctx a _ _, ?_⟩
  · exact gives_of_goes (o := opXrd gd d xn) rfl (goes_of_clear hc rfl (scoreboard_nil _) rfl rfl rfl rfl rfl) rfl fun _ _ => rfl
  · exact BitVec.eq_of_toNat_eq (by simp [read, sysRead, State.me, getCtx])
  · obtain ⟨h1, h2, h3, h4⟩ := sysRead_xrpl_fields a a.issue.core a.issue.ctx
    refine ⟨h1, h2, h3, h4, toNat_sysRead_xlnt a _ _, toNat_sysRead_xcore a _ _, fun n => ⟨fun hn c hq => ?_, ?_, ?_⟩⟩
    · exact toNat_sysRead_scope_low a _ _ hn hq
    · exact toNat_sysRead_scope6 a _ _
    · exact fun hn m hm hg => sysRead_scope7 a _ _ hn hm hg

/-! ## XWR (R67, R159) -/

section Xwr
variable {gd : Guard} {r : GSrc} {xn : SysReg}

theorem opXwr_traps (a : State) (v : List Word) : (opXwr gd r xn).traps a v =
    trapIf (privReg xn && !(isSup a.issue.core)) ⟨1, causePRIV, openVal a⟩ := rfl

theorem opXwr_effect_xstatus (a : State) (v : List Word) (t : State) :
    (opXwr gd r .xstatus).effect a v t = give t 0 (.xstatus ((operand v 0).extractLsb' 8 10)) 0 := by
  have h : BitVec.ofNat 10 (bits (operand v 0).toNat 17 8) = (operand v 0).extractLsb' 8 10 :=
    BitVec.eq_of_toNat_eq (by simp [bits, Nat.shiftRight_eq_div_pow])
  have he : (opXwr gd r .xstatus).effect a v t =
      give t 0 (.xstatus (BitVec.ofNat 10 (bits (operand v 0).toNat 17 8))) 0 := rfl
  rw [he, h]

theorem opXwr_effect_xepc (a : State) (v : List Word) (t : State) : (opXwr gd r .xepc).effect a v t =
    if isSup a.issue.core then give t 0 (.xepc (operand v 0)) 0 else t := rfl

theorem opXwr_effect_other (h1 : xn ≠ .xstatus) (h2 : xn ≠ .xepc) (a : State) (v : List Word) (t : State) :
    (opXwr gd r xn).effect a v t = t := by
  cases xn with
  | xstatus => exact absurd rfl h1
  | xepc => exact absurd rfl h2
  | _ => rfl

theorem goes_xwr {s : State} (hc : clear gd [gs r] [] [] s = true)
    (h : (privReg xn && !(isSup (startCycle s).issue.core)) = false) : goes (opXwr gd r xn) s = true :=
  goes_of_clear hc rfl (scoreboard_nil _) rfl rfl ((opXwr_traps _ _).trans (by rw [h]; rfl)) rfl rfl

end Xwr

theorem systemRegisterWrites : Claims.SystemRegisterWrites := by
  intro gd r xn s hc a v
  refine ⟨?_, fun hs => ?_, fun hs => ?_, fun h1 h2 hp => ?_, fun hp hs => ?_⟩
  · exact gives_of_goes (o := opXwr gd r .xstatus) rfl (goes_xwr hc rfl) rfl fun t _ => opXwr_effect_xstatus _ _ t
  · exact gives_of_goes (o := opXwr gd r .xepc) rfl (goes_xwr hc rfl) rfl fun t _ =>
      (opXwr_effect_xepc _ _ t).trans (if_pos hs)
  · exact issuesAs_of_idle (o := opXwr gd r .xepc) (srcs := [gs r]) (g := none) rfl (goes_xwr hc rfl) rfl rfl fun t =>
      (opXwr_effect_xepc _ _ t).trans (if_neg (by rw [hs]; decide))
  · have hpriv : (privReg xn && !(isSup a.issue.core)) = false := by
      rcases hp with hp | hp <;> rw [hp]
      · rfl
      · exact Bool.and_false _
    exact issuesAs_of_idle (o := opXwr gd r xn) (srcs := [gs r]) (g := none) rfl (goes_xwr hc hpriv) rfl rfl fun t =>
      opXwr_effect_other h1 h2 _ _ t
  · exact ⟨_, exec_trap (o := opXwr gd r xn) rfl hc rfl (scoreboard_nil _) rfl rfl
      ((opXwr_traps _ _).trans (by rw [hp, hs]; rfl)) fun _ => rfl,
      (takeTrap_me_registers _ _ _ _ _ _ (delivered_core s) (delivered_ctx s)).1⟩

/-- Settles O22: register by register. -/
theorem systemRegisters : Obligations.SystemRegisters := ⟨systemRegisterReads, systemRegisterWrites⟩

/-! ## Groups of one operation whose first trap, or whose kick, is known -/

section OneOperation
variable {i : Instr} {o : Op} {s : State}

theorem exec_trap_first {r : Trap} {rs : List Trap} (hx : exec i s = runOne o s)
    (h : clear o.guard o.srcs o.dsts o.pushes s = true) (h1 : o.decode (startCycle s) = none)
    (h2 : scoreboard (startCycle s).myCore (o.tileR (startCycle s)) (o.tileW (startCycle s)) = false)
    (h3 : o.stall (startCycle s) (srcVals o.srcs (startCycle s)) = false)
    (h4 : o.empty (startCycle s) (srcVals o.srcs (startCycle s)) = false)
    (h5 : o.traps (startCycle s) (srcVals o.srcs (startCycle s)) = r :: rs) (hr : ∀ q ∈ rs, r.step ≤ q.step)
    (h6 : ∀ u, o.onTrap r.cause u = u) :
    exec i s = .next (takeTrap (delivered s) s.issue.core s.issue.ctx r.cause r.tval s.issue.addr) := by
  have hf : firstTrap ((r :: rs).map (trapPlace (startCycle s) o.slot)) = some (trapPlace (startCycle s) o.slot r) :=
    firstTrap_map (xs := []) (fun _ hq => absurd hq List.not_mem_nil) hr
  have hj : judge [o] (startCycle s) = .trap r.cause r.tval (o.onTrap r.cause) := by
    rw [judge_clear h h1, verdictOf, h2, h3, h4, h5, hf]
    rfl
  rw [hx, runOne, runGroup_of_trap (clear_rowLate h) hj, h6]

theorem exec_kick {f : State → State} (hx : exec i s = runOne o s) (h : clear o.guard o.srcs o.dsts o.pushes s = true)
    (h1 : o.decode (startCycle s) = none)
    (h2 : scoreboard (startCycle s).myCore (o.tileR (startCycle s)) (o.tileW (startCycle s)) = false)
    (h3 : o.stall (startCycle s) (srcVals o.srcs (startCycle s)) = false)
    (h4 : o.empty (startCycle s) (srcVals o.srcs (startCycle s)) = false)
    (h5 : o.traps (startCycle s) (srcVals o.srcs (startCycle s)) = [])
    (h6 : groupBlock (startCycle s) [⟨o, srcVals o.srcs (startCycle s), []⟩] = none)
    (h7 : o.kick (startCycle s) (srcVals o.srcs (startCycle s)) = some f) : exec i s = .next (f (stallGroup s)) := by
  have hj : judge [o] (startCycle s) = .wait f := by
    rw [judge_clear h h1, verdictOf, h2, h3, h4, h5, h6, h7]
    rfl
  rw [hx, runOne, runGroup, clear_rowLate h, hj]
  rfl

/-! The same with the sources of the operation written out: their values then stand in the goals as they do in a claim. -/

variable {srcs : List Src} {dsts : List (Fin 32)} {pushes : List (Fin 8)} (hx : exec i s = runOne o s)
  (h : clear o.guard srcs dsts pushes s = true) (hs : o.srcs = srcs) (hd : o.dsts = dsts) (hp : o.pushes = pushes)
  (h1 : o.decode (startCycle s) = none)
  (h2 : scoreboard (startCycle s).myCore (o.tileR (startCycle s)) (o.tileW (startCycle s)) = false)
  (h3 : o.stall (startCycle s) (srcVals srcs (startCycle s)) = false)
  (h4 : o.empty (startCycle s) (srcVals srcs (startCycle s)) = false)
include h hs hd hp h1 h2 h3 h4

theorem goes_of_srcs (h5 : o.traps (startCycle s) (srcVals srcs (startCycle s)) = [])
    (h6 : o.block (startCycle s) (srcVals srcs (startCycle s)) = none)
    (h7 : o.kick (startCycle s) (srcVals srcs (startCycle s)) = none) (h8 : o.aqs = 0) : goes o s = true := by
  subst hs hd hp
  exact goes_of_clear h h1 h2 h3 h4 h5 h6 h7 h8

include hx

theorem exec_trap_of_srcs {step cause tval : Nat}
    (h5 : o.traps (startCycle s) (srcVals srcs (startCycle s)) = [⟨step, cause, tval⟩]) (h6 : ∀ u, o.onTrap cause u = u) :
    exec i s = .next (takeTrap (delivered s) s.issue.core s.issue.ctx cause tval s.issue.addr) := by
  subst hs hd hp
  exact exec_trap hx h h1 h2 h3 h4 h5 h6

end OneOperation

/-! ## CTXFRZ (R149, R387) -/

theorem selectorOk_iff {v : Nat} (h : v < 2 ^ 64) :
    selectorOk v = true ↔ v < 2 ^ 26 ∧ v / 2 ^ 21 % 2 = 0 ∧ v / 4 % 2 ^ 13 = 0 := by
  simp only [selectorOk, bits, Bool.and_eq_true, beq_iff_eq, and_assoc]
  have h1 : v / 2 ^ 26 % 2 ^ (63 + 1 - 26) = 0 ↔ v < 2 ^ 26 := by omega
  exact and_congr h1 Iff.rfl

theorem selectorTraps_ok {a : State} {v : Nat} (hs : isSup a.issue.core = true) (h : selectorOk v = true) :
    selectorTraps a v = [] := by
  simp [selectorTraps, hs, h]

theorem selectorTraps_bad {a : State} {v : Nat} (hs : isSup a.issue.core = true) (h : selectorOk v = false) :
    selectorTraps a v = [⟨4, causeRESERVED, openVal a⟩] := by
  simp [selectorTraps, hs, h]

theorem selectorTraps_compute {a : State} (hs : isSup a.issue.core = false) (v : Nat) :
    selectorTraps a v = [⟨1, causePRIV, openVal a⟩] := by
  simp [selectorTraps, hs]

/-- Every context of the group is Frozen or has retired. -/
theorem allFrozen_iff (a : State) (g : Group) : allFrozen a g = true ↔
    ∀ p ∈ g.places, (getCtx a p.core p.ctx).st = .frozen ∨ (getCtx a p.core p.ctx).st = .retired := by
  rw [allFrozen, List.all_eq_true]
  refine forall_congr' fun p => forall_congr' fun _ => ?_
  cases (getCtx a p.core p.ctx).st <;> simp

section FreezeDone
variable {a : State} {v : Nat}

theorem freezeDone_none (h : groupOf a (getCtx a (selected v).1 (selected v).2).group = none) : freezeDone a v = true := by
  simp [freezeDone, selectedGroup, h]

theorem freezeDone_some {g : Group} (h : groupOf a (getCtx a (selected v).1 (selected v).2).group = some g) :
    freezeDone a v = true ↔ (getCtx a (selected v).1 (selected v).2).st = .free ∨ g.st = .frozen ∨ allFrozen a g = true ∨
      (a.me.frzAt = none ∧ ((getCtx a (selected v).1 (selected v).2).st = .frozen ∨
        (getCtx a (selected v).1 (selected v).2).st = .retired)) := by
  simp only [freezeDone, selectedGroup, h, Bool.or_eq_true, Bool.and_eq_true, beq_iff_eq, Option.isNone_iff_eq_none, or_assoc]

end FreezeDone

/-- The context waits for no freeze. -/
def Ctx.freezeOver (t : Ctx) : Ctx := { t with frzAt := none }

theorem countCycle_freezeOver (a : State) (srcs : List Src) :
    countCycle a (moveOn (srcPops srcs a) (flow a.me a.issue.next none) a.me).freezeOver =
      { advanced a srcs with frzAt := none } := rfl

section Ctxfrz
variable {gd : Guard} {r : GSrc}

theorem opCtxfrz_traps (a : State) (v : List Word) :
    (opCtxfrz gd r).traps a v = selectorTraps a (operand v 0).toNat := rfl

theorem opCtxfrz_kick_done {a : State} {v : List Word} (h : freezeDone a (operand v 0).toNat = true) :
    (opCtxfrz gd r).kick a v = none := if_pos h

theorem opCtxfrz_kick_waits {a : State} {v : List Word} {g : Group} (h : freezeDone a (operand v 0).toNat = false)
    (hg : selectedGroup a (operand v 0).toNat = some g) : (opCtxfrz gd r).kick a v = some (waitFreeze g.gid) := by
  have hk : (opCtxfrz gd r).kick a v = (selectedGroup a (operand v 0).toNat).map fun g => waitFreeze g.gid :=
    if_neg (by rw [h]; decide)
  rw [hk, hg]
  rfl

variable {s : State} (hc : clear gd [gs r] [] [] s = true) (hs : isSup (startCycle s).issue.core = true)
  (hv : selectorOk (val [gs r] s 0).toNat = true)
include hc hs hv

theorem issuesAs_ctxfrz (h : freezeDone (startCycle s) (val [gs r] s 0).toNat = true) :
    IssuesAs (.ctxfrz gd r) s { advanced (startCycle s) [gs r] with frzAt := none } := by
  have hg : goes (opCtxfrz gd r) s = true :=
    goes_of_clear hc rfl (scoreboard_nil _) rfl rfl ((opCtxfrz_traps _ _).trans (selectorTraps_ok hs hv)) rfl
      (opCtxfrz_kick_done h)
  have hr := issuesAs_of_effect (i := .ctxfrz gd r) (o := opCtxfrz gd r) (srcs := [gs r]) (g := none)
    (f := Ctx.freezeOver) rfl hg rfl rfl (fun _ _ _ => rfl) fun _ hl => hl
  rw [countCycle_freezeOver] at hr
  exact hr

theorem exec_ctxfrz_waits {g : Group} (h : freezeDone (startCycle s) (val [gs r] s 0).toNat = false)
    (hg : selectedGroup (startCycle s) (val [gs r] s 0).toNat = some g) :
    exec (.ctxfrz gd r) s = .next (waitFreeze g.gid (stallGroup s)) :=
  exec_kick (o := opCtxfrz gd r) rfl hc rfl (scoreboard_nil _) rfl rfl
    ((opCtxfrz_traps _ _).trans (selectorTraps_ok hs hv)) rfl (opCtxfrz_kick_waits h hg)

end Ctxfrz

/-! ## CTXRES (R149, R341, R392) -/

/-- A resume reaches the context of a group. -/
def Ctx.resumedBy (gid : Nat) (t : Ctx) : Ctx := if t.group = gid ∧ t.st = .frozen then { t with st := .resuming } else t

theorem resumedBy_twice (gid : Nat) (t : Ctx) : (t.resumedBy gid).resumedBy gid = t.resumedBy gid := by
  unfold Ctx.resumedBy
  by_cases h : t.group = gid ∧ t.st = .frozen
  · rw [if_pos h, if_neg (by simp)]
  · rw [if_neg h, if_neg h]

theorem getCtx_resumePlaces (gid c x : Nat) : ∀ (ps : List Place) (s : State),
    getCtx (ps.foldl (fun s p => modCtx s p.core p.ctx (Ctx.resumedBy gid)) s) c x =
      if ps.any (standsAt c x) then (getCtx s c x).resumedBy gid else getCtx s c x
  | [], s => rfl
  | p :: ps, s => by
    rw [List.foldl_cons, getCtx_resumePlaces gid c x ps]
    by_cases hp : p.core = c ∧ p.ctx % 4 = x % 4
    · have hm : getCtx (modCtx s p.core p.ctx (Ctx.resumedBy gid)) c x = (getCtx s c x).resumedBy gid := by
        rw [hp.1, modCtx_mod s c _ hp.2, getCtx_modCtx_self]
      rw [hm, resumedBy_twice]
      simp [standsAt, hp]
    · have hne : c ≠ p.core ∨ x % 4 ≠ p.ctx % 4 := by
        by_cases hcp : c = p.core
        · exact .inr fun hx => hp ⟨hcp.symm, hx.symm⟩
        · exact .inl hcp
      rw [getCtx_modCtx_ne s _ hne]
      simp [standsAt, hp]

/-- A resume of a group that is not frozen begins nothing. -/
theorem beginResume_idle {s : State} {gid : Nat} (h : (groupOf s gid).any (fun g => g.st == .frozen) = false) :
    beginResume s gid = s := by
  unfold beginResume
  split
  · rfl
  · next g hg => rw [if_neg (by simpa [hg] using h)]

theorem beginResume_frozen {s : State} {gid : Nat} {g : Group} (hg : groupOf s gid = some g) (hst : g.st = .frozen) :
    beginResume s gid = modGroup (g.places.foldl (fun s p => modCtx s p.core p.ctx (Ctx.resumedBy gid)) s) gid
      fun g => { g with st := .resuming } := by
  unfold beginResume
  rw [hg]
  exact if_pos hst

theorem getCtx_resumeGroup_frozen {s : State} {gid : Nat} {g : Group} (hg : groupOf s gid = some g) (hst : g.st = .frozen)
    (c x : Nat) : getCtx (resumeGroup s gid) c x =
      if g.places.any (standsAt c x) then (getCtx s c x).resumedBy gid else getCtx s c x := by
  have h : getCtx (resumeGroup s gid) c x = getCtx (beginResume s gid) c x := rfl
  rw [h, beginResume_frozen hg hst]
  exact getCtx_resumePlaces gid c x g.places s

theorem quiet_resumePlaces (gid : Nat) (ps : List Place) (s : State) :
    Quiet s (ps.foldl (fun s p => modCtx s p.core p.ctx (Ctx.resumedBy gid)) s) :=
  Quiet.foldl (fun s (p : Place) => quiet_modCtx s p.core p.ctx _) ps s

theorem resumeGroup_mem {s : State} {gid : Nat} {g : Group} (hg : groupOf s gid = some g) (hst : g.st = .frozen) :
    (resumeGroup s gid).mem = s.mem ∧ (resumeGroup s gid).issue = s.issue := by
  have h : (resumeGroup s gid).mem = (beginResume s gid).mem ∧ (resumeGroup s gid).issue = (beginResume s gid).issue :=
    ⟨rfl, rfl⟩
  rw [h.1, h.2, beginResume_frozen hg hst]
  exact ⟨(quiet_resumePlaces ..).mem, (quiet_resumePlaces ..).issue⟩

/-- The first group of a number, changed by `f`, which keeps the number. -/
theorem groupOf_modGroup {s : State} {gid : Nat} {g : Group} {f : Group → Group} (hg : groupOf s gid = some g)
    (hf : ∀ h : Group, (f h).gid = h.gid) : groupOf (modGroup s gid f) gid = some (f g) := by
  have hmap : ∀ (l : List Group), l.find? (fun h => h.gid == gid) = some g →
      (l.map fun h => if h.gid = gid then f h else h).find? (fun h => h.gid == gid) = some (f g) := by
    intro l
    induction l with
    | nil => exact fun h => absurd h (by simp)
    | cons h l ih =>
      intro hl
      by_cases he : h.gid = gid
      · have hgh : h = g := by simpa [he] using hl
        subst hgh
        simp [he, hf]
      · rw [List.find?_cons_of_neg (by simpa using he)] at hl
        rw [List.map_cons, if_neg he, List.find?_cons_of_neg (by simpa using he)]
        exact ih hl
  exact hmap s.groups hg

theorem groupOf_resumeGroup {s : State} {gid : Nat} {g : Group} (hg : groupOf s gid = some g) (hst : g.st = .frozen) :
    groupOf (resumeGroup s gid) gid = some { g with st := .resuming } := by
  have h : groupOf (resumeGroup s gid) gid = groupOf (beginResume s gid) gid := rfl
  have hq : groupOf (g.places.foldl (fun s p => modCtx s p.core p.ctx (Ctx.resumedBy gid)) s) gid = some g := by
    rw [groupOf, (quiet_resumePlaces ..).groups]
    exact hg
  rw [h, beginResume_frozen hg hst]
  exact groupOf_modGroup (f := fun g => { g with st := .resuming }) hq fun _ => rfl

theorem resumedBy_loopn (gid : Nat) (t : Ctx) : (t.resumedBy gid).loopn = t.loopn := by
  unfold Ctx.resumedBy
  split <;> rfl

/-- A resume changes no LOOPN. -/
theorem resumeGroup_loopn (s : State) (gid : Nat) : (resumeGroup s gid).me.loopn = s.me.loopn := by
  cases hg : (groupOf s gid).filter fun g => g.st == .frozen with
  | none =>
    have hb : beginResume s gid = s := beginResume_idle (by
      cases h : groupOf s gid with
      | none => rfl
      | some g => simpa [h, Option.filter] using hg)
    have hm : (resumeGroup s gid).me = (beginResume s gid).me := rfl
    rw [hm, hb]
  | some g =>
    obtain ⟨hg', hst⟩ : groupOf s gid = some g ∧ g.st = .frozen := by
      cases h : groupOf s gid with
      | none => rw [h] at hg; exact absurd hg (by simp)
      | some g' =>
        by_cases hf : g'.st = .frozen
        · have : g' = g := by simpa [h, Option.filter, hf] using hg
          exact ⟨by rw [this], this ▸ hf⟩
        · exact absurd hg (by simp [h, Option.filter, hf])
    have hm : (resumeGroup s gid).me = getCtx (resumeGroup s gid) s.issue.core s.issue.ctx := by
      rw [State.me, (resumeGroup_mem hg' hst).2]
    rw [hm, getCtx_resumeGroup_frozen hg' hst]
    split
    · exact resumedBy_loopn _ _
    · rfl

section Ctxres
variable {gd : Guard} {r : GSrc} {a : State} {v : List Word}

/-- The trap of a save image of another version (R342). -/
def versionTraps (w : Option Nat) : List Trap :=
  match w with
  | some w => [⟨4, causeRESERVED, w⟩]
  | none => []

theorem versionTraps_step (w : Option Nat) : ∀ q ∈ versionTraps w, 1 ≤ q.step := by
  cases w with
  | none => exact fun q hq => absurd hq List.not_mem_nil
  | some w =>
    intro q hq
    rw [List.mem_singleton.mp hq]
    exact Nat.le_add_left 1 3

/-- The group that a CTXRES resumes, or does nothing where there is none. -/
def resumeIf (g : Option Group) (t : State) : State :=
  match g with
  | some g => resumeGroup t g.gid
  | none => t

theorem opCtxres_traps_compute (h : isSup a.issue.core = false) : (opCtxres gd r).traps a v =
    ⟨1, causePRIV, openVal a⟩ :: versionTraps ((resumable a (operand v 0).toNat).bind (badVersion a)) := by
  have ht : (opCtxres gd r).traps a v = selectorTraps a (operand v 0).toNat ++
      versionTraps ((resumable a (operand v 0).toNat).bind (badVersion a)) := rfl
  rw [ht, selectorTraps_compute h]
  rfl

theorem opCtxres_traps_sup {g : Option Group} (h : selectorTraps a (operand v 0).toNat = [])
    (hg : resumable a (operand v 0).toNat = g) : (opCtxres gd r).traps a v = versionTraps (g.bind (badVersion a)) := by
  have ht : (opCtxres gd r).traps a v = selectorTraps a (operand v 0).toNat ++
      versionTraps ((resumable a (operand v 0).toNat).bind (badVersion a)) := rfl
  rw [ht, h, hg]
  rfl

theorem opCtxres_effect {g : Option Group} (hg : resumable a (operand v 0).toNat = g) (t : State) :
    (opCtxres gd r).effect a v t = resumeIf g t := by
  subst hg
  rfl

theorem resumeIf_loopn (g : Option Group) (t : State) : (resumeIf g t).me.loopn = t.me.loopn := by
  cases g with
  | none => rfl
  | some g => exact resumeGroup_loopn t g.gid

variable {s : State} (hc : clear gd [gs r] [] [] s = true)
include hc

theorem exec_ctxres_compute (h : isSup (startCycle s).issue.core = false) :
    exec (.ctxres gd r) s = .next (takeTrap (delivered s) s.issue.core s.issue.ctx causePRIV (openVal (startCycle s))
      s.issue.addr) :=
  exec_trap_first (o := opCtxres gd r) (r := ⟨1, causePRIV, openVal (startCycle s)⟩) rfl hc rfl (scoreboard_nil _) rfl rfl
    (opCtxres_traps_compute h) (versionTraps_step _) fun _ => rfl

variable {g : Option Group} (hsel : selectorTraps (startCycle s) (val [gs r] s 0).toNat = [])
  (hg : resumable (startCycle s) (val [gs r] s 0).toNat = g)
include hsel hg

theorem exec_ctxres_version {w : Nat} (hw : g.bind (badVersion (startCycle s)) = some w) :
    exec (.ctxres gd r) s = .next (takeTrap (delivered s) s.issue.core s.issue.ctx causeRESERVED w s.issue.addr) := by
  unfold val at hsel hg
  have ht := opCtxres_traps_sup (gd := gd) (r := r) hsel hg
  rw [hw, versionTraps] at ht
  exact exec_trap_of_srcs (o := opCtxres gd r) rfl hc rfl rfl rfl rfl (scoreboard_nil _) rfl rfl ht fun _ => rfl

theorem runs_ctxres (hw : g.bind (badVersion (startCycle s)) = none) :
    Runs (.ctxres gd r) s [gs r] none fun _ t => resumeIf g t := by
  unfold val at hsel hg
  have ht := opCtxres_traps_sup (gd := gd) (r := r) hsel hg
  rw [hw, versionTraps] at ht
  have hgo : goes (opCtxres gd r) s = true := 
    goes_of_srcs hc rfl rfl rfl rfl (scoreboard_nil _) rfl rfl ht rfl rfl rfl
  have he : ∀ t, (opCtxres gd r).effect (startCycle s) (srcVals [gs r] (startCycle s)) t = resumeIf g t :=
    opCtxres_effect hg
  have hx := exec_of_effect (i := .ctxres gd r) (o := opCtxres gd r) (srcs := [gs r]) (g := none) rfl hgo rfl rfl
    fun t _ _ hl => by
      rw [he, resumeIf_loopn]
      exact hl
  rw [he] at hx
  exact hx

omit hg in
theorem issuesAs_ctxres_none (hg : resumable (startCycle s) (val [gs r] s 0).toNat = none) :
    IssuesAs (.ctxres gd r) s (advanced (startCycle s) [gs r]) := by
  have hx := runs_ctxres (gd := gd) hc hsel hg (Option.bind_none _)
  simp only [resumeIf] at hx
  exact issuesAs_of_runs_idle hx

omit hg in
theorem runs_ctxres_some {g : Group} (hg : resumable (startCycle s) (val [gs r] s 0).toNat = some g)
    (hw : badVersion (startCycle s) g = none) :
    Runs (.ctxres gd r) s [gs r] none fun _ t => resumeGroup t g.gid := by
  have hx := runs_ctxres (gd := gd) hc hsel hg ((Option.bind_some ..).trans hw)
  simp only [resumeIf] at hx
  exact hx

end Ctxres

section Resumable
variable {a : State} {v : Nat}

theorem resumable_none (h : (getCtx a (selected v).1 (selected v).2).st ≠ .frozen ∨
    ∀ g, groupOf a (getCtx a (selected v).1 (selected v).2).group = some g → g.st ≠ .frozen) : resumable a v = none := by
  unfold resumable
  split
  · next hst =>
    have hg := h.resolve_left fun hn => hn hst
    rw [selectedGroup]
    cases hgr : groupOf a (getCtx a (selected v).1 (selected v).2).group with
    | none => rfl
    | some g => simp [Option.filter, hg g hgr]
  · rfl

theorem resumable_some {g : Group} (hst : (getCtx a (selected v).1 (selected v).2).st = .frozen)
    (hg : groupOf a (getCtx a (selected v).1 (selected v).2).group = some g) (hf : g.st = .frozen) :
    resumable a v = some g := by
  rw [resumable, if_pos hst, selectedGroup, hg]
  simp [Option.filter, hf]

end Resumable

theorem freezeRequest : Claims.FreezeRequest := by
  intro gd r s hc a v named legal frozen goesOn
  have hlegal : selectorOk v = true ↔ legal := selectorOk_iff (val [gs r] s 0).isLt
  have hreg : ∀ cause tval addr, (takeTrap (delivered s) s.issue.core s.issue.ctx cause tval addr).me.xcause = cause :=
    fun cause tval addr => (takeTrap_me_registers _ _ _ _ _ _ (delivered_core s) (delivered_ctx s)).1
  have hfrozen : ∀ g, allFrozen a g = true ↔ frozen g := allFrozen_iff a
  refine ⟨fun hs hl => ⟨fun h => ?_, fun hn h => ?_, fun g hg h => ?_, fun g hfree hg hst hnf hw => ?_⟩, fun hs hl => ?_,
    fun hs => ⟨?_, ?_⟩⟩
  · refine issuesAs_ctxfrz hc hs (hlegal.mpr hl) ?_
    cases hg : groupOf a named.group with
    | none => exact freezeDone_none hg
    | some g => exact (freezeDone_some hg).mpr (.inl (h.resolve_right (by rw [hg]; exact Option.some_ne_none g)))
  · refine issuesAs_ctxfrz hc hs (hlegal.mpr hl) ?_
    cases hg : groupOf a named.group with
    | none => exact freezeDone_none hg
    | some g => exact (freezeDone_some hg).mpr (.inr (.inr (.inr ⟨hn, h⟩)))
  · refine issuesAs_ctxfrz hc hs (hlegal.mpr hl) ((freezeDone_some hg).mpr ?_)
    rcases h with h | h
    · exact .inr (.inl h)
    · exact .inr (.inr (.inl ((hfrozen g).mpr h)))
  · refine exec_ctxfrz_waits hc hs (hlegal.mpr hl) (Bool.eq_false_iff.mpr fun hd => ?_) hg
    rcases (freezeDone_some hg).mp hd with h | h | h | ⟨hn, h⟩
    · exact hfree h
    · exact hst h
    · exact hnf ((hfrozen g).mp h)
    · rcases hw with hw | ⟨h1, h2⟩
      · rw [hn] at hw
        exact absurd hw (by decide)
      · exact h.elim h1 h2
  · have hbad : selectorOk v = false := Bool.eq_false_iff.mpr fun h => hl (hlegal.mp h)
    exact ⟨_, exec_trap (o := opCtxfrz gd r) rfl hc rfl (scoreboard_nil _) rfl rfl
      ((opCtxfrz_traps _ _).trans (selectorTraps_bad hs hbad)) fun _ => rfl, hreg _ _ _⟩
  · exact ⟨_, exec_trap (o := opCtxfrz gd r) rfl hc rfl (scoreboard_nil _) rfl rfl
      ((opCtxfrz_traps _ _).trans (selectorTraps_compute hs _)) fun _ => rfl, hreg _ _ _⟩
  · exact ⟨_, exec_ctxres_compute hc hs, hreg _ _ _⟩

theorem resumeRequest : Claims.ResumeRequest := by
  intro gd r s hc a v named hs hsel
  refine ⟨fun h => ?_, fun g hst hg hf hbad => ?_, fun g w hst hg hf hbad => ?_, fun t g hg hf hp => ⟨⟨_, ?_, rfl⟩, ?_,
    fun p hpl hgrp hst => ?_⟩⟩
  · have hr : resumable a v = none := resumable_none h
    exact issuesAs_ctxres_none hc hsel hr
  · have hr : resumable a v = some g := resumable_some hst hg hf
    exact runs_ctxres_some hc hsel hr hbad
  · have hr : resumable a v = some g := resumable_some hst hg hf
    exact exec_ctxres_version hc hsel hr hbad
  · exact groupOf_resumeGroup hg hf
  · exact (resumeGroup_mem hg hf).1
  · have hany : g.places.any (standsAt p.core p.ctx) = true :=
      List.any_eq_true.mpr ⟨p, hpl, by simp [standsAt]⟩
    rw [getCtx_resumeGroup_frozen hg hf, if_pos hany, Ctx.resumedBy, if_pos ⟨hgrp, hst⟩]

/-- Settles O27. -/
theorem freezeAndResume : Obligations.FreezeAndResume := ⟨freezeRequest, resumeRequest⟩

end Sys2Proof.Machine
end


section
/-!
Scalar accesses: near atomics (O29), far accesses (O30), and the traps of every access (O31).
-/
namespace Sys2Proof.Machine

/-! ## The checks of an address (R143) -/

theorem bits_63_33 {ad : Nat} (h : ad < 2 ^ 64) : bits ad 63 33 = 0 ↔ ad < 2 ^ 33 := by
  unfold bits
  omega

section Checks
variable {s : State} {c x ad n : Nat}

theorem check143_ok {p : Nat} (h1 : ad < 2 ^ 33) (h2 : ad % n = 0) (h3 : vaultPlace s c x ad n = some p) :
    check143 s c x ad n = [] := by
  have hb : bits ad 63 33 = 0 := (bits_63_33 (by omega)).mpr h1
  rw [check143, if_neg (by simp [hb]), if_neg (by simp [h2]), h3]
  rfl

theorem check143_high (h : ad < 2 ^ 64) (h1 : 2 ^ 33 ≤ ad) : check143 s c x ad n = [⟨7, causeVRANGE, ad⟩] :=
  if_pos fun hb => absurd ((bits_63_33 h).mp hb) (by omega)

theorem check143_odd (h1 : ad < 2 ^ 33) (h2 : ad % n ≠ 0) : check143 s c x ad n = [⟨7, causeALIGN, ad⟩] := by
  have hb : bits ad 63 33 = 0 := (bits_63_33 (by omega)).mpr h1
  rw [check143, if_neg (by simp [hb]), if_pos h2]

theorem check143_outside (h1 : ad < 2 ^ 33) (h2 : ad % n = 0) (h3 : vaultPlace s c x ad n = none) :
    check143 s c x ad n = [⟨7, causeVRANGE, ad⟩] := by
  have hb : bits ad 63 33 = 0 := (bits_63_33 (by omega)).mpr h1
  rw [check143, if_neg (by simp [hb]), if_neg (by simp [h2]), h3]
  rfl

end Checks

theorem lsAddr_lt (base : Word) (off : Int) (n : Nat) : lsAddr base off n < 2 ^ 64 := by
  rw [lsAddr, wrapN_eq]
  exact BitVec.isLt _

/-! ## An access as it issues (R143, R174, R306) -/

theorem modMe_congr {s : State} {f g : Ctx → Ctx} (h : f s.me = g s.me) : s.modMe f = s.modMe g :=
  congrArg (setCtx s s.issue.core s.issue.ctx) h

/-- A context that has numbered an access of its own. -/
def Ctx.nextUid (t : Ctx) : Ctx := { t with uid := t.uid + 1 }

/-- A context that waits for its far access `f` to perform. -/
def Ctx.noteFar (f : Far) (t : Ctx) : Ctx :=
  { t with full := if f.kind.loads then t.full &&& ~~~((1 : BitVec 32) <<< f.d.val) else t.full, far := t.far ++ [f] }

/-- A context whose far access has issued. -/
def farTo (ck : Nat) (k : FarKind) (key ad epc n : Nat) (d : Fin 32) (v : Nat) (t : Ctx) : Ctx :=
  t.nextUid.noteFar ⟨t.uid, ck, k, key, ad, epc, n, d, v⟩

section Issue
variable {s : State} {k : FarKind} {ad n key : Nat} {d : Fin 32} {v : Nat}

theorem issueScalar_far (hk : placeKey s s.issue.core s.issue.ctx ad n = key)
    (hn : isNear s.issue.core (key - vaultBase) = false) :
    issueScalar s k ad n d v = s.modMe (farTo s.ck k key ad s.issue.addr n d v) := by
  subst hk
  rw [issueScalar, if_neg (by rw [hn]; decide)]
  exact (modMe_modMe s Ctx.nextUid (Ctx.noteFar ⟨s.me.uid, s.ck, k, _, ad, s.issue.addr, n, d, v⟩)).trans (modMe_congr rfl)

theorem placeKey_of_place {c x p : Nat} (h : vaultPlace s c x ad n = some p) : placeKey s c x ad n = vaultKey p := by
  rw [placeKey, h]
  rfl

theorem vaultKey_sub (p : Nat) : vaultKey p - vaultBase = p % 2 ^ 33 := Nat.add_sub_cancel_left ..

/-- The state that a scalar access writes, and the value it returns, where no error stands under it. -/
theorem performScalar_clean {seen : State} (hs : (if k.isLoad then landedView s else s) = seen)
    (hp : poisoned seen key n = false) : performScalar s k key n v =
      ((match k.new n (memLe seen key n) v with
        | some w => storeBytes s key (leBytes n w)
        | none => s), k.result n (memLe seen key n), false) := by
  subst hs
  rw [performScalar, if_neg (by rw [hp]; exact Bool.false_ne_true)] <;> rfl

theorem issueScalar_near_writes {w : Nat} (hk : placeKey s s.issue.core s.issue.ctx ad n = key)
    (hn : isNear s.issue.core (key - vaultBase) = true) (hl : k.isLoad = false) (hs : k.loads = true)
    (hp : poisoned s key n = false) (hw : k.new n (memLe s key n) v = some w) :
    issueScalar s k ad n d v = (storeBytes s key (leBytes n w)).modMe
      (produceTo s.ck 6 d (k.result n (memLe s key n)) 0) := by
  subst hk
  have hr := performScalar_clean (s := s) (v := v) (k := k) (if_neg (by rw [hl]; exact Bool.false_ne_true)) hp
  rw [issueScalar, if_pos hn, hr, hw]
  simp only [hs, if_true, Bool.false_eq_true, if_false]
  rfl

end Issue

/-! ## What an access keeps of its context -/

theorem getCtx_report_loopn (s : State) (c x : Nat) (e : Async) :
    (getCtx (report s c x e) c x).loopn = (getCtx s c x).loopn := by
  unfold report
  extract_lets t
  split
  · rfl
  · rw [getCtx_setCtx_self]
    change (if t.isBlocked then t.released else t).loopn = _
    split <;> rfl

theorem countBad_same (s : State) (k : Nat) : (countBad s k).issue = s.issue ∧ (countBad s k).cores = s.cores := by
  unfold countBad
  split <;> exact ⟨rfl, rfl⟩

theorem report_issue (s : State) (c x : Nat) (e : Async) : (report s c x e).issue = s.issue := (quiet_report s c x e).issue

theorem getCtx_countBad (s : State) (k c x : Nat) : getCtx (countBad s k) c x = getCtx s c x := by
  rw [getCtx, getCore, (countBad_same s k).2]
  rfl

theorem performScalar_same (s : State) (k : FarKind) (key n v : Nat) :
    (performScalar s k key n v).1.issue = s.issue ∧ (performScalar s k key n v).1.cores = s.cores := by
  unfold performScalar
  generalize (if k.isLoad then landedView s else s) = seen
  dsimp only
  split
  · exact ⟨rfl, rfl⟩
  · dsimp only
    split <;> exact ⟨rfl, rfl⟩

theorem issueScalar_loopn (s : State) (k : FarKind) (ad n : Nat) (d : Fin 32) (v : Nat) :
    (issueScalar s k ad n d v).me.loopn = s.me.loopn := by
  unfold issueScalar
  extract_lets c x key r s1 u
  split
  · obtain ⟨hi, hc⟩ := performScalar_same s k key n v
    have h1 : s1.issue = s.issue ∧ (getCtx s1 c x).loopn = s.me.loopn := by
      simp only [s1]
      split
      · exact ⟨hi, (congrArg Ctx.loopn (getCtx_modCtx_self _ _ _ _)).trans
          (congrArg (fun cs => ((alGet Core.reset cs c).get x).loopn) hc)⟩
      · exact ⟨hi, congrArg (fun cs => ((alGet Core.reset cs c).get x).loopn) hc⟩
    split
    · have hi' : (report (countBad s1 key) c x ⟨causeUNCORR, s1.issue.addr, ad, none, none⟩).issue = s.issue :=
        (report_issue ..).trans ((countBad_same ..).1.trans h1.1)
      rw [State.me, hi', getCtx_report_loopn, getCtx_countBad]
      exact h1.2
    · rw [State.me, h1.1]
      exact h1.2
  · change ((s.modMe Ctx.nextUid).modMe (Ctx.noteFar ⟨s.me.uid, s.ck, k, key, ad, s.issue.addr, n, d, v⟩)).me.loopn = _
    rw [modMe_me, modMe_me]
    rfl

/-! ## An instruction that is one scalar access -/

section Exec
variable {i : Instr} {s : State} {gd : Guard} {srcs : List Src} {n : Nat} {d : Option (Fin 32)} {rd : List Key}
  {addr : List Word → Nat} {k : State → FarKind} {value : List Word → Nat} {ad z p : Nat} {kind : FarKind}
  (hx : exec i s = runOne (scalarOp gd srcs n d rd addr k value) s) (hc : clear gd srcs d.toList [] s = true)
  (had : addr (srcVals srcs (startCycle s)) = ad)
include hx hc had

theorem exec_scalar_trap {cause : Nat}
    (ht : check143 (startCycle s) (startCycle s).issue.core (startCycle s).issue.ctx ad n = [⟨7, cause, ad⟩]) :
    exec i s = .next (takeTrap (delivered s) s.issue.core s.issue.ctx cause ad s.issue.addr) := by
  subst had
  exact exec_trap_of_srcs hx hc rfl rfl rfl rfl (scoreboard_nil _) rfl rfl ht fun _ => rfl

/-- The traps of R143 in their order. -/
theorem scalar_outcome (hlt : ad < 2 ^ 64) :
    let a := startCycle s
    let trap := fun c => exec i s = .next (takeTrap (delivered s) s.issue.core s.issue.ctx c ad s.issue.addr)
    (2 ^ 33 ≤ ad → trap 0x09) ∧ (ad < 2 ^ 33 → ad % n ≠ 0 → trap 0x0A) ∧
      (ad < 2 ^ 33 → ad % n = 0 → vaultPlace a a.issue.core a.issue.ctx ad n = none → trap 0x09) :=
  ⟨fun h => exec_scalar_trap hx hc had (check143_high hlt h), fun h1 h2 => exec_scalar_trap hx hc had (check143_odd h1 h2),
    fun h1 h2 h3 => exec_scalar_trap hx hc had (check143_outside h1 h2 h3)⟩

variable (hkind : k (startCycle s) = kind) (hz : value (srcVals srcs (startCycle s)) % 2 ^ (8 * n) = z)
  (hp : atVault (startCycle s) ad n p)
include hkind hz hp

theorem exec_scalar : exec i s = .next (after (startCycle s)
    (issueScalar (before (startCycle s) srcs none) kind ad n (d.getD 0) z)) := by
  subst had hkind hz
  obtain ⟨h1, h2, h3⟩ := hp
  have hg : goes (scalarOp gd srcs n d rd addr k value) s = true :=
    goes_of_srcs hc rfl rfl rfl rfl (scoreboard_nil _) rfl rfl (check143_ok h1 h2 h3) rfl rfl rfl
  exact exec_of_effect (o := scalarOp gd srcs n d rd addr k value) hx hg rfl rfl
    fun t _ _ hl => (issueScalar_loopn t _ _ _ _ _).trans hl

end Exec

/-- The place of a name is that of the start of the group when the effect asks for it. -/
theorem vaultPlace_before (a : State) (srcs : List Src) (ad n : Nat) :
    vaultPlace (before a srcs none) a.issue.core a.issue.ctx ad n = vaultPlace a a.issue.core a.issue.ctx ad n := by
  have hm : (before a srcs none).me.group = a.me.group := by
    rw [before_me]
    rfl
  have hg : (getCtx (before a srcs none) a.issue.core a.issue.ctx).group = a.me.group := hm
  unfold vaultPlace
  rw [hg]
  rfl

theorem placeKey_before {a : State} {srcs : List Src} {ad n p : Nat}
    (h : vaultPlace a a.issue.core a.issue.ctx ad n = some p) :
    placeKey (before a srcs none) a.issue.core a.issue.ctx ad n = vaultKey p :=
  placeKey_of_place ((vaultPlace_before a srcs ad n).trans h)

/-- A far access that has issued, as a change of its context. -/
theorem issueScalar_before_far {a : State} {srcs : List Src} {ad n p : Nat} {k : FarKind} {d : Fin 32} {z : Nat}
    (h : vaultPlace a a.issue.core a.issue.ctx ad n = some p) (hf : isNear a.issue.core (p % 2 ^ 33) = false) :
    issueScalar (before a srcs none) k ad n d z =
      (before a srcs none).modMe (farTo a.ck k (vaultKey p) ad a.issue.addr n d z) :=
  issueScalar_far (placeKey_before h) (by rw [vaultKey_sub]; exact hf)

/-- A load or an atomic that waits has its register empty. -/
theorem countCycle_farTo_loads {k : FarKind} (hl : k.loads = true) (a : State) (srcs : List Src) (key ad n : Nat)
    (d : Fin 32) (z : Nat) :
    countCycle a (farTo a.ck k key ad a.issue.addr n d z (moveOn (srcPops srcs a) (flow a.me a.issue.next none) a.me)) =
      { advanced a srcs with
        uid := a.me.uid + 1
        full := a.me.full &&& ~~~((1 : BitVec 32) <<< d.val)
        far := a.me.far ++ [⟨a.me.uid, a.ck, k, key, ad, a.issue.addr, n, d, z⟩] } := by
  simp only [farTo, Ctx.noteFar, hl, if_true]
  rfl

theorem countCycle_farTo_store (a : State) (srcs : List Src) (key ad n : Nat) (d : Fin 32) (z : Nat) :
    countCycle a (farTo a.ck .store key ad a.issue.addr n d z
        (moveOn (srcPops srcs a) (flow a.me a.issue.next none) a.me)) =
      { advanced a srcs with
        uid := a.me.uid + 1, far := a.me.far ++ [⟨a.me.uid, a.ck, .store, key, ad, a.issue.addr, n, d, z⟩] } := rfl

section Far
variable {i : Instr} {s : State} {srcs : List Src} {ad n p : Nat} {k : FarKind} {d : Fin 32} {z : Nat}
  (hx : exec i s = .next (after (startCycle s) (issueScalar (before (startCycle s) srcs none) k ad n d z)))
  (h : vaultPlace (startCycle s) (startCycle s).issue.core (startCycle s).issue.ctx ad n = some p)
  (hf : isNear (startCycle s).issue.core (p % 2 ^ 33) = false)
include hx h hf

theorem issuesAs_far : IssuesAs i s (countCycle (startCycle s) (farTo (startCycle s).ck k (vaultKey p) ad
    (startCycle s).issue.addr n d z (moveOn (srcPops srcs (startCycle s))
      (flow (startCycle s).me (startCycle s).issue.next none) (startCycle s).me))) := by
  rw [issueScalar_before_far h hf] at hx
  exact ⟨_, hx, onlyMe_after _ _ _ _⟩

end Far

/-! ## The scalar accesses, as operations (R173 to R175) -/

section Instructions
variable {gd : Guard} {sz : Fin 4} {d : Fin 32} {r : GSrc} {v : Src} {lo : BitVec 9} {so : BitVec 8}

theorem exec_load (x : Bool) (s : State) : exec (if x then .ldsx gd sz d r lo else .ld gd sz d r lo) s =
    runOne (scalarOp gd [gs r] (2 ^ sz.val) (some d) [] (fun v => lsAddr (operand v 0) lo.toInt (2 ^ sz.val))
      (fun _ => .load x) (fun _ => 0)) s := by
  cases x <;> rfl

theorem exec_store (s : State) : exec (.st gd sz v r so) s =
    runOne (scalarOp gd [gs r, v] (2 ^ sz.val) none [] (fun v => lsAddr (operand v 0) so.toInt (2 ^ sz.val))
      (fun _ => .store) (fun v => (operand v 1).toNat)) s := rfl

/-- The five atomics, each with what it does at its home; an ACAS compares with D as it stands in `a`. -/
def atomics (gd : Guard) (sz : Fin 4) (d : Fin 32) (r : GSrc) (v : Src) (a : State) : List (Instr × FarKind) :=
  [(.aadd gd sz d r v, .add), (.amax gd sz d r v, .max), (.amin gd sz d r v, .min), (.aswp gd sz d r v, .swap),
    (.acas gd sz d r v, .cas ((a.me.g[d]).toNat % 2 ^ (8 * 2 ^ sz.val)))]

/-- An atomic is a scalar access. -/
theorem exec_atomic {s : State} {i : Instr} {k : FarKind} (h : (i, k) ∈ atomics gd sz d r v (startCycle s)) :
    ∃ rd kind, kind (startCycle s) = k ∧ k.isLoad = false ∧ k.loads = true ∧ exec i s =
      runOne (scalarOp gd [gs r, v] (2 ^ sz.val) (some d) rd (fun v => (operand v 0).toNat) kind
        (fun v => (operand v 1).toNat)) s := by
  simp only [atomics, List.mem_cons, List.not_mem_nil, or_false, Prod.mk.injEq] at h
  rcases h with ⟨rfl, rfl⟩ | ⟨rfl, rfl⟩ | ⟨rfl, rfl⟩ | ⟨rfl, rfl⟩ | ⟨rfl, rfl⟩
  · exact ⟨[], fun _ => .add, rfl, rfl, rfl, rfl⟩
  · exact ⟨[], fun _ => .max, rfl, rfl, rfl, rfl⟩
  · exact ⟨[], fun _ => .min, rfl, rfl, rfl, rfl⟩
  · exact ⟨[], fun _ => .swap, rfl, rfl, rfl, rfl⟩
  · exact ⟨[(0, d.val, 0)], fun s0 => .cas ((s0.me.g[d]).toNat % 2 ^ (8 * sizeBytes sz)), rfl, rfl, rfl, rfl⟩

end Instructions

/-- Settles O31. -/
theorem scalarAccessTraps : Obligations.ScalarAccessTraps := by
  intro gd sz d r v lo so s a n outcome
  refine ⟨fun hc => ⟨?_, ?_⟩, fun hc => ?_, fun hc i hi => ?_⟩
  · exact scalar_outcome (exec_load false s) hc rfl (lsAddr_lt _ _ _)
  · exact scalar_outcome (exec_load true s) hc rfl (lsAddr_lt _ _ _)
  · exact scalar_outcome (exec_store s) hc rfl (lsAddr_lt _ _ _)
  · have hi' : i ∈ (atomics gd sz d r v (startCycle s)).map Prod.fst := hi
    obtain ⟨⟨i', k⟩, hk, rfl⟩ := List.mem_map.mp hi'
    obtain ⟨rd, kind, -, -, -, hx⟩ := exec_atomic hk
    exact scalar_outcome hx hc rfl (val [gs r, v] s 0).isLt

/-! ## Far accesses wait (R75, R306) -/

theorem farAccessesWait : Claims.FarAccessesWait := by
  intro gd sz d r v lo so s p a n far empty hf
  refine ⟨fun hc hp x => ?_, fun hc hp => ?_, fun hc hp i k hik => ?_⟩
  · have hi := issuesAs_far (exec_scalar (exec_load x s) hc rfl rfl (z := 0 % 2 ^ (8 * n)) rfl hp) hp.2.2 hf
    rw [countCycle_farTo_loads rfl] at hi
    exact hi
  · have hi := issuesAs_far (exec_scalar (exec_store s) hc rfl rfl
      (z := (val [gs r, v] s 1).toNat % 2 ^ (8 * n)) rfl hp) hp.2.2 hf
    rw [countCycle_farTo_store] at hi
    exact hi
  · obtain ⟨rd, kind, hk, -, hl, hx⟩ := exec_atomic (s := s) hik
    have hi := issuesAs_far (exec_scalar hx hc rfl hk (z := (val [gs r, v] s 1).toNat % 2 ^ (8 * n)) rfl hp) hp.2.2 hf
    rw [countCycle_farTo_loads hl] at hi
    exact hi

/-! ## Stored bytes -/

@[simp] theorem leBytes_length : ∀ n v, (leBytes n v).length = n
  | 0, _ => rfl
  | n + 1, v => congrArg (· + 1) (leBytes_length n (v / 256))

theorem unitSize_pos (u : Nat) : 8 ≤ unitSize u := by
  unfold unitSize
  split <;> omega

section Stored
variable {s : State} {key n v : Nat}

theorem readBytes_storeBytes (hm : Memory.wf s.mem = true) :
    readBytes (storeBytes s key (leBytes n v)).mem key n = leBytes n v := by
  have h := readBytes_writeBytes hm key (leBytes n v)
  rwa [leBytes_length] at h

theorem memGet_storeBytes_off (hm : Memory.wf s.mem = true) {k : Nat} (hk : k < key ∨ key + n ≤ k) :
    memGet (storeBytes s key (leBytes n v)).mem k = memGet s.mem k := by
  have h := memGet_writeBytes hm key (leBytes n v) k
  rw [leBytes_length, if_neg (by omega)] at h
  exact h

/-- A store where no error stands ends none. -/
theorem storeBytes_poison_clean (hp : poisoned s key n = false) :
    (storeBytes s key (leBytes n v)).poison = s.poison := by
  refine List.filter_eq_self.mpr fun u hu => ?_
  have hno := List.any_eq_false.mp hp u hu
  simp only [decide_eq_true_eq, not_and_or, Nat.not_lt] at hno
  have hpos := unitSize_pos u
  simp only [leBytes_length, Bool.not_eq_true', decide_eq_false_iff_not]
  omega

end Stored

/-! ## Near atomics (R173, R306) -/

section NearAtomic
variable {a : State} {srcs : List Src} {ad n p z w : Nat} {k : FarKind} {d : Fin 32}

theorem poisoned_before (a : State) (srcs : List Src) (key n : Nat) :
    poisoned (before a srcs none) key n = poisoned a key n := rfl

theorem memLe_before (a : State) (srcs : List Src) (key n : Nat) :
    memLe (before a srcs none) key n = memLe a key n := rfl

theorem storeBytes_before (a : State) (srcs : List Src) (key : Nat) (bs : List Byte) :
    storeBytes (before a srcs none) key bs = before (storeBytes a key bs) srcs none := rfl

theorem after_storeBytes (a t : State) (key : Nat) (bs : List Byte) : after (storeBytes a key bs) t = after a t := rfl

theorem issueScalar_before_writes (h : vaultPlace a a.issue.core a.issue.ctx ad n = some p)
    (hf : isNear a.issue.core (p % 2 ^ 33) = true) (hl : k.isLoad = false) (hs : k.loads = true)
    (hp : poisoned a (vaultKey p) n = false) (hw : k.new n (memLe a (vaultKey p) n) z = some w) :
    after a (issueScalar (before a srcs none) k ad n d z) = after (storeBytes a (vaultKey p) (leBytes n w))
      ((before (storeBytes a (vaultKey p) (leBytes n w)) srcs none).modMe
        (produceTo a.ck 6 d (k.result n (memLe a (vaultKey p) n)) 0)) := by
  have hk : placeKey (before a srcs none) (before a srcs none).issue.core (before a srcs none).issue.ctx ad n = vaultKey p :=
    placeKey_before h
  have hn : isNear (before a srcs none).issue.core (vaultKey p - vaultBase) = true := by rw [vaultKey_sub]; exact hf
  rw [issueScalar_near_writes hk hn hl hs ((poisoned_before ..).trans hp)
    ((congrArg (k.new n · z) (memLe_before ..)).trans hw), memLe_before, storeBytes_before, before_ck, after_storeBytes]

/-- What an atomic leaves of its context. -/
theorem countCycle_produceTo_stored (a : State) (srcs : List Src) (key : Nat) (bs : List Byte) (d : Fin 32) (v : Word) :
    let b := storeBytes a key bs
    countCycle b (produceTo a.ck 6 d v 0 (moveOn (srcPops srcs b) (flow b.me b.issue.next none) b.me)) =
      { advanced a srcs with
        full := a.me.full &&& ~~~((1 : BitVec 32) <<< d.val), longs := a.me.longs ++ [⟨a.ck + 6, d, v, 0⟩] } := rfl

theorem onlyMe_stored (a t : State) (key : Nat) (bs : List Byte) (hm : t.mem = (storeBytes a key bs).mem)
    (hp : t.poison = (storeBytes a key bs).poison) (h : OnlyMe (storeBytes a key bs) t) :
    OnlyMe { a with mem := t.mem, poison := t.poison } t := by
  rw [hm, hp]
  exact h

theorem nearAtomic_changes (hm : Memory.wf a.mem = true) (h : vaultPlace a a.issue.core a.issue.ctx ad n = some p)
    (hf : isNear a.issue.core (p % 2 ^ 33) = true) (hl : k.isLoad = false) (hs : k.loads = true)
    (hp : poisoned a (vaultKey p) n = false) (hw : k.new n (memLe a (vaultKey p) n) z = some w) :
    let t := after a (issueScalar (before a srcs none) k ad n d z)
    OnlyMe { a with mem := t.mem, poison := t.poison } t ∧
    t.me = { advanced a srcs with
      full := a.me.full &&& ~~~((1 : BitVec 32) <<< d.val)
      longs := a.me.longs ++ [⟨a.ck + 6, d, k.result n (memLe a (vaultKey p) n), 0⟩] } ∧
    readBytes t.mem (vaultKey p) n = leBytes n w ∧
    (∀ j, j < vaultKey p ∨ vaultKey p + n ≤ j → memGet t.mem j = memGet a.mem j) ∧ t.poison = a.poison := by
  intro t
  have ht : t = _ := issueScalar_before_writes (srcs := srcs) (d := d) h hf hl hs hp hw
  have hmem : t.mem = (storeBytes a (vaultKey p) (leBytes n w)).mem := by rw [ht]; rfl
  have hpo : t.poison = (storeBytes a (vaultKey p) (leBytes n w)).poison := by rw [ht]; rfl
  obtain ⟨hframe, hme⟩ := onlyMe_after (storeBytes a (vaultKey p) (leBytes n w)) srcs none
    (produceTo a.ck 6 d (k.result n (memLe a (vaultKey p) n)) 0)
  rw [← ht] at hframe hme
  rw [countCycle_produceTo_stored] at hme
  refine ⟨onlyMe_stored a t _ _ hmem hpo hframe, hme, ?_, fun j hj => ?_, ?_⟩
  · rw [hmem]
    exact readBytes_storeBytes hm
  · rw [hmem]
    exact memGet_storeBytes_off hm hj
  · rw [hpo]
    exact storeBytes_poison_clean hp

end NearAtomic

/-- Settles O29: each atomic by what it makes of the old value. -/
theorem nearAtomics : Obligations.NearAtomics := by
  intro gd sz d r v s p hc hm a n ad z key old cmp changes hp hf hbad
  have hold : memLe (startCycle s) (vaultKey p) n = old := by rw [memLe, startCycle_mem]
  have key : ∀ {i : Instr} {k : FarKind} {w : Nat}, (i, k) ∈ atomics gd sz d r v a → k.new n old z = some w →
      k.result n old = BitVec.ofInt 64 (sx old (8 * n)) → changes i w := by
    intro i k w hik hw hr
    obtain ⟨rd, kind, hk, hl, hs, hx⟩ := exec_atomic (s := s) hik
    have h := nearAtomic_changes (srcs := [gs r, v]) (d := d) (by rwa [startCycle_mem]) hp.2.2 hf hl hs hbad
      ((congrArg (k.new n · z) hold).trans hw)
    rw [hold, hr] at h
    obtain ⟨h1, h2, h3, h4, h5⟩ := h
    exact ⟨_, exec_scalar hx hc rfl hk (z := z) rfl hp, h1, h2, h3,
      fun j hj => (h4 j hj).trans (congrArg (memGet · j) (startCycle_mem s)), h5.trans (startCycle_poison s)⟩
  refine ⟨key (k := .add) ?_ rfl rfl, key (k := .max) ?_ rfl rfl, key (k := .min) ?_ rfl rfl, key (k := .swap) ?_ rfl rfl,
    key (k := .cas cmp) ?_ rfl rfl⟩
  · exact List.mem_cons_self ..
  · exact .tail _ (List.mem_cons_self ..)
  · exact .tail _ (.tail _ (List.mem_cons_self ..))
  · exact .tail _ (.tail _ (.tail _ (List.mem_cons_self ..)))
  · exact .tail _ (.tail _ (.tail _ (.tail _ (List.mem_cons_self ..))))

end Sys2Proof.Machine
end


section
/-!
Far accesses as they perform (O30), and multicast stores (O32).
-/
namespace Sys2Proof.Machine

/-! ## A far access performs at its home (R75, R306) -/

theorem farReady_iff {fs : List Far} {i : Nat} {f : Far} (hf : fs[i]? = some f) : farReady fs i = true ↔
    ∀ j g, j < i → fs[j]? = some g → f.addr + f.n ≤ g.addr ∨ g.addr + g.n ≤ f.addr := by
  rw [farReady, hf]
  simp only [List.all_eq_true, Bool.not_eq_true', decide_eq_false_iff_not, List.mem_take_iff_getElem, not_and_or, Nat.not_lt]
  constructor
  · intro h j g hj hg
    obtain ⟨hlt, rfl⟩ := List.getElem?_eq_some_iff.mp hg
    exact h _ ⟨j, by omega, rfl⟩
  · rintro h g ⟨j, hj, rfl⟩
    exact h j _ (by omega) (List.getElem?_eq_getElem _)

/-- The context once its far access `i`, `f`, has performed and returned `v`. -/
def farDone (i : Nat) (f : Far) (v : Word) (t : Ctx) : Ctx :=
  { t with
    far := t.far.eraseIdx i
    g := if f.kind.loads then t.g.set f.d v else t.g
    full := if f.kind.loads then fullAfter t.full f.d t.longs (t.far.eraseIdx i) else t.full }

section Perform
variable {s : State} {c x i : Nat} {f : Far}

theorem farTurn_of_turn (hf : (getCtx s c x).far[i]? = some f) (hl : s.landed ≠ some s.ck) (hck : f.ck < s.ck) :
    farTurn s c x i = performFar s c x i := by
  rw [farTurn, hf, if_neg]
  simp only [Option.any_some, Bool.or_eq_true, decide_eq_true_eq, not_or]
  exact ⟨hl, by omega⟩

theorem farTurn_waits (hf : (getCtx s c x).far[i]? = some f)
    (h : farReady (getCtx s c x).far i = false ∨ s.ck ≤ f.ck ∨ s.landed = some s.ck) : farTurn s c x i = s := by
  rw [farTurn, hf]
  simp only [Option.any_some, Bool.or_eq_true, decide_eq_true_eq]
  rcases h with h | h | h
  · split
    · rfl
    · simp only [performFar, hf, h, Bool.false_eq_true, if_false]
  · rw [if_pos (.inr h)]
  · rw [if_pos (.inl h)]

/-- What performs at the home of a far access: the stored bytes, where it writes. -/
def farStored (s : State) (f : Far) (old : Nat) : State :=
  match f.kind.new f.n old f.v with
  | some w => storeBytes s f.addr (leBytes f.n w)
  | none => s

theorem farStored_cores (s : State) (f : Far) (old : Nat) : (farStored s f old).cores = s.cores := by
  unfold farStored
  split <;> rfl

theorem performFar_clean {seen : State} (hf : (getCtx s c x).far[i]? = some f) (hr : farReady (getCtx s c x).far i = true)
    (hs : (if f.kind.isLoad then landedView s else s) = seen) (hp : poisoned seen f.addr f.n = false) :
    performFar s c x i = modCtx (farStored s f (memLe seen f.addr f.n)) c x
      (farDone i f (f.kind.result f.n (memLe seen f.addr f.n))) := by
  have hps := performScalar_clean (s := s) (v := f.v) hs hp
  simp only [performFar, hf, hr, if_true, hps, Bool.false_eq_true, if_false]
  rfl

theorem getCtx_of_cores {s t : State} (h : t.cores = s.cores) (c x : Nat) : getCtx t c x = getCtx s c x :=
  congrArg (fun cs => (alGet Core.reset cs c).get x) h

theorem getCtx_performFar {old : Nat} {v : Word} :
    getCtx (modCtx (farStored s f old) c x (farDone i f v)) c x = farDone i f v (getCtx s c x) := by
  rw [getCtx_modCtx_self, getCtx_of_cores (farStored_cores s f old)]

end Perform

/-- The other results on their way to a register, as the claim names them. -/
theorem fullAfter_others {full : BitVec 32} {d : Fin 32} {longs : List LongRes} {far : List Far}
    (h : (∃ q ∈ longs, q.d = d) ∨ ∃ q ∈ far, q.kind ≠ .store ∧ q.d = d) : fullAfter full d longs far = full := by
  refine if_pos ?_
  rw [Bool.or_eq_true, List.any_eq_true, List.any_eq_true]
  refine h.imp (fun ⟨q, hq, hd⟩ => ⟨q, hq, by simpa using hd⟩) fun ⟨q, hq, hk, hd⟩ => ⟨q, hq, ?_⟩
  rw [Bool.and_eq_true]
  refine ⟨?_, by simpa using hd⟩
  cases hk' : q.kind with
  | store => exact absurd hk' hk
  | _ => rfl

theorem fullAfter_alone {full : BitVec 32} {d : Fin 32} {longs : List LongRes} {far : List Far}
    (h : ¬((∃ q ∈ longs, q.d = d) ∨ ∃ q ∈ far, q.kind ≠ .store ∧ q.d = d)) :
    fullAfter full d longs far = full ||| ((1 : BitVec 32) <<< d.val) := by
  refine if_neg fun hn => h ?_
  rw [Bool.or_eq_true, List.any_eq_true, List.any_eq_true] at hn
  refine hn.imp (fun ⟨q, hq, hd⟩ => ⟨q, hq, by simpa using hd⟩) fun ⟨q, hq, hk⟩ => ?_
  rw [Bool.and_eq_true] at hk
  refine ⟨q, hq, fun hs => ?_, by simpa using hk.2⟩
  rw [hs] at hk
  exact absurd hk.1 (by decide)

theorem farDone_loads {f : Far} (hl : f.kind.loads = true) (i : Nat) (v : Word) (t : Ctx) : farDone i f v t =
    { t with far := t.far.eraseIdx i, g := t.g.set f.d v, full := fullAfter t.full f.d t.longs (t.far.eraseIdx i) } := by
  rw [farDone, if_pos hl, if_pos hl]

theorem farDone_store {f : Far} (hl : f.kind.loads = false) (i : Nat) (v : Word) (t : Ctx) : farDone i f v t =
    { t with far := t.far.eraseIdx i } := by
  rw [farDone, if_neg (by rw [hl]; exact Bool.false_ne_true), if_neg (by rw [hl]; exact Bool.false_ne_true)]

theorem loads_of_ne_store {k : FarKind} (h : k ≠ .store) : k.loads = true := by
  cases k with
  | store => exact absurd rfl h
  | _ => rfl

/-- A landing keeps to memory and to the errors under it. -/
theorem farAccessesPerform : Claims.FarAccessesPerform := by
  intro c x i f s hm hf ready seen
  have hready : farReady (getCtx s c x).far i = true ↔ ready := farReady_iff hf
  refine ⟨fun h => farTurn_waits hf (h.imp_left fun hn => Bool.eq_false_iff.mpr fun hr => hn (hready.mp hr)),
    fun hr hck hl hp => ?_⟩
  have hseen : (if f.kind.isLoad then landedView s else s) = seen := by
    simp only [seen]
    cases f.kind <;> rfl
  intro t old signed becomes result left others
  have ht : t = modCtx (farStored s f old) c x (farDone i f (f.kind.result f.n old)) :=
    (farTurn_of_turn hf hl hck).trans (performFar_clean hf (hready.mpr hr) hseen hp)
  have hbec : f.kind.new f.n old f.v = becomes := by
    simp only [becomes]
    cases f.kind <;> rfl
  have hres : f.kind.result f.n old = result := by
    simp only [result]
    cases f.kind with
    | load b => cases b <;> rfl
    | _ => rfl
  have hctx : getCtx t c x = farDone i f result (getCtx s c x) := by
    rw [ht, getCtx_performFar, hres]
  have hmem : t.mem = (farStored s f old).mem := by rw [ht]; rfl
  refine ⟨fun k hk => ?_, fun new hn => ?_, fun hn => ?_, fun hk => ?_, fun hk => ?_⟩
  · rw [hmem, farStored]
    split
    · exact memGet_storeBytes_off hm hk
    · rfl
  · rw [hmem, farStored, hbec, hn]
    exact readBytes_storeBytes hm
  · rw [hmem, farStored, hbec, hn]
  · rw [farDone_loads (loads_of_ne_store hk)] at hctx
    rw [hctx]
    exact ⟨rfl, fullAfter_alone, fullAfter_others, rfl⟩
  · rw [hctx, farDone_store (by rw [hk]; rfl)]

/-- Settles O30. -/
theorem farAccesses : Obligations.FarAccesses := ⟨farAccessesWait, farAccessesPerform⟩

/-! ## TMCST (R176) -/

/-- A name in the issuing core's own window, inside the multicast window of its group. -/
def ownName (a : State) (ad n : Nat) : Prop :=
  ad < 2 ^ 30 ∧ ad / 2 ^ 23 = coreIndex a a.issue.core a.issue.ctx ∧
    ad % 2 ^ 23 + n ≤ mcastLen a (dieOf a.issue.core) a.me.group

theorem ownName_iff {a : State} {ad n : Nat} (h : ad < 2 ^ 64) :
    ¬(bits ad 63 30 ≠ 0 ∨ bits ad 29 23 ≠ coreIndex a a.issue.core a.issue.ctx ∨
      mcastLen a (dieOf a.issue.core) a.me.group < bits ad 22 0 + n) ↔ ownName a ad n := by
  have h1 : bits ad 63 30 = 0 ↔ ad < 2 ^ 30 := by
    unfold bits
    omega
  have h2 : ad < 2 ^ 30 → bits ad 29 23 = ad / 2 ^ 23 := fun hlt => by
    unfold bits
    omega
  have h3 : bits ad 22 0 = ad % 2 ^ 23 := by
    unfold bits
    omega
  simp only [not_or, not_not, h1, h3, ownName, ne_eq]
  constructor
  · rintro ⟨hlt, hi, hm⟩
    exact ⟨hlt, (h2 hlt).symm.trans hi, Nat.not_lt.mp hm⟩
  · rintro ⟨hlt, hi, hm⟩
    exact ⟨hlt, (h2 hlt).trans hi, Nat.not_lt.mpr hm⟩

section McastChecks
variable {a : State} {ad n : Nat}

theorem mcastChecks_sup (h : isSup a.issue.core = true) :
    mcastChecks a a.issue.core a.issue.ctx ad n = [⟨7, causeVRANGE, ad⟩] := if_pos h

theorem mcastChecks_high (hlt : ad < 2 ^ 64) (h : 2 ^ 33 ≤ ad) :
    mcastChecks a a.issue.core a.issue.ctx ad n = [⟨7, causeVRANGE, ad⟩] := by
  have hb : bits ad 63 33 ≠ 0 := fun hb => absurd ((bits_63_33 hlt).mp hb) (by omega)
  rw [mcastChecks, if_pos hb, ite_self]

theorem mcastChecks_odd (hs : isSup a.issue.core = false) (h1 : ad < 2 ^ 33) (h2 : ad % n ≠ 0) :
    mcastChecks a a.issue.core a.issue.ctx ad n = [⟨7, causeALIGN, ad⟩] := by
  have hb : bits ad 63 33 = 0 := (bits_63_33 (by omega)).mpr h1
  rw [mcastChecks, if_neg (by rw [hs]; exact Bool.false_ne_true), if_neg (by simp [hb]), if_pos h2]

theorem mcastChecks_other (hlt : ad < 2 ^ 64) (h2 : ad % n = 0) (h : ¬ownName a ad n) :
    mcastChecks a a.issue.core a.issue.ctx ad n = [⟨7, causeVRANGE, ad⟩] := by
  have ho := not_not.mp fun hno => h ((ownName_iff hlt).mp hno)
  unfold mcastChecks
  split
  · rfl
  · split
    · rfl
    · rw [if_neg (by simp [h2])]
      exact if_pos ho

theorem mcastChecks_own (hs : isSup a.issue.core = false) (hlt : ad < 2 ^ 64) (h2 : ad % n = 0) (h : ownName a ad n) :
    mcastChecks a a.issue.core a.issue.ctx ad n = [] := by
  have hb : bits ad 63 33 = 0 := (bits_63_33 hlt).mpr (by have := h.1; omega)
  rw [mcastChecks, if_neg (by rw [hs]; exact Bool.false_ne_true), if_neg (by simp [hb]), if_neg (by simp [h2])]
  exact if_neg ((ownName_iff hlt).mpr h)

end McastChecks

/-- The multicast store that a TMCST puts in flight. -/
def mcastOf (a : State) (ad n v : Nat) : Mcast :=
  ⟨a.ck + 9, a.issue.core, a.issue.ctx, a.me.uid, mcastKeys a a.issue.core a.issue.ctx ad n, leBytes n v, ad, a.issue.addr⟩

/-- The package with a multicast store more in flight. -/
def withMcast (m : Mcast) (a : State) : State := { a with mcasts := a.mcasts ++ [m] }

theorem issueMcast_eq (s : State) (ad n v : Nat) :
    issueMcast s ad n v = (withMcast (mcastOf s ad n v) s).modMe Ctx.nextUid := rfl

theorem getCtx_before_group (a : State) (srcs : List Src) :
    (getCtx (before a srcs none) a.issue.core a.issue.ctx).group = a.me.group ∧
      (before a srcs none).me.uid = a.me.uid := by
  have hm : (before a srcs none).me.group = a.me.group ∧ (before a srcs none).me.uid = a.me.uid := by
    rw [before_me]
    exact ⟨rfl, rfl⟩
  exact hm

theorem mcastKeys_before (a : State) (srcs : List Src) (ad n : Nat) :
    mcastKeys (before a srcs none) a.issue.core a.issue.ctx ad n = mcastKeys a a.issue.core a.issue.ctx ad n := by
  unfold mcastKeys memberCount
  rw [(getCtx_before_group a srcs).1]
  rfl

theorem mcastOf_before (a : State) (srcs : List Src) (ad n v : Nat) :
    mcastOf (before a srcs none) ad n v = mcastOf a ad n v := by
  have hu := (getCtx_before_group a srcs).2
  have hk := mcastKeys_before a srcs ad n
  unfold mcastOf
  rw [hu, before_issue, hk]
  rfl

theorem after_issueMcast (a : State) (srcs : List Src) (ad n v : Nat) :
    OnlyMe (withMcast (mcastOf a ad n v) a) (after a (issueMcast (before a srcs none) ad n v)) ∧
    (after a (issueMcast (before a srcs none) ad n v)).me = { advanced a srcs with uid := a.me.uid + 1 } := by
  rw [issueMcast_eq, mcastOf_before]
  exact onlyMe_after (withMcast (mcastOf a ad n v) a) srcs none Ctx.nextUid

theorem opTmcst_traps {gd : Guard} {sz : Fin 4} {v : Src} {r : GSrc} {off : BitVec 8} (a : State) (vs : List Word) :
    (opTmcst gd sz v r off).traps a vs = mcastChecks a a.issue.core a.issue.ctx (lsAddr (operand vs 0) off.toInt (2 ^ sz.val))
      (2 ^ sz.val) := rfl

theorem opTmcst_effect {gd : Guard} {sz : Fin 4} {v : Src} {r : GSrc} {off : BitVec 8} (a : State) (vs : List Word)
    (t : State) : (opTmcst gd sz v r off).effect a vs t = issueMcast t (lsAddr (operand vs 0) off.toInt (2 ^ sz.val))
      (2 ^ sz.val) ((operand vs 1).toNat % 2 ^ (8 * 2 ^ sz.val)) := rfl

theorem issueMcast_loopn (s : State) (ad n v : Nat) : (issueMcast s ad n v).me.loopn = s.me.loopn := by
  rw [issueMcast_eq, modMe_me]
  rfl

theorem multicastIssue : Claims.MulticastIssue := by
  intro gd sz v r off s hc a n ad own
  have hlt : ad < 2 ^ 64 := lsAddr_lt _ _ _
  have trap : ∀ {cause}, mcastChecks a a.issue.core a.issue.ctx ad n = [⟨7, cause, ad⟩] →
      exec (.tmcst gd sz v r off) s = .next (takeTrap (delivered s) s.issue.core s.issue.ctx cause ad s.issue.addr) :=
    fun ht => exec_trap_of_srcs (o := opTmcst gd sz v r off) (srcs := [gs r, v]) rfl hc rfl rfl rfl rfl (scoreboard_nil _)
      rfl rfl ((opTmcst_traps _ _).trans ht) fun _ => rfl
  refine ⟨fun hs h2 ho => ?_, fun hs h1 h2 => trap (mcastChecks_odd hs h1 h2), fun h => trap ?_⟩
  · have hg : goes (opTmcst gd sz v r off) s = true :=
      goes_of_srcs (srcs := [gs r, v]) hc rfl rfl rfl rfl (scoreboard_nil _) rfl rfl
        ((opTmcst_traps _ _).trans (mcastChecks_own hs hlt h2 ho)) rfl rfl rfl
    have hx := exec_of_effect (i := .tmcst gd sz v r off) (o := opTmcst gd sz v r off) (srcs := [gs r, v]) (g := none) rfl
      hg rfl rfl fun t _ _ hl => by
        rw [opTmcst_effect, issueMcast_loopn]
        exact hl
    rw [opTmcst_effect] at hx
    obtain ⟨hframe, hme⟩ := after_issueMcast a [gs r, v] ad n ((val [gs r, v] s 1).toNat % 2 ^ (8 * n))
    exact ⟨_, hx, hme, hframe⟩
  · rcases h with h | h | ⟨h2, h⟩
    · exact mcastChecks_sup h
    · exact mcastChecks_high hlt h
    · exact mcastChecks_other hlt h2 h

/-! ## Landings (R176, R310) -/

theorem mcastOrder_mem {m : Mcast} : ∀ {ms acc : List Mcast}, m ∈ ms.foldl (fun acc m =>
      acc.takeWhile (fun q => decide (q.core % 65 ≤ m.core % 65)) ++ m
        :: acc.dropWhile (fun q => decide (q.core % 65 ≤ m.core % 65))) acc ↔ m ∈ ms ∨ m ∈ acc
  | [], _ => by simp
  | q :: ms, acc => by
    rw [List.foldl_cons, mcastOrder_mem]
    have hsplit : m ∈ acc ↔ m ∈ acc.takeWhile (fun r => decide (r.core % 65 ≤ q.core % 65)) ∨
        m ∈ acc.dropWhile (fun r => decide (r.core % 65 ≤ q.core % 65)) := by
      rw [← List.mem_append, List.takeWhile_append_dropWhile]
    rw [hsplit, List.mem_append, List.mem_cons, List.mem_cons]
    tauto

/-- The stores that land are those that are due. -/
theorem mem_dueMcasts {s : State} {m : Mcast} :
    m ∈ dueMcasts s ↔ m ∈ s.mcasts.filter fun m => decide (m.due ≤ s.ck) := by
  rw [dueMcasts, mcastOrder, mcastOrder_mem]
  simp

theorem dueMcasts_isEmpty {s : State} : (dueMcasts s).isEmpty = (s.mcasts.filter fun m => decide (m.due ≤ s.ck)).isEmpty := by
  rw [Bool.eq_iff_iff, List.isEmpty_iff, List.isEmpty_iff, List.eq_nil_iff_forall_not_mem, List.eq_nil_iff_forall_not_mem]
  exact forall_congr' fun m => not_congr mem_dueMcasts

section Landing
variable (m : Mcast) (s : State) (p : Nat × Nat)

/-- What a landing leaves of the package: all but memory, the errors under it, cores, reports and counts. -/
def sameTurn (s t : State) : Prop := t.ck = s.ck ∧ t.mcasts = s.mcasts

theorem landAt_sameTurn : sameTurn s (landAt m s p) := by
  unfold landAt countBad report
  dsimp only
  split
  · split <;> split <;> exact ⟨rfl, rfl⟩
  · exact ⟨rfl, rfl⟩

/-- A landing either writes its bytes, or nothing. -/
theorem landAt_mem : (landAt m s p).mem = if keptOut s p.1 m.bytes.length then s.mem else writeBytes s.mem p.1 m.bytes := by
  unfold landAt
  split
  · rw [(quiet_report _ _ _ _).mem, countBad]
    split <;> rfl
  · rfl

theorem landAt_wf (h : Memory.wf s.mem = true) : Memory.wf (landAt m s p).mem = true := by
  rw [landAt_mem]
  split
  · exact h
  · exact writeBytes_wf h _ _

theorem landAt_off (h : Memory.wf s.mem = true) {k : Nat} (hk : k < p.1 ∨ p.1 + m.bytes.length ≤ k) :
    memGet (landAt m s p).mem k = memGet s.mem k := by
  rw [landAt_mem]
  split
  · rfl
  · rw [memGet_writeBytes h, if_neg (by omega)]

theorem landAt_noPoison (h : s.poison = []) : landAt m s p = storeBytes s p.1 m.bytes := by
  have hk : keptOut s p.1 m.bytes.length = false := by simp [keptOut, poisoned, h]
  rw [landAt, hk]
  rfl

theorem storeBytes_noPoison (h : s.poison = []) (key : Nat) (bs : List Byte) :
    (storeBytes s key bs).poison = [] ∧ (storeBytes s key bs).cores = s.cores := by
  refine ⟨?_, rfl⟩
  have hp : (storeBytes s key bs).poison =
      s.poison.filter fun u => !(decide (key ≤ u ∧ u + unitSize u ≤ key + bs.length)) := rfl
  rw [hp, h]
  rfl

end Landing

/-- What is true of a package and kept by each landing is true once all have landed. -/
theorem landMcasts_induct {P : State → Prop} {s : State}
    (h0 : P { s with mcasts := s.mcasts.filter fun m => !(decide (m.due ≤ s.ck)) })
    (hstep : ∀ m ∈ dueMcasts s, ∀ p ∈ m.addrs.zipIdx, ∀ t, P t → P (landAt m t p)) : P (landMcasts s) :=
  List.foldlRecOn (motive := P) (dueMcasts s) landMcast h0 fun _ ht m hm =>
    List.foldlRecOn (motive := P) m.addrs.zipIdx (landAt m) ht fun u hu p hp => hstep m hm p hp u hu

theorem landMcasts_sameTurn (s : State) : (landMcasts s).ck = s.ck ∧
    (landMcasts s).mcasts = s.mcasts.filter fun m => !(decide (m.due ≤ s.ck)) :=
  landMcasts_induct (P := fun t => t.ck = s.ck ∧ t.mcasts = s.mcasts.filter fun m => !(decide (m.due ≤ s.ck)))
    ⟨rfl, rfl⟩ fun m _ p _ t ht =>
      ⟨(landAt_sameTurn m t p).1.trans ht.1, (landAt_sameTurn m t p).2.trans ht.2⟩

theorem landMcasts_noPoison {s : State} (h : s.poison = []) :
    (landMcasts s).poison = [] ∧ (landMcasts s).cores = s.cores :=
  landMcasts_induct (P := fun t => t.poison = [] ∧ t.cores = s.cores) ⟨h, rfl⟩ fun m _ p _ t ht => by
    rw [landAt_noPoison m t p ht.1]
    have hs := storeBytes_noPoison t ht.1 p.1 m.bytes
    exact ⟨hs.1, hs.2.trans ht.2⟩

theorem landMcasts_off {s : State} (hm : Memory.wf s.mem = true) {k : Nat}
    (hk : ∀ m ∈ dueMcasts s, ∀ p ∈ m.addrs, k < p ∨ p + m.bytes.length ≤ k) :
    memGet (landMcasts s).mem k = memGet s.mem k :=
  (landMcasts_induct (P := fun t => Memory.wf t.mem = true ∧ memGet t.mem k = memGet s.mem k) ⟨hm, rfl⟩
    fun m hdue p hp t ht => by
      have hmem : p.1 ∈ m.addrs := by
        obtain ⟨_, h⟩ := List.mem_zipIdx' hp
        rw [h]
        exact List.getElem_mem _
      exact ⟨landAt_wf m t p ht.1, (landAt_off m t p ht.1 (hk m hdue _ hmem)).trans ht.2⟩).2

/-- Of two stores, the one from the core with the lesser index lands first, and from one core the earlier issued. -/
theorem mcastOrder_two (m₁ m₂ : Mcast) :
    mcastOrder [m₁, m₂] = if m₂.core % 65 < m₁.core % 65 then [m₂, m₁] else [m₁, m₂] := by
  simp only [mcastOrder, List.foldl_cons, List.foldl_nil, List.takeWhile_nil, List.dropWhile_nil, List.nil_append,
    List.takeWhile_cons, List.dropWhile_cons, decide_eq_true_eq]
  by_cases h : m₂.core % 65 < m₁.core % 65
  · rw [if_pos h, if_neg (by omega), if_neg (by omega)]
    rfl
  · rw [if_neg h, if_pos (by omega), if_pos (by omega)]
    rfl

/-- No error comes to stand under bytes as others are stored. -/
theorem poisoned_storeBytes {s : State} {key n : Nat} (h : poisoned s key n = false) (k : Nat) (bs : List Byte) :
    poisoned (storeBytes s k bs) key n = false := by
  refine List.any_eq_false.mpr fun u hu => ?_
  exact List.any_eq_false.mp h u (List.mem_of_mem_filter hu)

theorem landAt_clean {m : Mcast} {s : State} {p : Nat × Nat} (h : poisoned s p.1 m.bytes.length = false) :
    landAt m s p = storeBytes s p.1 m.bytes := by
  rw [landAt, keptOut, h]
  rfl

/-- Two stores to one place, the later of which stands. -/
theorem landTwo {m q : Mcast} {s : State} {p : Nat} (hm : Memory.wf s.mem = true) (h1 : m.addrs = [p]) (h2 : q.addrs = [p])
    (hlen : m.bytes.length = q.bytes.length) (hp : poisoned s p q.bytes.length = false) :
    readBytes (landMcast (landMcast s m) q).mem p q.bytes.length = q.bytes := by
  have hl : ∀ (r : Mcast) (t : State), r.addrs = [p] → landMcast t r = landAt r t (p, 0) := fun r t hr => by
    rw [landMcast, hr]
    rfl
  rw [hl m s h1, hl q _ h2, landAt_clean (m := m) (p := (p, 0)) (by rw [hlen]; exact hp),
    landAt_clean (m := q) (p := (p, 0)) (poisoned_storeBytes hp p m.bytes)]
  exact readBytes_writeBytes (writeBytes_wf hm p m.bytes) p q.bytes

/-- A package in which no core issues and nothing of slot LS performs any more in this ck. -/
theorem landed_rests {t : State} (h : t.landed = some t.ck) :
    (∀ c, issueTurn t c = .idle t) ∧ ∀ c x i, farTurn t c x i = t := by
  refine ⟨fun c => if_pos (.inr h), fun c x i => if_pos ?_⟩
  simp [h]

theorem multicastLanding : Claims.MulticastLanding := by
  intro s hm due
  refine ⟨fun hd => ?_, fun hd => ?_⟩
  · have he : (dueMcasts s).isEmpty = true := dueMcasts_isEmpty.trans (List.isEmpty_iff.mpr hd)
    have hx : exec .tmcstLanding s = .next (if (dueMcasts s).isEmpty then s else { landMcasts s with landed := some s.ck }) :=
      rfl
    rw [hx, if_pos he]
  · have he : (dueMcasts s).isEmpty = false := dueMcasts_isEmpty.trans (List.isEmpty_eq_false_iff.mpr hd)
    have hx : exec .tmcstLanding s = .next (if (dueMcasts s).isEmpty then s else { landMcasts s with landed := some s.ck }) :=
      rfl
    rw [he] at hx
    obtain ⟨hck, hmc⟩ := landMcasts_sameTurn s
    obtain ⟨hissue, hfar⟩ := landed_rests (t := { landMcasts s with landed := some s.ck }) (congrArg some hck.symm)
    refine ⟨_, hx, hmc, rfl, hissue, hfar, fun hp => (landMcasts_noPoison hp).2, fun k hk => ?_, ?_⟩
    · exact landMcasts_off hm fun m hdue => hk m (mem_dueMcasts.mp hdue)
    · intro m₁ m₂ p hdue h1 h2 hlen hp
      have hl : landMcasts s = (dueMcasts s).foldl landMcast
        { s with mcasts := s.mcasts.filter fun m => !(decide (m.due ≤ s.ck)) } := rfl
      have hord : dueMcasts s = if m₂.core % 65 < m₁.core % 65 then [m₂, m₁] else [m₁, m₂] :=
        (congrArg mcastOrder hdue).trans (mcastOrder_two m₁ m₂)
      change readBytes (landMcasts s).mem p _ = _
      rw [hl, hord]
      by_cases hlt : m₂.core % 65 < m₁.core % 65
      · rw [if_pos hlt, if_pos hlt]
        exact landTwo hm h2 h1 hlen.symm hp
      · rw [if_neg hlt, if_neg hlt, hlen]
        exact landTwo hm h1 h2 hlen (by rw [← hlen]; exact hp)

/-- Settles O32. -/
theorem multicast : Obligations.Multicast := ⟨multicastIssue, multicastLanding⟩

end Sys2Proof.Machine
end


section
/-!
Operations that read rows of tiles as they issue (O33, O34, O38, O39, O42 to O44), and DQPOP of a poisoned entry (O37). Each
claim fails as O20 and O28 do: an error met at issue is reported to a context that has blocked in place (R62, log 103), and
the report ends its wait, which the claimed context keeps.
-/
namespace Sys2Proof.Machine

theorem withReports_barWait (t u : Ctx) : (withReports t u).barWait = t.barWait := rfl

theorem barWait_of_queued {i : Instr} {s t : State} {srcs : List Src} {m : Cmd} (h : Queued i s srcs m)
    (hi : exec i s = .next t) : t.me.barWait = (advanced (startCycle s) srcs).barWait := by
  obtain ⟨u, hu, -, hme⟩ := h
  rw [hi] at hu
  cases hu
  rw [hme, withReports_barWait]

theorem barWait_of_lands {i : Instr} {s t : State} {srcs : List Src} {cls : Nat} {rows : List RowsOp} {ws : List RowWrite}
    (h : Lands i s srcs cls rows ws) (hi : exec i s = .next t) :
    t.me.barWait = (advanced (startCycle s) srcs).barWait := by
  obtain ⟨u, hu, -, hme⟩ := h
  rw [hi] at hu
  cases hu
  rw [hme, withReports_barWait]

/-- Context 0 of core 0, blocked in place, with 24 tiles, the first row of its first tile in error. -/
def spoiltRow : State := modCore (heldState 0 fun t => { t with tcnt := 24 }) 0 fun k => { k with bad := [0] }

/-- From `s` to `t` the issuing core has the same rows in error and its context stands as it did. -/
structure KeepsWait (s t : State) : Prop where
  issue : t.issue = s.issue
  bad : t.myCore.bad = s.myCore.bad
  st : t.me.st = s.me.st
  blk : t.me.blk = s.me.blk
  loopn : t.me.loopn = s.me.loopn

theorem KeepsWait.trans {s t u : State} (h : KeepsWait s t) (g : KeepsWait t u) : KeepsWait s u where
  issue := g.issue.trans h.issue
  bad := g.bad.trans h.bad
  st := g.st.trans h.st
  blk := g.blk.trans h.blk
  loopn := g.loopn.trans h.loopn

theorem KeepsWait.refl (s : State) : KeepsWait s s := ⟨rfl, rfl, rfl, rfl, rfl⟩

theorem keepsWait_exposeFrom (row : Nat) (s : State) (cls e : Nat) (w : Write) :
    KeepsWait s (exposeFrom row s s.issue.core s.issue.ctx cls e w) where
  issue := rfl
  bad := (congrArg Core.bad (getCore_modCtx_self s s.issue.core s.issue.ctx _)).trans rfl
  st := (congrArg Ctx.st (getCtx_modCtx_self s s.issue.core s.issue.ctx _)).trans rfl
  blk := (congrArg Ctx.blk (getCtx_modCtx_self s s.issue.core s.issue.ctx _)).trans rfl
  loopn := (congrArg Ctx.loopn (getCtx_modCtx_self s s.issue.core s.issue.ctx _)).trans rfl

theorem noteBad_issue (s : State) (c x epc : Nat) (rows : List (Nat × Nat × Nat)) : (noteBad s c x epc rows).issue = s.issue :=
  (quiet_noteBad s c x epc rows).issue

theorem keepsWait_foldl {α : Type} {f : State → α → State} (hf : ∀ s a, KeepsWait s (f s a)) :
    ∀ (as : List α) (s : State), KeepsWait s (as.foldl f s)
  | [], s => .refl s
  | a :: as, s => (hf s a).trans (keepsWait_foldl hf as _)

theorem noteBad_loopn (s : State) (c x epc : Nat) (rows : List (Nat × Nat × Nat)) :
    (getCtx (noteBad s c x epc rows) c x).loopn = (getCtx s c x).loopn := by
  unfold noteBad
  extract_lets k tb
  split
  · rfl
  · exact (getCtx_report_loopn ..).trans (congrArg Ctx.loopn (getCtx_of_cores rfl ..))

/-- An error met in the first row of core 0's first tile ends the wait of a context that has blocked in place. -/
theorem noteBad_barWait {s : State} (hb : s.myCore.bad = [0]) (hst : s.me.st = .current) (hblk : s.me.blk = 4) (epc : Nat)
    (rows : List (Nat × Nat × Nat)) :
    (noteBad s s.issue.core s.issue.ctx epc ((0, 0, 192) :: rows)).me.barWait = none := by
  have hfind : ((0, 0, 192) :: rows).find? (fun p => (getCore s s.issue.core).bad.any fun b =>
      b / 4 == p.1 * 64 + p.2.1 && decide (b % 4 * 48 < p.2.2)) = some (0, 0, 192) := by
    rw [show (getCore s s.issue.core).bad = [0] from hb]
    rfl
  rw [noteBad, hfind]
  have hme : ∀ n, getCtx (countCore { s with freeCtr := n } s.issue.core) s.issue.core s.issue.ctx = s.me :=
    fun n => getCtx_of_cores rfl ..
  have hlive : ¬(s.me.st = .retired ∨ s.me.st = .free) := by rw [hst]; decide
  have hblocked : s.me.isBlocked = true := by rw [Ctx.isBlocked, hst, hblk]; rfl
  simp only [report, hme, if_neg hlive, hblocked, if_true]
  exact congrArg Ctx.barWait (getCtx_setCtx_self ..)

theorem spoiltRow_barWait (srcs : List Src) : (advanced (startCycle spoiltRow) srcs).barWait = some 0 := rfl

/-! ## Copies and indexed copies (R200 to R204) -/

/-- `spoiltRow` with a nest of 3 iterations of 4 bytes in n0. -/
def spoiltNest : State := modCtx spoiltRow 0 0 fun t =>
  { t with n := t.n.set 0 ((t.n[0]).set 0 (BitVec.ofNat 64 (3 * 2 ^ 40 + 4))) }

theorem spoiltNest_meets : goes (opTst alwaysRuns 0 0 0 ⟨1, false⟩ 0 0x3FF none .f32 .rne false) spoiltNest = true ∧
    0 < nestIters (nWords (startCycle spoiltNest).me 0) := by decide

theorem tst_spoiltNest_barWait :
    (runGroup [opTst alwaysRuns 0 0 0 ⟨1, false⟩ 0 0x3FF none .f32 .rne false] spoiltNest).me.barWait = none := by decide

/-- Refutes O33: the report of an error in the row that a TST reads ends the wait of a context that has blocked in place. -/
theorem not_copiesQueue : ¬ Obligations.CopiesQueue := by
  rintro ⟨-, h⟩
  have hq := h alwaysRuns 0 0 0 ⟨1, false⟩ 0 0x3FF none .f32 .rne false spoiltNest spoiltNest_meets.1 spoiltNest_meets.2
  exact absurd (tst_spoiltNest_barWait.symm.trans (barWait_of_queued hq rfl)) (by decide)

theorem spoiltRow_tgath_goes : goes (opTgath alwaysRuns 1 0 0 ⟨1, false⟩ 0 0 0x3FF none false) spoiltRow = true := by decide

theorem tgath_spoiltRow_barWait :
    (runGroup [opTgath alwaysRuns 1 0 0 ⟨1, false⟩ 0 0 0x3FF none false] spoiltRow).me.barWait = none := by decide

/-- Refutes O34: the report of an error in the index row that a TGATH reads ends the wait of a context that has blocked in
place. -/
theorem not_indexedCopiesQueue : ¬ Obligations.IndexedCopiesQueue := by
  intro h
  have hq := (h alwaysRuns 1 0 0 ⟨1, false⟩ 0 0 0x3FF none false false spoiltRow).1 spoiltRow_tgath_goes
  exact absurd (tgath_spoiltRow_barWait.symm.trans (barWait_of_queued hq rfl)) (by decide)

/-! ## The data queue (R210) -/

/-- The entry of a 16-byte request that came back poisoned. -/
def poisonedEntry : DqEnt := ⟨0, 64, 16, true, true, false, List.replicate 16 1, false, none, none⟩

/-- Context 0 of core 0, blocked in place, whose data queue holds the poisoned entry. -/
def poisonedQueue : State := heldState 0 fun t => { t with dq := [poisonedEntry] }

theorem poisonedQueue_meets : clear alwaysRuns [] (Dest.full (.g 3)) (Dest.push (.g 3)) poisonedQueue = true ∧
    ((startCycle poisonedQueue).me.dq = [poisonedEntry] ∧ poisonedEntry.arrived = true ∧
      (startCycle poisonedQueue).myCore.lanternOn = false) ∧
    poisonedEntry.poison = true ∧ poisonedEntry.half = false ∧ (startCycle poisonedQueue).me.st = .current := by decide

theorem dqpop_poisonedQueue_barWait : (runGroup [opDqpop alwaysRuns (.g 3)] poisonedQueue).me.barWait = none ∧
    (advanced (startCycle poisonedQueue) []).barWait = some 0 := by decide

/-- Refutes O37: the report of a poisoned entry ends the wait of a context that has blocked in place. -/
theorem not_addressDataQueues : ¬ Obligations.AddressDataQueues := by
  rintro ⟨-, h⟩
  obtain ⟨hc, hhere, hp, hhalf, hst⟩ := poisonedQueue_meets
  obtain ⟨t, ht, -, hme⟩ := (h alwaysRuns 3 (.g 3) 0 0 0 poisonedQueue poisonedEntry [] |>.2.2.2) hc hhere hp hhalf hst
  have hx : runGroup [opDqpop alwaysRuns (.g 3)] poisonedQueue = t := Host.Outcome.next.inj ht
  have hw := congrArg Ctx.barWait hme
  rw [← hx, dqpop_poisonedQueue_barWait.1] at hw
  exact absurd (hw.trans dqpop_poisonedQueue_barWait.2) (by decide)

/-! ## The codebook and the transforms (R227 to R232) -/

theorem spoiltRow_xtbl_goes : goes (opXtbl alwaysRuns 0 0) spoiltRow = true := by decide

theorem xtbl_spoiltRow_barWait : (runGroup [opXtbl alwaysRuns 0 0] spoiltRow).me.barWait = none := by decide

/-- Refutes O38: the report of an error in the row that an XTBL reads ends the wait of a context that has blocked in place. -/
theorem not_latchesAndCodebook : ¬ Obligations.LatchesAndCodebook := by
  rintro ⟨-, h⟩
  obtain ⟨t, ht, -, hme⟩ := h alwaysRuns 0 0 spoiltRow spoiltRow_xtbl_goes
  have hx : runGroup [opXtbl alwaysRuns 0 0] spoiltRow = t := Host.Outcome.next.inj ht
  have hw := congrArg Ctx.barWait hme
  rw [← hx, xtbl_spoiltRow_barWait] at hw
  exact absurd (hw.trans (spoiltRow_barWait [])) (by decide)

theorem spoiltRow_xtrn_goes : goes (opXtrn alwaysRuns 1 0 0 0 .f32 .f32) spoiltRow = true := by decide

theorem xtrn_spoiltRow_barWait : (runGroup [opXtrn alwaysRuns 1 0 0 0 .f32 .f32] spoiltRow).me.barWait = none := by decide +kernel

/-- Refutes O39: the report of an error in a row that an XTRN reads ends the wait of a context that has blocked in place. -/
theorem not_transformResults : ¬ Obligations.TransformResults := by
  intro h
  have hl := ((h alwaysRuns 1 0 0 0 .f32 .f32 .rne 0 0 spoiltRow).2.2.1 spoiltRow_xtrn_goes).1
  exact absurd (xtrn_spoiltRow_barWait.symm.trans (barWait_of_lands hl rfl)) (by decide)

/-! ## Tree descent, reductions, sorting (R225, R233, R234) -/

theorem spoiltRow_tdesc_goes : goes (opTdesc alwaysRuns 0 0 0 0 0) spoiltRow = true := by decide

theorem noteBad_keepsLoopn {a t u : State} (hi : t.issue = a.issue) (hk : KeepsWait t u) (hn : t.me.loopn = none) {epc : Nat}
    {rows : List (Nat × Nat × Nat)} : (noteBad u a.issue.core a.issue.ctx epc rows).me.loopn = none := by
  rw [← hi, ← hk.issue, State.me, noteBad_issue]
  exact (noteBad_loopn ..).trans (hk.loopn.trans hn)

theorem after_noteBad_barWait {a t : State} (hi : t.issue = a.issue) (hb : t.myCore.bad = [0]) (hst : t.me.st = .current)
    (hblk : t.me.blk = 4) (epc : Nat) (rows : List (Nat × Nat × Nat)) :
    (after a (noteBad t a.issue.core a.issue.ctx epc ((0, 0, 192) :: rows))).me.barWait = none := by
  rw [← hi, after_me ((noteBad_issue ..).trans hi)]
  exact noteBad_barWait hb hst hblk epc rows

/-- An operation whose effect notes the errors of its rows last, the first row of core 0's first tile among them, ends the
wait of a context that has blocked in place. -/
theorem barWait_of_noteBad {i : Instr} {o : Op} {s : State} {f : State → State} {rows rest : List (Nat × Nat × Nat)}
    (hx : exec i s = runOne o s) (hgo : goes o s = true) (hs : o.srcs = [])
    (hg : o.goto (startCycle s) (srcVals [] (startCycle s)) = none)
    (he : ∀ t, o.effect (startCycle s) (srcVals [] (startCycle s)) t =
      noteBad (f t) (startCycle s).issue.core (startCycle s).issue.ctx (startCycle s).issue.addr rows)
    (hr : rows = (0, 0, 192) :: rest) (hf : ∀ t, t.issue = (startCycle s).issue → KeepsWait t (f t))
    (hb : (before (startCycle s) [] none).myCore.bad = [0])
    (hst : (before (startCycle s) [] none).me.st = .current) (hblk : (before (startCycle s) [] none).me.blk = 4) :
    ∃ t, exec i s = .next t ∧ t.me.barWait = none := by
  subst hr
  have hx' := exec_of_effect hx hgo hs hg fun t hi _ hn => by
    rw [he]
    exact noteBad_keepsLoopn hi (hf t hi) hn
  rw [he] at hx'
  have hk := hf (before (startCycle s) [] none) (before_issue ..)
  have hi := hk.issue.trans (before_issue ..)
  exact ⟨_, hx', after_noteBad_barWait hi (hk.bad.trans hb) (hk.st.trans hst) (hk.blk.trans hblk) _ _⟩

theorem opTdesc_effect (gd : Guard) (y0 cnt : Fin 64) (t : Fin 32) (row : Fin 64) (lv : Fin 32) (a : State) (v : List Word)
    (s : State) : (opTdesc gd y0 cnt t row lv).effect a v s =
      noteBad ((List.range (cnt.val + 1)).foldl (fun s r => descendRow a y0 t row lv.val r s) s) a.issue.core a.issue.ctx
        a.issue.addr ((List.range (cnt.val + 1)).map fun r =>
          ((descentPlace a t row lv.val r (yAt a y0 r)).1, (descentPlace a t row lv.val r (yAt a y0 r)).2.1, 192)) := rfl

theorem keepsWait_descendRow (a : State) (y0 : Fin 64) (t : Fin 32) (row : Fin 64) (lv r : Nat) (s : State) :
    KeepsWait s (descendRow a y0 t row lv r s) := by
  unfold descendRow
  dsimp only
  split
  · exact keepsWait_exposeFrom ..
  · exact (keepsWait_exposeFrom ..).trans (keepsWait_exposeFrom ..)

theorem tdesc_spoiltRow_barWait : ∃ t, exec (.tdesc alwaysRuns 0 0 0 0 0) spoiltRow = .next t ∧ t.me.barWait = none :=
  barWait_of_noteBad (o := opTdesc alwaysRuns 0 0 0 0 0) (rest := []) rfl spoiltRow_tdesc_goes rfl rfl
    (opTdesc_effect alwaysRuns 0 0 0 0 0 (startCycle spoiltRow) _) (by decide)
    (fun t _ => keepsWait_foldl (fun s r => keepsWait_descendRow (startCycle spoiltRow) 0 0 0 0 r s) _ t) rfl rfl rfl

/-- Refutes O42: the report of an error in a row that a TDESC reads ends the wait of a context that has blocked in place. -/
theorem not_treeDescentResults : ¬ Obligations.TreeDescentResults := by
  intro h
  obtain ⟨t, ht, hw⟩ := tdesc_spoiltRow_barWait
  have hl := (h alwaysRuns 0 0 0 0 ⟨1, false⟩ ⟨1, false⟩ 0 spoiltRow).2.2.2.1 spoiltRow_tdesc_goes
  exact absurd (hw.symm.trans (barWait_of_lands hl ht)) (by decide)

theorem spoiltRow_rsum_goes : goes (opRsum alwaysRuns false 0 0 0 1 0 .f32 .f32 none none 0) spoiltRow = true := by decide

theorem keepsWait_giveReduced (n last : Nat) (s : State) (w : Write) : KeepsWait s (giveReduced n last s w) :=
  keepsWait_exposeFrom ..

theorem keepsWait_giveRows (n last tile row : Nat) (f : Fmt) (rows : List (List (Option Nat × Flags))) (s : State) :
    KeepsWait s (giveRows n last tile row f rows s) := by
  refine keepsWait_foldl (fun s p => ?_) _ s
  have hw := keepsWait_foldl (keepsWait_giveReduced n last) (rowWrites tile (row + p.2) f (p.1.map (·.1))) s
  dsimp only
  split
  · exact hw
  · exact hw.trans (keepsWait_giveReduced ..)

/-- What a reduction puts in flight, before it notes the errors of its rows. -/
def reduced (a : State) (n last tile row cut : Nat) (f : Fmt) (r : RRun) (s : State) : State :=
  let o := newOp (takeReduction a n s) a.issue.core
  let s := giveRows n last tile row f (chunks cut (r.outs.length + 1) r.outs) o.2
  if r.a.endFlags ||| r.z.endFlags = 0 then s
  else giveReduced n last s (.rowFlags (a.me.icyc + last) (r.a.endFlags ||| r.z.endFlags))

theorem keepsWait_modCore {F : Core → Core} (hb : ∀ k, (F k).bad = k.bad) (hx : ∀ k x, (F k).get x = k.get x) (s : State) :
    KeepsWait s (modCore s s.issue.core F) := by
  have hme : (modCore s s.issue.core F).me = s.me := (modCore_me s F).trans (hx _ _)
  exact ⟨rfl, (congrArg Core.bad (modCore_myCore s F)).trans (hb _), congrArg Ctx.st hme, congrArg Ctx.blk hme,
    congrArg Ctx.loopn hme⟩

theorem keepsWait_takeReduction {a : State} (n : Nat) {s : State} (hi : s.issue = a.issue) :
    KeepsWait s (newOp (takeReduction a n s) a.issue.core).2 := by
  rw [takeReduction, ← hi]
  exact (keepsWait_modCore (F := fun k => { k with rFree := a.me.icyc + n, rUser := s.issue.ctx }) (fun _ => rfl)
    (fun _ _ => rfl) s).trans (keepsWait_modCore (F := fun k => { k with opSeq := k.opSeq + 1 }) (fun _ => rfl) (fun _ _ => rfl) _)

theorem keepsWait_reduced {a : State} (n last tile row cut : Nat) (f : Fmt) (r : RRun) {s : State} (hi : s.issue = a.issue) :
    KeepsWait s (reduced a n last tile row cut f r s) := by
  have hw := (keepsWait_takeReduction n hi).trans
    (keepsWait_giveRows n last tile row f (chunks cut (r.outs.length + 1) r.outs) _)
  unfold reduced
  dsimp only
  split
  · exact hw
  · exact hw.trans (keepsWait_giveReduced ..)

theorem reduceOp_effect {i : Instr} (hi : rowCount i ≤ 1) (gd : Guard) (st : Fin 32) (srow cnt : Fin 64) (dt : Fin 32)
    (drow : Fin 64) (fs fd : Fmt) (km : Fin 4) (dests cut : Nat) (pre : List Trap)
    (run : Word → Flags → List (List Nat) → RRun → RRun) (a : State) (v : List Word) {r : RRun}
    (hr : run a.me.k[Fin.ofNat 8 km.val] a.me.flags (sourceRows a st.val srow.val (cnt.val + 1) fs)
      ⟨[], rport a.myCore none, rport a.myCore none, none⟩ = r) (hf : r.fault = none) (s : State) :
    (reduceOp i gd st srow cnt dt drow fs fd none none km dests cut pre run).effect a v s =
      noteBad (reduced a (rowPace a.myCore [none, none] * (cnt.val + 1)) (rowPace a.myCore [none, none] * cnt.val)
        (a.tile dt.val) drow.val cut fd r s) a.issue.core a.issue.ctx a.issue.addr
        (wholeRows (a.tile st.val) srow.val (cnt.val + 1)) := by
  simp only [rport] at hr
  simp only [reduceOp, rport, hr, hf, Option.isSome_none, Bool.false_eq_true, if_false, startRows, hi,
    if_true, holdSlot, reduced]

/-- What the RSUM of `spoiltRow`'s row makes. -/
def spoiltSum : RRun := reduceRows .sum false .f32 .f32 (startCycle spoiltRow).me.k[Fin.ofNat 8 (0 : Fin 4).val]
  (startCycle spoiltRow).me.flags (sourceRows (startCycle spoiltRow) (0 : Fin 32).val (0 : Fin 64).val ((0 : Fin 64).val + 1) .f32)
  ⟨[], rport (startCycle spoiltRow).myCore none, rport (startCycle spoiltRow).myCore none, none⟩

theorem spoiltSum_fault : spoiltSum.fault = none := rfl

theorem rsum_spoiltRow_barWait :
    ∃ t, exec (.rsum alwaysRuns false 0 0 0 1 0 .f32 .f32 none none 0) spoiltRow = .next t ∧ t.me.barWait = none :=
  barWait_of_noteBad (o := opRsum alwaysRuns false 0 0 0 1 0 .f32 .f32 none none 0) (rest := []) rfl spoiltRow_rsum_goes rfl
    rfl (fun s => reduceOp_effect (i := .rsum alwaysRuns false 0 0 0 1 0 .f32 .f32 none none 0) (r := spoiltSum) (by decide)
      alwaysRuns 0 0 0 1 0 .f32 .f32 0 _ _ _ _ _ _ rfl spoiltSum_fault s) rfl
    (fun _ hi => keepsWait_reduced _ _ _ _ _ _ _ hi) rfl rfl rfl

/-- Refutes O43: the report of an error in a row that an RSUM reads ends the wait of a context that has blocked in place. -/
theorem not_reductionResults : ¬ Obligations.ReductionResults := by
  intro h
  obtain ⟨t, ht, hw⟩ := rsum_spoiltRow_barWait
  have hl := ((h alwaysRuns false 0 0 0 1 0 .f32 .f32 none none 0 spoiltRow).1 spoiltRow_rsum_goes spoiltSum_fault).1
  exact absurd (hw.symm.trans (barWait_of_lands hl ht)) (by decide)

theorem spoiltRow_rsortk_goes : goes (opRsortk alwaysRuns 0 0 0 1 0 0) spoiltRow = true := by decide

theorem rsortk_spoiltRow_barWait : (runGroup [opRsortk alwaysRuns 0 0 0 1 0 0] spoiltRow).me.barWait = none := by
  decide +kernel

/-- Refutes O44: the report of an error in a row that an RSORTK reads ends the wait of a context that has blocked in place. -/
theorem not_sortPruneResults : ¬ Obligations.SortPruneResults := by
  intro h
  obtain ⟨pi, -, -, hl⟩ := (h alwaysRuns 0 0 0 1 0 0 .f32 0 0 spoiltRow).1 spoiltRow_rsortk_goes
  exact absurd (rsortk_spoiltRow_barWait.symm.trans (barWait_of_lands hl rfl)) (by decide)

end Sys2Proof.Machine
end


section
/-!
The start of the Lantern (O45, which fails in the number of its first access).
-/
namespace Sys2Proof.Machine

/-- Context 0 of core 0, with 4 KiB at the start of its vault granted to its group, has issued five accesses and is about to
start the Lantern, which has not run since reset, with the parameter block at address 0. -/
def beforeLantern : State :=
  { modCtx { State.reset with issue := { State.reset.issue with core := 0, ctx := 0 } } 0 0 fun t =>
      { t with st := .current, group := 1, uid := 5 } with
    tables := [((2, 0, 0), 2 ^ 48 + 2 ^ 33 + 1), ((2, 0, 1), 0)] }

theorem beforeLantern_meets : clear alwaysRuns [gs ⟨1, false⟩, gs ⟨1, false⟩] [] [] beforeLantern = true ∧
    (startCycle beforeLantern).me.flights = [] ∧ (startCycle beforeLantern).me.rows = [] ∧
    (val [gs ⟨1, false⟩, gs ⟨1, false⟩] beforeLantern 0).toNat = 0 ∧ (val [gs ⟨1, false⟩, gs ⟨1, false⟩] beforeLantern 1).toNat = 0 ∧
    check143 (startCycle beforeLantern) 0 0 0 64 = [] ∧ (startCycle beforeLantern).myCore.lanternOn = false ∧
    ownedElsewhere (startCycle beforeLantern).myCore 0 = false ∧ (startCycle beforeLantern).myCore.serving = [] := by decide

theorem lnstart_beforeLantern_first :
    (runGroup [opLnstart alwaysRuns ⟨1, false⟩ ⟨1, false⟩] beforeLantern).myCore.lantern.first = 5 ∧
    (startCycle beforeLantern).myCore.lantern.first = 0 := by decide

/-- Refutes O45: LNSTART also notes the number of its context's next access (R279, R322), which the claimed Lantern keeps. -/
theorem not_lanternStarts : ¬ Obligations.LanternStarts := by
  rintro ⟨h, -⟩
  obtain ⟨hc, hfl, hrows, hentry, hblock, hcheck, hon, howner, hserving⟩ := beforeLantern_meets
  have hs := (h alwaysRuns ⟨1, false⟩ ⟨1, false⟩ beforeLantern hc (by decide) hfl hrows).1
  simp only [hentry, hblock] at hs
  obtain ⟨t, ht, -, -, -, hln⟩ := hs (by decide) hcheck hon howner (by rw [hserving]; exact fun _ hv => nomatch hv)
  have hx : runGroup [opLnstart alwaysRuns ⟨1, false⟩ ⟨1, false⟩] beforeLantern = t := Host.Outcome.next.inj ht
  have hf := congrArg Lantern.first hln
  rw [← hx] at hf
  exact absurd (lnstart_beforeLantern_first.1.symm.trans (hf.trans lnstart_beforeLantern_first.2)) (by decide)

end Sys2Proof.Machine
end


section
/-!
Pages (O57, which fails where a table lists an entry twice: the raw list names a page that no current entry names).
-/
namespace Sys2Proof.Machine

/-- One page whose entry stands at 1 MiB. -/
def onePage : Nat := 2 ^ 40 + 2 ^ 20 + 1

/-- Chiplet 0's objects 1 and 2 named the same page, which is present in the frame at 64 KiB; object 2's entry has been
replaced by one out of force, its translation still in the cache. -/
def doublyMapped : State :=
  { State.reset with
    mem := [(2 ^ 20, 1), (2 ^ 20 + 2, 1)]
    tables := [((1, 0, 1), onePage), ((1, 0, 2), 0), ((1, 0, 2), onePage)]
    tcache := [((0, 2, 0), 1)] }

theorem doublyMapped_meets : Memory.wf doublyMapped.mem = true ∧ pteKey doublyMapped 0 1 0 = some (2 ^ 20) ∧
    bitAt (memLe doublyMapped (2 ^ 20) 8) 0 = true ∧ bits (memLe doublyMapped (2 ^ 20) 8) 47 16 = 1 ∧
    mappersOf doublyMapped 65536 = [(0, 1, 0), (0, 2, 0)] ∧ countKey doublyMapped 65536 = none ∧
    pteKey doublyMapped 0 2 0 = none ∧
    (∀ m ∈ [(0, 1, 0), (0, 2, 0)], lockedPage doublyMapped m.1 m.2.1 m.2.2 = false ∧
      shootHeld doublyMapped m.1 (pageWord m.2.1 m.2.2) = false) := by decide

theorem setCount_tcache (s : State) (key n : Nat) : (setCount s key n).tcache = s.tcache := by
  unfold setCount
  split <;> rfl

/-- An eviction drops no translations but those of the pages that it takes out of their tables. -/
theorem evictPage_tcache {s : State} {ch obj page dest k : Nat} (hk : pteKey s ch obj page = some k)
    (hp : bitAt (memLe s k 8) 0 = true) (hd : goodDest dest = true)
    (hm : ((mappersOf s (bits (memLe s k 8) 47 16 * 65536)).any fun m =>
      lockedPage s m.1 m.2.1 m.2.2 || shootHeld s m.1 (pageWord m.2.1 m.2.2)) = false) :
    (evictPage s ch obj page dest).tcache =
      ((mappersOf s (bits (memLe s k 8) 47 16 * 65536)).foldl unmapPage s).tcache := by
  simp only [evictPage, hk, hp, hd, hm, Bool.true_eq_false, decide_false, Bool.not_true, Bool.or_self, Bool.false_eq_true,
    if_false]
  exact setCount_tcache ..

theorem evictPage_doublyMapped : (evictPage doublyMapped 0 1 0 131072).tcache = [((0, 2, 0), 1)] := by
  obtain ⟨-, hk, hp, hf, hms, -, -, hfree⟩ := doublyMapped_meets
  rw [evictPage_tcache hk hp (by decide), hf, Nat.one_mul, hms]
  · decide
  · rw [hf, Nat.one_mul, hms, List.any_eq_false]
    intro m hm
    simp [hfree m hm]

/-- The entry in force lies apart from the frame and from the place it is copied to. -/
theorem doublyMapped_apart {m : Nat × Nat × Nat} (hm : m ∈ [(0, 1, 0), (0, 2, 0)]) {km : Nat}
    (hk : pteKey doublyMapped m.1 m.2.1 m.2.2 = some km) :
    (km + 8 ≤ 65536 ∨ 65536 + 65536 ≤ km) ∧ (km + 8 ≤ 131072 ∨ 131072 + 65536 ≤ km) := by
  obtain ⟨-, hk1, -, -, -, -, hk2, -⟩ := doublyMapped_meets
  rcases List.mem_cons.mp hm with rfl | hm
  · cases hk1.symm.trans hk
    decide
  · cases List.mem_singleton.mp hm
    exact nomatch hk2.symm.trans hk

/-- Refutes O57: an eviction leaves in the cache the translation of a page that a replaced table entry names. -/
theorem not_eventsOfMemory : ¬ Obligations.EventsOfMemory := by
  rintro ⟨h, -⟩
  obtain ⟨hwf, hk, hp, hf, hms, hcount, hk2, hfree⟩ := doublyMapped_meets
  have hs := (h 0 1 0 0 131072 (2 ^ 20) [] doublyMapped hwf hk).2.1
  simp only [hf, Nat.one_mul, hms, hcount] at hs
  obtain ⟨t, ht, -, -, -, -, hc⟩ := hs hp (by decide) (fun a ha => nomatch ha) (fun m hm =>
    ⟨(hfree m hm).1, (hfree m hm).2, fun km hkm => doublyMapped_apart hm hkm⟩) (by decide) (by decide) (by decide)
  have hx : evictPage doublyMapped 0 1 0 131072 = t := Host.Outcome.next.inj ht
  refine hc (0, 2, 0) (by decide) (by decide) (by decide) ((0, 2, 0), 1) ?_ rfl
  rw [← hx, evictPage_doublyMapped]
  exact List.mem_singleton_self _

end Sys2Proof.Machine
end


section
/-!
Nest registers (O36).
-/
namespace Sys2Proof.Machine

/-! ## NSET and NCLR (R195) -/

theorem nsetTraps_good {a b : Word} (ha : a.toNat < 2 ^ 24) (hb : -(2 ^ 39) ≤ b.toInt ∧ b.toInt < 2 ^ 39) : nsetTraps a b = [] := by
  unfold nsetTraps
  rw [if_neg (by omega), if_neg (by omega)]

theorem nsetTraps_bound {a b : Word} (ha : 2 ^ 24 ≤ a.toNat) : nsetTraps a b = [⟨4, causeRESERVED, a.toNat⟩] :=
  if_pos (by omega)

theorem nsetTraps_stride {a b : Word} (ha : a.toNat < 2 ^ 24) (hb : ¬(-(2 ^ 39) ≤ b.toInt ∧ b.toInt < 2 ^ 39)) :
    nsetTraps a b = [⟨4, causeRESERVED, b.toNat⟩] := by
  unfold nsetTraps
  rw [if_neg (by omega), if_pos (by omega)]

/-- The six words of zero that NCLR writes. -/
def clearedLevels (n : Fin 8) : List RowWrite := (List.range 6).map fun k => (0, 0, .n n k 0)

theorem opNclr_effect (gd : Guard) (n : Fin 8) (a : State) (v : List Word) (s : State) :
    (opNclr gd n).effect a v s = s.modMe (exposeAll s.ck 0 (clearedLevels n)) := by
  have h : (opNclr gd n).effect a v s = (clearedLevels n).foldl
      (fun s w => exposeFrom w.1 s s.issue.core s.issue.ctx 0 w.2.1 w.2.2) s := by
    rw [clearedLevels, List.foldl_map]
    rfl
  have hs : exposeFrom 0 s s.issue.core s.issue.ctx 0 0 (.n n 0 0) = s.modMe (exposeAll s.ck 0 [(0, 0, .n n 0 0)]) := rfl
  have hcons : clearedLevels n = (0, 0, .n n 0 0) :: [1, 2, 3, 4, 5].map fun k => (0, 0, .n n k 0) := rfl
  rw [h, hcons, List.foldl_cons, hs, foldl_exposeFrom_modMe]
  rfl

theorem opNset_traps (gd : Guard) (n l : Fin 8) (x y : GSrc) (a : State) (v : List Word) :
    (opNset gd n l x y).traps a v = nsetTraps (operand v 0) (operand v 1) := rfl

theorem opNset_effect (gd : Guard) (n l : Fin 8) (x y : GSrc) (a : State) (v : List Word) (s : State) :
    (opNset gd n l x y).effect a v s =
      give s 0 (.n n l.val (BitVec.ofNat 64 ((operand v 0).toNat * 2 ^ 40 + (operand v 1).toNat % 2 ^ 40))) 0 := by
  simp only [opNset, bits, Nat.pow_zero, Nat.div_one, Nat.sub_zero, Nat.reduceAdd]

section Nset
variable {gd : Guard} {n l : Fin 8} {x y : GSrc} {s : State} (hc : clear gd [gs x, gs y] [] [] s = true)
include hc

theorem gives_nset (ht : nsetTraps (val [gs x, gs y] s 0) (val [gs x, gs y] s 1) = []) :
    Gives (.nset gd n l x y) s [gs x, gs y] 0 (.n n l.val (BitVec.ofNat 64
      ((val [gs x, gs y] s 0).toNat * 2 ^ 40 + (val [gs x, gs y] s 1).toNat % 2 ^ 40))) 0 := by
  have hg : goes (opNset gd n l x y) s = true :=
    goes_of_srcs hc rfl rfl rfl rfl (scoreboard_nil _) rfl rfl ((opNset_traps ..).trans ht) rfl rfl rfl
  exact gives_of_goes (o := opNset gd n l x y) rfl hg rfl fun _ _ => opNset_effect ..

theorem exec_nset_trap {v : Nat} (ht : nsetTraps (val [gs x, gs y] s 0) (val [gs x, gs y] s 1) = [⟨4, causeRESERVED, v⟩]) :
    exec (.nset gd n l x y) s = .next (takeTrap (delivered s) s.issue.core s.issue.ctx causeRESERVED v s.issue.addr) :=
  exec_trap_of_srcs (o := opNset gd n l x y) rfl hc rfl rfl rfl rfl (scoreboard_nil _) rfl rfl ((opNset_traps ..).trans ht)
    fun _ => rfl

end Nset

theorem countCycle_clearedLevels (a : State) (n : Fin 8) :
    countCycle a (exposeAll a.ck 0 (clearedLevels n) (moveOn (srcPops [] a) (flow a.me a.issue.next none) a.me)) =
      { advanced a [] with flights := addFlights a 0 (clearedLevels n) } := rfl

theorem issuesAs_nclr {gd : Guard} {n : Fin 8} {s : State} (hc : clear gd [] [] [] s = true) :
    IssuesAs (.nclr gd n) s { advanced (startCycle s) [] with flights := addFlights (startCycle s) 0 (clearedLevels n) } := by
  rw [← countCycle_clearedLevels]
  exact issuesAs_of_effect (o := opNclr gd n) (f := exposeAll (startCycle s).ck 0 (clearedLevels n)) rfl
    (goes_of_clear hc rfl (scoreboard_nil _) rfl rfl rfl rfl rfl) rfl rfl
    (fun t _ hk => by rw [opNclr_effect, hk]) fun _ ht => ht

/-- Settles O36, with the checks of NSET on its two values. -/
theorem nestRegisters : Obligations.NestRegisters := by
  intro gd n l x y s b d small
  exact ⟨fun hc hb hd => gives_nset hc (nsetTraps_good hb hd), fun hc hb => exec_nset_trap hc (nsetTraps_bound hb),
    fun hc hb hd => exec_nset_trap hc (nsetTraps_stride hb hd), fun hc => issuesAs_nclr hc⟩

end Sys2Proof.Machine
end


section
/-!
Copies that block or trap (O35).
-/
namespace Sys2Proof.Machine

/-! ## A copy with no room (R62, R185, R278) -/

theorem blockGroup_mem (s : State) (n : Nat) : (blockGroup s n fun s => s).mem = s.mem := rfl

theorem blockGroup_tiles (s : State) (n : Nat) : (blockGroup s n fun s => s).myCore.tiles = s.myCore.tiles := by
  have h : blockGroup s n (fun s => s) = modCore s s.issue.core fun k =>
      { k.put s.issue.ctx ({ (k.get s.issue.ctx).waits s.ck n with
          st := if othersReady s then .blocked else (k.get s.issue.ctx).st }) with
        lastIssue := some s.ck, cur := s.issue.ctx } := by
    simp only [blockGroup, State.modMe, modCtx_eq_modCore, modCore_modCore]
  rw [h, modCore_myCore]
  rfl

theorem copyBlock_of_full {a : State} (h : 16 ≤ a.me.cmds.length ∨ a.myCore.lanternOn = true) :
    copyBlock a = some (if 16 ≤ a.me.cmds.length then 1 else 9) := by
  unfold copyBlock
  by_cases hf : 16 ≤ a.me.cmds.length
  · rw [if_pos hf, if_pos hf]
  · rw [if_neg hf, if_neg hf, if_pos (h.resolve_left hf)]

theorem opTld_block (gd : Guard) (t : Fin 32) (row cnt : Fin 64) (r : GSrc) (n : Fin 8) (bar : Fin 1024) (p : Option (Fin 16))
    (fmt : Fmt) (rm : Rm) (ps : Bool) (a : State) (v : List Word) :
    (opTld gd t row cnt r n bar p fmt rm ps).block a v = copyBlock a := rfl

theorem copyBlocks : Claims.CopyBlocks := by
  intro gd t row cnt r n bar p fmt rm ps s a o hc hdec hsb hempty htraps hfull
  have hx : runGroup [o] s = blockGroup s _ o.onBlock :=
    runGroup_block hc hdec hsb rfl hempty htraps ((opTld_block ..).trans (copyBlock_of_full hfull))
  exact ⟨_, congrArg Host.Outcome.next hx, blocks_blockGroup _ _, blockGroup_mem _ _, blockGroup_tiles _ _⟩

/-! ## A TLD of a bad form (R180, R182, R202, R214) -/

theorem mem_trapIf {c : Bool} {t q : Trap} (h : q ∈ trapIf c t) : q = t := by
  cases c
  · exact absurd h List.not_mem_nil
  · exact List.mem_singleton.mp h

theorem extentTraps_step {s : State} {c x a : Nat} {ws : List Nat} {u : Nat} {clip : Option Nat} {q : Trap}
    (h : q ∈ extentTraps s c x a ws u clip) : q.step = 7 := by
  unfold extentTraps at h
  split at h
  · exact absurd h List.not_mem_nil
  · rw [mem_trapIf h]

section Tld
variable {gd : Guard} {t : Fin 32} {row cnt : Fin 64} {r : GSrc} {n : Fin 8} {bar : Fin 1024} {fmt : Fmt}

/-- The TLD that binds no port slot. -/
abbrev plainTld (gd : Guard) (t : Fin 32) (row cnt : Fin 64) (r : GSrc) (n : Fin 8) (bar : Fin 1024) (fmt : Fmt) : Op :=
  opTld gd t row cnt r n bar none fmt .rne false

/-- What a TLD checks after its tile, its format and its address. -/
def tldExtent (a : State) (n : Fin 8) (cnt : Fin 64) (fmt : Fmt) (b : Nat) : List Trap :=
  trapIf (!(copyFits (nWords a.me n) cnt.val (farFmt a.myCore none fmt true) (unitElems fmt))) (combo 10 5 0)
    ++ trapIf (!(nestAligned b (nWords a.me n) (unitBytes fmt))) ⟨7, causeALIGN, b⟩
    ++ extentTraps a a.issue.core a.issue.ctx b (nWords a.me n) (unitBytes fmt) none

theorem plainTld_decode (a : State) : (plainTld gd t row cnt r n bar fmt).decode a = none := by
  simp [plainTld, opTld, portsDecode]

theorem plainTld_empty (a : State) (v : List Word) : (plainTld gd t row cnt r n bar fmt).empty a v =
    rowsPending a.me (a.me.tbase + t.val) row.val (row.val + cnt.val) := rfl

theorem plainTld_scoreboard (a : State) : scoreboard a.myCore ((plainTld gd t row cnt r n bar fmt).tileR a)
    ((plainTld gd t row cnt r n bar fmt).tileW a) = scoreboard a.myCore [] [a.me.tbase + t.val] := rfl

theorem plainTld_traps (a : State) (v : List Word) : (plainTld gd t row cnt r n bar fmt).traps a v =
    trapIf (decide (a.me.tcnt ≤ t.val)) (combo 10 1 0) ++ (trapIf (decide (63 < row.val + cnt.val)) (combo 10 2 0) ++
      (trapIf (!fmt.isCopy) (combo 10 3 0) ++ (trapIf (!(addrFormOk (operand v 0).toNat true))
        ⟨4, causeRESERVED, (operand v 0).toNat⟩ ++ tldExtent a n cnt fmt (operand v 0).toNat))) := by
  have hrm : trapIf (Rm.rne == Rm.sr) (combo 10 10 0) = [] := rfl
  simp [plainTld, opTld, copyTraps, tileChecks, addrTraps, bindTraps, tldExtent, List.append_assoc, hrm]

theorem plainTld_traps_step {a : State} {v : List Word} {q : Trap} (h : q ∈ (plainTld gd t row cnt r n bar fmt).traps a v) :
    4 ≤ q.step := by
  simp only [plainTld_traps, tldExtent, List.mem_append] at h
  rcases h with h | h | h | h | (h | h) | h
  · exact (congrArg Trap.step (mem_trapIf h)).ge
  · exact (congrArg Trap.step (mem_trapIf h)).ge
  · exact (congrArg Trap.step (mem_trapIf h)).ge
  · exact (congrArg Trap.step (mem_trapIf h)).ge
  · exact (congrArg Trap.step (mem_trapIf h)).ge
  · exact (show 4 ≤ 7 by decide).trans (congrArg Trap.step (mem_trapIf h)).ge
  · exact (show 4 ≤ 7 by decide).trans (extentTraps_step h).ge

theorem plainTld_tile {a : State} {v : List Word} (h : a.me.tcnt ≤ t.val) :
    ∃ rs, (plainTld gd t row cnt r n bar fmt).traps a v = combo 10 1 0 :: rs := by
  rw [plainTld_traps, decide_eq_true h]
  exact ⟨_, rfl⟩

theorem plainTld_rows {a : State} {v : List Word} (h : t.val < a.me.tcnt) (hl : 63 < row.val + cnt.val) :
    ∃ rs, (plainTld gd t row cnt r n bar fmt).traps a v = combo 10 2 0 :: rs := by
  rw [plainTld_traps, decide_eq_false (by omega), decide_eq_true hl]
  exact ⟨_, rfl⟩

theorem addrFormOk_reserved {b : Nat} (hb : b < 2 ^ 64)
    (h : 2 ≤ b / 2 ^ 62 ∨ b / 2 ^ 48 % 2 ^ 14 ≠ 0 ∨ (b / 2 ^ 62 = 1 ∧ b / 2 ^ 33 % 2 ^ 15 ≠ 0)) : addrFormOk b true = false := by
  rw [Bool.eq_false_iff]
  intro hok
  simp only [addrFormOk, bits, Bool.and_eq_true, Bool.or_eq_true, beq_iff_eq, Nat.reduceAdd, Nat.reduceSub] at hok
  omega

theorem plainTld_address {a : State} {v : List Word} (h : t.val < a.me.tcnt) (hl : row.val + cnt.val ≤ 63)
    (hf : fmt.isCopy = true) (ha : addrFormOk (operand v 0).toNat true = false) :
    ∃ rs, (plainTld gd t row cnt r n bar fmt).traps a v = ⟨4, causeRESERVED, (operand v 0).toNat⟩ :: rs := by
  rw [plainTld_traps, decide_eq_false (by omega), decide_eq_false (by omega), hf, ha]
  exact ⟨_, rfl⟩

/-- The first of a TLD's traps of step 4 of R144 is taken. -/
theorem exec_plainTld_trap {s : State} {x : Nat} (hc : clear gd [gs r] [] [] s = true)
    (hsb : scoreboard (startCycle s).myCore [] [(startCycle s).me.tbase + t.val] = false)
    (hrows : rowsPending (startCycle s).me ((startCycle s).me.tbase + t.val) row.val (row.val + cnt.val) = false)
    (ht : ∃ rs, (plainTld gd t row cnt r n bar fmt).traps (startCycle s) (srcVals [gs r] (startCycle s)) =
      ⟨4, causeRESERVED, x⟩ :: rs) :
    ∃ u, exec (.tld gd t row cnt r n bar none fmt .rne false) s = .next u ∧ u.me.xcause = 0x02 ∧
      u.me.xtval = BitVec.ofNat 64 x ∧ u.mem = s.mem := by
  obtain ⟨rs, ht⟩ := ht
  have hstep : ∀ q ∈ rs, 4 ≤ q.step := fun q hq => plainTld_traps_step (ht ▸ List.mem_cons_of_mem _ hq)
  have hx := exec_trap_first (i := .tld gd t row cnt r n bar none fmt .rne false) (o := plainTld gd t row cnt r n bar fmt)
    rfl hc (plainTld_decode ..) ((plainTld_scoreboard _).trans hsb) rfl ((plainTld_empty ..).trans hrows) ht hstep fun _ => rfl
  obtain ⟨hcause, hval⟩ := takeTrap_me_registers (delivered s) s.issue.core s.issue.ctx causeRESERVED x s.issue.addr
    (delivered_core s) (delivered_ctx s)
  exact ⟨_, hx, hcause, hval, (takeTrap_mem ..).trans (delivered_mem s)⟩

end Tld

theorem copyFormTraps : Claims.CopyFormTraps := by
  intro gd t row cnt r n bar fmt s a base i traps hc hsb hrows _
  exact ⟨fun h => exec_plainTld_trap hc hsb hrows (plainTld_tile h),
    fun h hl => exec_plainTld_trap hc hsb hrows (plainTld_rows h hl),
    fun h hl hf hb hbad => exec_plainTld_trap hc hsb hrows (plainTld_address h hl hf (addrFormOk_reserved hb hbad))⟩

/-- Settles O35, with the first of a TLD's failing checks as its trap. -/
theorem copyBlocksAndTraps : Obligations.CopyBlocksAndTraps := ⟨copyBlocks, copyFormTraps⟩

end Sys2Proof.Machine
end


section
/-!
The Lantern's words on its own registers (O46): what a word of a running sequence does to the core that runs it.
-/
namespace Sys2Proof.Machine

/-! ## A word of a running sequence -/

theorem runWordOf_running {s : State} (h : s.myCore.lantern.phase = .running) (f : State → State) : runWordOf f s = .next (f s) :=
  congrArg Host.Outcome.next (if_pos h)

theorem runWordOf_idle {s : State} {f : State → State} (h : s.myCore.lantern.phase ≠ .running) : runWordOf f s = .next s :=
  congrArg Host.Outcome.next (if_neg h)

/-- A word that only sets the Lantern gives it. -/
theorem lanternGives_of_exec {i : Instr} {s : State} {g : Lantern → Lantern} (hx : exec i s = .next (lnSet s g)) :
    LanternGives i s (g s.myCore.lantern) := hx

/-- A word that sets an s register and goes on. -/
theorem lanternGives_put {i : Instr} {s : State} {d : Fin 16} {e : Lantern → Nat}
    (hx : exec i s = runWordOf (fun s => lnNext s fun l => l.put d (e l)) s) (h : s.myCore.lantern.phase = .running) :
    LanternGives i s { s.myCore.lantern with
      s := s.myCore.lantern.s.set d.val (e s.myCore.lantern % 2 ^ 32), pc := s.myCore.lantern.pc + 1 } :=
  lanternGives_of_exec (g := fun l => { l.put d (e l) with pc := l.pc + 1 }) (hx.trans (runWordOf_running h _))

theorem brcTaken_iff (cond : Fin 4) (u v : Nat) : brcTaken cond u v = true ↔
    if cond.val = 0 then u = v else if cond.val = 1 then u ≠ v else if cond.val = 2 then u < v else v ≤ u := by
  have hc := cond.isLt
  rcases cond with ⟨c, _⟩
  match c with
  | 0 | 1 | 2 | 3 => simp [brcTaken]

/-- The Lantern after a BRC. -/
def brcNext (cond : Fin 4) (x y : Fin 16) (tgt : Fin 512) (l : Lantern) : Lantern :=
  { l with pc := if brcTaken cond (l.reg x) (l.reg y) then tgt.val else l.pc + 1 }

/-- The Lantern after a LOOPS. -/
def loopsNext (x : Fin 16) (tgt : Fin 512) (l : Lantern) : Lantern :=
  if l.reg x = 0 then { l with pc := l.pc + 1 }
  else { l.put x (l.reg x - 1) with pc := if 1 < l.reg x then tgt.val else l.pc + 1 }

theorem brcNext_taken {cond : Fin 4} {x y : Fin 16} {tgt : Fin 512} {l : Lantern} (h : brcTaken cond (l.reg x) (l.reg y) = true) :
    brcNext cond x y tgt l = { l with pc := tgt.val } := by rw [brcNext, if_pos h]

theorem brcNext_not {cond : Fin 4} {x y : Fin 16} {tgt : Fin 512} {l : Lantern} (h : ¬brcTaken cond (l.reg x) (l.reg y) = true) :
    brcNext cond x y tgt l = { l with pc := l.pc + 1 } := by rw [brcNext, if_neg h]

theorem loopsNext_eq (x : Fin 16) (tgt : Fin 512) (l : Lantern) : loopsNext x tgt l = { l with
    s := if l.reg x = 0 then l.s else l.s.set x.val ((l.reg x - 1) % 2 ^ 32)
    pc := if 1 < l.reg x then tgt.val else l.pc + 1 } := by
  unfold loopsNext
  by_cases h : l.reg x = 0
  · rw [if_pos h, if_pos h, if_neg (by omega)]
  · rw [if_neg h, if_neg h]
    rfl

theorem exec_brc (cond : Fin 4) (x y : Fin 16) (tgt : Fin 512) {s : State} (h : s.myCore.lantern.phase = .running) :
    exec (.brc cond x y tgt) s = .next (lnSet s (brcNext cond x y tgt)) :=
  runWordOf_running h fun s => lnSet s (brcNext cond x y tgt)

theorem exec_loops (x : Fin 16) (tgt : Fin 512) {s : State} (h : s.myCore.lantern.phase = .running) :
    exec (.loops x tgt) s = .next (lnSet s (loopsNext x tgt)) :=
  runWordOf_running h fun s => lnSet s (loopsNext x tgt)

theorem lanternScalarWords : Claims.LanternScalarWords := by
  intro d x y w imm cond tgt s l u v sets holds
  refine ⟨fun h => ⟨lanternGives_put (e := fun l => l.field (4 * w.val) 4) rfl h,
    lanternGives_put (e := fun l => l.reg x + imm.toNat) rfl h, lanternGives_put (e := fun _ => imm.toNat) rfl h, fun ht => ?_, fun ht => ?_, ?_⟩, fun h i hi => ?_⟩
  · have hx := lanternGives_of_exec (exec_brc cond x y tgt h)
    rwa [brcNext_taken ((brcTaken_iff ..).mpr ht)] at hx
  · have hx := lanternGives_of_exec (exec_brc cond x y tgt h)
    rwa [brcNext_not (mt (brcTaken_iff ..).mp ht)] at hx
  · have hx := lanternGives_of_exec (exec_loops x tgt h)
    rwa [loopsNext_eq] at hx
  · fin_cases hi
    · exact runWordOf_idle (f := fun s => lnNext s fun l => l.put d (l.field (4 * w.val) 4)) h
    · exact runWordOf_idle (f := fun s => lnNext s fun l => l.put d (l.reg x + imm.toNat)) h
    · exact runWordOf_idle (f := fun s => lnNext s fun l => l.put d imm.toNat) h
    · exact runWordOf_idle (f := fun s => lnSet s (brcNext cond x y tgt)) h
    · exact runWordOf_idle (f := fun s => lnSet s (loopsNext x tgt)) h

/-! ## Rows of tiles without a parity failure -/

theorem readRow_clean {k : Core} (h : k.bad = []) (s : State) (t r : Nat) : readRow s k t r = k.row t r := by
  simp [readRow, h]

theorem noteBad_clean {s : State} {c : Nat} (h : (getCore s c).bad = []) (x epc : Nat) (rows : List (Nat × Nat × Nat)) :
    noteBad s c x epc rows = s := by
  have hf : rows.find? (fun p => (getCore s c).bad.any fun b => b / 4 == p.1 * 64 + p.2.1 && decide (b % 4 * 48 < p.2.2)) =
      none := by simp [h]
  rw [noteBad, hf]

theorem lnRow_clean {s : State} (h : s.myCore.bad = []) (t r : Nat) :
    lnRow s t r = s.myCore.row ((s.myCore.get s.myCore.lantern.owner).tbase + t + r / 64) (r % 64) := readRow_clean h ..

theorem lnNote_clean (s0 : State) (t : Nat) (rows : List Nat) {s : State} (h : (getCore s s0.issue.core).bad = []) :
    lnNote s0 t rows s = s := noteBad_clean h ..

/-! ## Commands of the sequence (R279) -/

/-- The core with a command of the sequence at the end of its starting context's queue. -/
def Core.queueLn (m : Cmd) (k : Core) : Core :=
  k.put k.lantern.owner { k.get k.lantern.owner with
    uid := (k.get k.lantern.owner).uid + 1
    cmds := (k.get k.lantern.owner).cmds ++ [{ m with uid := (k.get k.lantern.owner).uid }] }

theorem enqueue_lantern {s : State} {m : Cmd} (hp : m.form.p = none) (hk : m.kind.isLantern = true) :
    enqueue s s.issue.core s.ln.owner m = modCore s s.issue.core fun _ => s.myCore.queueLn m := by
  simp only [enqueue, hp, hk, if_true, newUid, modCtx_eq_modCore, modCore_modCore, Core.get_put_self, Core.put_put]
  rfl

theorem lnIssue_room {s : State} (h : (s.myCore.get s.myCore.lantern.owner).cmds.length < 16) (m : Cmd) (after : State → State) :
    lnIssue s m after = after (enqueue s s.issue.core s.ln.owner m) := if_neg (Nat.not_le.mpr h)

theorem lnIssue_full {s : State} (h : 16 ≤ (s.myCore.get s.myCore.lantern.owner).cmds.length) (m : Cmd) (after : State → State) :
    lnIssue s m after = s := if_pos h

theorem queueLn_set {s : State} {m : Cmd} (hp : m.form.p = none) (hk : m.kind.isLantern = true) (g : Lantern → Lantern) :
    lnSet (enqueue s s.issue.core s.ln.owner m) g = modCore s s.issue.core fun _ =>
      { s.myCore.queueLn m with lantern := g s.myCore.lantern } := by
  rw [enqueue_lantern hp hk, lnSet, modCore_issue, modCore_modCore]
  rfl

/-- A word whose command finds room, and which then sets the Lantern, queues it. -/
theorem lanternQueues_of_exec {i : Instr} {s : State} {m : Cmd} {g : Lantern → Lantern} (hp : m.form.p = none)
    (hk : m.kind.isLantern = true) (hx : exec i s = .next (lnSet (enqueue s s.issue.core s.ln.owner m) g)) :
    LanternQueues i s (g s.myCore.lantern) { m with uid := (s.myCore.get s.myCore.lantern.owner).uid } := by
  rw [LanternQueues, hx, queueLn_set hp hk]
  rfl

/-! ## SGLD and SGAP (R281, R301) -/

theorem elemsOf_length (w n x : Nat) : (elemsOf w n x).length = n := by simp [elemsOf]

theorem elemsOf_getElem {w n x i : Nat} (h : i < (elemsOf w n x).length) : (elemsOf w n x)[i] = elemAt w x i := by
  simp [elemsOf]

theorem signature_clean {s : State} (h : s.myCore.bad = []) (r : Nat) : signature s r =
    ((List.range 64).map fun e => if bitAt (elemAt 32 (s.myCore.row
      ((s.myCore.get s.myCore.lantern.owner).tbase + s.myCore.lantern.tg + (48 * r + e) / 48 / 64)
      ((48 * r + e) / 48 % 64)).toNat ((48 * r + e) % 48)) 31 then 2 ^ e else 0).sum := by
  rw [signature, lnRow_clean h, lnRow_clean h]
  refine congrArg List.sum (List.ext_getElem (by simp [elemsOf_length]) fun e h1 h2 => ?_)
  simp only [List.length_map, List.length_range] at h2
  simp only [List.getElem_map, List.getElem_zipIdx, List.getElem_range, Nat.zero_add]
  by_cases he : e < 48
  · rw [List.getElem_append_left (by rw [elemsOf_length]; exact he), elemsOf_getElem, show (48 * r + e) / 48 = r by omega,
      show (48 * r + e) % 48 = e by omega]
    rfl
  · rw [List.getElem_append_right (by rw [elemsOf_length]; omega), elemsOf_getElem, show (48 * r + e) / 48 = r + 1 by omega,
      show (48 * r + e) % 48 = e - 48 by omega, elemsOf_length]
    rfl

section Signatures
variable {x y : Fin 16} {s : State} (h : s.myCore.lantern.phase = .running)
include h

theorem exec_sgld (x : Fin 16) : exec (.sgld x) s = .next (if 62 < s.myCore.lantern.reg x then lnBad s
    else lnNote s s.ln.tg [s.myCore.lantern.reg x, s.myCore.lantern.reg x + 1]
      (lnNext s fun l => { l with qsig := signature s (s.myCore.lantern.reg x) })) :=
  runWordOf_running h fun s => if 62 < s.ln.reg x then lnBad s
    else lnNote s s.ln.tg [s.ln.reg x, s.ln.reg x + 1] (lnNext s fun l => { l with qsig := signature s (s.ln.reg x) })

/-- The store of an SGAP. -/
def sgapStore (s : State) (x y : Fin 16) : Cmd :=
  lnStore s (.sgap (leBytes 8 (signature s (s.myCore.lantern.reg y))))
    [(addrPlus s.myCore.lantern.sbase ((8 * s.myCore.lantern.reg x : Nat) : Int),
      leBytes 8 (signature s (s.myCore.lantern.reg y)))]

theorem exec_sgap (x y : Fin 16) : exec (.sgap x y) s = .next (if 62 < s.myCore.lantern.reg y then lnBad s
    else lnIssue s (sgapStore s x y)
      fun s' => lnNote s s.ln.tg [s.myCore.lantern.reg y, s.myCore.lantern.reg y + 1] (lnNext s' id)) :=
  runWordOf_running h fun s => if 62 < s.ln.reg y then lnBad s
    else lnIssue s (sgapStore s x y) fun s' => lnNote s s.ln.tg [s.ln.reg y, s.ln.reg y + 1] (lnNext s' id)

end Signatures

theorem lanternSignatures : Claims.LanternSignatures := by
  intro x y s h k l tile sign sig u v stop
  refine ⟨fun hu hk => ?_, fun hu => ?_, fun hv hk hroom => ?_, fun hv => ?_⟩
  · have hx := exec_sgld h x
    rw [if_neg (by exact Nat.not_lt.mpr hu), lnNote_clean, signature_clean hk] at hx
    · exact lanternGives_of_exec (g := fun l => { l with qsig := sig u, pc := l.pc + 1 }) hx
    · exact (congrArg Core.bad (getCore_modCore_self ..)).trans hk
  · exact (exec_sgld h x).trans (congrArg _ (if_pos hu))
  · have hx := exec_sgap h x y
    rw [if_neg (by exact Nat.not_lt.mpr hv), lnIssue_room hroom, lnNote_clean] at hx
    · have hq := lanternQueues_of_exec (m := sgapStore s x y) (g := fun l => { l with pc := l.pc + 1 }) rfl rfl hx
      rw [sgapStore, signature_clean hk] at hq
      exact hq
    · rw [lnNext, queueLn_set (m := sgapStore s x y) rfl rfl]
      exact (congrArg Core.bad (getCore_modCore_self ..)).trans hk
  · exact (exec_sgap h x y).trans (congrArg _ (if_pos hv))

/-- Settles O46, with a lemma for what each word of a running sequence leaves. -/
theorem lanternWords : Obligations.LanternWords := ⟨lanternScalarWords, lanternSignatures⟩

end Sys2Proof.Machine
end


section
/-!
The Lantern's output, softmax and gathers (O52, O50, O48): a word's changes of the core that runs it, composed.
-/
namespace Sys2Proof.Machine

/-! ## Changes of the issuing core alone -/

/-- From `s` to `t` the issuing core has changed as `F` says; memory, the issue latch and the ck are the same. -/
structure OnCore (F : Core → Core) (s t : State) : Prop where
  issue : t.issue = s.issue
  ck : t.ck = s.ck
  mem : t.mem = s.mem
  core : t.myCore = F s.myCore

theorem OnCore.refl (s : State) : OnCore id s s := ⟨rfl, rfl, rfl, rfl⟩

theorem OnCore.trans {F G : Core → Core} {s t u : State} (h : OnCore F s t) (g : OnCore G t u) :
    OnCore (fun k => G (F k)) s u where
  issue := g.issue.trans h.issue
  ck := g.ck.trans h.ck
  mem := g.mem.trans h.mem
  core := by rw [g.core, h.core]

theorem onCore_modCore (s : State) (F : Core → Core) : OnCore F s (modCore s s.issue.core F) :=
  ⟨rfl, rfl, rfl, modCore_myCore s F⟩

theorem OnCore.foldl {α : Type} {F : α → Core → Core} {f : State → α → State} (h : ∀ s a, OnCore (F a) s (f s a)) :
    ∀ (as : List α) (s : State), OnCore (fun k => as.foldl (fun k a => F a k) k) s (as.foldl f s)
  | [], s => .refl s
  | a :: as, s => (h s a).trans (OnCore.foldl h as (f s a))

theorem onCore_lnSet (s : State) (f : Lantern → Lantern) : OnCore (fun k => { k with lantern := f k.lantern }) s (lnSet s f) :=
  onCore_modCore ..

theorem onCore_lnNext (s : State) (f : Lantern → Lantern) :
    OnCore (fun k => { k with lantern := { f k.lantern with pc := k.lantern.pc + 1 } }) s (lnNext s f) :=
  onCore_lnSet s fun l => { f l with pc := l.pc + 1 }

theorem onCore_enqueue {s : State} {m : Cmd} (hp : m.form.p = none) (hk : m.kind.isLantern = true) :
    OnCore (Core.queueLn m) s (enqueue s s.issue.core s.ln.owner m) := by
  rw [enqueue_lantern hp hk]
  exact ⟨rfl, rfl, rfl, modCore_myCore s fun _ => s.myCore.queueLn m⟩

/-- A context with flags folded in ck `ck` (R40). -/
def Ctx.foldIn (ck : Nat) (f : Flags) (t : Ctx) : Ctx :=
  { t with flags := t.flags ||| f, foldCk := ck, foldNow := if t.foldCk = ck then t.foldNow ||| f else f }

/-- The core with flags folded into the context that started its sequence (R284). -/
def Core.foldLn (ck : Nat) (f : Flags) (k : Core) : Core :=
  if f = 0 then k else k.put k.lantern.owner ((k.get k.lantern.owner).foldIn ck f)

theorem onCore_lnFold (s : State) (f : Flags) : OnCore (Core.foldLn s.ck f) s (lnFold s f) := by
  unfold lnFold foldAt Core.foldLn
  by_cases h : f = 0
  · simp only [if_pos h]
    exact .refl s
  · simp only [if_neg h]
    exact ⟨rfl, rfl, rfl, modCore_myCore s fun k => k.put s.ln.owner ((k.get s.ln.owner).foldIn s.ck f)⟩

theorem foldLn_eq (ck : Nat) (f : Flags) (k : Core) : k.foldLn ck f = { k with ctx := (k.foldLn ck f).ctx } := by
  unfold Core.foldLn
  split <;> rfl

theorem foldLn_lantern (ck : Nat) (f : Flags) (k : Core) : (k.foldLn ck f).lantern = k.lantern := by rw [foldLn_eq]

theorem foldLn_tiles (ck : Nat) (f : Flags) (k : Core) : (k.foldLn ck f).tiles = k.tiles := by rw [foldLn_eq]
theorem foldLn_latA (ck : Nat) (f : Flags) (k : Core) : (k.foldLn ck f).latA = k.latA := by rw [foldLn_eq]
theorem foldLn_latB (ck : Nat) (f : Flags) (k : Core) : (k.foldLn ck f).latB = k.latB := by rw [foldLn_eq]
theorem foldLn_banks (ck : Nat) (f : Flags) (k : Core) : (k.foldLn ck f).banks = k.banks := by rw [foldLn_eq]
theorem foldLn_live (ck : Nat) (f : Flags) (k : Core) : (k.foldLn ck f).live = k.live := by rw [foldLn_eq]
theorem foldLn_acc (ck : Nat) (f : Flags) (k : Core) : (k.foldLn ck f).acc = k.acc := by rw [foldLn_eq]
theorem foldLn_bad (ck : Nat) (f : Flags) (k : Core) : (k.foldLn ck f).bad = k.bad := by rw [foldLn_eq]

theorem foldLn_get (ck : Nat) (f : Flags) (k : Core) : (k.foldLn ck f).get k.lantern.owner =
    if f = 0 then k.get k.lantern.owner else (k.get k.lantern.owner).foldIn ck f := by
  unfold Core.foldLn
  split
  · rfl
  · exact Core.get_put_self ..

theorem foldLn_flags (ck : Nat) (f : Flags) (k : Core) :
    ((k.foldLn ck f).get k.lantern.owner).flags = (k.get k.lantern.owner).flags ||| f := by
  rw [foldLn_get]
  split
  · next h => rw [h]; exact BitVec.or_zero.symm
  · rfl

theorem foldLn_cmds (ck : Nat) (f : Flags) (k : Core) :
    ((k.foldLn ck f).get k.lantern.owner).cmds = (k.get k.lantern.owner).cmds := by
  rw [foldLn_get]
  split <;> rfl

/-! ## OWRT (R295) -/

/-- The output rows of the sequence. -/
def outRows (s : State) : List (List Byte × Flags) := (List.range s.myCore.lantern.heads).map (outRow s)

/-- The flags of the output rows. -/
def outFlags (s : State) : Flags := (outRows s).foldl (fun f r => f ||| r.2) 0

/-- The store of an OWRT. -/
def owrtStore (s : State) : Cmd :=
  lnStore s (.owrt ((outRows s).map (·.1)))
    ((outRows s).zipIdx.map fun p => (addrPlus s.myCore.lantern.out ((384 * p.2 : Nat) : Int), p.1.1))

theorem exec_owrt {s : State} (h : s.myCore.lantern.phase = .running) : exec .owrt s = .next (lnIssue s (owrtStore s)
    fun s' => lnFold (lnNext s' id) (outFlags s)) :=
  runWordOf_running h fun s => lnIssue s (owrtStore s) fun s' => lnFold (lnNext s' id) (outFlags s)

/-- Settles O52: the command that OWRT queues, and the flags it folds. -/
theorem lanternOutput : Obligations.LanternOutput := by
  intro s h k l row rows
  refine ⟨fun hroom => ?_, fun hfull => (exec_owrt h).trans (congrArg _ (lnIssue_full hfull ..))⟩
  have hx := exec_owrt h
  rw [lnIssue_room hroom] at hx
  have hc := ((onCore_enqueue (s := s) (m := owrtStore s) rfl rfl).trans (onCore_lnNext _ id)).trans
    (onCore_lnFold _ (outFlags s))
  refine ⟨_, hx, hc.mem, ?_, ?_, ?_, ?_⟩
  · rw [hc.core, foldLn_eq]
    rfl
  · rw [hc.core, foldLn_lantern]
    rfl
  · rw [hc.core]
    refine (foldLn_cmds _ _ _).trans ?_
    exact (congrArg Ctx.cmds (Core.get_put_self ..)).trans rfl
  · rw [hc.core]
    refine (foldLn_flags _ _ _).trans ?_
    exact congrArg (· ||| _) ((congrArg Ctx.flags (Core.get_put_self ..)).trans rfl)

/-! ## Rows that a word writes -/

/-- The core with a row of the tiles from tile field `t` on written. -/
def Core.putLn (t r : Nat) (v : Row) (k : Core) : Core :=
  k.setRow ((k.get k.lantern.owner).tbase + t + r / 64) (r % 64) v

/-- Row `r` of the tiles from tile field `t` on. -/
def Core.rowLn (t r : Nat) (k : Core) : Row := k.row ((k.get k.lantern.owner).tbase + t + r / 64) (r % 64)

theorem onCore_lnPutRow (s : State) (t r : Nat) (v : Row) : OnCore (Core.putLn t r v) s (lnPutRow s t r v) :=
  ⟨rfl, rfl, rfl, modCore_myCore s _⟩

theorem putLn_rowLn (t r : Nat) (v : Row) (k : Core) (r' : Nat) :
    (k.putLn t r v).rowLn t r' = if r' = r then v else k.rowLn t r' := by
  have hk : (k.putLn t r v).rowLn t r' = alGet 0 (alSet k.tiles
      (((k.get k.lantern.owner).tbase + t + r / 64) * 64 + r % 64) v)
      (((k.get k.lantern.owner).tbase + t + r' / 64) * 64 + r' % 64) := rfl
  rw [hk]
  split
  · next h => rw [h, alGet_alSet_self]
  · next h => exact alGet_alSet_ne _ _ _ (by omega)

/-- Rows written one after the other: row and value. -/
def Core.putRows (t : Nat) (rs : List (Nat × Row)) (k : Core) : Core := rs.foldl (fun k p => k.putLn t p.1 p.2) k

theorem onCore_putRows (t : Nat) (rs : List (Nat × Row)) (s : State) :
    OnCore (Core.putRows t rs) s (rs.foldl (fun s p => lnPutRow s t p.1 p.2) s) := by
  have h := OnCore.foldl (F := fun (p : Nat × Row) k => k.putLn t p.1 p.2) (f := fun s p => lnPutRow s t p.1 p.2)
    (fun s p => onCore_lnPutRow s t p.1 p.2) rs s
  exact h

theorem putRows_eq (t : Nat) : ∀ (rs : List (Nat × Row)) (k : Core),
    k.putRows t rs = { k with tiles := (k.putRows t rs).tiles, bad := (k.putRows t rs).bad }
  | [], _ => rfl
  | p :: rs, k => by
    have h : k.putRows t (p :: rs) = (k.putLn t p.1 p.2).putRows t rs := rfl
    rw [h, putRows_eq t rs]
    rfl

theorem putRows_bad (t : Nat) : ∀ (rs : List (Nat × Row)) {k : Core}, k.bad = [] → (k.putRows t rs).bad = []
  | [], _, h => h
  | p :: rs, k, h => putRows_bad t rs (k := k.putLn t p.1 p.2) (by simp [Core.putLn, Core.setRow, h])

/-- The row of index `r` after rows that no other index has followed. -/
theorem putRows_rowLn (t r : Nat) : ∀ (rs : List (Nat × Row)) (k : Core), (∀ p ∈ rs, p.1 ≠ r) →
    (k.putRows t rs).rowLn t r = k.rowLn t r
  | [], _, _ => rfl
  | p :: rs, k, h => by
    have hk : k.putRows t (p :: rs) = (k.putLn t p.1 p.2).putRows t rs := rfl
    rw [hk, putRows_rowLn t r rs _ fun q hq => h q (List.mem_cons_of_mem _ hq), putLn_rowLn,
      if_neg (h p List.mem_cons_self).symm]

/-- A row written with a value that every later write of it has too. -/
theorem putRows_rowLn_of_mem (t r : Nat) (v : Row) : ∀ (rs : List (Nat × Row)) (k : Core), (r, v) ∈ rs →
    (∀ p ∈ rs, p.1 = r → p.2 = v) → (k.putRows t rs).rowLn t r = v
  | p :: rs, k, hm, h => by
    have hk : k.putRows t (p :: rs) = (k.putLn t p.1 p.2).putRows t rs := rfl
    have hrs : ∀ q ∈ rs, q.1 = r → q.2 = v := fun q hq => h q (List.mem_cons_of_mem _ hq)
    rw [hk]
    by_cases hin : (r, v) ∈ rs
    · exact putRows_rowLn_of_mem t r v rs _ hin hrs
    · have hp : p = (r, v) := ((List.mem_cons.mp hm).resolve_right hin).symm
      have hout : ∀ q ∈ rs, q.1 ≠ r := fun q hq he => hin (by rw [← he, ← hrs q hq he]; exact hq)
      rw [putRows_rowLn t r rs _ hout, putLn_rowLn, hp, if_pos rfl]

/-! ## OSMX (R294) -/

/-- What OSMX leaves of each head. -/
def softmaxHeads (l : Lantern) (n : Nat) : List HeadStep := (List.range l.heads).map (softmaxHead l n)

/-- The flags of an OSMX. -/
def softmaxFlags (l : Lantern) (n : Nat) : Flags := (softmaxHeads l n).foldl (fun f p => f ||| p.fl) 0

/-- The rows of probabilities that an OSMX writes. -/
def softmaxRows (l : Lantern) (n : Nat) : List (Nat × Row) := (softmaxHeads l n).zipIdx.map fun p => (p.2, rowOf 16 p.1.p)

/-- The Lantern with the heads of an OSMX. -/
def softmaxed (n : Nat) (l0 l : Lantern) : Lantern :=
  { l with
    m := (softmaxHeads l0 n).map (·.m) ++ l.m.drop l0.heads
    alpha := (softmaxHeads l0 n).map (·.alpha) ++ l.alpha.drop l0.heads
    l := (softmaxHeads l0 n).map (·.l) ++ l.l.drop l0.heads }

/-- An OSMX of `n` score rows. -/
def softmax (n : Nat) (s : State) : State :=
  lnFold (lnNext ((softmaxHeads s.ln n).zipIdx.foldl (fun st p => lnPutRow st s.ln.tp p.2 (rowOf 16 p.1.p)) s)
    (softmaxed n s.ln)) (softmaxFlags s.ln n)

theorem exec_osmx (x : Fin 16) {s : State} (h : s.myCore.lantern.phase = .running) : exec (.osmx x) s =
    .next (if s.myCore.lantern.reg x = 0 ∨ 64 < s.myCore.lantern.reg x then lnBad s
      else softmax (s.myCore.lantern.reg x) s) :=
  runWordOf_running h fun s => if s.ln.reg x = 0 ∨ 64 < s.ln.reg x then lnBad s else softmax (s.ln.reg x) s

/-- The core after an OSMX, its flags not yet folded. -/
def softmaxCore (n : Nat) (k : Core) : Core :=
  { k with
    tiles := (k.putRows k.lantern.tp (softmaxRows k.lantern n)).tiles
    bad := (k.putRows k.lantern.tp (softmaxRows k.lantern n)).bad
    lantern := { softmaxed n k.lantern k.lantern with pc := k.lantern.pc + 1 } }

theorem softmax_mem (n : Nat) (s : State) : (softmax n s).mem = s.mem ∧
    (softmax n s).myCore = (softmaxCore n s.myCore).foldLn s.ck (softmaxFlags s.myCore.lantern n) := by
  have h1 := onCore_putRows s.myCore.lantern.tp (softmaxRows s.myCore.lantern n) s
  rw [softmaxRows, List.foldl_map] at h1
  have h2 := h1.trans (onCore_lnNext _ (softmaxed n s.ln))
  have h3 := h2.trans (onCore_lnFold _ (softmaxFlags s.ln n))
  rw [h2.ck] at h3
  refine ⟨h3.mem, h3.core.trans ?_⟩
  have hr := putRows_eq s.myCore.lantern.tp (softmaxRows s.myCore.lantern n) s.myCore
  exact congrArg (fun k : Core => Core.foldLn s.ck (softmaxFlags s.ln n)
    { k with lantern := { softmaxed n s.ln k.lantern with pc := k.lantern.pc + 1 } }) hr

theorem softmaxRows_mem {l : Lantern} {n j : Nat} (hj : j < l.heads) :
    (j, rowOf 16 (((softmaxHeads l n).map (·.p)).getD j [])) ∈ softmaxRows l n := by
  have hlen : (softmaxHeads l n).length = l.heads := by simp [softmaxHeads]
  refine List.mem_map.mpr ⟨((softmaxHeads l n)[j]'(hlen ▸ hj), j), ?_, ?_⟩
  · exact List.mem_zipIdx_iff_getElem?.mpr (List.getElem?_eq_getElem _)
  · simp [List.getD_eq_getElem?_getD, List.getElem?_eq_getElem (hlen ▸ hj : j < (softmaxHeads l n).length)]

theorem softmaxRows_unique {l : Lantern} {n j : Nat} {p : Nat × Row} (hp : p ∈ softmaxRows l n) (hj : p.1 = j) :
    p.2 = rowOf 16 (((softmaxHeads l n).map (·.p)).getD j []) := by
  obtain ⟨q, hq, rfl⟩ := List.mem_map.mp hp
  have hg := List.mem_zipIdx_iff_getElem?.mp hq
  subst hj
  simp [List.getD_eq_getElem?_getD, hg]

/-- Settles O50: the rows of probabilities, the state of each head and the flags. -/
theorem lanternSoftmax : Obligations.LanternSoftmax := by
  intro x s h k l n hs
  refine ⟨fun hn0 hn => ?_, fun hbad => (exec_osmx x h).trans (congrArg _ (if_pos hbad))⟩
  have hx : exec (.osmx x) s = .next (softmax n s) :=
    (exec_osmx x h).trans (congrArg _ (if_neg (not_or.mpr ⟨Nat.pos_iff_ne_zero.mp hn0, Nat.not_lt.mpr hn⟩)))
  obtain ⟨hmem, hcore⟩ := softmax_mem n s
  refine ⟨_, hx, hmem, ?_, ?_, fun j hj h64 => ?_, ?_⟩
  · exact (congrArg Core.acc (hcore.trans (foldLn_eq ..))).trans rfl
  · exact (congrArg Core.lantern hcore).trans (foldLn_lantern ..)
  · have hr := putRows_rowLn_of_mem l.tp j _ (softmaxRows l n) k (softmaxRows_mem hj) fun p hp he => softmaxRows_unique hp he
    have ht : (softmax n s).myCore.tiles = (k.putRows l.tp (softmaxRows l n)).tiles :=
      (congrArg Core.tiles hcore).trans (foldLn_tiles ..)
    rw [putRows_eq, Core.rowLn, Nat.div_eq_of_lt h64, Nat.mod_eq_of_lt h64] at hr
    exact (congrArg (alGet 0 · _) ht).trans hr
  · exact (congrArg (fun k : Core => (k.get l.owner).flags) hcore).trans (foldLn_flags ..)

end Sys2Proof.Machine
end


section
/-!
The Lantern's gathers (O48).
-/
namespace Sys2Proof.Machine

/-- Rows made zero. -/
def zeroRows (zero : List Nat) : List (Nat × Row) := zero.map fun r => (r, 0)

theorem putRows_zeroRows (t r : Nat) (zero : List Nat) (k : Core) :
    (k.putRows t (zeroRows zero)).rowLn t r = if r ∈ zero then 0 else k.rowLn t r := by
  split
  · next h =>
    refine putRows_rowLn_of_mem t r 0 _ k (List.mem_map_of_mem h) fun p hp _ => ?_
    obtain ⟨q, -, rfl⟩ := List.mem_map.mp hp
    rfl
  · next h =>
    refine putRows_rowLn t r _ k fun p hp he => h ?_
    obtain ⟨q, hq, rfl⟩ := List.mem_map.mp hp
    exact he ▸ hq

theorem putRows_get (t : Nat) (rs : List (Nat × Row)) (k : Core) (x : Nat) : (k.putRows t rs).get x = k.get x := by
  rw [putRows_eq]
  rfl

theorem putRows_lantern (t : Nat) (rs : List (Nat × Row)) (k : Core) : (k.putRows t rs).lantern = k.lantern := by
  rw [putRows_eq]

theorem onCore_fill (t : Nat) (zero : List Nat) (s : State) :
    OnCore (Core.putRows t (zeroRows zero)) s (zero.foldl (fun s r => lnPutRow s t r 0) s) := by
  have h := onCore_putRows t (zeroRows zero) s
  rw [zeroRows, List.foldl_map] at h
  exact h

/-! ## Gathers (R292) -/

section Gather
variable {s : State} {kind : CmdKind} {base tile tiles a n : Nat} {zero : List Nat}

/-- The command of a gather. -/
def gatherCmd (s : State) (kind : CmdKind) (base tile tiles a n : Nat) : Cmd :=
  { lnCmd s kind { plainForm true s.ln.dim n with t := tile } base with
    chunks := n
    units := gatherUnits base (listAt s a n)
    tileW := (List.range tiles).map fun j => s.lnTile tile + j }

theorem gatherStep_count (h : 64 < n ∨ 3072 < a + n) : gatherStep s kind base tile tiles a n zero = lnBad s := if_pos h

theorem gatherStep_token (hn : n ≤ 64) (ha : a + n ≤ 3072) (h : ∃ t ∈ listAt s a n, s.ln.len ≤ t) :
    gatherStep s kind base tile tiles a n zero = lnBad s := by
  have ht : ((listAt s a n).any fun t => decide (s.ln.len ≤ t)) = true := by simpa using h
  simp only [gatherStep, if_neg (show ¬(64 < n ∨ 3072 < a + n) by omega), ht, if_true]

theorem gatherStep_nothing (ha : a ≤ 3072) : gatherStep s kind base tile tiles a 0 zero =
    lnNext (zero.foldl (fun s r => lnPutRow s tile r 0) s) id := by
  rw [gatherStep, if_neg (by omega)]
  rfl

theorem gatherStep_some (h0 : 0 < n) (hn : n ≤ 64) (ha : a + n ≤ 3072) (h : ∀ t ∈ listAt s a n, t < s.ln.len) :
    gatherStep s kind base tile tiles a n zero = lnIssue s (gatherCmd s kind base tile tiles a n) fun s' =>
      lnNote s s.ln.ti ((List.range n).map fun i => (a + i) / 48)
        (lnNext (zero.foldl (fun s r => lnPutRow s tile r 0) s') id) := by
  have ht : ((listAt s a n).any fun t => decide (s.ln.len ≤ t)) = false := by simpa using h
  simp only [gatherStep, if_neg (show ¬(64 < n ∨ 3072 < a + n) by omega), ht, if_neg (Nat.pos_iff_ne_zero.mp h0),
    Bool.false_eq_true, if_false]
  rfl

theorem queueLn_owner_tbase (m : Cmd) (k : Core) :
    ((k.queueLn m).get (k.queueLn m).lantern.owner).tbase = (k.get k.lantern.owner).tbase :=
  (congrArg Ctx.tbase (Core.get_put_self ..)).trans rfl

theorem rowLn_of_tbase {k : Core} {tb : Nat} (h : (k.get k.lantern.owner).tbase = tb) (t r : Nat) :
    k.rowLn t r = k.row (tb + t + r / 64) (r % 64) := by rw [Core.rowLn, h]

theorem putRows_row {k : Core} {tb : Nat} (h : (k.get k.lantern.owner).tbase = tb) (t r : Nat) (zero : List Nat) :
    (k.putRows t (zeroRows zero)).row (tb + t + r / 64) (r % 64) =
      if r ∈ zero then 0 else k.row (tb + t + r / 64) (r % 64) := by
  have ht : ((k.putRows t (zeroRows zero)).get (k.putRows t (zeroRows zero)).lantern.owner).tbase = tb := by
    rw [putRows_get, putRows_lantern, h]
  rw [← rowLn_of_tbase ht, putRows_zeroRows, rowLn_of_tbase h]

/-- What a gather that queues its command leaves. -/
theorem gatherStep_queued (hb : s.myCore.bad = []) (h0 : 0 < n) (hn : n ≤ 64) (ha : a + n ≤ 3072)
    (h : ∀ t ∈ listAt s a n, t < s.ln.len) (hroom : (s.myCore.get s.myCore.lantern.owner).cmds.length < 16)
    (hk : kind.isLantern = true) :
    (gatherStep s kind base tile tiles a n zero).mem = s.mem ∧
    (gatherStep s kind base tile tiles a n zero).myCore =
      { (s.myCore.queueLn (gatherCmd s kind base tile tiles a n)).putRows tile (zeroRows zero) with
        lantern := { s.myCore.lantern with pc := s.myCore.lantern.pc + 1 } } := by
  have hc := ((onCore_enqueue (s := s) (m := gatherCmd s kind base tile tiles a n) rfl hk).trans
    (onCore_fill tile zero _)).trans (onCore_lnNext _ id)
  rw [gatherStep_some h0 hn ha h, lnIssue_room hroom, lnNote_clean]
  · refine ⟨hc.mem, hc.core.trans ?_⟩
    rw [putRows_lantern]
    rfl
  · have hbad := (congrArg Core.bad hc.core).trans (putRows_bad tile (zeroRows zero)
      (k := s.myCore.queueLn (gatherCmd s kind base tile tiles a n)) hb)
    rwa [State.myCore, hc.issue] at hbad

end Gather

/-- The rows that no token of a gather of `n` rows fills: a VGTH's token row takes the first half of each pair. -/
def unfilled (v : Bool) (n : Nat) : List Nat :=
  if v then (List.range 192).filter fun r => r % 2 == 1 || decide (2 * n ≤ r) else (List.range 64).filter fun r => decide (n ≤ r)

theorem mem_unfilled (v : Bool) (n r : Nat) : r ∈ unfilled v n ↔ if v then r < 192 ∧ (r % 2 = 1 ∨ 2 * n ≤ r) else r < 64 ∧ n ≤ r := by
  cases v <;> simp [unfilled]

theorem exec_gather (v : Bool) (x y : Fin 16) {s : State} (h : s.myCore.lantern.phase = .running) :
    exec (if v then .vgth x y else .kgth x y) s = .next (gatherStep s
      (if v then .vgth (s.myCore.lantern.reg y) else .kgth (s.myCore.lantern.reg y))
      (if v then s.myCore.lantern.vbase else s.myCore.lantern.kbase) (if v then s.myCore.lantern.tv else s.myCore.lantern.tk)
      (if v then 3 else 1) (s.myCore.lantern.reg x) (s.myCore.lantern.reg y) (unfilled v (s.myCore.lantern.reg y))) := by
  cases v
  · exact runWordOf_running h fun s => gatherStep s (.kgth (s.ln.reg y)) s.ln.kbase s.ln.tk 1 (s.ln.reg x) (s.ln.reg y)
      (unfilled false (s.ln.reg y))
  · exact runWordOf_running h fun s => gatherStep s (.vgth (s.ln.reg y)) s.ln.vbase s.ln.tv 3 (s.ln.reg x) (s.ln.reg y)
      (unfilled true (s.ln.reg y))

theorem mem_listAt {s : State} {a n : Nat} {p : Nat → Prop} : (∀ t ∈ listAt s a n, p t) ↔ ∀ j, j < n →
    p (elemAt 32 (readRow s s.myCore ((s.myCore.get s.myCore.lantern.owner).tbase + s.myCore.lantern.ti + (a + j) / 48 / 64)
      ((a + j) / 48 % 64)).toNat ((a + j) % 48)) := by
  simp only [listAt, List.mem_map, List.mem_range, forall_exists_index, and_imp, forall_apply_eq_imp_iff₂]
  rfl

/-- Settles O48: the rows that no token fills are zero as the word runs. -/
theorem lanternGathers : Obligations.LanternGathers := by
  intro x y v s h k l tb a n i tile base kind tiles token empty
  have hx : exec i s = .next (gatherStep s kind base tile tiles a n (unfilled v n)) := exec_gather v x y h
  have hk : kind.isLantern = true := by cases v <;> rfl
  have htok : ∀ {p : Nat → Prop}, (∀ t ∈ listAt s a n, p t) ↔ ∀ j, j < n → p (token j) := mem_listAt
  refine ⟨fun hbad => ?_, fun h0 hn ha ht hb hroom => ?_, fun h0 ha => ?_⟩
  · rw [hx]
    by_cases hc : 64 < n ∨ 3072 < a + n
    · exact congrArg _ (gatherStep_count hc)
    · have hj : ∃ j, j < n ∧ l.len ≤ token j := by tauto
      have hm : ∃ t ∈ listAt s a n, s.ln.len ≤ t := by
        by_contra hno
        push Not at hno
        obtain ⟨j, hj, hl⟩ := hj
        exact absurd (htok.mp hno j hj) (Nat.not_lt.mpr hl)
      exact congrArg _ (gatherStep_token (by omega) (by omega) hm)
  · obtain ⟨hmem, hcore⟩ := gatherStep_queued (base := base) (tile := tile) (tiles := tiles) (zero := unfilled v n) hb h0 hn ha
      (htok.mpr ht) hroom hk
    refine ⟨_, hx, hmem, congrArg Core.lantern hcore, ?_, fun r hr => ?_⟩
    · refine (congrArg (fun k : Core => k.get l.owner) hcore).trans ((putRows_get ..).trans ?_)
      exact Core.get_put_self ..
    · refine (congrArg (fun k : Core => k.row (tb + tile + r / 64) (r % 64)) hcore).trans ?_
      refine (putRows_row (queueLn_owner_tbase ..) tile r (unfilled v n)).trans ?_
      exact if_congr (mem_unfilled v n r) rfl rfl
  · have hc := (onCore_fill tile (unfilled v n) s).trans (onCore_lnNext _ id)
    have hg : gatherStep s kind base tile tiles a n (unfilled v n) = _ := h0 ▸ gatherStep_nothing ha
    refine ⟨_, hx.trans (congrArg _ hg), hc.mem, ?_, ?_, fun r hr => ?_⟩
    · refine (congrArg Core.lantern hc.core).trans ?_
      rw [putRows_lantern]
      rfl
    · exact (congrArg (fun k : Core => k.get l.owner) hc.core).trans (putRows_get ..)
    · refine (congrArg (fun k : Core => k.row (tb + tile + r / 64) (r % 64)) hc.core).trans ?_
      refine (putRows_row rfl tile r (unfilled v n)).trans (if_pos ((mem_unfilled v n r).mpr ?_))
      rw [h0]
      cases v
      · exact ⟨hr, Nat.zero_le _⟩
      · exact ⟨hr, .inr (Nat.zero_le _)⟩

end Sys2Proof.Machine
end


section
/-!
The Lantern's accumulation and rescaling (O51).
-/
namespace Sys2Proof.Machine

/-! ## Flags of many values -/

/-- The flags of values, joined. -/
def flagsOf (vs : List FV) : Flags := vs.foldl (fun f v => f ||| v.2) 0

theorem foldl_or (vs : List FV) (f : Flags) : vs.foldl (fun f v => f ||| v.2) f = f ||| flagsOf vs := by
  induction vs generalizing f with
  | nil => exact BitVec.or_zero.symm
  | cons v vs ih =>
    have hv : flagsOf (v :: vs) = v.2 ||| flagsOf vs :=
      (congrArg (vs.foldl (fun (f : Flags) (v : FV) => f ||| v.2) ·) (BitVec.zero_or (x := v.2))).trans (ih v.2)
    rw [List.foldl_cons, ih, hv, BitVec.or_assoc]

theorem flagsOf_append (vs ws : List FV) : flagsOf (vs ++ ws) = flagsOf vs ||| flagsOf ws := by
  rw [flagsOf, List.foldl_append, foldl_or]
  rfl

/-! ## Rows of the accumulator -/

theorem alGet_foldl_rows {α β : Type} (g : α → β) (d : β) (f : Nat → α) (acc : List (Nat × β)) (j : Nat) : ∀ n,
    alGet d (((List.range n).map f).zipIdx.foldl (fun acc p => alSet acc p.2 (g p.1)) acc) j =
      if j < n then g (f j) else alGet d acc j
  | 0 => rfl
  | n + 1 => by
    rw [List.range_succ, List.map_append, List.zipIdx_append, List.foldl_append]
    simp only [List.map_cons, List.map_nil, List.zipIdx_cons, List.zipIdx_nil, List.foldl_cons, List.foldl_nil,
      List.length_map, List.length_range, Nat.zero_add]
    by_cases hj : j = n
    · rw [hj, alGet_alSet_self, if_pos (Nat.lt_succ_self n)]
    · rw [alGet_alSet_ne _ _ _ hj, alGet_foldl_rows g d f acc j n]
      exact if_congr (by omega) rfl rfl

/-! ## RSCL (R299) -/

/-- The rows of a core's accumulator times the rescale factors of its Lantern. -/
def scaledRow (k : Core) (j : Nat) : List FV :=
  (List.range 192).map fun c => fmul32 (k.lantern.alpha.getD j 0) (accAt k j c)

/-- The core with its accumulator rescaled. -/
def Core.rescale (k : Core) : Core :=
  { k with acc := ((List.range k.lantern.heads).map (scaledRow k)).zipIdx.foldl (fun acc p => alSet acc p.2 (p.1.map (·.1))) k.acc }

theorem exec_rscl {s : State} (h : s.myCore.lantern.phase = .running) : exec .rscl s =
    .next (lnFold (lnNext (modCore s s.issue.core fun _ => s.myCore.rescale) id)
      (flagsOf (((List.range s.myCore.lantern.heads).map (scaledRow s.myCore)).flatMap id))) :=
  runWordOf_running h fun s => lnFold (lnNext (modCore s s.issue.core fun _ => s.myCore.rescale) id)
    (flagsOf (((List.range s.ln.heads).map (scaledRow s.myCore)).flatMap id))

theorem onCore_rescale (s : State) : OnCore Core.rescale s (modCore s s.issue.core fun _ => s.myCore.rescale) :=
  ⟨rfl, rfl, rfl, modCore_myCore s fun _ => s.myCore.rescale⟩

theorem rescale_acc (k : Core) (j : Nat) : alGet [] k.rescale.acc j =
    if j < k.lantern.heads then (scaledRow k j).map (·.1) else alGet [] k.acc j :=
  alGet_foldl_rows (fun r : List FV => r.map fun v : FV => v.1) [] (scaledRow k) k.acc j k.lantern.heads

theorem flatMap_map_id {α β : Type} (f : α → List β) (as : List α) : (as.map f).flatMap id = as.flatMap f := by
  rw [List.flatMap_map]
  rfl

/-! ## PVMM (R297) -/

/-- The core with a row of totals added to an accumulator row, which is live then (R40). -/
def Core.accumulate (j : Nat) (vs : List Nat) (k : Core) : Core :=
  { k with acc := alSet k.acc j ((accSums k j vs).map (·.1)), live := k.live ||| ((1 : BitVec 64) <<< j) }

theorem accumulate_foldLn_eq (ck : Nat) (f : Flags) (j : Nat) (vs : List Nat) (k : Core) :
    (k.foldLn ck f).accumulate j vs = { k with
      ctx := ((k.foldLn ck f).accumulate j vs).ctx
      acc := ((k.foldLn ck f).accumulate j vs).acc
      live := ((k.foldLn ck f).accumulate j vs).live } := by
  unfold Core.foldLn
  split <;> rfl

theorem onCore_applyAccAdd (s : State) (x j : Nat) (vs : List Nat) :
    OnCore (Core.accumulate j vs) s (applyAccAdd s s.issue.core x j vs none) :=
  ⟨rfl, rfl, rfl, getCore_setCore_self s s.issue.core (s.myCore.accumulate j vs)⟩

/-- What the rows `ts` of the heads `js`, added one after the other, leave of the issuing core. -/
structure Accumulates (ts : Nat → List FV) (js : List Nat) (s t : State) : Prop where
  issue : t.issue = s.issue
  mem : t.mem = s.mem
  core : t.myCore = { s.myCore with ctx := t.myCore.ctx, acc := t.myCore.acc, live := t.myCore.live }
  acc : ∀ j, alGet [] t.myCore.acc j =
    if j ∈ js then (accSums s.myCore j ((ts j).map (·.1))).map (·.1) else alGet [] s.myCore.acc j
  live : ∀ j, j < 64 → t.myCore.live.getLsbD j = (s.myCore.live.getLsbD j || decide (j ∈ js))
  flags : (t.myCore.get s.myCore.lantern.owner).flags = (s.myCore.get s.myCore.lantern.owner).flags |||
    flagsOf (js.flatMap fun j => ts j ++ accSums s.myCore j ((ts j).map (·.1)))

theorem accSums_congr {k k' : Core} {j : Nat} (h : alGet [] k'.acc j = alGet [] k.acc j) (vs : List Nat) :
    accSums k' j vs = accSums k j vs := by
  unfold accSums
  rw [h]

theorem getLsbD_one_shiftLeft {i j : Nat} (hi : i < 64) : ((1 : BitVec 64) <<< j).getLsbD i = decide (i = j) := by
  have h1 : (1 : BitVec 64).getLsbD (i - j) = decide (i - j = 0) := BitVec.getLsbD_one.trans (by simp)
  rw [BitVec.getLsbD_shiftLeft, h1, decide_eq_true hi, Bool.true_and, Bool.eq_iff_iff]
  simp only [Bool.and_eq_true, Bool.not_eq_true', decide_eq_true_eq, decide_eq_false_iff_not]
  omega

/-- One head of a PVMM. -/
def accumulateHead (ts : Nat → List FV) (c x : Nat) (s : State) (j : Nat) : State :=
  applyAccAdd (lnFold s (flagsOf (ts j ++ accSums s.myCore j ((ts j).map (·.1))))) c x j ((ts j).map (·.1)) none

theorem accumulates_head (ts : Nat → List FV) {c : Nat} (x : Nat) {s : State} (hs : s.issue.core = c) (j : Nat) :
    Accumulates ts [j] s (accumulateHead ts c x s j) := by
  subst hs
  have h1 := onCore_lnFold s (flagsOf (ts j ++ accSums s.myCore j ((ts j).map (·.1))))
  have h2 := onCore_applyAccAdd (lnFold s (flagsOf (ts j ++ accSums s.myCore j ((ts j).map (·.1))))) x j ((ts j).map (·.1))
  rw [h1.issue] at h2
  have h := h1.trans h2
  have hacc : (accumulateHead ts s.issue.core x s j).myCore.acc = alSet s.myCore.acc j ((accSums s.myCore j ((ts j).map (·.1))).map (·.1)) := by
    refine (congrArg Core.acc h.core).trans ?_
    rw [foldLn_eq]
    rfl
  have hlive : (accumulateHead ts s.issue.core x s j).myCore.live = s.myCore.live ||| ((1 : BitVec 64) <<< j) := by
    refine (congrArg Core.live h.core).trans ?_
    rw [foldLn_eq]
    rfl
  refine ⟨h.issue, h.mem, ?_, fun i => ?_, fun i hi => ?_, ?_⟩
  · rw [show (accumulateHead ts s.issue.core x s j).myCore = _ from h.core]
    exact accumulate_foldLn_eq ..
  · rw [hacc]
    by_cases he : i = j
    · rw [he, alGet_alSet_self, if_pos (List.mem_singleton_self j)]
    · rw [alGet_alSet_ne _ _ _ he, if_neg (mt List.mem_singleton.mp he)]
  · rw [hlive]
    rw [BitVec.getLsbD_or, getLsbD_one_shiftLeft hi]
    simp only [List.mem_singleton]
  · refine (congrArg (fun k : Core => (k.get s.myCore.lantern.owner).flags) h.core).trans ?_
    rw [List.flatMap_singleton]
    exact foldLn_flags ..

theorem Accumulates.refl (ts : Nat → List FV) (s : State) : Accumulates ts [] s s where
  issue := rfl
  mem := rfl
  core := rfl
  acc _ := rfl
  live j _ := by simp
  flags := BitVec.or_zero.symm

theorem Accumulates.cons {ts : Nat → List FV} {j : Nat} {js : List Nat} {s t u : State} (h : Accumulates ts [j] s t)
    (g : Accumulates ts js t u) (hj : j ∉ js) : Accumulates ts (j :: js) s u := by
  have hsums : ∀ i ∈ js, accSums t.myCore i ((ts i).map (·.1)) = accSums s.myCore i ((ts i).map (·.1)) := fun i hi => by
    have hij : i ∉ [j] := fun hm => by
      rw [List.mem_singleton.mp hm] at hi
      exact hj hi
    exact accSums_congr ((h.acc i).trans (if_neg hij)) _
  have hln : t.myCore.lantern = s.myCore.lantern := (congrArg Core.lantern h.core).trans rfl
  refine ⟨g.issue.trans h.issue, g.mem.trans h.mem, ?_, fun i => ?_, fun i hi => ?_, ?_⟩
  · have hg := g.core
    rw [h.core] at hg
    exact hg
  · rw [g.acc]
    by_cases hi : i ∈ js
    · rw [if_pos hi, if_pos (List.mem_cons_of_mem _ hi), hsums i hi]
    · rw [if_neg hi, h.acc]
      refine if_congr ?_ rfl rfl
      simp [hi]
  · rw [g.live i hi, h.live i hi, Bool.or_assoc]
    congr 1
    simp [Bool.decide_or]
  · have hf : (js.flatMap fun i => ts i ++ accSums t.myCore i ((ts i).map (·.1))) =
        js.flatMap fun i => ts i ++ accSums s.myCore i ((ts i).map (·.1)) :=
      List.flatMap_congr fun i hi => by rw [hsums i hi]
    have hg := g.flags
    rw [hln, h.flags, hf] at hg
    rw [hg, BitVec.or_assoc, ← flagsOf_append, List.flatMap_singleton]
    rfl

theorem accumulates_heads (ts : Nat → List FV) {c : Nat} (x : Nat) : ∀ (js : List Nat) {s : State}, s.issue.core = c → js.Nodup →
    Accumulates ts js s (js.foldl (accumulateHead ts c x) s)
  | [], s, _, _ => .refl ts s
  | j :: js, s, hs, hd => by
    have h := accumulates_head ts x hs j
    obtain ⟨hj, hd⟩ := List.nodup_cons.mp hd
    exact h.cons (accumulates_heads ts x js ((congrArg Issue.core h.issue).trans hs) hd) hj

/-! ## A bank loaded by the Lantern (R220) -/

/-- The bank of BF16 rows that three tiles from a field's tile on hold. -/
def lnBank (s : State) (t : Nat) : Bank := ⟨.bf16, (List.range 192).map fun r => rowOf 16 (lnCodes s t r)⟩

theorem lnLoadBank_clean {s : State} (h : s.myCore.bad = []) (bk : Fin 4) (t : Nat) :
    lnLoadBank s bk t = modCore s s.issue.core fun k => k.modBank bk fun _ => lnBank s t := by
  have hb : (getCore (modCore s s.issue.core fun k => k.modBank bk fun _ => lnBank s t) s.issue.core).bad = [] :=
    (congrArg Core.bad (getCore_modCore_self ..)).trans h
  have hp : (getCore (modCore s s.issue.core fun k => k.modBank bk fun _ => lnBank s t) s.issue.core).bad.contains
      (badBank bk) = false := by rw [hb]; rfl
  have hl : lnLoadBank s bk t = bankParity (lnNote s t (List.range 192)
      (modCore s s.issue.core fun k => k.modBank bk fun _ => lnBank s t)) s.issue.core s.ln.owner
      ⟨0, .done, 0, 0, 0, s.ln.epc, 0, none, 0⟩ bk := rfl
  rw [hl, lnNote_clean _ _ _ hb, bankParity]
  simp only [hp, Bool.false_eq_true, if_false]

theorem lnCodes_clean {s : State} (h : s.myCore.bad = []) (t r : Nat) : lnCodes s t r =
    elemsOf 16 96 (s.myCore.row ((s.myCore.get s.myCore.lantern.owner).tbase + t + r / 64) (r % 64)).toNat := by
  rw [lnCodes, lnRow_clean h]

/-- The products of head `j` with the rows of bank 3 (R297). -/
def headTotals (s : State) (k : Core) (j : Nat) : List FV :=
  denseRow .bf16 (lnCodes s s.ln.tp j) k.latA k.banks[(3 : Fin 4)] k.latB 192

theorem exec_pvmm {s : State} (h : s.myCore.lantern.phase = .running) : exec .pvmm s =
    .next (lnNote s s.ln.tp (List.range s.ln.heads) (lnNext ((List.range s.ln.heads).foldl
      (accumulateHead (headTotals s (lnLoadBank s 3 s.ln.tv).myCore) s.issue.core s.ln.owner) (lnLoadBank s 3 s.ln.tv)) id)) :=
  runWordOf_running h fun s => lnNote s s.ln.tp (List.range s.ln.heads) (lnNext ((List.range s.ln.heads).foldl
      (accumulateHead (headTotals s (lnLoadBank s 3 s.ln.tv).myCore) s.issue.core s.ln.owner) (lnLoadBank s 3 s.ln.tv)) id)

theorem accSums_map (k : Core) (j : Nat) (ws : List FV) : accSums k j (ws.map (·.1)) =
    ws.zipIdx.map fun p => FV.add ((alGet [] k.acc j).getD p.2 0, 0) (p.1.1, 0) := by
  simp [accSums, List.zipIdx_map, Function.comp_def]

theorem modBank_bank (k : Core) (bk : Fin 4) (b : Bank) : (k.modBank bk fun _ => b).banks[bk] = b := by
  simp [Core.modBank]

/-- What PVMM leaves, where no row or bank fails its parity. -/
theorem pvmm_clean {s : State} (h : s.myCore.lantern.phase = .running) (hb : s.myCore.bad = []) :
    ∃ t u, exec .pvmm s = .next t ∧ Accumulates (headTotals s (s.myCore.modBank 3 fun _ => lnBank s s.ln.tv))
      (List.range s.ln.heads) (modCore s s.issue.core fun k => k.modBank 3 fun _ => lnBank s s.ln.tv) u ∧ t.mem = u.mem ∧
      t.myCore = { u.myCore with lantern := { u.myCore.lantern with pc := u.myCore.lantern.pc + 1 } } := by
  have hx := exec_pvmm h
  rw [lnLoadBank_clean hb, modCore_myCore s fun k => k.modBank 3 fun _ => lnBank s s.ln.tv] at hx
  have ha := accumulates_heads (headTotals s (s.myCore.modBank 3 fun _ => lnBank s s.ln.tv)) s.ln.owner (List.range s.ln.heads)
    (s := modCore s s.issue.core fun k => k.modBank 3 fun _ => lnBank s s.ln.tv) (c := s.issue.core) rfl List.nodup_range
  have hc := onCore_lnNext ((List.range s.ln.heads).foldl (accumulateHead (headTotals s (s.myCore.modBank 3 fun _ =>
    lnBank s s.ln.tv)) s.issue.core s.ln.owner) (modCore s s.issue.core fun k => k.modBank 3 fun _ => lnBank s s.ln.tv)) id
  have hbad := (congrArg Core.bad hc.core).trans ((congrArg Core.bad ha.core).trans
    ((congrArg Core.bad (modCore_myCore s fun k => k.modBank 3 fun _ => lnBank s s.ln.tv)).trans hb))
  rw [State.myCore, hc.issue, ha.issue, modCore_issue] at hbad
  rw [lnNote_clean _ _ _ hbad] at hx
  exact ⟨_, _, hx, ha, hc.mem, hc.core⟩

/-- Settles O51: each head's totals added one after the other, and the rows rescaled. -/
theorem lanternAccumulates : Obligations.LanternAccumulates := by
  intro s h k l tb codes bank ts sums scaled flags kept
  refine ⟨fun hb => ?_, ?_⟩
  · obtain ⟨t, u, hx, ha, hmem, hcore⟩ := pvmm_clean h hb
    have hk1 := modCore_myCore s fun k => k.modBank 3 fun _ => lnBank s s.ln.tv
    have hbank : lnBank s s.ln.tv = bank := by
      unfold lnBank
      simp only [lnCodes_clean hb]
      rfl
    have hts : headTotals s (k.modBank 3 fun _ => lnBank s s.ln.tv) = ts := by
      funext j
      rw [headTotals, modBank_bank, lnCodes_clean hb, hbank]
      rfl
    have hcoreU := ha.core
    have hacc := ha.acc
    have hlive := ha.live
    have hflags := ha.flags
    rw [hk1] at hcoreU hacc hlive hflags
    rw [hts] at hacc hflags
    have hln : u.myCore.lantern = l := (congrArg Core.lantern hcoreU).trans rfl
    have hrow : ∀ j, alGet [] t.myCore.acc j = alGet [] u.myCore.acc j := fun j => congrArg (alGet [] ·.acc j) hcore
    have hmod : ∀ j, accSums (k.modBank 3 fun _ => lnBank s s.ln.tv) j ((ts j).map (·.1)) = sums j := fun j =>
      (accSums_congr (k := k) rfl _).trans (accSums_map k j (ts j))
    refine ⟨t, hx, ⟨hmem.trans ha.mem, ?_, ?_, ?_, ?_, fun j hj => ?_⟩, ?_, fun j hj => ?_, fun j hj => ?_, ?_⟩
    · exact (congrArg Core.tiles hcore).trans ((congrArg Core.tiles hcoreU).trans rfl)
    · exact (congrArg Core.latA hcore).trans ((congrArg Core.latA hcoreU).trans rfl)
    · exact (congrArg Core.latB hcore).trans ((congrArg Core.latB hcoreU).trans rfl)
    · rw [hcore, hln]
    · exact (hrow j).trans ((hacc j).trans (if_neg fun hm => absurd (List.mem_range.mp hm) (Nat.not_lt.mpr hj)))
    · rw [hcore]
      exact (congrArg Core.banks hcoreU).trans (congrArg (k.banks.set 3 ·) hbank)
    · exact (hrow j).trans ((hacc j).trans ((if_pos (List.mem_range.mpr hj)).trans (congrArg (List.map (·.1)) (hmod j))))
    · rw [hcore]
      exact (hlive j hj).trans (congrArg (k.live.getLsbD j || ·) (decide_eq_decide.mpr List.mem_range))
    · rw [hcore]
      refine hflags.trans ?_
      exact congrArg ((k.get l.owner).flags ||| flagsOf ·) (List.flatMap_congr fun j _ => congrArg (ts j ++ ·) (hmod j))
  · have hc := ((onCore_rescale s).trans (onCore_lnNext _ id)).trans (onCore_lnFold _
      (flagsOf (((List.range l.heads).map (scaledRow k)).flatMap id)))
    have hcore := hc.core
    rw [flatMap_map_id] at hc hcore
    have hacc := (congrArg Core.acc hcore).trans (foldLn_acc ..)
    have hx := exec_rscl h
    rw [flatMap_map_id] at hx
    refine ⟨_, hx, ⟨hc.mem, ?_, ?_, ?_, ?_, fun j hj => ?_⟩, ?_, ?_, fun j hj => ?_, ?_⟩
    · exact (congrArg Core.tiles hcore).trans (foldLn_tiles ..)
    · exact (congrArg Core.latA hcore).trans (foldLn_latA ..)
    · exact (congrArg Core.latB hcore).trans (foldLn_latB ..)
    · exact (congrArg Core.lantern hcore).trans (foldLn_lantern ..)
    · exact (congrArg (fun acc : List (Nat × List Nat) => alGet [] acc j) hacc).trans ((rescale_acc k j).trans (if_neg (Nat.not_lt.mpr hj)))
    · exact (congrArg Core.banks hcore).trans (foldLn_banks ..)
    · exact (congrArg Core.live hcore).trans (foldLn_live ..)
    · exact (congrArg (fun acc : List (Nat × List Nat) => alGet [] acc j) hacc).trans ((rescale_acc k j).trans (if_pos hj))
    · exact (congrArg (fun k : Core => (k.get l.owner).flags) hcore).trans (foldLn_flags ..)

end Sys2Proof.Machine
end


section
/-!
The Lantern's scores (O49): a load of its bank and the product with it, with or without parity failures.
-/
namespace Sys2Proof.Machine

/-! ## What parity failures leave -/

/-- From `s` to `t` only contexts, banks and rows in error of the issuing core have changed, and what counts errors. -/
structure OnBanks (s t : State) : Prop where
  issue : t.issue = s.issue
  mem : t.mem = s.mem
  core : t.myCore = { s.myCore with ctx := t.myCore.ctx, banks := t.myCore.banks, bad := t.myCore.bad }

theorem OnBanks.refl (s : State) : OnBanks s s := ⟨rfl, rfl, rfl⟩

theorem OnBanks.trans {s t u : State} (h : OnBanks s t) (g : OnBanks t u) : OnBanks s u := by
  refine ⟨g.issue.trans h.issue, g.mem.trans h.mem, ?_⟩
  have hg := g.core
  rw [h.core] at hg
  exact hg

theorem onBanks_setCtx (s : State) (x : Nat) (t : Ctx) : OnBanks s (setCtx s s.issue.core x t) := by
  refine ⟨rfl, rfl, ?_⟩
  have h : (setCtx s s.issue.core x t).myCore = s.myCore.put x t := modCore_myCore s fun k => k.put x t
  rw [h]
  rfl

theorem onBanks_report (s : State) (x : Nat) (e : Async) : OnBanks s (report s s.issue.core x e) := by
  unfold report
  dsimp only
  split
  · exact ⟨rfl, rfl, rfl⟩
  · exact onBanks_setCtx ..

theorem report_banks (s : State) (x : Nat) (e : Async) : (report s s.issue.core x e).myCore.banks = s.myCore.banks := by
  unfold report
  dsimp only
  split
  · rfl
  · exact (congrArg Core.banks (modCore_myCore s fun k => k.put x _)).trans rfl

theorem onBanks_noteBad (s : State) (x epc : Nat) (rows : List (Nat × Nat × Nat)) :
    OnBanks s (noteBad s s.issue.core x epc rows) := by
  unfold noteBad
  dsimp only
  split
  · exact .refl s
  · exact (⟨rfl, rfl, rfl⟩ : OnBanks s (countCore { s with freeCtr := s.freeCtr + 4 } s.issue.core)).trans (onBanks_report ..)

theorem noteBad_banks (s : State) (x epc : Nat) (rows : List (Nat × Nat × Nat)) :
    (noteBad s s.issue.core x epc rows).myCore.banks = s.myCore.banks := by
  unfold noteBad
  dsimp only
  split
  · rfl
  · exact report_banks (countCore { s with freeCtr := s.freeCtr + 4 } s.issue.core) x _

/-- Bank `bk` of a core with other rows. -/
def Core.spoilBank (bk : Fin 4) (rows : List Row) (k : Core) : Core :=
  { k.modBank bk fun b => { b with rows := rows } with bad := k.bad.filter fun b => b != badBank bk }

/-- The package whose bank `bk` of the issuing core has failed its parity (R454). -/
def spoiltBank (s : State) (bk : Fin 4) : State :=
  countCore { setCore s s.issue.core (s.myCore.spoilBank bk ((List.range 192).map fun i => Config.freeRow (s.freeCtr + i))) with
    freeCtr := s.freeCtr + 192 } s.issue.core

theorem bankParity_eq (s : State) (x : Nat) (ro : RowsOp) (bk : Fin 4) : bankParity s s.issue.core x ro bk =
    if s.myCore.bad.contains (badBank bk) then
      report (spoiltBank s bk) s.issue.core x ⟨causeUNCORR, ro.addr, 0x1000 + bk.val, none, none⟩
    else s := rfl

theorem spoiltBank_myCore (s : State) (bk : Fin 4) : (spoiltBank s bk).myCore =
    s.myCore.spoilBank bk ((List.range 192).map fun i => Config.freeRow (s.freeCtr + i)) := getCore_setCore_self ..

theorem onBanks_bankParity (s : State) (x : Nat) (ro : RowsOp) (bk : Fin 4) :
    OnBanks s (bankParity s s.issue.core x ro bk) := by
  rw [bankParity_eq]
  split
  · refine OnBanks.trans (t := spoiltBank s bk) ⟨rfl, rfl, ?_⟩ (onBanks_report (spoiltBank s bk) x _)
    rw [spoiltBank_myCore]
    rfl
  · exact .refl s

theorem bankParity_fmt (s : State) (x : Nat) (ro : RowsOp) (bk : Fin 4) :
    (bankParity s s.issue.core x ro bk).myCore.banks[bk].fmt = s.myCore.banks[bk].fmt := by
  rw [bankParity_eq]
  split
  · refine (congrArg (fun b : Vector Bank 4 => b[bk].fmt) (report_banks (spoiltBank s bk) x _)).trans ?_
    rw [spoiltBank_myCore]
    simp [Core.spoilBank, Core.modBank]
  · rfl

/-! ## A bank loaded (R220, R298) -/

/-- A bank loaded from tiles, the failures of their rows noted. -/
def loadingBank (s : State) (bk : Fin 4) (t : Nat) : State :=
  lnNote s t (List.range 192) (modCore s s.issue.core fun k => k.modBank bk fun _ => lnBank s t)

theorem lnLoadBank_eq (s : State) (bk : Fin 4) (t : Nat) : lnLoadBank s bk t =
    bankParity (loadingBank s bk t) s.issue.core s.ln.owner ⟨0, .done, 0, 0, 0, s.ln.epc, 0, none, 0⟩ bk := rfl

theorem onBanks_loadingBank (s : State) (bk : Fin 4) (t : Nat) :
    OnBanks s (loadingBank s bk t) ∧ (loadingBank s bk t).myCore.banks[bk].fmt = .bf16 := by
  have hm := modCore_myCore s fun k => k.modBank bk fun _ => lnBank s t
  have h1 : OnBanks s (modCore s s.issue.core fun k => k.modBank bk fun _ => lnBank s t) := by
    refine ⟨rfl, rfl, ?_⟩
    rw [hm]
    rfl
  refine ⟨h1.trans (onBanks_noteBad (modCore s s.issue.core fun k => k.modBank bk fun _ => lnBank s t) s.ln.owner s.ln.epc
    ((List.range 192).map fun r => (s.lnTile t + r / 64, r % 64, 192))), ?_⟩
  refine (congrArg (fun b : Vector Bank 4 => b[bk].fmt) (noteBad_banks
    (modCore s s.issue.core fun k => k.modBank bk fun _ => lnBank s t) s.ln.owner s.ln.epc
    ((List.range 192).map fun r => (s.lnTile t + r / 64, r % 64, 192)))).trans ?_
  rw [hm]
  exact congrArg Bank.fmt (modBank_bank s.myCore bk (lnBank s t))

theorem onBanks_lnLoadBank (s : State) (bk : Fin 4) (t : Nat) :
    OnBanks s (lnLoadBank s bk t) ∧ (lnLoadBank s bk t).myCore.banks[bk].fmt = .bf16 := by
  obtain ⟨h1, hf⟩ := onBanks_loadingBank s bk t
  have h2 := onBanks_bankParity (loadingBank s bk t) s.ln.owner ⟨0, .done, 0, 0, 0, s.ln.epc, 0, none, 0⟩ bk
  have h3 := bankParity_fmt (loadingBank s bk t) s.ln.owner ⟨0, .done, 0, 0, 0, s.ln.epc, 0, none, 0⟩ bk
  rw [h1.issue, ← lnLoadBank_eq] at h2 h3
  exact ⟨h1.trans h2, h3.trans hf⟩

/-! ## QKMM (R298) -/

/-- What QKMM works from: bank 2 loaded under `q`. -/
def qkLoaded (q : Bool) (s : State) : State := if q then lnLoadBank s 2 s.myCore.lantern.tq else s

theorem exec_qkmm (q : Bool) (x : Fin 16) {s : State} (h : s.myCore.lantern.phase = .running) : exec (.qkmm q x) s =
    .next (if 64 < s.myCore.lantern.reg x ∨ (qkLoaded q s).myCore.banks[(2 : Fin 4)].fmt.isWide = false then lnBad (qkLoaded q s)
      else qkScores (qkLoaded q s) (s.myCore.lantern.reg x)) :=
  runWordOf_running h fun s => if 64 < s.ln.reg x ∨ (qkLoaded q s).myCore.banks[(2 : Fin 4)].fmt.isWide = false then
    lnBad (qkLoaded q s) else qkScores (qkLoaded q s) (s.ln.reg x)

theorem onBanks_qkLoaded (q : Bool) (s : State) : OnBanks s (qkLoaded q s) := by
  cases q
  · exact .refl s
  · exact (onBanks_lnLoadBank s 2 _).1

theorem isWide_iff (f : Fmt) : f.isWide = true ↔ f = .bf16 ∨ f = .f16 := by cases f <;> decide

theorem qkLoaded_wide (q : Bool) (s : State) : (qkLoaded q s).myCore.banks[(2 : Fin 4)].fmt.isWide = true ↔
    q = true ∨ s.myCore.banks[(2 : Fin 4)].fmt = .bf16 ∨ s.myCore.banks[(2 : Fin 4)].fmt = .f16 := by
  rw [isWide_iff]
  cases q
  · exact (or_iff_right Bool.false_ne_true).symm
  · exact iff_of_true (.inl (onBanks_lnLoadBank s 2 s.myCore.lantern.tq).2) (.inl rfl)

theorem qkLoaded_lantern (q : Bool) (s : State) : (qkLoaded q s).myCore.lantern = s.myCore.lantern :=
  (congrArg Core.lantern (onBanks_qkLoaded q s).core).trans rfl

/-- The totals of the first `n` score rows. -/
def qkTotals (s : State) (n : Nat) : List (List FV) :=
  (List.range n).map fun i => denseRow .bf16 (lnCodes s s.ln.tk i) s.myCore.latA s.myCore.banks[(2 : Fin 4)] s.myCore.latB s.ln.heads

/-- The scores of the Lantern with those of the first `n` rows taken for the sequence's heads. -/
def Lantern.scored (rs : List (List FV)) (n : Nat) (l : Lantern) : Lantern :=
  { l with score := l.score.zipIdx.map fun p =>
      if p.2 < n then p.1.zipIdx.map fun q => if q.2 < l.heads then ((rs.getD p.2 []).getD q.2 (0, 0)).1 else q.1 else p.1 }

theorem qkScores_eq (s : State) (n : Nat) : qkScores s n = lnNote s s.ln.tk (List.range n)
    (lnFold (lnNext s (Lantern.scored (qkTotals s n) n)) (flagsOf ((qkTotals s n).flatMap id))) := rfl

theorem scored_eq (rs : List (List FV)) (n : Nat) (l : Lantern) : { l.scored rs n with pc := l.pc + 1 } =
    { l with pc := l.pc + 1, score := (l.scored rs n).score } := rfl

theorem scored_above (rs : List (List FV)) {n i : Nat} (l : Lantern) (h : n ≤ i) :
    (l.scored rs n).score.getD i [] = l.score.getD i [] := by
  simp only [Lantern.scored, List.getD_eq_getElem?_getD, List.getElem?_map, List.getElem?_zipIdx, Nat.zero_add]
  cases l.score[i]? with
  | none => rfl
  | some r => simp [Nat.not_lt.mpr h]

theorem scored_below (rs : List (List FV)) {n i j : Nat} (l : Lantern) (hi : i < n) (hl : i < l.score.length) (hj : j < l.heads)
    (hw : j < (l.score.getD i []).length) :
    ((l.scored rs n).score.getD i []).getD j 0 = ((rs.getD i []).getD j (0, 0)).1 := by
  simp only [Lantern.scored, List.getD_eq_getElem?_getD, List.getElem?_map, List.getElem?_zipIdx, Nat.zero_add] at hw ⊢
  rw [List.getElem?_eq_getElem hl] at hw ⊢
  simp only [Option.map_some, Option.getD_some, if_pos hi, List.getElem?_map, List.getElem?_zipIdx, Nat.zero_add] at hw ⊢
  rw [List.getElem?_eq_getElem hw]
  simp [hj]

/-- What a QKMM's product leaves: its core before the failures of its rows are noted. -/
theorem onCore_qkScored (s : State) (n : Nat) : OnCore (fun k => Core.foldLn s.ck (flagsOf ((qkTotals s n).flatMap id))
    { k with lantern := { k.lantern.scored (qkTotals s n) n with pc := k.lantern.pc + 1 } }) s
    (lnFold (lnNext s (Lantern.scored (qkTotals s n) n)) (flagsOf ((qkTotals s n).flatMap id))) := by
  have h := (onCore_lnNext s (Lantern.scored (qkTotals s n) n)).trans
    (onCore_lnFold (lnNext s (Lantern.scored (qkTotals s n) n)) (flagsOf ((qkTotals s n).flatMap id)))
  exact h

theorem qkScores_core (s : State) (n : Nat) : (qkScores s n).mem = s.mem ∧ (qkScores s n).myCore = { s.myCore with
    ctx := (qkScores s n).myCore.ctx, banks := (qkScores s n).myCore.banks, bad := (qkScores s n).myCore.bad,
    lantern := { s.myCore.lantern.scored (qkTotals s n) n with pc := s.myCore.lantern.pc + 1 } } := by
  have h1 := onCore_qkScored s n
  have h2 := onBanks_noteBad (lnFold (lnNext s (Lantern.scored (qkTotals s n) n)) (flagsOf ((qkTotals s n).flatMap id)))
    s.ln.owner s.ln.epc ((List.range n).map fun r => (s.lnTile s.ln.tk + r / 64, r % 64, 192))
  rw [h1.issue] at h2
  have hc := h2.core
  rw [h1.core, foldLn_eq] at hc
  exact ⟨h2.mem.trans h1.mem, hc⟩

theorem qkScores_clean {s : State} (h : s.myCore.bad = []) (n : Nat) : (qkScores s n).myCore.banks = s.myCore.banks ∧
    ((qkScores s n).myCore.get s.myCore.lantern.owner).flags =
      (s.myCore.get s.myCore.lantern.owner).flags ||| flagsOf ((qkTotals s n).flatMap id) := by
  have h1 := onCore_qkScored s n
  have hbad := (congrArg Core.bad h1.core).trans ((foldLn_bad ..).trans h)
  rw [State.myCore, h1.issue] at hbad
  rw [qkScores_eq, lnNote_clean _ _ _ hbad]
  refine ⟨(congrArg Core.banks h1.core).trans (foldLn_banks ..), ?_⟩
  exact (congrArg (fun k : Core => (k.get s.myCore.lantern.owner).flags) h1.core).trans (foldLn_flags ..)

/-- Bank 2 as QKMM computes with it, where nothing fails its parity. -/
def qkBank (q : Bool) (s : State) : Bank := if q then lnBank s s.myCore.lantern.tq else s.myCore.banks[(2 : Fin 4)]

theorem qkBank_clean (q : Bool) {s : State} (h : s.myCore.bad = []) : qkBank q s =
    if q then ⟨.bf16, (List.range 192).map fun r => rowOf 16 (elemsOf 16 96 (s.myCore.row
      ((s.myCore.get s.myCore.lantern.owner).tbase + s.myCore.lantern.tq + r / 64) (r % 64)).toNat)⟩
    else s.myCore.banks[(2 : Fin 4)] := by
  rw [qkBank, lnBank]
  exact congrArg (fun f : Nat → List Nat => if q then ⟨.bf16, (List.range 192).map fun r => rowOf 16 (f r)⟩
    else s.myCore.banks[(2 : Fin 4)]) (funext fun r => lnCodes_clean h s.myCore.lantern.tq r)

theorem qkLoaded_clean (q : Bool) {s : State} (h : s.myCore.bad = []) : (qkLoaded q s).myCore =
    { s.myCore with banks := if q then s.myCore.banks.set 2 (qkBank q s) else s.myCore.banks } := by
  cases q
  · rfl
  · have hc : (qkLoaded true s).myCore = s.myCore.modBank 2 fun _ => lnBank s s.myCore.lantern.tq := by
      rw [qkLoaded, if_pos rfl, lnLoadBank_clean h]
      exact modCore_myCore s fun k => k.modBank 2 fun _ => lnBank s s.myCore.lantern.tq
    rw [hc]
    rfl

theorem qkLoaded_bank (q : Bool) {s : State} (h : s.myCore.bad = []) :
    (qkLoaded q s).myCore.banks[(2 : Fin 4)] = qkBank q s := by
  rw [qkLoaded_clean q h]
  cases q
  · rfl
  · exact modBank_bank s.myCore 2 (lnBank s s.myCore.lantern.tq)

theorem qkTotals_clean (q : Bool) {s : State} (h : s.myCore.bad = []) (n : Nat) : qkTotals (qkLoaded q s) n =
    (List.range n).map fun i => denseRow .bf16 (elemsOf 16 96 (s.myCore.row ((s.myCore.get s.myCore.lantern.owner).tbase +
      s.myCore.lantern.tk + i / 64) (i % 64)).toNat) s.myCore.latA (qkBank q s) s.myCore.latB s.myCore.lantern.heads := by
  have hc := qkLoaded_clean q h
  have hb : (qkLoaded q s).myCore.bad = [] := (congrArg Core.bad hc).trans h
  refine List.map_congr_left fun i _ => ?_
  rw [lnCodes_clean hb, qkLoaded_bank q h, State.ln, hc]
  rfl

/-- Settles O49: bank 2 loaded or found wide, the scores of the heads, and the flags. -/
theorem lanternScores : Obligations.LanternScores := by
  intro q x s h k l tb n codes bank wide loaded rs
  have hob := onBanks_qkLoaded q s
  have hl := qkLoaded_lantern q s
  have hx : exec (.qkmm q x) s = .next (if 64 < n ∨ (qkLoaded q s).myCore.banks[(2 : Fin 4)].fmt.isWide = false then
      lnBad (qkLoaded q s) else qkScores (qkLoaded q s) n) := exec_qkmm q x h
  refine ⟨fun hn hw => ?_, fun hbad => ?_⟩
  · have hgo : ¬(64 < n ∨ (qkLoaded q s).myCore.banks[(2 : Fin 4)].fmt.isWide = false) := by
      rw [(qkLoaded_wide q s).mpr hw]
      simp [hn]
    obtain ⟨hmem, hcore⟩ := qkScores_core (qkLoaded q s) n
    have hln := (congrArg Core.lantern hcore).trans (congrArg (fun l : Lantern =>
      { l.scored (qkTotals (qkLoaded q s) n) n with pc := l.pc + 1 }) hl)
    refine ⟨_, hx.trans (congrArg _ (if_neg hgo)), hmem.trans hob.mem, ?_, ?_, ?_, ?_, fun i hi => ?_, fun hb => ?_⟩
    · exact (congrArg Core.acc hcore).trans ((congrArg Core.acc hob.core).trans rfl)
    · exact (congrArg Core.live hcore).trans ((congrArg Core.live hob.core).trans rfl)
    · exact (congrArg Core.tiles hcore).trans ((congrArg Core.tiles hob.core).trans rfl)
    · rw [show (qkScores (qkLoaded q s) n).myCore.lantern = _ from hln]
      exact scored_eq _ n l
    · rw [show (qkScores (qkLoaded q s) n).myCore.lantern = _ from hln]
      exact scored_above _ l hi
    · have hc := qkLoaded_clean q hb
      obtain ⟨hbanks, hflags⟩ := qkScores_clean ((congrArg Core.bad hc).trans hb) n
      have hrs : qkTotals (qkLoaded q s) n = rs := by
        rw [qkTotals_clean q hb n, qkBank_clean q hb]
      rw [hrs] at hln hflags
      rw [qkBank_clean q hb] at hc
      refine ⟨hbanks.trans (congrArg Core.banks hc), fun i j hi hi' hj hj' => ?_, ?_⟩
      · rw [show (qkScores (qkLoaded q s) n).myCore.lantern = _ from hln]
        exact scored_below rs l hi hi' hj hj'
      · rw [hl, hc] at hflags
        exact hflags
  · have hstop : 64 < n ∨ (qkLoaded q s).myCore.banks[(2 : Fin 4)].fmt.isWide = false :=
      hbad.imp_right fun hw => Bool.eq_false_iff.mpr fun hf => hw ((qkLoaded_wide q s).mp hf)
    rw [hx, if_pos hstop, lnBad, lnStop, State.ln, hl, hob.issue] <;> rfl

end Sys2Proof.Machine
end

section
/-! # GLIM: the signatures asked for, and the tokens its filter lets through (R282, R291) -/

namespace Sys2Proof.Machine

/-! ## Elements of a packed row (R31) -/

theorem elemAt_packElems (w : Nat) : ∀ (cs : List Nat) (i : Nat), elemAt w (packElems w cs) i = cs.getD i 0 % 2 ^ w
  | [], i => by simp [packElems, elemAt]
  | c :: cs, 0 => by simp [packElems, elemAt]
  | c :: cs, i + 1 => by
    have hw : 0 < 2 ^ w := Nat.two_pow_pos w
    rw [List.getD_cons_succ, ← elemAt_packElems w cs i, packElems, elemAt, elemAt, Nat.add_mul, one_mul,
      Nat.add_comm (i * w), Nat.pow_add, ← Nat.div_div_eq_div_mul, Nat.add_mul_div_left _ _ hw, Nat.div_eq_of_lt (Nat.mod_lt _ hw), Nat.zero_add]

theorem packElems_lt (w : Nat) : ∀ cs : List Nat, packElems w cs < 2 ^ (w * cs.length)
  | [] => by simp [packElems]
  | c :: cs => by
    have h1 : c % 2 ^ w < 2 ^ w := Nat.mod_lt _ (Nat.two_pow_pos w)
    have h2 := Nat.mul_le_mul_left (2 ^ w) (packElems_lt w cs)
    rw [List.length_cons, Nat.mul_add, mul_one, Nat.add_comm, Nat.pow_add, packElems]
    rw [Nat.mul_succ] at h2
    omega

theorem elemAt_rowOf {w : Nat} {cs : List Nat} (h : w * cs.length ≤ 1536) (i : Nat) :
    elemAt w (rowOf w cs).toNat i = cs.getD i 0 % 2 ^ w := by
  have hlt := (packElems_lt w cs).trans_le (Nat.pow_le_pow_right Nat.two_pos h)
  rw [rowOf, BitVec.toNat_ofNat, Nat.mod_eq_of_lt hlt, elemAt_packElems]

theorem elemAt_listRow (old : Row) {vs : List Nat} {e : Nat} (h : e < vs.length) (h48 : e < 48) :
    elemAt 32 (listRow old vs).toNat e = vs.getD e 0 % 2 ^ 32 := by
  have hl : ((elemsOf 32 48 old.toNat).zipIdx.map fun p => vs.getD p.2 p.1).length = 48 := by simp [elemsOf_length]
  rw [listRow, elemAt_rowOf (by rw [hl])]
  simp [List.getD_eq_getElem?_getD, elemsOf, h48, h]

/-! ## The list in TI (R291) -/

/-- The core with row `r` of the list `vs` in TI. -/
def Core.listLn (vs : List Nat) (r : Nat) (k : Core) : Core :=
  k.setRow ((k.get k.lantern.owner).tbase + k.lantern.ti) r
    (listRow (k.row ((k.get k.lantern.owner).tbase + k.lantern.ti) r) ((vs.drop (48 * r)).take 48))

/-- The core with the list `vs` in TI. -/
def Core.putListLn (vs : List Nat) (k : Core) : Core :=
  (List.range ((vs.length + 47) / 48)).foldl (fun k r => k.listLn vs r) k

theorem onCore_putList (s : State) (vs : List Nat) : OnCore (Core.putListLn vs) s (putList s vs) :=
  OnCore.foldl (F := Core.listLn vs) (f := fun s r => modCore s s.issue.core fun k =>
    k.setRow (s.lnTile s.ln.ti) r (listRow (k.row (s.lnTile s.ln.ti) r) ((vs.drop (48 * r)).take 48)))
    (fun s r => ⟨rfl, rfl, rfl, modCore_myCore s fun k =>
      k.setRow (s.lnTile s.ln.ti) r (listRow (k.row (s.lnTile s.ln.ti) r) ((vs.drop (48 * r)).take 48))⟩) _ s

theorem foldl_listLn_eq (vs : List Nat) : ∀ (rs : List Nat) (k : Core), rs.foldl (fun k r => k.listLn vs r) k =
    { k with tiles := (rs.foldl (fun k r => k.listLn vs r) k).tiles, bad := (rs.foldl (fun k r => k.listLn vs r) k).bad }
  | [], _ => rfl
  | r :: rs, k => by
    rw [List.foldl_cons, foldl_listLn_eq vs rs (k.listLn vs r)]
    rfl

theorem putListLn_eq (vs : List Nat) (k : Core) :
    k.putListLn vs = { k with tiles := (k.putListLn vs).tiles, bad := (k.putListLn vs).bad } := foldl_listLn_eq vs _ k

theorem putListLn_owner (vs : List Nat) (k : Core) : (k.putListLn vs).lantern.owner = k.lantern.owner := by
  rw [putListLn_eq]

theorem listLn_row_ne (vs : List Nat) {r r' : Nat} (k : Core) (h : r' ≠ r) :
    (k.listLn vs r).row ((k.get k.lantern.owner).tbase + k.lantern.ti) r' =
      k.row ((k.get k.lantern.owner).tbase + k.lantern.ti) r' :=
  alGet_alSet_ne _ _ _ (by omega)

/-- Each row of the list holds its 48 elements. -/
theorem foldl_listLn_elem (vs : List Nat) {i : Nat} (hi : i < vs.length) : ∀ n (k : Core), i / 48 < n →
    elemAt 32 (((List.range n).foldl (fun k r => k.listLn vs r) k).row
      ((k.get k.lantern.owner).tbase + k.lantern.ti) (i / 48)).toNat (i % 48) = vs.getD i 0 % 2 ^ 32
  | n + 1, k, hn => by
    have heq := foldl_listLn_eq vs (List.range n) k
    have htile : ((((List.range n).foldl (fun k r => k.listLn vs r) k).get
        ((List.range n).foldl (fun k r => k.listLn vs r) k).lantern.owner).tbase +
        ((List.range n).foldl (fun k r => k.listLn vs r) k).lantern.ti) =
        (k.get k.lantern.owner).tbase + k.lantern.ti := by
      rw [heq]
      rfl
    rw [List.range_succ, List.foldl_append, List.foldl_cons, List.foldl_nil, ← htile]
    by_cases hr : i / 48 = n
    · rw [← hr, Core.listLn, Core.row, Core.setRow, alGet_alSet_self, elemAt_listRow _ (by
        rw [List.length_take, List.length_drop]; omega) (Nat.mod_lt _ (by omega))]
      simp only [List.getD_eq_getElem?_getD, List.getElem?_take, List.getElem?_drop, Nat.mod_lt i (show 48 > 0 by omega),
        if_true, Nat.div_add_mod]
    · rw [listLn_row_ne _ _ hr, htile]
      exact foldl_listLn_elem vs hi n k (by omega)

/-! ## GLIM (R291) -/

/-- The core without command `u` of the sequence. -/
def Core.dropLn (u : Nat) (k : Core) : Core :=
  k.put k.lantern.owner { k.get k.lantern.owner with cmds := (k.get k.lantern.owner).cmds.filter fun q => q.uid != u }

theorem onCore_dropLn (s : State) (u : Nat) : OnCore (Core.dropLn u) s (dropCmd s s.issue.core s.ln.owner u) := by
  refine ⟨rfl, rfl, rfl, ?_⟩
  rw [dropCmd, modCtx_eq_modCore]
  exact modCore_myCore s (Core.dropLn u)

theorem glimStep_running {s : State} (h : s.myCore.lantern.phase = .running) (d x y : Fin 16) :
    glimStep s d x y = glimStart s d (s.ln.reg x) (s.ln.reg y) := by
  rw [glimStep, State.ln, h]

theorem glimStep_copied {s : State} {u : Nat} {m : Cmd} (h : s.myCore.lantern.phase = .copying u)
    (hm : ((s.myCore.get s.myCore.lantern.owner).cmds.find? fun m => m.uid == u) = some m) (he : m.ended = true)
    (hu : m.units = []) (hs : m.stopped = false) (d x y : Fin 16) :
    glimStep s d x y = glimEnd s d (s.ln.reg x) m := by
  rw [glimStep, State.ln, h]
  simp only [State.lnCtx, State.ln, hm, he, hu, hs]
  rfl

/-- What the end of GLIM leaves: the list in TI, its command gone, the number in s[SD] (R291). -/
theorem onCore_glimEnd (s : State) (d : Fin 16) (ts : List Nat) (u : Nat) :
    OnCore (fun k => { (k.putListLn ts).dropLn u with
        lantern := { (k.putListLn ts).lantern.put d ts.length with
          phase := .running, pc := (k.putListLn ts).lantern.pc + 1 } }) s
      (lnNext (dropCmd (putList s ts) s.issue.core s.ln.owner u) fun l => { l.put d ts.length with phase := .running }) := by
  have h1 := onCore_putList s ts
  have h2 := onCore_dropLn (putList s ts) u
  have ho : (putList s ts).ln.owner = s.ln.owner :=
    (congrArg (fun k : Core => k.lantern.owner) h1.core).trans (putListLn_owner ts s.myCore)
  rw [ho, h1.issue] at h2
  exact (h1.trans h2).trans (onCore_lnNext _ fun l => { l.put d ts.length with phase := .running })

theorem glimStart_bad {s : State} {a n : Nat} (h : 3072 < n ∨ s.myCore.lantern.len < a + n) (d : Fin 16) :
    glimStart s d a n = lnBad s := if_pos h

theorem glimStart_none {s : State} {a : Nat} (ha : a ≤ s.myCore.lantern.len) (d : Fin 16) :
    glimStart s d a 0 = lnNext s fun l => l.put d 0 := by
  rw [glimStart, if_neg, if_pos rfl]
  exact not_or.mpr ⟨by omega, Nat.not_lt.mpr ha⟩

/-- The read of the signatures of `n` tokens from `a` on. -/
def glimCmd (s : State) (d : Fin 16) (a n : Nat) : Cmd :=
  { lnCmd s (.glim d n) (plainForm true 1 n) s.ln.sbase with
    chunks := n
    units := (List.range n).flatMap fun k =>
      unitsOf (k + 1) [⟨addrPlus s.ln.sbase ((8 * (a + k) : Nat) : Int), 8, 0⟩] }

theorem glimStart_some {s : State} {a n : Nat} (hn : n ≤ 3072) (ha : a + n ≤ s.myCore.lantern.len) (h0 : n ≠ 0)
    (hroom : (s.myCore.get s.myCore.lantern.owner).cmds.length < 16) (d : Fin 16) : glimStart s d a n =
    lnSet (enqueue s s.issue.core s.ln.owner (glimCmd s d a n)) fun l =>
      { l with phase := .copying (s.myCore.get s.myCore.lantern.owner).uid } := by
  have hgo : ¬(3072 < n ∨ s.ln.len < a + n) := not_or.mpr ⟨Nat.not_lt.mpr hn, Nat.not_lt.mpr ha⟩
  rw [glimStart, if_neg hgo, if_neg h0]
  exact lnIssue_room hroom _ _

theorem glimEnd_eq (s : State) (d : Fin 16) (a : Nat) (m : Cmd) : glimEnd s d a m =
    lnNext (dropCmd (putList s ((m.outs.zipIdx.filter fun p => glimPass s.ln (a + p.2) p.1).map fun p => a + p.2))
      s.issue.core s.ln.owner m.uid) fun l =>
      { l.put d ((m.outs.zipIdx.filter fun p => glimPass s.ln (a + p.2) p.1).map fun p => a + p.2).length with
        phase := .running } := rfl

/-- Settles O47: the range stops, the read of the signatures queued, and the list of the tokens that pass. -/
theorem lanternLimit : Obligations.LanternLimit := by
  intro d x y s k l a n
  have hstart : l.phase = .running → exec (.glim d x y) s = .next (glimStart s d a n) :=
    fun h => congrArg Host.Outcome.next (glimStep_running h d x y)
  refine ⟨fun h hb => ?_, fun h hn ha => ⟨fun h0 => ?_, fun h0 hroom => ?_⟩, fun u m h hm he hu hs => ?_⟩
  · rw [hstart h, glimStart_bad hb, lnBad, lnStop] <;> rfl
  · have ha' : a ≤ l.len := by omega
    refine lanternGives_of_exec (g := fun l => { l.put d 0 with pc := l.pc + 1 }) ?_
    rw [hstart h, h0, glimStart_none ha'] <;> rfl
  · exact lanternQueues_of_exec (m := glimCmd s d a n) (g := fun l' => { l' with phase := .copying (k.get l.owner).uid })
      rfl rfl ((hstart h).trans (congrArg _ (glimStart_some hn ha h0 hroom d)))
  · intro pass ts
    have huid : m.uid = u := by simpa using List.find?_some hm
    have hx : exec (.glim d x y) s = .next (glimEnd s d a m) :=
      congrArg Host.Outcome.next (glimStep_copied h hm he hu hs d x y)
    rw [glimEnd_eq, huid] at hx
    have hend := onCore_glimEnd s d ts u
    have hput := putListLn_eq ts k
    refine ⟨_, hx, hend.mem, ?_, ?_, fun i hi _ => ?_⟩
    · refine (congrArg Core.lantern hend.core).trans ?_
      rw [hput] <;> rfl
    · refine (congrArg (fun k : Core => k.get l.owner) hend.core).trans ?_
      rw [hput]
      exact Core.get_put_self ..
    · refine (congrArg (fun k : Core => elemAt 32 (k.row ((s.myCore.get l.owner).tbase + l.ti) (i / 48)).toNat (i % 48))
        hend.core).trans ?_
      exact foldl_listLn_elem ts hi _ k (by omega)

end Sys2Proof.Machine
end

section
/-! # EWAIT, BSIG and DONE (R283, R288, R290) -/

namespace Sys2Proof.Machine

/-! ## What a growth that ends leaves (R199) -/

/-- From `s` to `t` the tables, the issue latch and the Lantern of core `c` are the same. -/
structure SameEntries (c : Nat) (s t : State) : Prop where
  tables : t.tables = s.tables
  issue : t.issue = s.issue
  lantern : (getCore t c).lantern = (getCore s c).lantern

theorem SameEntries.refl (c : Nat) (s : State) : SameEntries c s s := ⟨rfl, rfl, rfl⟩

theorem SameEntries.trans {c : Nat} {s t u : State} (h : SameEntries c s t) (g : SameEntries c t u) : SameEntries c s u :=
  ⟨g.tables.trans h.tables, g.issue.trans h.issue, g.lantern.trans h.lantern⟩

theorem sameEntries_setCtx (c d x : Nat) (s : State) (t : Ctx) : SameEntries c s (setCtx s d x t) := by
  refine ⟨rfl, rfl, ?_⟩
  by_cases h : c = d
  · rw [h, getCore_setCtx_self]
    rfl
  · rw [getCore_setCtx_ne _ _ _ h]

theorem sameEntries_modCtx (c d x : Nat) (s : State) (f : Ctx → Ctx) : SameEntries c s (modCtx s d x f) :=
  sameEntries_setCtx ..

theorem sameEntries_storeBytes (c k : Nat) (s : State) (bs : List Byte) : SameEntries c s (storeBytes s k bs) :=
  ⟨rfl, rfl, rfl⟩

theorem sameEntries_report (c d x : Nat) (s : State) (a : Async) : SameEntries c s (report s d x a) := by
  unfold report
  dsimp only
  split
  · exact ⟨rfl, rfl, rfl⟩
  · exact sameEntries_setCtx ..

theorem sameEntries_countBad (c k : Nat) (s : State) : SameEntries c s (countBad s k) := by
  unfold countBad
  split
  · exact ⟨rfl, rfl, rfl⟩
  · exact .refl c s

theorem alGet_map_lantern {f : Nat → Core → Core} (hf : ∀ c k, (f c k).lantern = k.lantern) (d : Core) (c : Nat) :
    ∀ l : List (Nat × Core), (alGet d (l.map fun p => (p.1, f p.1 p.2)) c).lantern = (alGet d l c).lantern
  | [] => rfl
  | p :: l => by
    by_cases h : p.1 = c
    · simp [alGet, h, hf]
    · simpa [alGet, h] using alGet_map_lantern hf d c l

theorem sameEntries_modWaits (c ch b : Nat) (s : State) (f : Ctx → Ctx) : SameEntries c s (modWaits s ch b f) :=
  ⟨rfl, rfl, alGet_map_lantern (f := fun c k => { k with ctx := k.ctx.map fun t => if waitsOn c t ch b then f t else t })
    (fun _ _ => rfl) _ c s.cores⟩

theorem sameEntries_readyReaders (c ch b : Nat) : ∀ (n : Nat) (s : State), SameEntries c s (readyReaders ch b n s)
  | 0, s => .refl c s
  | n + 1, s => by
    unfold readyReaders
    split
    · exact .refl c s
    · exact (sameEntries_modCtx ..).trans (sameEntries_readyReaders c ch b n _)

theorem sameEntries_setSlot (c ch b : Nat) (s : State) (v : Slot) : SameEntries c s (setSlot s ch b v) := ⟨rfl, rfl, rfl⟩

theorem sameEntries_creditSlot (c ch : Nat) (bar : Option Nat) (n : Nat) (p : Bool) (s : State) :
    SameEntries c s (creditSlot s ch bar n p) := by
  unfold creditSlot
  split
  · exact .refl c s
  · dsimp only
    split
    · exact sameEntries_setSlot ..
    · split
      · exact (sameEntries_setSlot ..).trans (sameEntries_modWaits ..)
      · exact (sameEntries_setSlot ..).trans (sameEntries_readyReaders ..)

theorem sameEntries_endGrow (c d x st : Nat) (m : Cmd) (nb : Option Nat) (s : State) :
    SameEntries c s (endGrow s d x m st nb) := by
  unfold endGrow
  dsimp only
  refine (SameEntries.trans (t := if poisoned s (m.base + 16) 1 then
      report (countBad s (m.base + 16)) d x ⟨causeUNCORR, m.addr, m.pos.headD 0 + 16, none, none⟩
    else storeBytes s (m.base + 16) (leBytes 1 st)) ?_ ?_).trans ((sameEntries_creditSlot ..).trans (sameEntries_modCtx ..))
  · split
    · exact (sameEntries_countBad ..).trans (sameEntries_report ..)
    · exact sameEntries_storeBytes ..
  · cases nb with
    | some b => exact sameEntries_storeBytes ..
    | none => exact .refl ..

theorem bits_setBits {hi lo : Nat} (h : lo ≤ hi + 1) (x v : Nat) : bits (setBits x hi lo v) hi lo = v % 2 ^ (hi + 1 - lo) := by
  have hp : 2 ^ (hi + 1) = 2 ^ (hi + 1 - lo) * 2 ^ lo := by rw [← Nat.pow_add, Nat.sub_add_cancel h]
  have hl : 0 < 2 ^ lo := Nat.two_pow_pos lo
  have hd : setBits x hi lo v / 2 ^ lo = v % 2 ^ (hi + 1 - lo) + 2 ^ (hi + 1 - lo) * (x / 2 ^ (hi + 1)) := by
    have he : setBits x hi lo v = x % 2 ^ lo + 2 ^ lo * (v % 2 ^ (hi + 1 - lo) + 2 ^ (hi + 1 - lo) * (x / 2 ^ (hi + 1))) := by
      rw [setBits, hp]
      ring
    rw [he, Nat.add_mul_div_left _ _ hl, Nat.div_eq_of_lt (Nat.mod_lt _ hl), Nat.zero_add]
  rw [bits, hd, Nat.add_mul_mod_self_left, Nat.mod_mod]

theorem winWord_putWinWord_self (s : State) (c e w v : Nat) : winWord (putWinWord s c e w v) c e w = v :=
  alGet_alSet_self ..

theorem winWord_putWinWord_ne (s : State) (c e v : Nat) {w w' : Nat} (h : w' ≠ w) :
    winWord (putWinWord s c e w v) c e w' = winWord s c e w' :=
  alGet_alSet_ne _ _ _ fun he => h (by simpa using he)

theorem winWord_of_tables {s t : State} (h : t.tables = s.tables) (c e w : Nat) : winWord t c e w = winWord s c e w := by
  rw [winWord, tabGet, h]
  rfl

/-- The state whose entry the swap has rewritten, before its forwarding ends (R199). -/
def swappedEntry (s : State) (c x : Nat) (m : Cmd) : State :=
  let e := slEntry m.desc
  let sz := winSize s c e
  let s1 := clearBytes s ((getCtx s c x).xfwdn.toNat + slUsed m.desc) (2 ^ (sz + 1) - slUsed m.desc)
  let s2 := putWinWord s1 c e 0 (setBits (winWord s1 c e 0) 31 26 (sz + 1))
  putWinWord s2 c e 1 (setBits (winWord s2 c e 1) 47 16 ((getCtx s c x).xfwdn.toNat / 2 ^ 16))

theorem swapSlab_eq (s : State) (c x : Nat) (m : Cmd) : swapSlab s c x m =
    endGrow (setForward { swappedEntry s c x m with oldSlabs := (swappedEntry s c x m).oldSlabs ++
      [⟨(getCtx s c x).xfwdo.toNat, (getCtx s c x).xfwdn.toNat, winSize s c (slEntry m.desc) + 1⟩] } c x 0 0 0)
      c x m 1 (some (getCtx s c x).xfwdn.toNat) := rfl

theorem sameEntries_swapSlab (s : State) (c x : Nat) (m : Cmd) : SameEntries c (swappedEntry s c x m) (swapSlab s c x m) := by
  rw [swapSlab_eq]
  refine SameEntries.trans (t := { swappedEntry s c x m with oldSlabs := (swappedEntry s c x m).oldSlabs ++
      [⟨(getCtx s c x).xfwdo.toNat, (getCtx s c x).xfwdn.toNat, winSize s c (slEntry m.desc) + 1⟩] }) ⟨rfl, rfl, rfl⟩ ?_
  exact (sameEntries_modCtx ..).trans (sameEntries_endGrow ..)

theorem swapSlab_winSize (s : State) (c x : Nat) (m : Cmd) (h : winSize s c (slEntry m.desc) < 40) :
    winSize (swapSlab s c x m) c (slEntry m.desc) = winSize s c (slEntry m.desc) + 1 := by
  rw [winSize, winWord_of_tables (sameEntries_swapSlab s c x m).tables, swappedEntry,
    winWord_putWinWord_ne _ _ _ _ Nat.zero_ne_one, winWord_putWinWord_self, bits_setBits (by omega)]
  exact Nat.mod_eq_of_lt (show _ < 64 by omega)

theorem swapSlab_winBase (s : State) (c x : Nat) (m : Cmd) : winBase (swapSlab s c x m) c (slEntry m.desc) =
    (getCtx s c x).xfwdn.toNat / 2 ^ 16 % 2 ^ 32 * 2 ^ 16 := by
  rw [winBase, winWord_of_tables (sameEntries_swapSlab s c x m).tables, swappedEntry, winWord_putWinWord_self,
    bits_setBits (by omega)]

theorem swapSlab_myCore (s : State) (x : Nat) (m : Cmd) : (swapSlab s s.issue.core x m).issue = s.issue ∧
    (swapSlab s s.issue.core x m).myCore.lantern = s.myCore.lantern := by
  have h := sameEntries_swapSlab s s.issue.core x m
  refine ⟨h.issue, ?_⟩
  rw [State.myCore, h.issue]
  exact h.lantern

/-! ## Waiting for the engines (R283, R290) -/

theorem lnDrained_iff (s : State) : lnDrained s = true ↔
    ∀ m ∈ (s.myCore.get s.myCore.lantern.owner).cmds, m.kind.isLantern = false := by
  simp [lnDrained, State.lnCtx, State.ln]

theorem grown_iff (m : Cmd) : m.grown = true ↔ m.isGrow = true ∧ m.started = true ∧ m.chunks ≤ m.ported := by
  simp [Cmd.grown, and_assoc]

/-- No growth of the context has copied its last piece: no entry is swapped. -/
theorem lnSwaps_none {s : State} (h : ∀ m ∈ (s.myCore.get s.myCore.lantern.owner).cmds, m.grown = false) : lnSwaps s = s := by
  have hf : (s.myCore.get s.myCore.lantern.owner).cmds.filter Cmd.grown = [] :=
    List.filter_eq_nil_iff.mpr fun m hm => by simp [h m hm]
  rw [lnSwaps, State.lnCtx, State.ln, hf] <;> rfl

theorem ungrown_of_still {m : Cmd} (h : m.isGrow = false) : m.grown = false := by simp [Cmd.grown, h]

theorem ungrown_of_pieces {m : Cmd} (h : m.isGrow = true → m.started = false ∨ m.ported < m.chunks) : m.grown = false := by
  rw [← Bool.not_eq_true, grown_iff]
  rintro ⟨hg, hs, hc⟩
  rcases h hg with h | h
  · simp [h] at hs
  · omega

theorem exec_ewait {s : State} (h : s.myCore.lantern.phase = .running) (g : Bool) : exec (.ewait g) s =
    .next (if lnDrained s && (!g || s.lnCtx.cmds.all fun m => !m.isGrow || m.grown) then lnNext (lnSwaps s) id else s) :=
  runWordOf_running h fun s =>
    if lnDrained s && (!g || s.lnCtx.cmds.all fun m => !m.isGrow || m.grown) then lnNext (lnSwaps s) id else s

theorem exec_done {s : State} (h : s.myCore.lantern.phase = .running) : exec .done s =
    .next (if lnDrained s then lnDone s else s) := runWordOf_running h fun s => if lnDrained s then lnDone s else s

theorem ewait_goes {s : State} (h : s.myCore.lantern.phase = .running) {g : Bool} (hd : lnDrained s = true)
    (hg : g = false ∨ ∀ m ∈ (s.myCore.get s.myCore.lantern.owner).cmds, m.isGrow = true → m.grown = true) :
    exec (.ewait g) s = .next (lnNext (lnSwaps s) id) := by
  have hall : (lnDrained s && (!g || s.lnCtx.cmds.all fun m => !m.isGrow || m.grown)) = true := by
    rw [hd, Bool.true_and, Bool.or_eq_true, List.all_eq_true]
    refine hg.imp (fun h => by rw [h]; rfl) fun h m hm => ?_
    rw [Bool.or_eq_true]
    by_cases hi : m.isGrow = true
    · exact .inr (h m hm hi)
    · exact .inl (by simp [hi])
  rw [exec_ewait h, if_pos hall]

theorem ewait_waits {s : State} (h : s.myCore.lantern.phase = .running) {g : Bool}
    (hw : lnDrained s = false ∨ g = true ∧ ∃ m ∈ (s.myCore.get s.myCore.lantern.owner).cmds, m.isGrow = true ∧ m.grown = false) :
    exec (.ewait g) s = .next s := by
  have hall : (lnDrained s && (!g || s.lnCtx.cmds.all fun m => !m.isGrow || m.grown)) = false := by
    rcases hw with hd | ⟨hg, m, hm, hi, hgr⟩
    · rw [hd, Bool.false_and]
    · have : (s.lnCtx.cmds.all fun m => !m.isGrow || m.grown) = false :=
        List.all_eq_false.mpr ⟨m, hm, by simp [hi, hgr]⟩
      rw [this, hg, Bool.and_eq_false_iff]
      exact .inr rfl
  rw [exec_ewait h, if_neg (by rw [hall]; decide)]

/-! ## An arrival of the Lantern (R283, R288) -/

theorem getSlot_lnArrive (s : State) (b : Nat) : getSlot (lnArrive s b) (chipletOf s.issue.core) b =
    if (getSlot s (chipletOf s.issue.core) b).ring then { getSlot s (chipletOf s.issue.core) b with
      free := min (getSlot s (chipletOf s.issue.core) b).depth ((getSlot s (chipletOf s.issue.core) b).free + 1) }
    else { getSlot s (chipletOf s.issue.core) b with arrNow := (getSlot s (chipletOf s.issue.core) b).arrNow + 1 } :=
  getSlot_modSlot_self s (chipletOf s.issue.core) b fun v => v.arrive none

/-- The slot is in force and granted to the context that started the sequence (R394). -/
def lnGranted (s : State) (b : Nat) : Prop := (getSlot s (chipletOf s.issue.core) b).on = true ∧
  (getSlot s (chipletOf s.issue.core) b).party (s.myCore.get s.myCore.lantern.owner).group
    (s.myCore.get s.myCore.lantern.owner).rank ≠ none

/-- The slot's scope is that of the code (R402). -/
def lnInScope (s : State) (code b : Nat) : Prop := slotScope s (getSlot s (chipletOf s.issue.core) b) =
  some (if code = 7 then (s.myCore.get s.myCore.lantern.owner).gsc else code)

/-- The slot is a ring with every slot free (R404). -/
def lnFull (s : State) (b : Nat) : Prop := (getSlot s (chipletOf s.issue.core) b).ring = true ∧
  (getSlot s (chipletOf s.issue.core) b).free = (getSlot s (chipletOf s.issue.core) b).depth

open Classical in
theorem lnArriveFault_eq (s : State) (code b : Nat) : lnArriveFault s code b =
    if ¬lnGranted s b then some (causePRIV, b) else if ¬lnInScope s code b then some (causeSCOPE, b)
    else if lnFull s b then some (causeRESERVED, s.ln.pc * 65536 + 13 * 256) else none := by
  rw [lnArriveFault]
  refine if_congr ?_ rfl (if_congr Iff.rfl rfl (if_congr ?_ rfl rfl))
  · rw [lnGranted, not_and_or, not_ne_iff, Bool.not_eq_true, Option.isNone_iff_eq_none]
    rfl
  · rw [lnFull, Bool.and_eq_true, beq_iff_eq]
    rfl

section
variable {s : State} {code b : Nat}

theorem lnArriveFault_ungranted (h : ¬lnGranted s b) : lnArriveFault s code b = some (0x03, b) := by
  rw [lnArriveFault_eq, if_pos h]
  rfl

theorem lnArriveFault_scope (h : lnGranted s b) (hs : ¬lnInScope s code b) : lnArriveFault s code b = some (0x0D, b) := by
  rw [lnArriveFault_eq, if_neg (not_not.mpr h), if_pos hs]
  rfl

theorem lnArriveFault_full (h : lnGranted s b) (hs : lnInScope s code b) (hf : lnFull s b) :
    lnArriveFault s code b = some (0x02, s.ln.pc * 65536 + 13 * 256) := by
  rw [lnArriveFault_eq, if_neg (not_not.mpr h), if_neg (not_not.mpr hs), if_pos hf]
  rfl

theorem lnArriveFault_none (h : lnGranted s b) (hs : lnInScope s code b) (hf : ¬lnFull s b) :
    lnArriveFault s code b = none := by
  rw [lnArriveFault_eq, if_neg (not_not.mpr h), if_neg (not_not.mpr hs), if_neg hf]

end

/-- An arrival of the sequence, or the stop with what it meets; then `g`. -/
def lnArrives (s : State) (code b : Nat) (g : State → State) : State :=
  match lnArriveFault s code b with
  | some f => lnStop s f.1 f.2
  | none => g (lnArrive s b)

theorem lnArrives_fault {s : State} {code b : Nat} {f : Nat × Nat} (h : lnArriveFault s code b = some f) (g : State → State) :
    lnArrives s code b g = lanternStop s s.issue.core f.1 f.2 := by rw [lnArrives, h] <;> rfl

theorem lnArrives_counted {s : State} {code b : Nat} (h : lnArriveFault s code b = none) (g : State → State) :
    lnArrives s code b g = g (lnArrive s b) := by rw [lnArrives, h]

theorem exec_bsig_bad {s : State} (h : s.myCore.lantern.phase = .running) {x : Fin 16} (hb : 1022 < s.myCore.lantern.reg x)
    (sc : Fin 8) : exec (.bsig sc x) s = .next (lnBad s) :=
  (runWordOf_running h fun s => if 1022 < s.ln.reg x then lnBad s
    else lnArrives s sc.val (s.ln.reg x) fun s => lnNext s id).trans (congrArg _ (if_pos hb))

theorem exec_bsig {s : State} (h : s.myCore.lantern.phase = .running) {x : Fin 16} (hb : s.myCore.lantern.reg x ≤ 1022)
    (sc : Fin 8) : exec (.bsig sc x) s =
    .next (lnArrives s sc.val (s.myCore.lantern.reg x) fun s => lnNext s id) :=
  (runWordOf_running h fun s => if 1022 < s.ln.reg x then lnBad s
    else lnArrives s sc.val (s.ln.reg x) fun s => lnNext s id).trans (congrArg _ (if_neg (Nat.not_lt.mpr hb)))

theorem leAt_one (bs : List Byte) (i : Nat) : leAt bs i 1 = (bs.getD i 0).toNat := by
  rw [leAt, List.getD_eq_getElem?_getD, ← List.head?_drop]
  cases bs.drop i with
  | nil => rfl
  | cons b _ => simp [leNat]

theorem lnDone_still {s : State} (h : ∀ m ∈ (s.myCore.get s.myCore.lantern.owner).cmds, m.isGrow = false) :
    lnDone s = if s.myCore.lantern.bar = 0x3FF then lnEnd s
      else lnArrives s (s.myCore.lantern.params.getD 50 0).toNat s.myCore.lantern.bar lnEnd := by
  rw [lnDone, lnSwaps_none fun m hm => ungrown_of_still (h m hm), ← leAt_one]
  rfl

theorem lnEnd_myCore (s : State) : (lnEnd s).myCore = { s.myCore with
    owner := if s.myCore.owner = .lantern then Owner.none else s.myCore.owner
    lantern := { s.myCore.lantern with phase := .idle, endCode := 1, cause := 0 } } :=
  modCore_myCore s fun k => { k with
    owner := if k.owner = .lantern then Owner.none else k.owner
    lantern := { k.lantern with phase := .idle, endCode := 1, cause := 0 } }

/-- Settles O53: the waits, the swap of a grown slab, the arrivals and their stops, and the end of the sequence. -/
theorem lanternControlWords : Obligations.LanternControlWords := by
  intro g sc x s h k l t ch drained still b stop why13 granted inScope full arrived ended owner
  have hdr : drained → lnDrained s = true := (lnDrained_iff s).mpr
  have hcounted : ∀ code b, granted b → inScope b code → ¬full b → ∀ g : State → State,
      lnArrives s code b g = g (lnArrive s b) := fun code b hg hs hf => lnArrives_counted (lnArriveFault_none hg hs hf)
  have hpriv : ∀ code b, ¬granted b → ∀ g : State → State,
      (.next (lnArrives s code b g) : Host.Outcome State Fault Refusal) = stop 0x03 b :=
    fun code b hg g => congrArg _ (lnArrives_fault (lnArriveFault_ungranted hg) g)
  have hscope : ∀ code b, granted b → ¬inScope b code → ∀ g : State → State,
      (.next (lnArrives s code b g) : Host.Outcome State Fault Refusal) = stop 0x0D b :=
    fun code b hg hs g => congrArg _ (lnArrives_fault (lnArriveFault_scope hg hs) g)
  have hfull : ∀ code b, granted b → inScope b code → full b → ∀ g : State → State,
      (.next (lnArrives s code b g) : Host.Outcome State Fault Refusal) = why13 :=
    fun code b hg hs hf g => congrArg _ (lnArrives_fault (lnArriveFault_full hg hs hf) g)
  refine ⟨fun hd hs => ?_, fun hd => ?_, fun hd hw => ?_, fun hd hw => ?_, fun m hd hm hst hch => ?_, fun hb => ?_,
    fun hb => ?_, fun hd hs hbar => ?_, fun hd hs hbar => ?_⟩
  · refine lanternGives_of_exec (g := fun l => { l with pc := l.pc + 1 }) ?_
    rw [ewait_goes h (hdr hd) (.inr fun m hm hi => absurd hi (by simp [hs m hm])),
      lnSwaps_none fun m hm => ungrown_of_still (hs m hm)]
    rfl
  · have hd' : lnDrained s = false := Bool.eq_false_iff.mpr fun hf => hd ((lnDrained_iff s).mp hf)
    exact ⟨ewait_waits h (.inl hd'), (exec_done h).trans (by rw [hd']; rfl)⟩
  · obtain ⟨m, hm, hi, hp⟩ := hw
    exact ewait_waits h (.inr ⟨rfl, m, hm, hi, ungrown_of_pieces fun _ => hp⟩)
  · refine lanternGives_of_exec (g := fun l => { l with pc := l.pc + 1 }) ?_
    rw [ewait_goes h (hdr hd) (.inl rfl), lnSwaps_none fun m hm => ungrown_of_pieces (hw m hm)]
    rfl
  · intro e he
    have hgrow : ∀ q ∈ t.cmds, q.isGrow = true → q = m := fun q hq hi => by
      have hmem : q ∈ t.cmds.filter (·.isGrow) := List.mem_filter.mpr ⟨hq, hi⟩
      rw [hm] at hmem
      exact List.mem_singleton.mp hmem
    have hmi : m.isGrow = true := (List.mem_filter.mp (hm ▸ List.mem_singleton.mpr rfl : m ∈ t.cmds.filter (·.isGrow))).2
    have hmg : m.grown = true := (grown_iff m).mpr ⟨hmi, hst, hch⟩
    have hfil : t.cmds.filter Cmd.grown = [m] := by
      rw [← hm]
      refine List.filter_congr fun q hq => ?_
      by_cases hi : q.isGrow = true
      · rw [hgrow q hq hi, hmg, hmi]
      · have hi' := Bool.eq_false_iff.mpr hi
        rw [ungrown_of_still hi', hi']
    have hsw : lnSwaps s = swapSlab s s.issue.core l.owner m := congrArg (fun ms : List Cmd =>
      ms.foldl (fun st m => swapSlab st s.issue.core l.owner m) s) hfil
    obtain ⟨hissue, hlantern⟩ := swapSlab_myCore s l.owner m
    have hx := ewait_goes h (g := g) (hdr hd) (.inr fun q hq hi => (hgrow q hq hi).symm ▸ hmg)
    rw [hsw] at hx
    refine ⟨_, hx, ?_, swapSlab_winSize s _ _ m he, swapSlab_winBase s _ _ m⟩
    refine (congrArg Core.lantern (onCore_lnNext _ id).core).trans ?_
    exact congrArg (fun l : Lantern => { l with pc := l.pc + 1 }) hlantern
  · have hx : exec (.bsig sc x) s = .next (lnArrives s sc.val b fun s => lnNext s id) := exec_bsig h hb sc
    refine ⟨fun hg hs hf => ?_, fun hg => hx.trans (hpriv _ _ hg _), fun hg hs => hx.trans (hscope _ _ hg hs _),
      fun hg hs hf => hx.trans (hfull _ _ hg hs hf _)⟩
    rw [hcounted _ _ hg hs hf] at hx
    exact ⟨_, hx, rfl, congrArg Core.lantern (onCore_lnNext (lnArrive s b) id).core, getSlot_lnArrive s b⟩
  · exact exec_bsig_bad h hb sc
  · rw [exec_done h, hdr hd, if_pos rfl, lnDone_still hs, if_pos hbar]
    rfl
  · intro code
    have hx : exec .done s = .next (lnArrives s code l.bar lnEnd) := by
      rw [exec_done h, hdr hd, if_pos rfl, lnDone_still hs, if_neg hbar]
    refine ⟨fun hg hs hf => ?_, fun hg => hx.trans (hpriv _ _ hg _), fun hg hs => hx.trans (hscope _ _ hg hs _),
      fun hg hs hf => hx.trans (hfull _ _ hg hs hf _)⟩
    rw [hcounted _ _ hg hs hf] at hx
    have hend := lnEnd_myCore (lnArrive s l.bar)
    exact ⟨_, hx, rfl, congrArg Core.lantern hend, congrArg Core.owner hend, getSlot_lnArrive s l.bar⟩

end Sys2Proof.Machine
end

section
/-! # LSEND, LRECV and LSTAT (R193, R194) -/

namespace Sys2Proof.Machine

/-! ## Groups whose effect is known only where it starts -/

/-- The operation with the effect that it has on the package `t`. -/
def Op.withEffect (o : Op) (t : State) : Op := { o with effect := fun _ _ _ => t }

theorem goAhead_withEffect {o : Op} {v : List Word} {a : State} (hg : guardHolds a.me o.guard = true)
    (hn : a.me.loopn = none) : goAhead [o] [⟨o, v, []⟩] a =
      goAhead [o.withEffect (o.effect a v (before a o.srcs (o.goto a v)))]
        [⟨o.withEffect (o.effect a v (before a o.srcs (o.goto a v))), v, []⟩] a := by
  have hl : ∀ f s, loopDeltas a f s = s := fun f s => by simp [loopDeltas, hn]
  have hgo : ∀ o' : Op, (List.findSome? (fun b : Act => b.op.goto a b.vals) [⟨o', v, []⟩]) = o'.goto a v := fun o' => by
    simp only [List.findSome?_cons, List.findSome?_nil]
    cases o'.goto a v <;> rfl
  have hr := resolve_one a.me o (List.replicate 8 0) hg
  have hr' := resolve_one a.me (o.withEffect (o.effect a v (before a o.srcs (o.goto a v)))) (List.replicate 8 0) hg
  unfold goAhead
  simp only [hl, hgo, hr, hr', effectOrder_one, List.foldl_cons, List.foldl_nil]
  rfl

/-- A group of one operation, of which it is enough to know the effect on what it finds. -/
theorem goAhead_at {o : Op} {v : List Word} {a : State} (hg : guardHolds a.me o.guard = true) (hn : a.me.loopn = none)
    (hl : (o.effect a v (before a o.srcs (o.goto a v))).me.loopn = none) :
    goAhead [o] [⟨o, v, []⟩] a = after a (o.effect a v (before a o.srcs (o.goto a v))) := by
  rw [goAhead_withEffect hg hn]
  generalize o.effect a v (before a o.srcs (o.goto a v)) = t at hl
  exact goAhead_one (o := o.withEffect t) hg hn fun _ _ _ _ => hl

/-- A group of one operation whose effect on what it finds starts no LOOPN block. -/
theorem exec_of_effect_at {i : Instr} {o : Op} {s t : State} {srcs : List Src} {g : Option (Bool × Nat)}
    (hx : exec i s = runOne o s) (h : goes o s = true) (hs : o.srcs = srcs)
    (hg : o.goto (startCycle s) (srcVals srcs (startCycle s)) = g)
    (he : o.effect (startCycle s) (srcVals srcs (startCycle s)) (before (startCycle s) srcs g) = t)
    (hl : t.me.loopn = none) : exec i s = .next (after (startCycle s) t) := by
  subst hs hg he
  rw [hx, runOne, runGroup_goes h, goAhead_at (goes_guard h) (goes_loopn h) hl]

/-! ## A command that enters its context's queue (R185) -/

theorem keeps_of_onlyMe {a b : State} (h : OnlyMe a b) : Keeps a b := by
  obtain ⟨heq, hcores, hcore, hctx⟩ := h
  have hissue : b.issue = a.issue := by rw [heq]
  have hmy : b.myCore = getCore b a.issue.core := by rw [State.myCore, hissue]
  have hgive : ∀ {α : Type} (f : Core → α), (∀ k cs, f { k with ctx := cs } = f k) →
      (∀ k o, f { k with owner := o } = f k) → (∀ k n c, f { k with lastIssue := n, cur := c } = f k) →
      f b.myCore = f a.myCore := fun f h1 h2 h3 => by
    rw [hmy, ← h1 _ a.myCore.ctx, hcore, noteIssue, h3, giveUp]
    split
    · exact h2 ..
    · rfl
  refine ⟨⟨b.cores, a.supIrq, a.life, a.freeCtr, heq⟩, hcores, hctx, ?_, ?_, ?_, ?_, ?_, ?_⟩
  · exact hgive Core.tiles (fun _ _ => rfl) (fun _ _ => rfl) fun _ _ _ => rfl
  · exact hgive Core.latA (fun _ _ => rfl) (fun _ _ => rfl) fun _ _ _ => rfl
  · exact hgive Core.latB (fun _ _ => rfl) (fun _ _ => rfl) fun _ _ _ => rfl
  · exact hgive Core.control (fun _ _ => rfl) (fun _ _ => rfl) fun _ _ _ => rfl
  · exact hgive Core.lantern (fun _ _ => rfl) (fun _ _ => rfl) fun _ _ _ => rfl
  · exact hgive Core.acc (fun _ _ => rfl) (fun _ _ => rfl) fun _ _ _ => rfl

/-- The context with a command at the end of its queue. -/
def Ctx.queueCmd (m : Cmd) (t : Ctx) : Ctx :=
  { t with uid := t.uid + 1, cmds := t.cmds ++ [{ m with start := t.uid, uid := t.uid }] }

theorem enqueue_plain {m : Cmd} (hp : m.form.p = none) (hk : m.kind.isLantern = false) (s : State) :
    enqueue s s.issue.core s.issue.ctx m = s.modMe (Ctx.queueCmd m) := by
  simp only [enqueue, hp, hk, newUid, State.modMe, modCtx_eq_modCore, modCore_modCore, Core.get_put_self, Core.put_put]
  rfl

theorem countCycle_queueCmd (a : State) (srcs : List Src) (m : Cmd) :
    countCycle a (Ctx.queueCmd m (moveOn (srcPops srcs a) (flow a.me a.issue.next none) a.me)) =
      { advanced a srcs with
        uid := a.me.uid + 1, cmds := a.me.cmds ++ [{ m with start := a.me.uid, uid := a.me.uid }] } := rfl

theorem eq_withReports {t u : Ctx} (h : t = u) : t = withReports u t := by
  subst h
  rfl

/-- An operation whose effect is to queue a command that binds no port slot. -/
theorem queued_of_effect {i : Instr} {o : Op} {s : State} {srcs : List Src} {m : Cmd} (hx : exec i s = runOne o s)
    (h : goes o s = true) (hs : o.srcs = srcs) (hg : o.goto (startCycle s) (srcVals srcs (startCycle s)) = none)
    (he : ∀ t, t.issue = (startCycle s).issue → o.effect (startCycle s) (srcVals srcs (startCycle s)) t =
      t.modMe (Ctx.queueCmd m)) :
    Queued i s srcs { m with uid := (startCycle s).me.uid } := by
  obtain ⟨t, ht, honly, hme⟩ := issuesAs_of_effect (f := Ctx.queueCmd m) hx h hs hg (fun t hi _ => he t hi) fun _ hn => hn
  rw [countCycle_queueCmd] at hme
  exact ⟨t, ht, keeps_of_onlyMe honly, eq_withReports hme⟩

/-! ## Ports at issue (R193, R436) -/

section
variable {a : State} {port : Nat}

theorem linkTraps_up (h : (getPort a port).state = 2 ∨ (getPort a port).state = 3) (send : Bool) : linkTraps a port send = [] := by
  unfold linkTraps
  rcases h with h | h <;> rw [h] <;> cases send <;> rfl

theorem linkTraps_down (h : (getPort a port).state = 0 ∨ (getPort a port).state = 1 ∨ (getPort a port).state = 5)
    (send : Bool) : linkTraps a port send = [⟨8, 0x14, port⟩] := by
  unfold linkTraps
  rcases h with h | h | h <;> rw [h] <;> rfl

theorem linkTraps_draining (h : (getPort a port).state = 4) : linkTraps a port true = [⟨8, 0x14, port⟩] := by
  unfold linkTraps
  rw [h]
  rfl

theorem copyBlock_none (h : a.me.cmds.length < 16) (hl : a.myCore.lanternOn = false) : copyBlock a = none := by
  rw [copyBlock, if_neg (Nat.not_le.mpr h), hl]
  rfl

theorem drainCheck_up (h : (getPort a port).state = 2 ∨ (getPort a port).state = 3) : drainCheck a port = a :=
  if_neg fun hd => by omega

end

/-! ## LSEND and LRECV (R193) -/

section
variable {gd : Guard} {port : Fin 16} {vl : Fin 4} {r : GSrc} {bar : Fin 1024}

theorem opLsend_traps {a : State} {v : List Word} (h : operandTraps a (operand v 0).toNat 256 = []) :
    (opLsend gd port vl r bar).traps a v = linkTraps a port.val true := congrArg (· ++ linkTraps a port.val true) h

theorem opLrecv_traps {a : State} {v : List Word} (h : operandTraps a (operand v 0).toNat 256 = []) :
    (opLrecv gd port vl r bar).traps a v = linkTraps a port.val false := congrArg (· ++ linkTraps a port.val false) h

/-- The command that LSEND queues. -/
def lsendCmd (gd : Guard) (port : Fin 16) (vl : Fin 4) (r : GSrc) (bar : Fin 1024) (a : State) (b : Nat) : Cmd :=
  { freshCmd a (.lsend gd port vl r bar) (barOf bar) (plainForm true 256 256) b with chunks := 1, units := messageUnits b }

theorem opLsend_block (a : State) (v : List Word) : (opLsend gd port vl r bar).block a v = copyBlock a := rfl

theorem opLsend_effect {a t : State} (v : List Word) (h : t.issue = a.issue) : (opLsend gd port vl r bar).effect a v t =
    t.modMe (Ctx.queueCmd (lsendCmd gd port vl r bar a (operand v 0).toNat)) := by
  have hen := enqueue_plain (m := lsendCmd gd port vl r bar a (operand v 0).toNat) rfl rfl t
  rw [h] at hen
  exact hen

/-- The command that LRECV queues, with its message. -/
def lrecvCmd (gd : Guard) (port : Fin 16) (vl : Fin 4) (r : GSrc) (bar : Fin 1024) (a : State) (b : Nat) (m : List Byte) : Cmd :=
  { freshCmd a (.lrecv gd port vl r bar) (barOf bar) (plainForm false 256 256) b with
    chunks := 1, ported := 1, units := messageUnits b, got := [(0, m)], credit := [(0, 256)]
    started := true, ended := true, folded := true }

theorem opLrecv_effect {a : State} {v : List Word} {m : List Byte} {rest : List (List Byte)}
    (hm : (getPort a port.val).recv.getD vl.val [] = m :: rest) (t : State) : (opLrecv gd port vl r bar).effect a v t =
    drainCheck (enqueue (modPort t port.val fun q => { q with recv := q.recv.set vl.val rest }) a.issue.core a.issue.ctx
      (lrecvCmd gd port vl r bar a (operand v 0).toNat m)) port.val := by
  simp only [opLrecv, takeMessage, hm]
  rfl

theorem opLrecv_block_some {a : State} (v : List Word) (h : copyBlock a = none) {m : List Byte} {rest : List (List Byte)}
    (hm : (getPort a port.val).recv.getD vl.val [] = m :: rest) : (opLrecv gd port vl r bar).block a v = none := by
  simp only [opLrecv, h, hm]
  rfl

theorem opLrecv_block_none {a : State} (v : List Word) (h : copyBlock a = none)
    (hm : (getPort a port.val).recv.getD vl.val [] = []) : (opLrecv gd port vl r bar).block a v = some 5 := by
  simp only [opLrecv, h, hm]
  rfl

/-- The package with the message taken from its port and queued to be written. -/
def messageTaken (port lane : Nat) (rest : List (List Byte)) (m : Cmd) (t : State) : State :=
  (modPort t port fun q => { q with recv := q.recv.set lane rest }).modMe (Ctx.queueCmd m)

theorem getPort_messageTaken (port lane : Nat) (rest : List (List Byte)) (m : Cmd) (t : State) :
    getPort (messageTaken port lane rest m t) port = { getPort t port with recv := (getPort t port).recv.set lane rest } :=
  alGet_alSet_self ..

theorem lrecv_taken {a t : State} {v : List Word} {m : List Byte} {rest : List (List Byte)}
    (hm : (getPort a port.val).recv.getD vl.val [] = m :: rest) (hi : t.issue = a.issue) (hp : getPort t port.val = getPort a port.val)
    (hq : (getPort a port.val).state = 2 ∨ (getPort a port.val).state = 3) : (opLrecv gd port vl r bar).effect a v t =
    messageTaken port.val vl.val rest (lrecvCmd gd port vl r bar a (operand v 0).toNat m) t := by
  have hen := enqueue_plain (m := lrecvCmd gd port vl r bar a (operand v 0).toNat m) rfl rfl
    (modPort t port.val fun q => { q with recv := q.recv.set vl.val rest })
  have hstate : (getPort (messageTaken port.val vl.val rest (lrecvCmd gd port vl r bar a (operand v 0).toNat m) t) port.val).state =
      (getPort a port.val).state := by
    rw [getPort_messageTaken, hp]
  rw [opLrecv_effect hm, ← hi]
  exact (congrArg (drainCheck · port.val) hen).trans (drainCheck_up (by rw [← hstate] at hq; exact hq))

end

section
variable {gd : Guard} {port : Fin 16} {vl : Fin 4} {r : GSrc} {bar : Fin 1024}

theorem me_loopn_of_goes {o : Op} {s : State} (h : goes o s = true) (srcs : List Src) :
    (before (startCycle s) srcs none).me.loopn = none := by
  have hl := goes_loopn h
  generalize startCycle s = a at hl
  rw [before_eq_modCore, modCore_me, Core.beforeEffect_get]
  exact flow_loopn hl ..

theorem messageTaken_me (port lane : Nat) (rest : List (List Byte)) (m : Cmd) (t : State) :
    (messageTaken port lane rest m t).me = t.me.queueCmd m := modMe_me ..

theorem messageTaken_loopn (port lane : Nat) (rest : List (List Byte)) (m : Cmd) (t : State) :
    (messageTaken port lane rest m t).me.loopn = t.me.loopn := by
  rw [messageTaken_me]
  rfl

theorem getPort_before (a : State) (srcs : List Src) (g : Option (Bool × Nat)) (p : Nat) :
    getPort (before a srcs g) p = getPort a p := rfl

theorem after_messageTaken_mem (a : State) (srcs : List Src) (port lane : Nat) (rest : List (List Byte)) (m : Cmd) :
    (after a (messageTaken port lane rest m (before a srcs none))).mem = a.mem := rfl

theorem getPort_after_messageTaken (a : State) (srcs : List Src) (port lane : Nat) (rest : List (List Byte)) (m : Cmd) :
    getPort (after a (messageTaken port lane rest m (before a srcs none))) port =
      { getPort a port with recv := (getPort a port).recv.set lane rest } :=
  getPort_messageTaken port lane rest m (before a srcs none)

theorem after_messageTaken_me (a : State) (srcs : List Src) (port lane : Nat) (rest : List (List Byte)) (m : Cmd) :
    (after a (messageTaken port lane rest m (before a srcs none))).me =
      { advanced a srcs with
        uid := a.me.uid + 1, cmds := a.me.cmds ++ [{ m with start := a.me.uid, uid := a.me.uid }] } :=
  (after_me rfl).trans ((congrArg (countCycle a) ((messageTaken_me ..).trans (congrArg (Ctx.queueCmd m)
    ((congrArg (Core.get · a.issue.ctx) (congrArg State.myCore (before_eq_modCore a srcs none))).trans
      ((modCore_me a _).trans (Core.beforeEffect_get ..)))))).trans (countCycle_queueCmd a srcs m))

theorem queued_lsend {s : State} (h : goes (opLsend gd port vl r bar) s = true) : Queued (.lsend gd port vl r bar) s [gs r]
    { lsendCmd gd port vl r bar (startCycle s) (operand (srcVals [gs r] (startCycle s)) 0).toNat with
      uid := (startCycle s).me.uid } :=
  queued_of_effect (i := .lsend gd port vl r bar) (o := opLsend gd port vl r bar) (srcs := [gs r])
    (m := lsendCmd gd port vl r bar (startCycle s) (operand (srcVals [gs r] (startCycle s)) 0).toNat)
    rfl h rfl rfl fun _ hi => opLsend_effect (srcVals [gs r] (startCycle s)) hi

end

/-- The command of a message of 256 bytes as it issues (R193). -/
def linkCmd (i : Instr) (bar : Fin 1024) (load : Bool) (a : State) (b : Nat) : Cmd :=
  { freshCmd a i (if bar.val = 0x3FF then none else some bar.val) (plainForm load 256 256) b with
    uid := a.me.uid, chunks := 1, units := unitsOf 1 [⟨b, 256, 0⟩] }

theorem lsendCmd_eq (gd : Guard) (port : Fin 16) (vl : Fin 4) (r : GSrc) (bar : Fin 1024) (a : State) (b : Nat) :
    { lsendCmd gd port vl r bar a b with uid := a.me.uid } = linkCmd (.lsend gd port vl r bar) bar true a b := rfl

theorem lrecvCmd_eq (gd : Guard) (port : Fin 16) (vl : Fin 4) (r : GSrc) (bar : Fin 1024) (a : State) (b : Nat) (m : List Byte) :
    { lrecvCmd gd port vl r bar a b m with start := a.me.uid, uid := a.me.uid } =
      { linkCmd (.lrecv gd port vl r bar) bar false a b with
        start := a.me.uid, ported := 1, got := [(0, m)], credit := [(0, 256)], started := true, ended := true, folded := true } :=
  rfl

theorem linkMessages : Claims.LinkMessages := by
  intro gd port vl r bar s hc a b q cmd traps hop
  have hsend := opLsend_traps (gd := gd) (port := port) (vl := vl) (r := r) (bar := bar) (a := a) (v := srcVals [gs r] a) hop
  have hrecv := opLrecv_traps (gd := gd) (port := port) (vl := vl) (r := r) (bar := bar) (a := a) (v := srcVals [gs r] a) hop
  have hsendTrap : linkTraps a port.val true = [⟨8, 0x14, port.val⟩] → traps (.lsend gd port vl r bar) := fun h =>
    exec_trap_of_srcs (i := .lsend gd port vl r bar) (o := opLsend gd port vl r bar) rfl hc rfl rfl rfl rfl
      (scoreboard_nil _) rfl rfl (hsend.trans h) fun _ => rfl
  have hrecvTrap : linkTraps a port.val false = [⟨8, 0x14, port.val⟩] → traps (.lrecv gd port vl r bar) := fun h =>
    exec_trap_of_srcs (i := .lrecv gd port vl r bar) (o := opLrecv gd port vl r bar) rfl hc rfl rfl rfl rfl
      (scoreboard_nil _) rfl rfl (hrecv.trans h) fun _ => rfl
  refine ⟨fun hroom hln hq => ⟨?_, fun m rest hm => ?_, fun hm => ?_⟩, fun h => ⟨hsendTrap (linkTraps_down h true),
    hrecvTrap (linkTraps_down h false)⟩, fun h => hsendTrap (linkTraps_draining h)⟩
  · have hg : goes (opLsend gd port vl r bar) s = true :=
      goes_of_srcs hc rfl rfl rfl rfl (scoreboard_nil _) rfl rfl (hsend.trans (linkTraps_up hq true))
        ((opLsend_block ..).trans (copyBlock_none hroom hln)) rfl rfl
    have hqd := queued_lsend hg
    rw [lsendCmd_eq] at hqd
    exact hqd
  · have hg : goes (opLrecv gd port vl r bar) s = true :=
      goes_of_srcs hc rfl rfl rfl rfl (scoreboard_nil _) rfl rfl (hrecv.trans (linkTraps_up hq false))
        (opLrecv_block_some _ (copyBlock_none hroom hln) hm) rfl rfl
    have heff : (opLrecv gd port vl r bar).effect a (srcVals [gs r] a) (before a [gs r] none) =
        messageTaken port.val vl.val rest (lrecvCmd gd port vl r bar a b m) (before a [gs r] none) :=
      lrecv_taken (t := before a [gs r] none) (v := srcVals [gs r] a) hm (before_issue ..) (getPort_before ..) hq
    have hx := exec_of_effect_at (i := .lrecv gd port vl r bar) (o := opLrecv gd port vl r bar) (g := none) rfl hg rfl rfl heff
      ((messageTaken_loopn ..).trans (me_loopn_of_goes hg [gs r]))
    have hme := after_messageTaken_me a [gs r] port.val vl.val rest (lrecvCmd gd port vl r bar a b m)
    rw [lrecvCmd_eq] at hme
    exact ⟨_, hx, (after_messageTaken_mem ..).trans (startCycle_mem s), hme, getPort_after_messageTaken ..⟩
  · have hx : runGroup [opLrecv gd port vl r bar] s = blockGroup s 5 (opLrecv gd port vl r bar).onBlock :=
      runGroup_block hc rfl (scoreboard_nil _) rfl rfl (hrecv.trans (linkTraps_up hq false))
        (opLrecv_block_none _ (copyBlock_none hroom hln) hm)
    exact ⟨_, congrArg Host.Outcome.next hx, blocks_blockGroup _ _, blockGroup_mem _ _⟩

/-! ## LSTAT (R194) -/

section
variable {gd : Guard} {d : Fin 32} {port : Fin 16} {s : State}

theorem enumerated_iff (s : State) : enumerated s = true ↔ s.bootStep = 8 ∨ s.mode = .operating ∨ s.mode = .recovery := by
  simp [enumerated, or_assoc]

theorem enumerated_startCycle (s : State) : enumerated (startCycle s) = enumerated s := by
  obtain ⟨_, _, _, _, h⟩ := quiet_startCycle s
  rw [h]
  rfl

theorem opLstat_effect {a : State} (v : List Word) (h : peerOpen a port.val = false) (t : State) :
    (opLstat gd d port).effect a v t = give t 0 (.g d (BitVec.ofNat 64 (lstatVal a port.val))) 0 := by
  simp [opLstat, h]

theorem opLstat_effect_open {a : State} (v : List Word) (h : peerOpen a port.val = true) (t : State) :
    (opLstat gd d port).effect a v t =
      give { t with freeCtr := t.freeCtr + 1 } 0 (.g d (BitVec.ofNat 64 (lstatVal a port.val))) 0 := by
  simp [opLstat, h]

theorem gives_lstat (hc : clear gd [] [d] [] s = true) (h : peerOpen (startCycle s) port.val = false) :
    Gives (.lstat gd d port) s [] 0 (.g d (BitVec.ofNat 64 (lstatVal (startCycle s) port.val))) 0 :=
  gives_of_goes (o := opLstat gd d port) rfl (goes_of_clear hc rfl (scoreboard_nil _) rfl rfl rfl rfl rfl rfl) rfl
    fun t _ => opLstat_effect _ h t

/-- A class 0 result given after the counter of free values has moved on. -/
theorem after_give_open (a : State) (srcs : List Src) (w : Write) :
    OnlyMe { a with freeCtr := a.freeCtr + 1 }
        (after a (give { before a srcs none with freeCtr := (before a srcs none).freeCtr + 1 } 0 w 0)) ∧
      (after a (give { before a srcs none with freeCtr := (before a srcs none).freeCtr + 1 } 0 w 0)).me =
        { advanced a srcs with flights := landing a 0 w 0 } := by
  have h := onlyMe_after { a with freeCtr := a.freeCtr + 1 } srcs none (giveTo a.ck 0 w 0)
  rw [give_eq]
  exact h

theorem give_open_loopn (w : Write) {t : State} (h : t.me.loopn = none) :
    (give { t with freeCtr := t.freeCtr + 1 } 0 w 0).me.loopn = none := by
  rw [give_eq, modMe_me]
  exact h

theorem exec_lstat_open (hc : clear gd [] [d] [] s = true) (h : peerOpen (startCycle s) port.val = true) :
    ∃ t, exec (.lstat gd d port) s = .next t ∧
      OnlyMe { startCycle s with freeCtr := (startCycle s).freeCtr + 1 } t ∧ t.me = { advanced (startCycle s) [] with
        flights := landing (startCycle s) 0 (.g d (BitVec.ofNat 64 (lstatVal (startCycle s) port.val))) 0 } := by
  have hg : goes (opLstat gd d port) s = true := goes_of_clear hc rfl (scoreboard_nil _) rfl rfl rfl rfl rfl rfl
  have hx := exec_of_effect_at (i := .lstat gd d port) (o := opLstat gd d port) (srcs := []) (g := none) rfl hg rfl rfl
    (opLstat_effect_open (srcVals [] (startCycle s)) h (before (startCycle s) [] none))
    (give_open_loopn _ (me_loopn_of_goes hg []))
  exact ⟨_, hx, after_give_open ..⟩

end

theorem linkStatus : Claims.LinkStatus := by
  intro gd d port s hc a q rq word named
  have hnamed : named → enumerated a = true := fun h => (enumerated_startCycle s).trans ((enumerated_iff s).mpr h)
  have hpeer : peerOpen a port.val = (enumerated a && !q.running) := rfl
  refine ⟨fun h => ?_, fun h hr => ?_, fun h hr => ?_⟩
  · have he : enumerated a = false :=
      Bool.eq_false_iff.mpr fun he => h ((enumerated_iff s).mp ((enumerated_startCycle s).symm.trans he))
    have hp : peerOpen a port.val = false := by rw [hpeer, he]; rfl
    have hv := gives_lstat hc hp
    rw [lstatVal, hp, show enumerated (startCycle s) = false from he] at hv
    exact hv
  · have hp : peerOpen a port.val = false := by rw [hpeer, hr, hnamed h]; rfl
    have hv := gives_lstat hc hp
    rw [lstatVal, hp, show enumerated (startCycle s) = true from hnamed h] at hv
    exact hv
  · have hp : peerOpen a port.val = true := by rw [hpeer, hr, hnamed h]; rfl
    obtain ⟨t, hx, honly, hme⟩ := exec_lstat_open hc hp
    rw [lstatVal, hp] at hme
    exact ⟨t, openVal a % 64, Nat.mod_lt _ (by decide), hx, honly, hme⟩

/-- Settles O55: the messages that LSEND and LRECV queue, their block and trap, and the word of LSTAT. -/
theorem linkOperations : Obligations.LinkOperations := ⟨linkMessages, linkStatus⟩

end Sys2Proof.Machine
end

section
/-! # NMC, IMGDEC and SLABGROW: descriptors read, and the commands queued (R186, R190, R196, R199) -/

namespace Sys2Proof.Machine

/-! ## Operations with a descriptor (R186) -/

theorem descKey_eq (a : State) (b n : Nat) : descKey a b n = placeKey a a.issue.core a.issue.ctx (b % 2 ^ 33) n := by
  rw [descKey, bits, Nat.pow_zero, Nat.div_one]

section DescOp
variable {gd : Guard} {r : GSrc} {n : Nat} {bad wait : State → List Byte → Bool} {go : State → Nat → List Byte → State → State}
  {a : State} {v : List Word}

theorem descOp_stall (h : operandWait a (operand v 0).toNat n = false)
    (hw : wait a (descOf a (operand v 0).toNat n) = false) : (descOp gd r n bad wait go).stall a v = false := by
  simp only [descOp, h, hw, Bool.and_false, Bool.or_false]

theorem descOp_stall_wait (h : operandTraps a (operand v 0).toNat n = [])
    (hw : wait a (descOf a (operand v 0).toNat n) = true) : (descOp gd r n bad wait go).stall a v = true := by
  simp only [descOp, h, hw, List.isEmpty_nil, Bool.and_true, Bool.or_true]

theorem descOp_traps (h : operandTraps a (operand v 0).toNat n = []) : (descOp gd r n bad wait go).traps a v =
    trapIf (!(poisoned a (descKey a (operand v 0).toNat n) n) && bad a (descOf a (operand v 0).toNat n))
      ⟨4, causeRESERVED, (operand v 0).toNat⟩ := by
  simp only [descOp, descTraps, h]
  rfl

theorem descOp_traps_good (h : operandTraps a (operand v 0).toNat n = [])
    (hb : poisoned a (descKey a (operand v 0).toNat n) n = true ∨ bad a (descOf a (operand v 0).toNat n) = false) :
    (descOp gd r n bad wait go).traps a v = [] := by
  rw [descOp_traps h]
  rcases hb with hb | hb
  · rw [hb]
    rfl
  · rw [hb, Bool.and_false]
    rfl

theorem descOp_traps_bad (h : operandTraps a (operand v 0).toNat n = [])
    (hp : poisoned a (descKey a (operand v 0).toNat n) n = false) (hb : bad a (descOf a (operand v 0).toNat n) = true) :
    (descOp gd r n bad wait go).traps a v = [⟨4, 0x02, (operand v 0).toNat⟩] := by
  rw [descOp_traps h, hp, hb]
  rfl

theorem descOp_block : (descOp gd r n bad wait go).block a v = copyBlock a := rfl

theorem descOp_effect (h : poisoned a (descKey a (operand v 0).toNat n) n = false) (t : State) :
    (descOp gd r n bad wait go).effect a v t = go a (operand v 0).toNat (descOf a (operand v 0).toNat n) t := by
  simp only [descOp, h]
  rfl

/-- A descriptor with an error under it is noted, and the address of its first bad byte (R453). -/
def descReport (a : State) (b n : Nat) (t : State) : State :=
  report (countBad t (descKey a b n)) a.issue.core a.issue.ctx
    ⟨0x13, a.issue.addr, b + (firstBad a (descKey a b n) n - descKey a b n), none, none⟩

theorem descOp_effect_bad (h : poisoned a (descKey a (operand v 0).toNat n) n = true) (t : State) :
    (descOp gd r n bad wait go).effect a v t = descReport a (operand v 0).toNat n t := by
  simp only [descOp, h]
  rfl

theorem goes_descOp {s : State} (hc : clear gd [gs r] [] [] s = true)
    (hw : (descOp gd r n bad wait go).stall (startCycle s) (srcVals [gs r] (startCycle s)) = false)
    (ht : (descOp gd r n bad wait go).traps (startCycle s) (srcVals [gs r] (startCycle s)) = [])
    (hb : copyBlock (startCycle s) = none) : goes (descOp gd r n bad wait go) s = true :=
  goes_of_srcs hc rfl rfl rfl rfl (scoreboard_nil _) hw rfl ht (descOp_block.trans hb) rfl rfl

theorem exec_descOp_trap {s : State} {i : Instr} (hx : exec i s = runOne (descOp gd r n bad wait go) s)
    (hc : clear gd [gs r] [] [] s = true) {b : Nat}
    (hw : (descOp gd r n bad wait go).stall (startCycle s) (srcVals [gs r] (startCycle s)) = false)
    (ht : (descOp gd r n bad wait go).traps (startCycle s) (srcVals [gs r] (startCycle s)) = [⟨4, 0x02, b⟩]) :
    exec i s = .next (takeTrap (delivered s) s.issue.core s.issue.ctx 0x02 b s.issue.addr) :=
  exec_trap_of_srcs hx hc rfl rfl rfl rfl (scoreboard_nil _) hw rfl ht fun _ => rfl

end DescOp

/-! ## A descriptor that cannot be corrected (R453) -/

/-- The context with a report noted; a wait is over. -/
def Ctx.reported (e : Async) (u : Ctx) : Ctx :=
  { (if u.isBlocked then u.released else u) with asyncs := u.asyncs ++ [e] }

theorem report_current {t : State} (h : t.me.st = .current) (e : Async) :
    report t t.issue.core t.issue.ctx e = t.modMe (Ctx.reported e) := by
  have hst : ¬(t.me.st = .retired ∨ t.me.st = .free) := by rw [h]; decide
  exact (if_neg hst).trans rfl

theorem report_me {t : State} (h : t.me.st = .current) (e : Async) :
    (report t t.issue.core t.issue.ctx e).me =
      { (if t.me.isBlocked then t.me.released else t.me) with asyncs := t.me.asyncs ++ [e] } := by
  rw [report_current h, modMe_me, Ctx.reported]

/-- What a report leaves of a Current context. -/
theorem report_me_fields {t : State} (h : t.me.st = .current) (e : Async) :
    (report t t.issue.core t.issue.ctx e).me.asyncs = t.me.asyncs ++ [e] ∧
      (report t t.issue.core t.issue.ctx e).me.cmds = t.me.cmds ∧
      (report t t.issue.core t.issue.ctx e).me.g = t.me.g ∧
      (report t t.issue.core t.issue.ctx e).me.loopn = t.me.loopn := by
  rw [report_me h]
  cases t.me.isBlocked <;> exact ⟨rfl, rfl, rfl, rfl⟩

theorem countBad_me (t : State) (k : Nat) : (countBad t k).issue = t.issue ∧ (countBad t k).me = t.me ∧
    (countBad t k).mem = t.mem := by
  unfold countBad
  split
  · exact ⟨rfl, rfl, rfl⟩
  · exact ⟨rfl, rfl, rfl⟩

theorem descReport_me {a t : State} (hi : t.issue = a.issue) (hst : t.me.st = .current) (b n : Nat) :
    (descReport a b n t).issue = a.issue ∧ (descReport a b n t).mem = t.mem ∧
      (descReport a b n t).me.asyncs = t.me.asyncs ++
        [⟨0x13, a.issue.addr, b + (firstBad a (descKey a b n) n - descKey a b n), none, none⟩] ∧
      (descReport a b n t).me.cmds = t.me.cmds ∧ (descReport a b n t).me.g = t.me.g ∧
      (descReport a b n t).me.loopn = t.me.loopn := by
  obtain ⟨hci, hcm, hcmem⟩ := countBad_me t (descKey a b n)
  have hr := report_me_fields (t := countBad t (descKey a b n)) (by rw [hcm]; exact hst)
    ⟨0x13, a.issue.addr, b + (firstBad a (descKey a b n) n - descKey a b n), none, none⟩
  have hd : descReport a b n t = report (countBad t (descKey a b n)) (countBad t (descKey a b n)).issue.core
      (countBad t (descKey a b n)).issue.ctx
      ⟨0x13, a.issue.addr, b + (firstBad a (descKey a b n) n - descKey a b n), none, none⟩ := by
    rw [hci, hi]
    rfl
  rw [hcm, ← hd] at hr
  refine ⟨?_, ?_, hr⟩
  · rw [hd, report_issue, hci, hi]
  · rw [hd, (quiet_report ..).mem, hcmem]

section
variable (a : State) (t : Ctx)

theorem countCycle_fields : (countCycle a t).asyncs = t.asyncs ∧ (countCycle a t).cmds = t.cmds ∧ (countCycle a t).g = t.g :=
  ⟨rfl, rfl, rfl⟩

theorem moveOn_fields (ps : List Nat) (f : Flow) : (moveOn ps f t).asyncs = t.asyncs ∧ (moveOn ps f t).cmds = t.cmds ∧
    (moveOn ps f t).g = t.g ∧ (moveOn ps f t).st = t.st := ⟨rfl, rfl, rfl, rfl⟩

end

/-- A group whose only effect is the report of its descriptor. -/
theorem after_descReport {a : State} (hst : a.me.st = .current) (srcs : List Src) (b n : Nat) :
    (after a (descReport a b n (before a srcs none))).mem = a.mem ∧
      (after a (descReport a b n (before a srcs none))).me.cmds = a.me.cmds ∧
      (after a (descReport a b n (before a srcs none))).me.g = a.me.g ∧
      (after a (descReport a b n (before a srcs none))).me.asyncs = a.me.asyncs ++
        [⟨0x13, a.issue.addr, b + (firstBad a (descKey a b n) n - descKey a b n), none, none⟩] := by
  obtain ⟨has', hcmds', hg', hst'⟩ := moveOn_fields a.me (srcPops srcs a) (flow a.me a.issue.next none)
  have hb : (before a srcs none).me.st = .current := by rw [before_me, hst', hst]
  obtain ⟨hi, hmem, has, hcmds, hg, _⟩ := descReport_me (before_issue a srcs none) hb b n
  obtain ⟨has2, hcmds2, hg2⟩ := countCycle_fields a (descReport a b n (before a srcs none)).me
  rw [after_mem, after_me hi, has2, hcmds2, hg2, hmem, hcmds, hg, has, before_me, has', hcmds', hg', before_mem]
  exact ⟨rfl, rfl, rfl, rfl⟩

theorem descReport_loopn {a : State} (hst : a.me.st = .current) (srcs : List Src) (b n : Nat) :
    (descReport a b n (before a srcs none)).me.loopn = (before a srcs none).me.loopn := by
  obtain ⟨_, _, _, hst'⟩ := moveOn_fields a.me (srcPops srcs a) (flow a.me a.issue.next none)
  have hb : (before a srcs none).me.st = .current := by rw [before_me, hst', hst]
  obtain ⟨_, _, _, _, _, hl⟩ := descReport_me (before_issue a srcs none) hb b n
  exact hl

/-! ## NMC (R196) -/

section Nmc
variable {gd : Guard} {r : GSrc} {bar : Fin 1024} {i : Instr} {code : Nat}

theorem nmc_instr (h : (i, code) ∈ [(Instr.nmcSgdfade gd r bar, 1), (.nmcFill gd r bar, 2), (.nmcCopy gd r bar, 3),
    (.nmcScale gd r bar, 4), (.nmcAccum gd r bar, 5)]) :
    (∀ s, exec i s = runOne (nmcOp i gd r bar) s) ∧ nmCode i = code := by
  simp only [List.mem_cons, Prod.mk.injEq, List.not_mem_nil, or_false] at h
  rcases h with ⟨rfl, rfl⟩ | ⟨rfl, rfl⟩ | ⟨rfl, rfl⟩ | ⟨rfl, rfl⟩ | ⟨rfl, rfl⟩
  · exact ⟨fun _ => rfl, rfl⟩
  · exact ⟨fun _ => rfl, rfl⟩
  · exact ⟨fun _ => rfl, rfl⟩
  · exact ⟨fun _ => rfl, rfl⟩
  · exact ⟨fun _ => rfl, rfl⟩

/-- The command that an NMC queues. -/
def nmcCmd (i : Instr) (code : Nat) (bar : Fin 1024) (a : State) (d : List Byte) : Cmd :=
  { freshCmd a i (if bar.val = 0x3FF then none else some bar.val) (plainForm false 1 (leNat ((d.drop 32).take 4))) 0 with
    uid := a.me.uid, desc := d, chunks := 1
    base := placeKey a a.issue.core a.issue.ctx (bits (leNat ((d.drop 24).take 8)) 32 0) 16
    pos := pagesOf (leNat (d.take 8)) (leNat ((d.drop 32).take 4) * nmSize d) ++
      if code = 2 then [] else pagesOf (leNat ((d.drop 8).take 8)) (leNat ((d.drop 32).take 4) * nmSize d) }

theorem issueNmc_eq (a : State) (b : Nat) (d : List Byte) {t : State} (hi : t.issue = a.issue) :
    issueNmc i bar a b d t = t.modMe (Ctx.queueCmd (nmcCmd i (nmCode i) bar a d)) := by
  have hen := enqueue_plain (m := nmcCmd i (nmCode i) bar a d) rfl rfl t
  rw [hi] at hen
  exact hen

end Nmc

/-- A command with a descriptor that it cannot read does nothing but report. -/
theorem exec_descOp_report {gd : Guard} {r : GSrc} {n : Nat} {bad wait : State → List Byte → Bool}
    {go : State → Nat → List Byte → State → State} {s : State} {i : Instr}
    (hx : exec i s = runOne (descOp gd r n bad wait go) s) (h : goes (descOp gd r n bad wait go) s = true)
    (hp : poisoned (startCycle s) (descKey (startCycle s) (operand (srcVals [gs r] (startCycle s)) 0).toNat n) n = true)
    (hst : (startCycle s).me.st = .current) : ∃ t, exec i s = .next t ∧ t.mem = s.mem ∧
      t.me.cmds = (startCycle s).me.cmds ∧ t.me.g = (startCycle s).me.g ∧
      ∃ v, t.me.asyncs = (startCycle s).me.asyncs ++ [⟨0x13, (startCycle s).issue.addr, v, none, none⟩] := by
  have hl := descReport_loopn hst [gs r] (operand (srcVals [gs r] (startCycle s)) 0).toNat n
  have hx' := exec_of_effect_at (srcs := [gs r]) (g := none) hx h rfl rfl
    (descOp_effect_bad hp (before (startCycle s) [gs r] none)) (hl.trans (me_loopn_of_goes h [gs r]))
  obtain ⟨hmem, hrest⟩ := after_descReport hst [gs r] (operand (srcVals [gs r] (startCycle s)) 0).toNat n
  obtain ⟨hcmds, hg, has⟩ := hrest
  exact ⟨_, hx', hmem.trans (startCycle_mem s), hcmds, hg, _, has⟩

theorem queued_nmc {gd : Guard} {r : GSrc} {bar : Fin 1024} {i : Instr} {s : State}
    (hx : exec i s = runOne (nmcOp i gd r bar) s) (h : goes (nmcOp i gd r bar) s = true)
    (hp : poisoned (startCycle s) (descKey (startCycle s) (operand (srcVals [gs r] (startCycle s)) 0).toNat 64) 64 = false) :
    Queued i s [gs r] (nmcCmd i (nmCode i) bar (startCycle s)
      (descOf (startCycle s) (operand (srcVals [gs r] (startCycle s)) 0).toNat 64)) :=
  queued_of_effect (m := nmcCmd i (nmCode i) bar (startCycle s)
      (descOf (startCycle s) (operand (srcVals [gs r] (startCycle s)) 0).toNat 64)) hx h rfl rfl
    fun t hi => (descOp_effect hp t).trans (issueNmc_eq _ _ _ hi)

theorem nearMemoryCommands : Claims.NearMemoryCommands := by
  intro gd r bar s i code hic hc a b key d n statOk hop hwait
  obtain ⟨hx, rfl⟩ := nmc_instr hic
  have hkey : descKey a b 64 = key := descKey_eq a b 64
  have hd : descOf a b 64 = d := congrArg (readBytes a.mem · 64) hkey
  have hstall := descOp_stall (gd := gd) (r := r) (bad := fun s d => nmReserved (nmCode i) false d ||
    nmWrong (nmCode i) d fun st => (vaultPlace s s.issue.core s.issue.ctx (bits st 32 0) 16).isSome)
    (wait := fun _ _ => false) (go := issueNmc i bar) (a := a) (v := srcVals [gs r] a) hwait rfl
  rw [← hkey]
  refine ⟨fun hp hres hwr hroom hln => ?_, fun hp hb => ?_, fun hp hroom hln hst => ?_⟩
  · have hbad : (nmReserved (nmCode i) false (descOf a b 64) || nmWrong (nmCode i) (descOf a b 64) statOk) = false := by
      rw [hd, hres, hwr]
      rfl
    have hg := goes_descOp hc hstall (descOp_traps_good hop (.inr hbad)) (copyBlock_none hroom hln)
    have hqd := queued_nmc (hx s) hg hp
    rw [show descOf (startCycle s) (operand (srcVals [gs r] (startCycle s)) 0).toNat 64 = d from hd] at hqd
    exact hqd
  · have hbad : (nmReserved (nmCode i) false (descOf a b 64) || nmWrong (nmCode i) (descOf a b 64) statOk) = true := by
      rw [hd, Bool.or_eq_true]
      exact hb
    exact exec_descOp_trap (hx s) hc hstall (descOp_traps_bad hop hp hbad)
  · have hg := goes_descOp hc hstall (descOp_traps_good hop (.inl hp)) (copyBlock_none hroom hln)
    obtain ⟨t, ht, hmem, hcmds, hgr, v, has⟩ := exec_descOp_report (hx s) hg hp hst
    exact ⟨t, ht, hmem, hcmds, hgr, v, has⟩

/-! ## IMGDEC (R190) -/

section Image
variable {gd : Guard} {r : GSrc} {bar : Fin 1024}

/-- The command that an IMGDEC queues. -/
def imageCmd (gd : Guard) (r : GSrc) (bar : Fin 1024) (a : State) (d : List Byte) : Cmd :=
  { freshCmd a (.imgdec gd r bar) (if bar.val = 0x3FF then none else some bar.val) (plainForm true 0 (imLen d)) 0 with
    uid := a.me.uid, desc := d, chunks := 1, units := unitsOf 1 [⟨imSrc d, imLen d, 0⟩], pos := intakePages d, started := true }

theorem imageCmd_eq (gd : Guard) (r : GSrc) (bar : Fin 1024) (a : State) (d : List Byte) :
    { imageCmd gd r bar a d with start := a.me.uid, uid := a.me.uid } =
      { freshCmd a (.imgdec gd r bar) (if bar.val = 0x3FF then none else some bar.val) (plainForm true 0 (imLen d)) 0 with
        uid := a.me.uid, start := a.me.uid, desc := d, chunks := 1, units := unitsOf 1 [⟨imSrc d, imLen d, 0⟩]
        pos := intakePages d
        started := true } := rfl

/-- The package with a descriptor at the end of the queue of a chiplet's image engine. -/
def imageQueued (c x uid : Nat) (d : List Byte) (t : State) : State :=
  { t with imgq := alSet t.imgq (chipletOf c) (alGet [] t.imgq (chipletOf c) ++ [⟨c, x, uid, none, d, []⟩]) }

theorem issueImage_eq (a : State) (b : Nat) (d : List Byte) {t : State} (hi : t.issue = a.issue) :
    issueImage (.imgdec gd r bar) bar a b d t =
      imageQueued a.issue.core a.issue.ctx t.me.uid d (t.modMe (Ctx.queueCmd (imageCmd gd r bar a d))) := by
  have hen := enqueue_plain (m := imageCmd gd r bar a d) rfl rfl t
  rw [hi] at hen
  have hu : (getCtx t a.issue.core a.issue.ctx).uid = t.me.uid := by rw [State.me, hi]
  exact (congrArg (imageQueued a.issue.core a.issue.ctx (getCtx t a.issue.core a.issue.ctx).uid d) hen).trans (by rw [hu])

/-- A group whose effect is a command queued and a descriptor at an image engine. -/
theorem after_imageQueued (a : State) (srcs : List Src) (uid : Nat) (d : List Byte) (m : Cmd) :
    OnlyMe (imageQueued a.issue.core a.issue.ctx uid d a)
        (after a (imageQueued a.issue.core a.issue.ctx uid d ((before a srcs none).modMe (Ctx.queueCmd m)))) ∧
      (after a (imageQueued a.issue.core a.issue.ctx uid d ((before a srcs none).modMe (Ctx.queueCmd m)))).me =
        { advanced a srcs with
          uid := a.me.uid + 1, cmds := a.me.cmds ++ [{ m with start := a.me.uid, uid := a.me.uid }] } :=
  onlyMe_after (imageQueued a.issue.core a.issue.ctx uid d a) srcs none (Ctx.queueCmd m)

theorem imageQueued_loopn (c x uid : Nat) (d : List Byte) (t : State) (m : Cmd) :
    (imageQueued c x uid d (t.modMe (Ctx.queueCmd m))).me.loopn = t.me.loopn :=
  (congrArg Ctx.loopn (show (imageQueued c x uid d (t.modMe (Ctx.queueCmd m))).me = t.me.queueCmd m from modMe_me ..)).trans
    rfl

theorem before_uid (a : State) (srcs : List Src) (g : Option (Bool × Nat)) : (before a srcs g).me.uid = a.me.uid := by
  rw [before_me]
  rfl

theorem exec_imgdec {s : State} (h : goes (opImgdec gd r bar) s = true)
    (hp : poisoned (startCycle s) (descKey (startCycle s) (operand (srcVals [gs r] (startCycle s)) 0).toNat 64) 64 = false)
    {d : List Byte} (hd : descOf (startCycle s) (operand (srcVals [gs r] (startCycle s)) 0).toNat 64 = d) :
    exec (.imgdec gd r bar) s = .next (after (startCycle s) (imageQueued (startCycle s).issue.core (startCycle s).issue.ctx
      (startCycle s).me.uid d ((before (startCycle s) [gs r] none).modMe
        (Ctx.queueCmd (imageCmd gd r bar (startCycle s) d))))) := by
  refine exec_of_effect_at (i := .imgdec gd r bar) (o := opImgdec gd r bar) (srcs := [gs r]) (g := none) rfl h rfl rfl ?_
    ((imageQueued_loopn ..).trans (me_loopn_of_goes h [gs r]))
  refine (descOp_effect hp (before (startCycle s) [gs r] none)).trans ?_
  rw [hd, issueImage_eq _ _ _ (before_issue ..), before_uid]

end Image

theorem imageCommands : Claims.ImageCommands := by
  intro gd r bar s hg a b key d ch hp
  have hkey : descKey a b 64 = key := descKey_eq a b 64
  have hd : descOf a b 64 = d := congrArg (readBytes a.mem · 64) hkey
  have hx := exec_imgdec hg (congrArg (poisoned a · 64) hkey |>.trans hp) hd
  obtain ⟨honly, hme⟩ := after_imageQueued a [gs r] a.me.uid d (imageCmd gd r bar a d)
  refine ⟨_, hx, honly, ?_⟩
  rw [imageCmd_eq] at hme
  exact hme

/-! ## SLABGROW (R199) -/

section Slab
variable {gd : Guard} {r : GSrc} {bar : Fin 1024}

/-- The command that a SLABGROW queues. -/
def slabCmd (gd : Guard) (r : GSrc) (bar : Fin 1024) (a : State) (b : Nat) (d : List Byte) : Cmd :=
  { freshCmd a (.slabgrow gd r bar) (if bar.val = 0x3FF then none else some bar.val) (plainForm false 0 0) (descKey a b 32) with
    uid := a.me.uid, desc := d, chunks := (leNat ((d.drop 8).take 8) + 4095) / 4096, pos := [b] }

theorem issueGrow_eq (a : State) (b : Nat) (d : List Byte) {t : State} (hi : t.issue = a.issue) :
    issueGrow (.slabgrow gd r bar) bar a b d t = t.modMe (Ctx.queueCmd (slabCmd gd r bar a b d)) := by
  have hen := enqueue_plain (m := slabCmd gd r bar a b d) rfl rfl t
  rw [hi] at hen
  exact hen

theorem queued_slabgrow {s : State} (h : goes (opSlabgrow gd r bar) s = true)
    (hp : poisoned (startCycle s) (descKey (startCycle s) (operand (srcVals [gs r] (startCycle s)) 0).toNat 32) 32 = false) :
    Queued (.slabgrow gd r bar) s [gs r] (slabCmd gd r bar (startCycle s) (operand (srcVals [gs r] (startCycle s)) 0).toNat
      (descOf (startCycle s) (operand (srcVals [gs r] (startCycle s)) 0).toNat 32)) :=
  queued_of_effect (i := .slabgrow gd r bar) (o := opSlabgrow gd r bar)
    (m := slabCmd gd r bar (startCycle s) (operand (srcVals [gs r] (startCycle s)) 0).toNat
      (descOf (startCycle s) (operand (srcVals [gs r] (startCycle s)) 0).toNat 32)) rfl h rfl rfl
    fun t hi => (descOp_effect hp t).trans (issueGrow_eq _ _ _ hi)

/-- What a SLABGROW waits for, of a good descriptor: a growth of the same entry. -/
theorem slab_waits {a : State} {d : List Byte} (h : slabBad a d = false) :
    (!(slabBad a d) && growInFlight a.myCore (slEntry d)) = growInFlight a.myCore (leNat (d.take 1)) := by
  rw [h]
  rfl

end Slab

theorem slabCommands : Claims.SlabCommands := by
  intro gd r bar s hc a b key d hop hwait hbad
  have hkey : descKey a b 32 = key := descKey_eq a b 32
  have hd : descOf a b 32 = d := congrArg (readBytes a.mem · 32) hkey
  rw [← hkey]
  rw [← hd] at hbad
  refine ⟨fun hgrow hp hroom hln => ?_, fun hgrow => ?_⟩
  · have hw : (!(slabBad a (descOf a b 32)) && growInFlight a.myCore (slEntry (descOf a b 32))) = false := by
      rw [slab_waits hbad, hd, hgrow]
    have hg : goes (opSlabgrow gd r bar) s = true :=
      goes_descOp hc (descOp_stall hwait hw) (descOp_traps_good hop (.inr hbad)) (copyBlock_none hroom hln)
    have hqd := queued_slabgrow hg hp
    rw [show descOf (startCycle s) (operand (srcVals [gs r] (startCycle s)) 0).toNat 32 = d from hd] at hqd
    exact hqd
  · have hw : (!(slabBad a (descOf a b 32)) && growInFlight a.myCore (slEntry (descOf a b 32))) = true := by
      rw [slab_waits hbad, hd, hgrow]
    exact exec_stall (i := .slabgrow gd r bar) (o := opSlabgrow gd r bar) rfl hc rfl (descOp_stall_wait (v := srcVals [gs r] a) hop hw)

/-- Settles O54: what NMC, IMGDEC and SLABGROW read and queue, the trap of a malformed NMC, and the report of an error. -/
theorem engineCommands : Obligations.EngineCommands := ⟨nearMemoryCommands, imageCommands, slabCommands⟩

end Sys2Proof.Machine
end

section
/-! # Link ports: messages, retraining, training, drains and resets (R431, R433 to R436) -/

namespace Sys2Proof.Machine

/-! ## What the commands of a port leave -/

theorem quiet_dropCmd (s : State) (c x uid : Nat) : Quiet s (dropCmd s c x uid) := quiet_modCtx ..

theorem quiet_lanternStop (s : State) (c cause tval : Nat) : Quiet s (lanternStop s c cause tval) := by
  unfold lanternStop
  dsimp only
  split
  · exact .refl s
  · exact ((quiet_modCore ..).trans (quiet_modCtx ..)).trans (quiet_report ..)

theorem quiet_failCmd (s : State) (c x : Nat) (m : Cmd) (k cause tval : Nat) : Quiet s (failCmd s c x m k cause tval).1 := by
  unfold failCmd
  dsimp only
  split
  · unfold lanternFail
    exact Quiet.ite (quiet_lanternStop ..) (quiet_report ..)
  · exact quiet_report ..

theorem quiet_endOnLink (p : Nat) (which : Cmd → Bool) (c x : Nat) (s : State) : Quiet s (endOnLink s p which c x) :=
  Quiet.foldl (f := fun s m => dropCmd (failCmd s c x m 0 causeLINK p).1 c x m.uid)
    (fun _ _ => (quiet_failCmd ..).trans (quiet_dropCmd ..)) _ s

theorem quiet_endAllOnLink (p : Nat) (which : Cmd → Bool) (s : State) : Quiet s (endAllOnLink s p which) := by
  rw [endAllOnLink]
  refine Quiet.foldl (fun s q => ?_) s.cores s
  exact Quiet.foldl (fun s x => quiet_endOnLink p which q.1 x s) (List.range 4) s

/-- Memory, the groups, the mode and the ports are the same. -/
structure OffLink (s t : State) : Prop where
  mem : t.mem = s.mem
  groups : t.groups = s.groups
  mode : t.mode = s.mode
  ck : t.ck = s.ck
  ports : t.ports = s.ports

theorem OffLink.trans {s t u : State} (h : OffLink s t) (g : OffLink t u) : OffLink s u :=
  ⟨g.mem.trans h.mem, g.groups.trans h.groups, g.mode.trans h.mode, g.ck.trans h.ck, g.ports.trans h.ports⟩

theorem offLink_of_quiet {s t : State} (h : Quiet s t) : OffLink s t := by
  obtain ⟨_, _, _, _, rfl⟩ := h
  exact ⟨rfl, rfl, rfl, rfl, rfl⟩

theorem offLink_loseSent (p : Nat) (s : State) : OffLink s (loseSent s p) := ⟨rfl, rfl, rfl, rfl, rfl⟩

/-! ## One port changed -/

/-- From `s` to `t` port `p` has become `q`, and memory, the groups, the mode, the ck and every other port are the same. -/
structure PortTo (p : Nat) (q : Port) (s t : State) : Prop where
  mem : t.mem = s.mem
  groups : t.groups = s.groups
  mode : t.mode = s.mode
  ck : t.ck = s.ck
  port : getPort t p = q
  others : ∀ p', p' ≠ p → getPort t p' = getPort s p'

theorem portTo_modPort (p : Nat) (f : Port → Port) (s : State) : PortTo p (f (getPort s p)) s (modPort s p f) :=
  ⟨rfl, rfl, rfl, rfl, alGet_alSet_self .., fun _ h => alGet_alSet_ne _ _ _ h⟩

theorem PortTo.off {p : Nat} {q : Port} {s t u : State} (h : PortTo p q s t) (g : OffLink t u) : PortTo p q s u where
  mem := g.mem.trans h.mem
  groups := g.groups.trans h.groups
  mode := g.mode.trans h.mode
  ck := g.ck.trans h.ck
  port := by rw [getPort, g.ports]; exact h.port
  others := fun p' hp => by rw [getPort, g.ports]; exact h.others p' hp

theorem PortTo.trans {p : Nat} {q r : Port} {s t u : State} (h : PortTo p q s t) (g : PortTo p r t u) : PortTo p r s u :=
  ⟨g.mem.trans h.mem, g.groups.trans h.groups, g.mode.trans h.mode, g.ck.trans h.ck, g.port,
    fun p' hp => (g.others p' hp).trans (h.others p' hp)⟩

theorem portTo_startTraining (p : Nat) (s : State) :
    PortTo p { getPort s p with state := 1, lanes := 0, trainStart := some s.ck } s (startTraining s p) :=
  (portTo_modPort p (fun q => { q with state := 1, lanes := 0, trainStart := some s.ck }) s).off
    (offLink_of_quiet (quiet_endAllOnLink p (fun m => m.sendsOn p) _))

theorem portTo_portFails (p : Nat) (s : State) : PortTo p { (getPort s p).discard with state := 5 } s (portFails s p) :=
  (portTo_modPort p (fun q => { q.discard with state := 5 }) s).off
    (((offLink_of_quiet (quiet_endAllOnLink p (fun m => m.sendsOn p || m.receivesOn p) _)).trans
      (offLink_loseSent p _)).trans (offLink_of_quiet (quiet_count ..)))

theorem portTo_portDown (p : Nat) (s : State) :
    PortTo p { (getPort s p).discard with state := 1, lanes := 0, trainStart := some s.ck } s (portDown s p) := by
  have h1 := (portTo_modPort p (fun q => { q.discard with state := 0 }) s).off (offLink_loseSent p _)
  have h2 := h1.trans (portTo_startTraining p _)
  rw [h1.port, h1.ck] at h2
  exact h2

/-! ## Retraining (R435) -/

theorem retrain_up {s : State} {p : Nat} (h : (getPort s p).state = 2 ∨ (getPort s p).state = 3) :
    PortTo p { getPort s p with state := 1, lanes := 0, trainStart := some s.ck } s (retrain s p) := by
  rw [retrain, if_pos h]
  exact (portTo_startTraining p s).off (offLink_of_quiet (quiet_count ..))

theorem retrain_draining {s : State} {p : Nat} (h : (getPort s p).state = 4) :
    PortTo p { (getPort s p).discard with state := 5 } s (retrain s p) := by
  rw [retrain, if_neg (by omega), if_pos h]
  exact (portTo_portFails p s).off (offLink_of_quiet (quiet_count ..))

theorem retrain_none {s : State} {p : Nat} (h : (getPort s p).state = 0 ∨ (getPort s p).state = 1 ∨ (getPort s p).state = 5) :
    retrain s p = s := by
  rw [retrain, if_neg (by omega), if_neg (by omega)]

theorem exec_retrain {p : Nat} {i : Instr} (h : i ∈ [Instr.laneLoss p, .flitReplayLimit p, .trainingFrame p]) (s : State) :
    exec i s = .next (retrain s p) := by
  simp only [List.mem_cons, List.not_mem_nil, or_false] at h
  rcases h with rfl | rfl | rfl
  · rfl
  · rfl
  · rfl

/-! ## Messages (R433, R434) -/

theorem sendMessage_sent {s : State} {p l : Nat} {m : List Byte} {rest : List (List Byte)}
    (hq : (getPort s p).queued.getD l [] = m :: rest) (hr : (getPort s p).running = true)
    (hc : 0 < (getPort s p).credits.getD l 0) : sendMessage s p l = modPort s p fun q =>
      { q with
        queued := q.queued.set l rest, unacked := q.unacked.set l (q.unacked.getD l [] ++ [m])
        credits := q.credits.set l (q.credits.getD l 0 - 1) } := by
  simp only [sendMessage, hq, hr, hc, and_self, if_true]

theorem sendMessage_none {s : State} {p l : Nat}
    (h : (getPort s p).queued.getD l [] = [] ∨ (getPort s p).credits.getD l 0 = 0) : sendMessage s p l = s := by
  unfold sendMessage
  dsimp only
  split
  · rfl
  next m rest hq =>
    have h0 : (getPort s p).credits.getD l 0 = 0 := h.resolve_left (by rw [hq]; exact List.cons_ne_nil _ _)
    rw [if_neg (by omega)]

theorem acknowledge_up {s : State} {p l : Nat} (h : (getPort s p).state = 2 ∨ (getPort s p).state = 3) :
    acknowledge s p l = modPort s p fun q => { q with unacked := q.unacked.set l ((q.unacked.getD l []).drop 1) } := by
  have hr : (getPort s p).running = true := by
    rcases h with h | h <;> simp [Port.running, h]
  rw [acknowledge, if_pos hr]
  refine drainCheck_up ?_
  rw [(portTo_modPort p (fun q => { q with unacked := q.unacked.set l ((q.unacked.getD l []).drop 1) }) s).port]
  exact h

theorem linkTraffic : Claims.LinkTraffic := by
  intro p l msg s hl q kept
  have hkept : ∀ {q' t}, PortTo p q' s t → kept t := fun h => ⟨h.mem, h.groups, h.others⟩
  refine ⟨fun m rest hq hr hc => ?_, fun h => ?_, fun hr hm hroom => ?_, fun h => ?_, fun h => ?_,
    fun i hi => ⟨fun h => ?_, fun h => ?_, fun h => ?_⟩⟩
  · have hx : exec (.messageSend p l) s = .next (sendMessage s p l) := rfl
    rw [sendMessage_sent hq hr hc] at hx
    have h := portTo_modPort p (fun q => { q with
      queued := q.queued.set l rest, unacked := q.unacked.set l (q.unacked.getD l [] ++ [m])
      credits := q.credits.set l (q.credits.getD l 0 - 1) }) s
    exact ⟨_, hx, hkept h, h.port⟩
  · exact congrArg Host.Outcome.next (sendMessage_none h)
  · have hx : exec (.messageReceive p l (some msg)) s = .next (receiveMessage s p l msg) := rfl
    rw [receiveMessage, if_pos ⟨hr, hl, hm, hroom⟩] at hx
    have h := portTo_modPort p (fun q => { q with recv := q.recv.set l (q.recv.getD l [] ++ [msg]) }) s
    exact ⟨_, hx, hkept h, h.port⟩
  · have hno : ¬((getPort s p).running = true ∧ l < 4 ∧ msg.length = 256 ∧ ((getPort s p).recv.getD l []).length < 64) :=
      fun ⟨_, _, hm, hroom⟩ => h.elim (· hm) (Nat.not_le.mpr hroom)
    exact congrArg Host.Outcome.next (if_neg hno)
  · have hx : exec (.messageReceive p l none) s = .next (acknowledge s p l) := rfl
    rw [acknowledge_up h] at hx
    have h := portTo_modPort p (fun q => { q with unacked := q.unacked.set l ((q.unacked.getD l []).drop 1) }) s
    exact ⟨_, hx, hkept h, h.port⟩
  · have ht := retrain_up h
    exact ⟨_, exec_retrain hi s, hkept ht, ht.port⟩
  · have ht := retrain_draining h
    exact ⟨_, exec_retrain hi s, hkept ht, congrArg Port.state ht.port, congrArg Port.recv ht.port,
      congrArg Port.unacked ht.port⟩
  · rw [exec_retrain hi, retrain_none h]

/-! ## Training, drains and resets (R435) -/

section
variable {s : State} {p n : Nat}

theorem attemptOver_eq (h : ∀ c, (getPort s p).trainStart = some c → s.ck ≤ c + 5000000) : attemptOver s p = false := by
  unfold attemptOver
  cases hc : (getPort s p).trainStart with
  | none => rfl
  | some c =>
    rw [Option.any_some, decide_eq_false_iff_not, not_lt]
    exact h c hc

theorem attemptOver_late {c : Nat} (h : (getPort s p).trainStart = some c) (hc : c + 5000000 < s.ck) :
    attemptOver s p = true := by
  rw [attemptOver, h, Option.any_some, decide_eq_true_iff]
  exact hc

theorem trainingFailed_next (h : (getPort s p).fails < 2) : trainingFailed s p =
    modPort s p fun q => { q with fails := q.fails + 1, trainStart := some s.ck } := if_neg (Nat.not_le.mpr h)

theorem trainingFailed_last (h : 2 ≤ (getPort s p).fails) : trainingFailed s p = portFails s p := if_pos h

theorem endTraining_failed (h : (getPort s p).state = 1) (hf : n < 4 ∨ attemptOver s p = true) :
    endTraining s p n = trainingFailed s p := by
  rw [endTraining, if_pos h, if_pos hf]

theorem endTraining_done (h : (getPort s p).state = 1) (hn : 4 ≤ n) (hf : attemptOver s p = false) :
    endTraining s p n = modPort s p fun q =>
      { q with state := if 8 ≤ n then 2 else 3, lanes := min 8 n, fails := 0, trainStart := none } := by
  rw [endTraining, if_pos h, if_neg]
  rw [hf]
  simp [hn]

/-- The port after a failed attempt: another starts, or after the third the port has failed. -/
theorem trainingFailed_port (s : State) (p : Nat) : (trainingFailed s p).mem = s.mem ∧
    ((getPort s p).fails < 2 → getPort (trainingFailed s p) p =
      { getPort s p with fails := (getPort s p).fails + 1, trainStart := some s.ck }) ∧
    (2 ≤ (getPort s p).fails → (getPort (trainingFailed s p) p).state = 5 ∧
      (getPort (trainingFailed s p) p).recv = [[], [], [], []]) := by
  rcases Nat.lt_or_ge (getPort s p).fails 2 with h | h
  · have ht := portTo_modPort p (fun q => { q with fails := q.fails + 1, trainStart := some s.ck }) s
    rw [trainingFailed_next h]
    exact ⟨ht.mem, fun _ => ht.port, fun h' => absurd h (Nat.not_lt.mpr h')⟩
  · have ht := portTo_portFails p s
    rw [trainingFailed_last h]
    exact ⟨ht.mem, fun h' => absurd h' (Nat.not_lt.mpr h), fun _ => ⟨congrArg Port.state ht.port, congrArg Port.recv ht.port⟩⟩

/-- Nothing is left in the queues of a port. -/
def Port.isDry (q : Port) : Bool := q.recv.all (·.isEmpty) && q.unacked.all (·.isEmpty) && q.queued.all (·.isEmpty)

theorem drainCheck_left (h : (getPort s p).isDry = false) : drainCheck s p = s := by
  refine if_neg fun ⟨_, h1, h2, h3⟩ => ?_
  rw [Port.isDry, h1, h2, h3] at h
  exact absurd h (by decide)

theorem drainCheck_dry (hs : (getPort s p).state = 4) (h : (getPort s p).isDry = true) : drainCheck s p = portDown s p := by
  simp only [Port.isDry, Bool.and_eq_true, and_assoc] at h
  exact if_pos ⟨hs, h⟩

theorem drainPort_eq (h : (getPort s p).state = 2 ∨ (getPort s p).state = 3) : drainPort s p =
    drainCheck (modPort s p fun q => { q with state := 4 }) p := if_pos h

end

/-! ## A lost fabric path (R431, R459) -/

/-- Memory and the mode are the same. -/
structure Calm (s t : State) : Prop where
  mem : t.mem = s.mem
  mode : t.mode = s.mode

theorem Calm.refl (s : State) : Calm s s := ⟨rfl, rfl⟩

theorem Calm.trans {s t u : State} (h : Calm s t) (g : Calm t u) : Calm s u := ⟨g.mem.trans h.mem, g.mode.trans h.mode⟩

theorem calm_of_quiet {s t : State} (h : Quiet s t) : Calm s t := by
  obtain ⟨_, _, _, _, rfl⟩ := h
  exact ⟨rfl, rfl⟩

theorem Calm.ite_fst {s : State} {a b : State × Cmd} {p : Prop} [Decidable p] (h : Calm s a.1) (g : Calm s b.1) :
    Calm s (if p then a else b).1 := by
  split
  · exact h
  · exact g

theorem Calm.foldl {α : Type} {f : State → α → State} (h : ∀ s a, Calm s (f s a)) :
    ∀ (l : List α) (s : State), Calm s (l.foldl f s)
  | [], s => .refl s
  | a :: l, s => (h s a).trans (Calm.foldl h l (f s a))

theorem calm_readyReaders (ch b : Nat) : ∀ (n : Nat) (s : State), Calm s (readyReaders ch b n s)
  | 0, s => .refl s
  | n + 1, s => by
    unfold readyReaders
    split
    · exact .refl s
    · exact (calm_of_quiet (quiet_modCtx ..)).trans (calm_readyReaders ch b n _)

theorem calm_setSlot (ch b : Nat) (s : State) (v : Slot) : Calm s (setSlot s ch b v) := ⟨rfl, rfl⟩

theorem calm_modCore (c : Nat) (f : Core → Core) (s : State) : Calm s (modCore s c f) := ⟨rfl, rfl⟩

theorem calm_creditSlot (ch : Nat) (bar : Option Nat) (n : Nat) (p : Bool) (s : State) : Calm s (creditSlot s ch bar n p) := by
  unfold creditSlot
  split
  · exact .refl s
  · dsimp only
    split
    · exact ⟨rfl, rfl⟩
    · split
      · exact ⟨rfl, rfl⟩
      · exact (calm_setSlot ..).trans (calm_readyReaders ..)

theorem calm_creditCmd (c : Nat) (m : Cmd) (n : Nat) (s : State) : Calm s (creditCmd s c m n) := calm_creditSlot ..

theorem calm_popImage (ch : Nat) (s : State) : Calm s (popImage s ch) := ⟨rfl, rfl⟩

theorem calm_putCmd (c x : Nat) (m : Cmd) (s : State) : Calm s (putCmd s c x m) := ⟨rfl, rfl⟩

theorem calm_foldAt (c x k : Nat) (f : Flags) (s : State) : Calm s (foldAt s c x k f) := calm_of_quiet (quiet_foldAt ..)

theorem calm_failCmd (c x : Nat) (m : Cmd) (k cause tval : Nat) (s : State) : Calm s (failCmd s c x m k cause tval).1 :=
  calm_of_quiet (quiet_failCmd ..)

theorem calm_failPort (c x : Nat) (m : Cmd) (kind word elem : Nat) (outs : List Nat) (fl : Flags) (s : State) :
    Calm s (failPort s c x m kind word elem outs fl).1 :=
  (calm_foldAt ..).trans (calm_of_quiet (quiet_report ..))

theorem calm_freeSlot (c x : Nat) (m : Cmd) (s : State) : Calm s (freeSlot s c x m) := by
  unfold freeSlot
  split
  · exact .refl s
  · dsimp only
    split
    · exact (calm_of_quiet (quiet_setCore ..)).trans (calm_foldAt ..)
    · exact calm_of_quiet (quiet_setCore ..)

theorem calm_startStream (c x : Nat) (m : Cmd) (s : State) : Calm s (startStream s c x m).1 := by
  unfold startStream
  split
  · exact .refl s
  · split
    · exact .refl s
    · dsimp only
      split
      · exact .refl s
      · split
        · split
          · exact calm_failPort ..
          · exact .refl s
        · split
          · exact .refl s
          · exact ⟨rfl, rfl⟩

theorem calm_throughPort (c x : Nat) (m : Cmd) (u : Nat → Nat) (codes : List Nat) (s : State) :
    Calm s (throughPort s c x m u codes).2.2.2 := by
  unfold throughPort
  split
  · exact .refl s
  · exact calm_of_quiet (quiet_setCore ..)

theorem calm_placeStore (m : Cmd) (outs : List (Option Nat)) (s : State) : Calm s (placeStore s m outs).1 := by
  unfold placeStore
  split
  · exact .refl s
  · exact .refl s
  · exact .refl s
  · exact .refl s

theorem calm_failBlock (c x : Nat) (m : Cmd) (s : State) : Calm s (passChunk.failBlock s c x m).1 := by
  unfold passChunk.failBlock
  dsimp only
  generalize m.outs.drop (m.outs.length / m.rowElems * m.rowElems) ++
    (if m.form.p.isNone && decide (0 < m.carry.1) then [m.carry.2] else []) = part
  split
  · exact calm_failCmd ..
  · exact (calm_failCmd ..).trans (calm_modCore ..)

theorem calm_passChunk (c x : Nat) (m : Cmd) (s : State) : Calm s (passChunk s c x m).1 := by
  unfold passChunk
  dsimp only
  split
  · exact .refl s
  · exact ⟨rfl, rfl⟩
  · exact ⟨rfl, rfl⟩
  · exact .refl s
  · exact .refl s
  · exact .refl s
  · exact .refl s
  · exact .refl s
  · split
    · exact calm_failBlock ..
    · split
      · exact (calm_throughPort ..).trans (calm_failPort ..)
      · exact Calm.ite_fst (calm_failBlock ..) ((calm_throughPort ..).trans (calm_foldAt ..))
  · split
    · exact calm_failCmd ..
    · split
      · exact (calm_throughPort ..).trans (calm_failPort ..)
      · have h := (calm_throughPort c x m (positionBits s c m) (m.codes m.ported) s).trans (calm_foldAt c x s.ck
          (throughPort s c x m (positionBits s c m) (m.codes m.ported)).2.1 _)
        split
        · exact h
        · exact h.trans (calm_placeStore ..)

theorem calm_enterStream (c : Nat) (m : Cmd) (s : State) : Calm s (enterStream s c m) := by
  unfold enterStream
  split
  · exact .refl s
  · split
    · exact ⟨rfl, rfl⟩
    · exact .refl s

theorem calm_passChunks (c x : Nat) : ∀ (n : Nat) (p : State × Cmd), Calm p.1 (passChunks c x n p).1
  | 0, p => .refl p.1
  | n + 1, (s, m) => by
    unfold passChunks
    split
    · exact ((calm_enterStream ..).trans (calm_passChunk ..)).trans (calm_passChunks c x n _)
    · exact .refl s

theorem calm_endStream (c x : Nat) (m : Cmd) (s : State) : Calm s (endStream s c x m).1 := by
  unfold endStream
  split
  · exact .refl s
  · dsimp only
    split
    · exact calm_freeSlot ..
    · split
      · exact .refl s
      · split
        · exact calm_freeSlot ..
        · exact ⟨rfl, rfl⟩

theorem calm_endFold (c x : Nat) (m : Cmd) (s : State) : Calm s (endFold s c x m).1 := by
  unfold endFold
  split
  · exact .refl s
  · exact calm_freeSlot ..

theorem calm_oneRow {s : State} {c x : Nat} {m : Cmd} {q : State × Cmd} (h : oneRow s c x m = some q) : Calm s q.1 := by
  simp only [oneRow] at h
  split at h
  · exact absurd h (Option.some_ne_none q).symm
  · obtain rfl := Option.some.inj h
    exact (calm_modCore ..).trans (calm_creditSlot ..)

theorem calm_fillRows (c x : Nat) : ∀ (n : Nat) (p : State × Cmd), Calm p.1 (fillRows c x n p).1
  | 0, p => .refl p.1
  | n + 1, p => by
    unfold fillRows
    split
    · next q hq => exact (calm_oneRow hq).trans (calm_fillRows c x n q)
    · exact .refl p.1

theorem calm_flushCredits (c : Nat) : ∀ (n : Nat) (p : State × Cmd), Calm p.1 (flushCredits c n p).1
  | 0, p => .refl p.1
  | n + 1, p => by
    unfold flushCredits
    split
    · exact .refl p.1
    · refine Calm.trans ?_ (calm_flushCredits c n _)
      exact calm_creditCmd ..

theorem calm_pump (c x : Nat) (m : Cmd) (s : State) : Calm s (pump s c x m).1 :=
  (((((calm_startStream c x m s).trans (calm_startStream ..)).trans (calm_passChunks ..)).trans (calm_endStream ..)).trans
    (calm_endFold ..)).trans ((calm_fillRows ..).trans (calm_flushCredits ..))

theorem calm_dropCmd (c x uid : Nat) (s : State) : Calm s (dropCmd s c x uid) := ⟨rfl, rfl⟩

theorem calm_settleLost (c x : Nat) (m : Cmd) (s : State) : Calm s (settleLost s c x m) := by
  unfold settleLost
  split
  · unfold settleImage
    split
    · exact ⟨rfl, rfl⟩
    · split
      · exact ((calm_creditCmd ..).trans (calm_dropCmd ..)).trans (calm_popImage ..)
      · exact ⟨rfl, rfl⟩
  · unfold settleSend
    split
    · exact ⟨rfl, rfl⟩
    · exact ⟨rfl, rfl⟩
  · dsimp only
    unfold settle
    split
    · exact (calm_pump ..).trans (calm_dropCmd ..)
    · exact (calm_pump ..).trans (calm_putCmd ..)

theorem calm_failGrow (c x : Nat) (m : Cmd) (cause tval : Nat) (s : State) : Calm s (failGrow s c x m cause tval) := by
  have h : Calm s (setForward (freeRange s (getCtx s c x).xfwdn.toNat) c x 0 0 0) := ⟨rfl, rfl⟩
  exact (h.trans (calm_of_quiet (quiet_report ..))).trans (calm_dropCmd ..)

theorem calm_loseChunk (a b c x : Nat) (s : State) (m : Cmd) : Calm s (loseChunk a b c x s m) := by
  unfold loseChunk
  split
  · exact Calm.trans (t := { s with freeCtr := s.freeCtr + 1 }) ⟨rfl, rfl⟩ (calm_failGrow ..)
  · split
    · exact (calm_failCmd ..).trans (calm_dropCmd ..)
    · unfold loseUnit
      split
      · exact .refl s
      · exact (calm_failCmd ..).trans (calm_settleLost ..)

theorem calm_loseChunks (a b c : Nat) (s : State) (x : Nat) : Calm s (loseChunks a b c s x) :=
  (Calm.foldl (f := loseChunk a b c x) (calm_loseChunk a b c x) _ s).trans ⟨rfl, rfl⟩

theorem calm_loseStatus (a b : Nat) (s : State) (q : Nat × List NmCmd) : Calm s (loseStatus a b s q) := by
  unfold loseStatus
  split
  · exact .refl s
  · split
    · dsimp only
      split
      · exact ⟨rfl, rfl⟩
      · refine Calm.trans ?_ (calm_of_quiet (quiet_report ..))
        exact ⟨rfl, rfl⟩
    · exact .refl s

theorem calm_loseImage (a b : Nat) (s : State) (q : Nat × List ImgCmd) : Calm s (loseImage a b s q) := by
  unfold loseImage
  split
  · exact .refl s
  · dsimp only
    split
    · split
      · exact ⟨rfl, rfl⟩
      · exact .refl s
    · exact .refl s

theorem calm_losePath (a b : Nat) (s : State) : Calm s (losePath s a b) := by
  rw [losePath]
  refine (Calm.foldl (calm_loseImage a b) s.imgq s).trans ((Calm.foldl (fun s p => ?_) _ _).trans
    (Calm.foldl (calm_loseStatus a b) _ _))
  exact Calm.foldl (calm_loseChunks a b p.1) (List.range 4) s

/-- Memory, the mode and the tables are the same once groups freeze. -/
theorem quiet_freezeCtxs (ps : List Place) (s : State) : Quiet s (ps.foldl (fun s p => freezeCtx s p.core p.ctx) s) :=
  Quiet.foldl (f := fun s p => freezeCtx s p.core p.ctx) (fun s p => quiet_freezeCtx s p.core p.ctx) ps s

theorem freezeGroup_frame (s : State) (gid : Nat) : (freezeGroup s gid).mem = s.mem ∧ (freezeGroup s gid).mode = s.mode ∧
    (freezeGroup s gid).tables = s.tables := by
  unfold freezeGroup
  split
  · exact ⟨rfl, rfl, rfl⟩
  next g hg =>
    split
    · have h := quiet_freezeCtxs g.places s
      exact ⟨h.mem, (calm_of_quiet h).mode, h.tables⟩
    · exact ⟨rfl, rfl, rfl⟩

theorem freezeGroups_frame : ∀ (gs : List Group) (s : State),
    (gs.foldl (fun s g => freezeGroup s g.gid) s).mem = s.mem ∧ (gs.foldl (fun s g => freezeGroup s g.gid) s).mode = s.mode ∧
      (gs.foldl (fun s g => freezeGroup s g.gid) s).tables = s.tables
  | [], _ => ⟨rfl, rfl, rfl⟩
  | g :: gs, s => by
    obtain ⟨h1, h2, h3⟩ := freezeGroup_frame s g.gid
    obtain ⟨g1, g2, g3⟩ := freezeGroups_frame gs (freezeGroup s g.gid)
    exact ⟨g1.trans h1, g2.trans h2, g3.trans h3⟩

theorem enterRecovery_frame (s : State) : (enterRecovery s).mem = s.mem ∧ (enterRecovery s).mode = .recovery ∧
    halted (enterRecovery s) = true := by
  obtain ⟨h1, h2, h3⟩ := freezeGroups_frame (s.groups.filter fun g => g.st == .running)
    { s with mode := .recovery, tables := alSet s.tables (5, 0, 0) (2 ^ 16) }
  refine ⟨h1, h2, ?_⟩
  have ht : tabGet (enterRecovery s) 5 0 0 = 2 ^ 16 :=
    (congrArg (fun ts => alGet 0 ts (5, 0, 0)) h3).trans (alGet_alSet_self ..)
  rw [halted, ht]
  rfl

/-! ## The obligation -/

theorem linkTraining : Claims.LinkTraining := by
  intro p n a b s q empty failed
  have hfailed : ∀ i, exec i s = .next (trainingFailed s p) → failed i := fun i hx => ⟨_, hx, trainingFailed_port s p⟩
  refine ⟨fun hs hn hc => ?_, fun hs hn => ?_, fun c hs hc hlate => ⟨?_, ?_⟩, fun c hc hlate => ?_, fun hs => ?_, fun hs => ?_,
    fun hs => ?_, ?_⟩
  · have hx : exec (.trainingEnd p n) s = .next (endTraining s p n) := rfl
    rw [endTraining_done hs hn (attemptOver_eq hc)] at hx
    have h := portTo_modPort p (fun q =>
      { q with state := if 8 ≤ n then 2 else 3, lanes := min 8 n, fails := 0, trainStart := none }) s
    exact ⟨_, hx, h.mem, h.port⟩
  · exact hfailed _ (congrArg Host.Outcome.next (endTraining_failed hs (.inl hn)))
  · exact hfailed _ (congrArg Host.Outcome.next (if_pos ⟨hs, attemptOver_late hc hlate⟩))
  · exact hfailed _ (congrArg Host.Outcome.next (endTraining_failed hs (.inr (attemptOver_late hc hlate))))
  · have hno : attemptOver s p = false := attemptOver_eq fun c' hc' => by
      rw [Option.some.inj (hc'.symm.trans hc)]
      exact hlate
    refine congrArg Host.Outcome.next (if_neg fun h => ?_)
    rw [hno] at h
    exact absurd h.2 Bool.false_ne_true
  · have h := portTo_modPort p (fun q => { q with state := 4 }) s
    have hx : exec (.portDrainRequest p) s = .next (drainPort s p) := rfl
    rw [drainPort_eq hs] at hx
    have hdry : (getPort (modPort s p fun q => { q with state := 4 }) p).isDry = empty := by rw [h.port]; rfl
    cases he : empty with
    | false =>
      rw [drainCheck_left (hdry.trans he)] at hx
      exact ⟨_, hx, h.mem, fun _ => h.port, fun ht => absurd ht Bool.false_ne_true⟩
    | true =>
      rw [drainCheck_dry (congrArg Port.state h.port) (hdry.trans he)] at hx
      have hd := portTo_portDown p (modPort s p fun q => { q with state := 4 })
      exact ⟨_, hx, hd.mem.trans h.mem, fun ht => absurd ht.symm Bool.false_ne_true, fun _ => congrArg Port.state hd.port⟩
  · have hx : exec (.portResetRequest p) s = .next (resetPort s p) := rfl
    rw [resetPort, if_pos hs] at hx
    have hd := portTo_portDown p s
    exact ⟨_, hx, hd.mem, congrArg Port.state hd.port, congrArg Port.trainStart hd.port⟩
  · exact congrArg Host.Outcome.next (if_neg hs)
  · have hl := calm_losePath a b s
    obtain ⟨hm, hmode, hh⟩ := enterRecovery_frame (losePath s a b)
    have hx : exec (.fabricPathLoss a b) s = .next
      (if (losePath s a b).mode = .operating then enterRecovery (losePath s a b) else losePath s a b) := rfl
    by_cases ho : s.mode = .operating
    · rw [if_pos (hl.mode.trans ho)] at hx
      exact ⟨_, hx, hm.trans hl.mem, fun _ => ⟨hmode, hh⟩, fun h => absurd ho h⟩
    · rw [if_neg fun h => ho (hl.mode.symm.trans h)] at hx
      exact ⟨_, hx, hl.mem, fun h => absurd h ho, fun _ => hl.mode⟩

/-- Settles O59: messages and credits, retraining, training, drains, resets, and a lost path. -/
theorem eventsOfLinks : Obligations.EventsOfLinks := ⟨linkTraffic, linkTraining⟩

end Sys2Proof.Machine
end

section
/-! # Nodes enter, age, start and complete (R360 to R373) -/

namespace Sys2Proof.Machine

/-! ## What the node table and the FIFO keep -/

/-- The submission FIFO, the nodes and the graphs are the same. -/
structure SameNodes (s t : State) : Prop where
  fifo : t.fifo = s.fifo
  nodes : t.nodes = s.nodes
  graphs : t.graphs = s.graphs

theorem SameNodes.refl (s : State) : SameNodes s s := ⟨rfl, rfl, rfl⟩

theorem SameNodes.trans {s t u : State} (h : SameNodes s t) (g : SameNodes t u) : SameNodes s u :=
  ⟨g.fifo.trans h.fifo, g.nodes.trans h.nodes, g.graphs.trans h.graphs⟩

theorem sameNodes_ownFrame (ch obj page : Nat) (s : State) : SameNodes s (ownFrame s ch obj page) := by
  unfold ownFrame
  split
  · exact .refl s
  · dsimp only
    split
    · exact ⟨rfl, rfl, rfl⟩
    · exact ⟨rfl, rfl, rfl⟩

/-- The package once the page of a record's completion word is the supervisor's own (R369, R423). -/
def wordOwned (s : State) (r : List Byte) : State :=
  match placeOf s primary 0 (ndDonew r) 16 with
  | .at_ _ true obj page _ => ownFrame s 0 obj page
  | _ => s

/-- The completion word of a record (R369). -/
def wordBytes (s : State) (r : List Byte) (status cause : Nat) : List Byte :=
  leBytes 2 (ndNode r) ++ leBytes 2 0 ++ leBytes 1 status ++ leBytes 1 cause ++ leBytes 2 0 ++ leBytes 8 s.ck

theorem writeWord_some {r : List Byte} (h : ndDonew r ≠ 0) (s : State) (status cause : Nat) : writeWord s r status cause =
    match placeOf (wordOwned s r) primary 0 (ndDonew r) 16 with
    | .at_ k _ _ _ _ => storeBytes (wordOwned s r) k (wordBytes (wordOwned s r) r status cause)
    | _ => wordOwned s r := if_neg h

theorem sameNodes_wordOwned (r : List Byte) (s : State) : SameNodes s (wordOwned s r) := by
  unfold wordOwned
  split
  · exact sameNodes_ownFrame ..
  · exact .refl s

theorem sameNodes_writeWord (r : List Byte) (status cause : Nat) (s : State) : SameNodes s (writeWord s r status cause) := by
  by_cases h : ndDonew r = 0
  · rw [writeWord, if_pos h]
    exact .refl s
  · rw [writeWord_some h]
    refine (sameNodes_wordOwned r s).trans ?_
    generalize wordOwned s r = u
    split
    · exact ⟨rfl, rfl, rfl⟩
    · exact .refl u

theorem countBad_frame (s : State) (k : Nat) : SameNodes s (countBad s k) ∧ (countBad s k).mem = s.mem := by
  unfold countBad
  split
  · exact ⟨⟨rfl, rfl, rfl⟩, rfl⟩
  · exact ⟨.refl s, rfl⟩

theorem countUnits_frame (gs : List Got) (s : State) : SameNodes s (countUnits s gs) ∧ (countUnits s gs).mem = s.mem := by
  have h : ∀ (us : List Nat) (s : State), SameNodes s (us.foldl countBad s) ∧ (us.foldl countBad s).mem = s.mem := by
    intro us
    induction us with
    | nil => exact fun s => ⟨.refl s, rfl⟩
    | cons u us ih =>
      intro s
      obtain ⟨h1, m1⟩ := countBad_frame s u
      obtain ⟨h2, m2⟩ := ih (countBad s u)
      exact ⟨h1.trans h2, m2.trans m1⟩
  exact h _ s

theorem writeWord_none {r : List Byte} (h : ndDonew r = 0) (s : State) (status cause : Nat) : writeWord s r status cause = s :=
  if_pos h

/-! ## Acceptance (R360, R362, R363, R373) -/

section Accept
variable {s : State} {q : Submission} {rest : List Submission}

theorem acceptNext_lacks {w : Nat × Nat} {e : Nat} (hq : s.fifo = q :: rest) (hl : lackedEntry s q = some w)
    (he : freeEntry s = some e) : acceptNext s = .next (putEntry s primary e w) := by
  simp only [acceptNext, hq, hl, he]

theorem acceptNext_accept {ops : List (Nat × Nat × Nat)} {lists : List (List Byte)} (hq : s.fifo = q :: rest)
    (hl : lackedEntry s q = none)
    (hc : checkNode s q.record (appendWrong s q.record) s.nodes.length = .accept ops lists) : acceptNext s =
    .next (sealGraph (addNode { s with fifo := rest } q.record (ndGid q.record) (ndNode q.record)
      (((graphOf s (ndGid q.record)).map (·.client)).getD q.client) ops lists) q.record) := by
  simp only [acceptNext, hq, hl, hc]

theorem acceptNext_refuse {code : Nat} (hq : s.fifo = q :: rest) (hl : lackedEntry s q = none)
    (hc : checkNode s q.record (appendWrong s q.record) s.nodes.length = .refuse code) (hw : wordWaits s q.record = none) :
    acceptNext s =
      .next (writeWord (countUnits { s with fifo := rest } (readLists s q.record).got) q.record 4 code) := by
  simp only [acceptNext, hq, hl, hc, hw]

theorem putEntry_words (s : State) (c e : Nat) (w : Nat × Nat) : putEntry s c e w = { s with tables := (putEntry s c e w).tables } ∧
    winWord (putEntry s c e w) c e 0 = w.1 ∧ winWord (putEntry s c e w) c e 1 = w.2 := by
  refine ⟨rfl, winWord_putWinWord_self .., ?_⟩
  rw [putEntry, winWord_putWinWord_ne _ _ _ _ (by decide), winWord_putWinWord_ne _ _ _ _ (by decide),
    winWord_putWinWord_ne _ _ _ _ (by decide), winWord_putWinWord_self]

end Accept

/-- The lowest free word of the node table is no node's. -/
theorem freeNodeWord_ne (s : State) : ∀ o ∈ s.nodes, o.index ≠ freeNodeWord s := by
  intro o ho heq
  cases hf : (List.range (s.nodes.length + 1)).find? fun i => !(s.nodes.any fun n => n.index == i) with
  | some i =>
    have hi := List.find?_some hf
    rw [freeNodeWord, hf, Option.getD_some] at heq
    have : (s.nodes.any fun n => n.index == i) = true := List.any_eq_true.mpr ⟨o, ho, by simp [heq]⟩
    simp [this] at hi
  | none =>
    have hsub : List.range (s.nodes.length + 1) ⊆ s.nodes.map (·.index) := fun i hi => by
      have := List.find?_eq_none.mp hf i hi
      simpa using this
    have hle := (List.nodup_range.subperm hsub).length_le
    simp at hle

theorem sealGraph_open {r : List Byte} (h : bitAt (ndSeal r) 0 = false) (s : State) : sealGraph s r = s := by
  rw [sealGraph, if_neg (by rw [h]; decide)]

theorem operandsMeet_iff (x y : Nat × Nat × Nat) : operandsMeet x y = true ↔ x.1 < y.1 + y.2.1 ∧ y.1 < x.1 + x.2.1 ∧
    (bitAt x.2.2 1 = true ∨ bitAt y.2.2 1 = true) := by
  simp [operandsMeet, and_assoc]

theorem dependsOn_iff (o : Node) (ops : List (Nat × Nat × Nat)) : dependsOn o ops = true ↔
    o.st ≠ .done ∧ ∃ x ∈ o.ops, ∃ y ∈ ops, x.1 < y.1 + y.2.1 ∧ y.1 < x.1 + x.2.1 ∧
      (bitAt x.2.2 1 = true ∨ bitAt y.2.2 1 = true) := by
  simp only [dependsOn, Bool.and_eq_true, bne_iff_ne, List.any_eq_true, operandsMeet_iff]

/-- The earlier nodes of its graph on which a new node depends (R363). -/
def depsOf (s : State) (gid : Nat) (ops : List (Nat × Nat × Nat)) : List Nat :=
  if gid = 0 then [] else (s.nodes.filter fun n => n.gid == gid && dependsOn n ops).map (·.index)

theorem mem_depsOf (s : State) (gid : Nat) (ops : List (Nat × Nat × Nat)) (j : Nat) : j ∈ depsOf s gid ops ↔
    gid ≠ 0 ∧ ∃ o ∈ s.nodes, o.index = j ∧ o.gid = gid ∧ o.st ≠ .done ∧ ∃ x ∈ o.ops, ∃ y ∈ ops,
      x.1 < y.1 + y.2.1 ∧ y.1 < x.1 + x.2.1 ∧ (bitAt x.2.2 1 = true ∨ bitAt y.2.2 1 = true) := by
  unfold depsOf
  by_cases hg : gid = 0
  · rw [if_pos hg]
    exact iff_of_false List.not_mem_nil fun h => h.1 hg
  · rw [if_neg hg]
    simp only [List.mem_map, List.mem_filter, Bool.and_eq_true, beq_iff_eq, dependsOn_iff, ne_eq, hg, not_false_eq_true,
      true_and]
    constructor
    · rintro ⟨o, ⟨ho, hgid, hd⟩, hi⟩
      exact ⟨o, ho, hi, hgid, hd⟩
    · rintro ⟨o, ho, hi, hgid, hd⟩
      exact ⟨o, ⟨ho, hgid, hd⟩, hi⟩

/-- The node that a record becomes (R363). -/
def newNode (s : State) (r : List Byte) (gid id client : Nat) (ops : List (Nat × Nat × Nat)) (lists : List (List Byte)) : Node where
  index := freeNodeWord s
  record := r
  ops := ops
  lists := lists
  gid := gid
  id := id
  st := if (depsOf s gid ops).isEmpty then .ready else .waiting
  deps := depsOf s gid ops
  level := ndPrio r % 8
  since := s.ck
  group := 0
  status := 0
  cause := 0
  seq := 0
  client := client

theorem addNode_frame (s : State) (r : List Byte) (gid id client : Nat) (ops : List (Nat × Nat × Nat)) (lists : List (List Byte)) :
    (addNode s r gid id client ops lists).nodes = s.nodes ++ [newNode s r gid id client ops lists] ∧
      (addNode s r gid id client ops lists).fifo = s.fifo ∧ (addNode s r gid id client ops lists).mem = s.mem :=
  ⟨rfl, rfl, rfl⟩

theorem newNode_st (s : State) (r : List Byte) (gid id client : Nat) (ops : List (Nat × Nat × Nat)) (lists : List (List Byte)) :
    (newNode s r gid id client ops lists).st =
      if (newNode s r gid id client ops lists).deps = [] then .ready else .waiting :=
  if_congr List.isEmpty_iff rfl rfl

/-! ## Aging (R367) -/

/-- Node `n` has waited its level's interval, and nothing of its KIND can be dispatched. -/
def ages (s : State) (i : Nat) (n : Node) : Prop :=
  n.index = i ∧ n.st = .ready ∧ n.level ≤ 5 ∧ ageOf s n.level ≠ 0 ∧ n.since + ageOf s n.level ≤ s.ck ∧
    canDispatch s (ndKind n.record) = false

theorem mem_ageNode_aged {s : State} {i : Nat} {n : Node} (hn : n ∈ s.nodes) (h : ages s i n) :
    { n with level := n.level + 1, since := s.ck, seq := 0 } ∈ (ageNode s i).nodes :=
  List.mem_map.mpr ⟨n, hn, if_pos h⟩

theorem mem_ageNode_kept {s : State} {i : Nat} {n : Node} (hn : n ∈ s.nodes) (h : ¬ages s i n) : n ∈ (ageNode s i).nodes :=
  List.mem_map.mpr ⟨n, hn, if_neg h⟩

/-! ## Dispatch (R157, R365, R368) -/

theorem firstNode_mem : ∀ {ns : List Node} {n : Node}, firstNode ns = some n → n ∈ ns
  | [], _, h => absurd h (by simp [firstNode])
  | m :: ns, n, h => by
    unfold firstNode at h
    split at h
    · exact Option.some.inj h ▸ List.mem_cons_self
    next k hk =>
      split at h
      · exact Option.some.inj h ▸ List.mem_cons_of_mem _ (firstNode_mem hk)
      · exact Option.some.inj h ▸ List.mem_cons_self

theorem headNode_mem {s : State} {kind : Nat} {n : Node} (h : headNode s kind = some n) : n ∈ s.nodes := by
  obtain ⟨lv, _, hlv⟩ := List.exists_of_findSome?_eq_some h
  exact (List.mem_filter.mp (List.mem_filter.mp (firstNode_mem hlv)).1).1

theorem mapEntry_tables (c : Nat) (s : State) (p : Nat × Nat) : mapEntry c s p = { s with tables := (mapEntry c s p).tables } := by
  unfold mapEntry
  split
  · rfl
  · rfl

theorem mapClient_tables (client c : Nat) (s : State) : mapClient client s c = { s with tables := (mapClient client s c).tables } := by
  have h : ∀ (ps : List (Nat × Nat)) (s : State), ps.foldl (mapEntry c) s = { s with tables := (ps.foldl (mapEntry c) s).tables } := by
    intro ps
    induction ps with
    | nil => exact fun s => rfl
    | cons p ps ih =>
      intro s
      rw [List.foldl_cons, ih, mapEntry_tables]
  exact h _ s

theorem mem_runNode {s : State} {n : Node} (hn : n ∈ s.nodes) (unit : Nat) :
    { n with st := .running, group := unit + 1, seq := 0 } ∈ (runNode s n unit).nodes :=
  List.mem_map.mpr ⟨n, hn, if_pos rfl⟩

theorem lowestIdle {s : State} {kind k d : Nat} (hd : d < k) (hfree : unitBusy s kind d = false)
    (hbusy : ∀ e, e < d → unitBusy s kind e = true) : (List.range k).find? (fun d => !(unitBusy s kind d)) = some d :=
  List.find?_range_eq_some.mpr ⟨by rw [hfree]; rfl, List.mem_range.mpr hd, fun e he => by rw [hbusy e he]; rfl⟩

section Dispatch
variable {s : State} {n : Node} {picks : List Nat}

theorem exec_dispatch_halted (hh : halted s = true) {kind : Nat} (hk : 1 ≤ kind) : exec (.dispatch kind picks) s = .next s := by
  have hx : exec (.dispatch kind picks) s = .next (if kind = 0 then dispatchGroup s picks else dispatchOther s kind) := rfl
  rw [hx, if_neg (by omega), dispatchOther, if_pos hh]

theorem exec_dispatch_other (hh : halted s = false) :
    (headNode s 1 = some n → exec (.dispatch 1 picks) s = .next (dispatchService s n)) ∧
      (headNode s 2 = some n → exec (.dispatch 2 picks) s = .next (dispatchImage s n)) ∧
      (headNode s 3 = some n → exec (.dispatch 3 picks) s = .next (dispatchNear s n)) := by
  have hx : ∀ kind, kind ≠ 0 → exec (.dispatch kind picks) s = .next (dispatchOther s kind) := fun kind hk =>
    congrArg Host.Outcome.next (if_neg hk)
  refine ⟨fun hn => ?_, fun hn => ?_, fun hn => ?_⟩
  · rw [hx 1 (by decide), dispatchOther, if_neg (by rw [hh]; decide), hn] <;> rfl
  · rw [hx 2 (by decide), dispatchOther, if_neg (by rw [hh]; decide), hn] <;> rfl
  · rw [hx 3 (by decide), dispatchOther, if_neg (by rw [hh]; decide), hn] <;> rfl

theorem dispatchService_on {d : Nat} (hd : d < 16) (hfree : unitBusy s 1 d = false) (hbusy : ∀ e, e < d → unitBusy s 1 e = true) :
    dispatchService s n = runNode (setCtx (mapClient n.client s (d * 65 + 64)) (d * 65 + 64) 1
      { launchCtx s.ck (ndWork n.record) 0 0 0 0 (kernelImage s (ndWork n.record)) n.lists with st := .ready }) n d := by
  simp only [dispatchService, lowestIdle hd hfree hbusy]
  rfl

theorem dispatchImage_on {d : Nat} (hd : d < 8) (hfree : unitBusy s 2 d = false) (hbusy : ∀ e, e < d → unitBusy s 2 e = true) :
    dispatchImage s n = runNode { s with imgq := alSet s.imgq d (alGet [] s.imgq d ++
      n.lists.map fun l => ⟨64, 0, 0, some n.index, l, []⟩) } n d := by
  simp only [dispatchImage, lowestIdle hd hfree hbusy]
  rfl

theorem dispatchNear_parks {j : Nat} (h : nodeParks s n = some j) : dispatchNear s n = tellPage s 0 j := by
  simp only [dispatchNear, h]

theorem dispatchNear_busy (h : nodeParks s n = none) (hb : unitBusy s 3 (nodeStack s n) = true) : dispatchNear s n = s := by
  simp only [dispatchNear, h, hb, if_true]

/-- The commands that a near-memory node hands to its stack's engine (R365). -/
def nearCmds (n : Node) : List NmCmd := n.lists.map fun d =>
  ⟨primary, 0, 0, some n.index, leAt d 37 1, d, none, 0, vaultKey (bits (nmStat d) 32 0), false, [], [], [], 0, 0, none⟩

theorem dispatchNear_on (h : nodeParks s n = none) (hb : unitBusy s 3 (nodeStack s n) = false) : dispatchNear s n =
    runNode { s with nmq := alSet s.nmq (nodeStack s n) (alGet [] s.nmq (nodeStack s n) ++ nearCmds n) } n (nodeStack s n) := by
  simp only [dispatchNear, h, hb]
  rfl

end Dispatch

/-! ## Completion (R369, R370) -/

theorem wordWaits_none {r : List Byte} (s : State) (h : ndDonew r = 0) : wordWaits s r = none := if_pos h

theorem wordWaits_own {s : State} {r : List Byte} {k o p : Nat} {crc : Bool}
    (h : placeOf s primary 0 (ndDonew r) 16 = .at_ k false o p crc) : wordWaits s r = none := by
  simp only [wordWaits, h]
  exact ite_self _

theorem writeWord_own {s : State} {r : List Byte} {k o p : Nat} {crc : Bool} (h0 : ndDonew r ≠ 0)
    (h : placeOf s primary 0 (ndDonew r) 16 = .at_ k false o p crc) (status cause : Nat) :
    writeWord s r status cause = storeBytes s k (wordBytes s r status cause) := by
  have ho : wordOwned s r = s := by simp only [wordOwned, h]
  rw [writeWord_some h0, ho, h]

/-- The nodes that complete with status 1 wait for no word: their completion words can be written. -/
theorem wordsWait_none {s : State} {is : List Nat} (h : ∀ n ∈ s.nodes, n.index ∈ is → wordWaits s n.record = none) :
    wordsWait s 1 is = none := by
  rw [wordsWait, if_pos rfl, List.findSome?_eq_none_iff]
  intro n hn
  obtain ⟨hmem, hi⟩ := List.mem_filter.mp hn
  exact h n hmem (by simpa using hi)

theorem completeNodes_one {s : State} {i status cause : Nat} {f : State → State} (h : wordsWait s status [i] = none)
    (hs : status = 1) : completeNodes s [i] status cause f = closeGraphs (completeOne (f s) i 1 cause) := by
  subst hs
  rw [completeNodes, h]
  simp only [List.map_cons, List.map_nil, completeAll, if_true, List.append_nil]
  cases (f s).nodes.length * ((f s).nodes.length + 1) <;> rfl

/-- Memory is the same, and every node was one before. -/
structure FewerNodes (s t : State) : Prop where
  mem : t.mem = s.mem
  nodes : ∀ n ∈ t.nodes, n ∈ s.nodes

theorem FewerNodes.refl (s : State) : FewerNodes s s := ⟨rfl, fun _ h => h⟩

theorem FewerNodes.trans {s t u : State} (h : FewerNodes s t) (g : FewerNodes t u) : FewerNodes s u :=
  ⟨g.mem.trans h.mem, fun n hn => h.nodes n (g.nodes n hn)⟩

theorem FewerNodes.foldl {α : Type} {f : State → α → State} (h : ∀ s a, FewerNodes s (f s a)) :
    ∀ (l : List α) (s : State), FewerNodes s (l.foldl f s)
  | [], s => .refl s
  | a :: l, s => (h s a).trans (FewerNodes.foldl h l (f s a))

theorem fewerNodes_completeGraph (s : State) (g : Graph) : FewerNodes s (completeGraph s g) := by
  unfold completeGraph
  split
  · exact ⟨rfl, fun n hn => (List.mem_filter.mp hn).1⟩
  · exact .refl s

theorem fewerNodes_replyGraph (s : State) (g : Graph) : FewerNodes s (replyGraph s g) := by
  unfold replyGraph
  split
  · exact ⟨rfl, fun _ h => h⟩
  · exact .refl s

theorem fewerNodes_closeGraphs (s : State) : FewerNodes s (closeGraphs s) := by
  have h0 : FewerNodes s { s with nodes := s.nodes.filter fun n => !(n.gid == 0 && n.st == NodeSt.done) } :=
    ⟨rfl, fun n hn => (List.mem_filter.mp hn).1⟩
  exact (h0.trans (FewerNodes.foldl fewerNodes_completeGraph _ _)).trans (FewerNodes.foldl fewerNodes_replyGraph _ _)

/-- What the completion of node `i` with STATUS 1 makes of a node (R369). -/
def Node.completedBy (ck i cause : Nat) (m : Node) : Node :=
  if m.index = i then { m with st := .done, status := 1, cause := cause }
  else if m.deps.contains i then
    { m with
      deps := m.deps.filter fun d => d != i
      st := if (m.deps.filter fun d => d != i).isEmpty ∧ m.st = .waiting then .ready else m.st
      since := if (m.deps.filter fun d => d != i).isEmpty ∧ m.st = .waiting then ck else m.since }
  else m

theorem completeOne_nodes {s : State} {i : Nat} {n : Node} (h : (s.nodes.find? fun n => n.index == i && n.st != .done) = some n)
    (cause : Nat) : (completeOne s i 1 cause).mem = (writeWord s n.record 1 cause).mem ∧
      (completeOne s i 1 cause).nodes = s.nodes.map (Node.completedBy (writeWord s n.record 1 cause).ck i cause) := by
  have hn := (sameNodes_writeWord n.record 1 cause s).nodes
  simp only [completeOne, h, true_and]
  rw [← hn]
  rfl

theorem completedBy_index (ck i cause : Nat) (m : Node) : (m.completedBy ck i cause).index = m.index := by
  unfold Node.completedBy
  split
  · rfl
  · split
    · rfl
    · rfl

/-- A node that completes is done with STATUS 1, and no other node depends on it. -/
theorem completedBy_done (ck i cause : Nat) (m : Node) :
    ((m.completedBy ck i cause).index = i → (m.completedBy ck i cause).st = .done ∧ (m.completedBy ck i cause).status = 1) ∧
      ((m.completedBy ck i cause).index ≠ i → i ∉ (m.completedBy ck i cause).deps) := by
  rw [completedBy_index]
  by_cases hi : m.index = i
  · refine ⟨fun _ => ?_, fun h => absurd hi h⟩
    rw [Node.completedBy, if_pos hi]
    exact ⟨rfl, rfl⟩
  · refine ⟨fun h => absurd h hi, fun _ => ?_⟩
    rw [Node.completedBy, if_neg hi]
    by_cases hd : m.deps.contains i = true
    · rw [if_pos hd]
      simp
    · rw [if_neg hd]
      simpa using hd

theorem find_running {s : State} {n : Node} {i : Nat} (hn : n ∈ s.nodes) (hi : n.index = i)
    (huniq : ∀ m ∈ s.nodes, m.index = i → m = n) {p : Node → Bool} (hp : p n = true) :
    (s.nodes.find? fun m => m.index == i && p m) = some n := by
  cases hf : s.nodes.find? fun m => m.index == i && p m with
  | none => exact absurd (List.find?_eq_none.mp hf n hn) (by simp [hi, hp])
  | some m =>
    have hm := List.find?_some hf
    simp only [Bool.and_eq_true, beq_iff_eq] at hm
    rw [huniq m (List.mem_of_find?_eq_some hf) hm.1]

section Complete
variable {s : State} {n : Node} {i : Nat}

theorem exec_nodeComplete (hn : n ∈ s.nodes) (hi : n.index = i) (hr : n.st = .running)
    (huniq : ∀ m ∈ s.nodes, m.index = i → m = n) (hk : 2 ≤ ndKind n.record) (he : engineDone s n = true) (hc : n.cause = 0) :
    exec (.nodeComplete i) s = .next (completeNodes s [i] 1 0 id) := by
  have hf := find_running hn hi huniq (p := fun m => m.st == .running) (by simp [hr])
  have hx : exec (.nodeComplete i) s = .next (completeNode s i) := rfl
  rw [hx, completeNode, hf]
  dsimp only
  split
  · omega
  · omega
  · rw [if_pos he, if_pos hc]

theorem completed_nodes (hn : n ∈ s.nodes) (hi : n.index = i) (hr : n.st = .running)
    (huniq : ∀ m ∈ s.nodes, m.index = i → m = n) (hw : wordWaits s n.record = none) :
    (completeNodes s [i] 1 0 id).mem = (writeWord s n.record 1 0).mem ∧
      (∀ m ∈ (completeNodes s [i] 1 0 id).nodes, m.index = i → m.st = .done ∧ m.status = 1) ∧
      ∀ m ∈ (completeNodes s [i] 1 0 id).nodes, m.index ≠ i → i ∉ m.deps := by
  have hww : wordsWait s 1 [i] = none := wordsWait_none fun m hm hmi => by
    rw [huniq m hm (List.mem_singleton.mp hmi)]
    exact hw
  have hf := find_running hn hi huniq (p := fun m => m.st != .done) (by simp [hr])
  obtain ⟨hmem, hnodes⟩ := completeOne_nodes hf 0
  have hclose := fewerNodes_closeGraphs (completeOne s i 1 0)
  rw [completeNodes_one hww rfl, id]
  have hfrom : ∀ m ∈ (closeGraphs (completeOne s i 1 0)).nodes, ∃ o, Node.completedBy (writeWord s n.record 1 0).ck i 0 o = m :=
    fun m hm => by
      have hm' := hclose.nodes m hm
      rw [hnodes] at hm'
      obtain ⟨o, _, ho⟩ := List.mem_map.mp hm'
      exact ⟨o, ho⟩
  refine ⟨hclose.mem.trans hmem, fun m hm => ?_, fun m hm => ?_⟩
  · obtain ⟨o, rfl⟩ := hfrom m hm
    exact (completedBy_done ..).1
  · obtain ⟨o, rfl⟩ := hfrom m hm
    exact (completedBy_done ..).2

end Complete

theorem readBytes_storeBytes_all {s : State} (hm : Memory.wf s.mem = true) (key : Nat) (bs : List Byte) :
    readBytes (storeBytes s key bs).mem key bs.length = bs := readBytes_writeBytes hm key bs

/-! ## The claim -/

theorem nodeEvents : Claims.NodeEvents := by
  intro i kind picks s
  refine ⟨fun q rest w e hq hl he => ?_, fun q rest hq hl => ?_, fun hq => ?_, fun n hn hi => ?_, fun hh hk => ?_,
    fun hh n hn d hd hfree hbusy => ?_, fun hh n hn hmem d hd hfree hbusy => ?_, fun hh n hn => ?_,
    fun n hn hi hr huniq hk he hc hwf => ?_⟩
  · obtain ⟨ht, h0, h1⟩ := putEntry_words s primary e w
    exact ⟨_, acceptNext_lacks hq hl he, ht, h0, h1⟩
  · intro r
    refine ⟨fun ops lists hc hseal => ?_, fun code hc hw => ?_⟩
    · have hx : exec .nodeAccept s = _ := acceptNext_accept hq hl hc
      rw [sealGraph_open hseal] at hx
      obtain ⟨hnodes, hfifo, hm⟩ := addNode_frame { s with fifo := rest } r (ndGid r) (ndNode r)
        (((graphOf s (ndGid r)).map (·.client)).getD q.client) ops lists
      exact ⟨_, _, hx, hfifo, hm, hnodes, rfl, rfl, rfl, rfl, rfl, freeNodeWord_ne s, mem_depsOf s (ndGid r) ops, newNode_st ..⟩
    · have hx : exec .nodeAccept s = _ := acceptNext_refuse hq hl hc hw
      obtain ⟨h1, hm⟩ := countUnits_frame (readLists s r).got { s with fifo := rest }
      have h2 := h1.trans (sameNodes_writeWord r 4 code _)
      exact ⟨_, hx, h2.fifo, h2.nodes, h2.graphs, fun h0 => (congrArg State.mem (writeWord_none h0 _ 4 code)).trans hm⟩
  · have hx : exec .nodeAccept s = acceptNext s := rfl
    rw [hx, acceptNext, hq]
  · refine ⟨ageNode s i, rfl, rfl, fun hst hlv ha hs hcd => mem_ageNode_aged hn ⟨hi, hst, hlv, ha, hs, hcd⟩, fun h => ?_,
      fun o ho hoi => mem_ageNode_kept ho fun h => hoi h.1⟩
    refine mem_ageNode_kept hn fun ⟨_, hst, hlv, ha, hs, hcd⟩ => ?_
    rcases h with h | h | h | h | h
    · exact h hst
    · omega
    · exact ha h
    · omega
    · rw [h] at hcd
      exact Bool.false_ne_true hcd.symm
  · exact exec_dispatch_halted hh hk
  · have hx := (exec_dispatch_other (picks := picks) hh).1 hn
    rw [dispatchService_on hd hfree hbusy, mapClient_tables] at hx
    refine ⟨_, hx, rfl, ?_, ?_, _, mem_runNode (headNode_mem hn) d, rfl, rfl, rfl⟩
    · exact congrArg Ctx.pc (getCtx_setCtx_self ..)
    · exact congrArg Ctx.st (getCtx_setCtx_self ..)
  · have hx := (exec_dispatch_other (picks := picks) hh).2.1 hn
    rw [dispatchImage_on hd hfree hbusy] at hx
    exact ⟨_, hx, rfl, alGet_alSet_self ..⟩
  · have hx := (exec_dispatch_other (picks := picks) hh).2.2 hn
    refine ⟨fun j hj => hx.trans (congrArg _ (dispatchNear_parks hj)), fun hp hb => hx.trans (congrArg _ (dispatchNear_busy hp hb)),
      fun hp hb => ?_⟩
    rw [dispatchNear_on hp hb] at hx
    refine ⟨_, hx, rfl, ⟨nearCmds n, alGet_alSet_self .., ?_, fun q hq => ?_⟩, _, mem_runNode (headNode_mem hn) _, rfl, rfl⟩
    · rw [nearCmds, List.map_map]
      exact List.map_id _
    · obtain ⟨_, _, rfl⟩ := List.mem_map.mp hq
      rfl
  · intro word completed
    have hx := exec_nodeComplete hn hi hr huniq hk he hc
    refine ⟨fun h0 => ?_, fun k o p crc h0 hplace => ?_⟩
    · obtain ⟨hm, hdone⟩ := completed_nodes hn hi hr huniq (wordWaits_none s h0)
      exact ⟨_, hx, hm.trans (congrArg State.mem (writeWord_none h0 s 1 0)), hdone⟩
    · obtain ⟨hm, hdone⟩ := completed_nodes hn hi hr huniq (wordWaits_own hplace)
      rw [writeWord_own h0 hplace] at hm
      refine ⟨_, hx, hdone, ?_⟩
      rw [hm]
      exact readBytes_storeBytes_all hwf k word

end Sys2Proof.Machine
end

section
/-! PROOFS of O58, second half: groups placed, ready, ended and migrated (R371, R379, R381, R388, R390 to R392). -/
namespace Sys2Proof.Machine

/-! ## The group that a placement makes (R379, R381) -/

theorem refreshKernel_board (s : State) (kid : Nat) : (refreshKernel s kid).groups = s.groups ∧
    (refreshKernel s kid).nodes = s.nodes ∧ (refreshKernel s kid).cores = s.cores := by
  unfold refreshKernel
  split
  · exact ⟨rfl, rfl, rfl⟩
  · exact ⟨rfl, rfl, rfl⟩

theorem tabGet_tabSet_ne (s : State) {a b o p i j v : Nat} (h : a ≠ b) : tabGet (tabSet s b p j v) a o i = tabGet s a o i :=
  alGet_alSet_ne 0 s.tables v fun he => h (congrArg Prod.fst he)

theorem refreshKernel_grants (s : State) (kid d e : Nat) : tabGet (refreshKernel s kid) 2 d e = tabGet s 2 d e := by
  unfold refreshKernel
  split
  · rfl
  · exact tabGet_tabSet_ne _ (by decide)

theorem find_filter_append {gs : List Group} {g : Group} {gid : Nat} (hg : g.gid = gid) :
    (gs.filter (fun h => h.gid != gid) ++ [g]).find? (fun h => h.gid == gid) = some g := by
  have h : (gs.filter fun h => h.gid != gid).find? (fun h => h.gid == gid) = none :=
    List.find?_eq_none.mpr fun h hm => by simpa using (List.mem_filter.mp hm).2
  rw [List.find?_append, h]
  simp [hg]

/-- A group that is placed stands in the list of groups, to be started (R381). -/
theorem placeOn_group {s t : State} {n : Node} {gid kid : Nat} {b : List Byte} {cores picks ev : List Nat}
    (h : placeOn s n gid kid b cores picks ev = some t) : ∃ g, groupOf t gid = some g ∧ g.st = .placing ∧ g.node = n.index ∧
      g.ctxs = ndCtxs n.record ∧ g.kernel = kid ∧ g.places.length = ndCtxs n.record := by
  simp only [placeOn] at h
  split at h
  · exact absurd h (by simp)
  · obtain ⟨s3, _, rfl⟩ := Option.map_eq_some_iff.mp h
    refine ⟨_, (congrArg (List.find? _) (refreshKernel_board ..).1).trans (find_filter_append rfl), rfl, rfl, rfl, rfl, ?_⟩
    rw [placesOn, List.length_map, List.length_range]

theorem exec_dispatch_new {s : State} {gid : Nat} {h : Node} {picks cores : List Nat} {t : State} (hg : groupOf s gid = none)
    (h1 : 1 ≤ gid) (h2 : gid ≤ 65535) (hh : halted s = false) (hm : s.mode = .operating) (hn : headNode s 0 = some h)
    (h0 : h.group = 0) (hc : newCores s (evictable s) h none = some cores)
    (ht : placeOn s h gid (ndWork h.record) (kernelImage s (ndWork h.record)) cores picks (evictable s) = some t) :
    exec (.dispatch 0 (gid :: picks)) s = .next t := by
  have hx : exec (.dispatch 0 (gid :: picks)) s = .next (dispatchGroup s (gid :: picks)) := rfl
  have hd : newGroup s h gid picks = t := by
    simp only [newGroup]
    rw [if_neg (by omega), if_neg (by simp [hm]), hc]
    simp only [ht, Option.getD_some]
  rw [hx, dispatchGroup, hg, hn]
  simp only [hh, h0, and_self, if_true, hd]

theorem exec_dispatch_new_halted {s : State} {gid : Nat} (picks : List Nat) (hh : halted s = true)
    (hg : groupOf s gid = none) : exec (.dispatch 0 (gid :: picks)) s = .next s := by
  have hx : exec (.dispatch 0 (gid :: picks)) s = .next (dispatchGroup s (gid :: picks)) := rfl
  rw [hx, dispatchGroup, hg]
  cases hn : headNode s 0 with
  | none => rfl
  | some h => simp only [hh, Bool.true_eq_false, false_and, if_false]

theorem exec_dispatch_none_halted {s : State} (hh : halted s = true) (hm : s.mode = .operating) :
    exec (.dispatch 0 []) s = .next s := by
  have hx : exec (.dispatch 0 []) s = .next (dispatchGroup s []) := rfl
  rw [hx, dispatchGroup, if_neg (by simp [hm]), if_pos hh]

/-! ## The contexts of a placed group become Ready (R341, R381) -/

/-- A context of the group `gid` becomes Ready. -/
def Ctx.readied (gid ck : Nat) (t : Ctx) : Ctx := if t.group = gid then { t with st := .ready, since := ck } else t

theorem readied_twice (gid ck : Nat) (t : Ctx) : (t.readied gid ck).readied gid ck = t.readied gid ck := by
  unfold Ctx.readied
  by_cases h : t.group = gid
  · rw [if_pos h, if_pos (by exact h)]
  · rw [if_neg h, if_neg h]

/-- The contexts at a list of places become Ready. -/
def readyPlaces (gid : Nat) (ps : List Place) (s : State) : State :=
  ps.foldl (fun s p => modCtx s p.core p.ctx (Ctx.readied gid s.ck)) s

theorem getCtx_readyPlaces (gid c x : Nat) : ∀ (ps : List Place) (s : State),
    getCtx (readyPlaces gid ps s) c x = if ps.any (standsAt c x) then (getCtx s c x).readied gid s.ck else getCtx s c x
  | [], s => rfl
  | p :: ps, s => by
    rw [readyPlaces, List.foldl_cons]
    have ih := getCtx_readyPlaces gid c x ps (modCtx s p.core p.ctx (Ctx.readied gid s.ck))
    rw [readyPlaces] at ih
    rw [ih, (quiet_modCtx ..).ck]
    by_cases hp : p.core = c ∧ p.ctx % 4 = x % 4
    · have hm : getCtx (modCtx s p.core p.ctx (Ctx.readied gid s.ck)) c x = (getCtx s c x).readied gid s.ck := by
        rw [hp.1, modCtx_mod s c _ hp.2, getCtx_modCtx_self]
      rw [hm, readied_twice]
      simp [standsAt, hp]
    · have hne : c ≠ p.core ∨ x % 4 ≠ p.ctx % 4 := by
        by_cases hcp : c = p.core
        · exact .inr fun hx => hp ⟨hcp.symm, hx.symm⟩
        · exact .inl hcp
      rw [getCtx_modCtx_ne s _ hne]
      simp [standsAt, hp]

theorem quiet_readyPlaces (gid : Nat) (ps : List Place) (s : State) : Quiet s (readyPlaces gid ps s) :=
  Quiet.foldl (fun s (p : Place) => quiet_modCtx s p.core p.ctx _) ps s

theorem groupReady_placing {s : State} {gid : Nat} {g : Group} (hg : groupOf s gid = some g) (hst : g.st = .placing) :
    groupReady s gid = modGroup (readyPlaces gid g.places s) gid fun g => { g with st := .running } := by
  simp only [groupReady, hg, hst]
  rfl

/-! ## A group ends (R390) -/

/-- Contexts that have been reset stay so, no grant is written, and the nodes are the same. -/
structure Released (s t : State) : Prop where
  ctx : ∀ c x, getCtx s c x = Ctx.reset → getCtx t c x = Ctx.reset
  grants : ∀ d e, tabGet t 2 d e = tabGet s 2 d e
  nodes : t.nodes = s.nodes

theorem Released.refl (s : State) : Released s s := ⟨fun _ _ h => h, fun _ _ => rfl, rfl⟩

theorem Released.trans {s t u : State} (h : Released s t) (k : Released t u) : Released s u :=
  ⟨fun c x hr => k.ctx c x (h.ctx c x hr), fun d e => (k.grants d e).trans (h.grants d e), k.nodes.trans h.nodes⟩

theorem Released.foldl {α : Type} {f : State → α → State} (h : ∀ s a, Released s (f s a)) :
    ∀ (l : List α) (s : State), Released s (l.foldl f s)
  | [], s => .refl s
  | a :: l, s => (h s a).trans (Released.foldl h l (f s a))

theorem Released.ite {s t u : State} {p : Prop} [Decidable p] (h : Released s t) (k : Released s u) :
    Released s (if p then t else u) := by
  split
  · exact h
  · exact k

theorem released_of_cores {s t : State} (hc : t.cores = s.cores) (ht : t.tables = s.tables) (hn : t.nodes = s.nodes) :
    Released s t :=
  ⟨fun c x h => (getCtx_of_cores hc c x).trans h, fun d e => by rw [tabGet, ht, tabGet], hn⟩

theorem clearBooks_get (k : Core) (x y : Nat) : (clearBooks k x).get y = k.get y := by
  have h : (clearBooks k x).ctx = k.ctx := by
    unfold clearBooks
    extract_lets k1 k2
    have h2 : k2.ctx = k1.ctx := by
      simp only [k2]
      split <;> rfl
    have h1 : k1.ctx = k.ctx := by
      simp only [k1]
      split <;> rfl
    split
    · exact h2.trans h1
    · exact h2.trans h1
  rw [Core.get, h, Core.get]

theorem getCtx_freeCtx_self (s : State) (c x : Nat) : getCtx (freeCtx s c x) c x = Ctx.reset := by
  rw [getCtx, freeCtx, getCore_modCore_self]
  exact (clearBooks_get ..).trans (Core.get_put_self ..)

theorem released_freeCtx (s : State) (c x : Nat) : Released s (freeCtx s c x) := by
  refine ⟨fun d y h => ?_, fun _ _ => rfl, rfl⟩
  by_cases hd : d = c
  · subst hd
    rw [getCtx, freeCtx, getCore_modCore_self]
    refine (clearBooks_get ..).trans ?_
    by_cases hy : y % 4 = x % 4
    · simp only [Core.get, (ofNat4_eq y x).mpr hy]
      exact Core.get_put_self ..
    · exact (Core.get_put_ne _ _ hy).trans h
  · rw [getCtx, freeCtx, getCore_modCore_ne _ _ hd]
    exact h

/-- Each place of a group that is freed holds a reset context. -/
theorem getCtx_freePlaces {p : Place} (ps : List Place) (s : State) (hp : p ∈ ps) :
    getCtx (ps.foldl (fun s p => freeCtx s p.core p.ctx) s) p.core p.ctx = Ctx.reset := by
  induction ps generalizing s with
  | nil => exact absurd hp (by simp)
  | cons q ps ih =>
    rw [List.foldl_cons]
    by_cases hq : p = q
    · have h := Released.foldl (fun s (q : Place) => released_freeCtx s q.core q.ctx) ps (freeCtx s q.core q.ctx)
      rw [hq]
      exact h.ctx q.core q.ctx (getCtx_freeCtx_self s q.core q.ctx)
    · exact ih _ ((List.mem_cons.mp hp).resolve_left hq)

/-! The end of a barrier's waits does not touch a context that is reset. -/

theorem alGet_map_core {f : Nat → Core → Core} {d : Core} {c x : Nat} (hd : d.get x = Ctx.reset)
    (hf : ∀ k, k.get x = Ctx.reset → (f c k).get x = Ctx.reset) :
    ∀ l : List (Nat × Core), (alGet d l c).get x = Ctx.reset → (alGet d (l.map fun p => (p.1, f p.1 p.2)) c).get x = Ctx.reset
  | [], _ => hd
  | p :: l, h => by
    by_cases hp : p.1 = c
    · simp only [alGet, if_pos hp] at h
      simp only [List.map_cons, alGet, if_pos hp]
      rw [hp]
      exact hf _ h
    · simp only [alGet, if_neg hp] at h
      simp only [List.map_cons, alGet, if_neg hp]
      exact alGet_map_core hd hf l h

theorem released_modWaits (s : State) (ch b : Nat) (f : Ctx → Ctx) : Released s (modWaits s ch b f) := by
  refine ⟨fun c x h => ?_, fun _ _ => rfl, rfl⟩
  refine alGet_map_core (f := fun c k => { k with ctx := k.ctx.map fun t => if waitsOn c t ch b then f t else t }) ?_ ?_ s.cores h
  · simp [Core.get, Core.reset]
  · intro k hk
    have hm : (k.ctx.map fun t => if waitsOn c t ch b then f t else t)[Fin.ofNat 4 x] =
        if waitsOn c k.ctx[Fin.ofNat 4 x] ch b then f k.ctx[Fin.ofNat 4 x] else k.ctx[Fin.ofNat 4 x] := by simp
    have hk' : k.ctx[Fin.ofNat 4 x] = Ctx.reset := hk
    have hw : waitsOn c Ctx.reset ch b = false := by simp [waitsOn, Ctx.reset]
    exact hm.trans (by rw [hk', hw]; rfl)

theorem released_setSlot (s : State) (ch b : Nat) (v : Slot) : Released s (setSlot s ch b v) :=
  released_of_cores rfl rfl rfl

theorem released_writeCfg (s : State) (ch b w : Nat) : Released s (writeCfg s ch b w) := by
  rw [writeCfg]
  exact (released_setSlot ..).trans (released_modWaits ..)

theorem released_clearGrants (s : State) (gid : Nat) : Released s (clearGrants s gid) := by
  unfold clearGrants
  refine Released.foldl (fun s p => ?_) s.slots s
  exact .ite (.ite (released_writeCfg ..) (released_setSlot ..)) (.refl s)

/-! ### The grants of the group are gone -/

theorem alGet_filter_none {α β : Type} [DecidableEq α] {d : β} {k : α} {q : α × β → Bool} (hq : ∀ v, q (k, v) = false) :
    ∀ l : List (α × β), alGet d (l.filter q) k = d
  | [] => rfl
  | (j, v) :: l => by
    by_cases hp : q (j, v) = true
    · have hj : j ≠ k := by
        rintro rfl
        rw [hq] at hp
        exact Bool.false_ne_true hp
      rw [List.filter_cons_of_pos hp, alGet, if_neg hj]
      exact alGet_filter_none hq l
    · rw [List.filter_cons_of_neg hp]
      exact alGet_filter_none hq l

theorem alGet_filter_all {α β : Type} [DecidableEq α] {d : β} {k : α} {q : α × β → Bool} (hq : ∀ v, q (k, v) = true) :
    ∀ l : List (α × β), alGet d (l.filter q) k = alGet d l k
  | [] => rfl
  | (j, v) :: l => by
    by_cases hj : j = k
    · subst hj
      rw [List.filter_cons_of_pos (hq v), alGet, alGet, if_pos rfl, if_pos rfl]
    · by_cases hp : q (j, v) = true
      · rw [List.filter_cons_of_pos hp, alGet, alGet, if_neg hj, if_neg hj]
        exact alGet_filter_all hq l
      · rw [List.filter_cons_of_neg hp, alGet, if_neg hj]
        exact alGet_filter_all hq l

/-- No grant of table 2 is in force for a group whose grants have been dropped. -/
theorem dropGrants_gone (s : State) (gid die e : Nat) (he : e % 2 = 0) :
    ¬(bitAt (tabGet (dropGrants s gid) 2 die e) 0 = true ∧ bits (tabGet (dropGrants s gid) 2 die e) 63 48 = gid) := by
  rintro ⟨hon, hgid⟩
  have hi : e / 2 * 2 = e := by omega
  by_cases hm : (bitAt (tabGet s 2 die e) 0 && bits (tabGet s 2 die e) 63 48 == gid) = true
  · have h0 : tabGet (dropGrants s gid) 2 die e = 0 :=
      alGet_filter_none (fun v => by simp only [hi, hm]; rfl) s.tables
    rw [h0] at hon
    exact absurd hon (by decide)
  · have h1 : tabGet (dropGrants s gid) 2 die e = tabGet s 2 die e :=
      alGet_filter_all (fun v => by simp only [hi, Bool.not_eq_true] at hm ⊢; rw [hm]; rfl) s.tables
    rw [h1] at hon hgid
    exact hm (by simp [hon, hgid])

/-! ### What a group held is free (R390) -/

/-- The state in which a group has left its cores. -/
def vacated (g : Group) (s : State) : State :=
  if inPlace s g then g.places.foldl (fun s p => freeCtx s p.core p.ctx) s else s

theorem released_vacated (g : Group) (s : State) : Released s (vacated g s) := by
  unfold vacated
  split
  · exact Released.foldl (fun s (q : Place) => released_freeCtx s q.core q.ctx) g.places s
  · exact .refl s

/-- The state in which a group's save areas are free and it is in no list, its kernel's word not yet up to date. -/
def forgotten (g : Group) (s : State) : State :=
  { g.saves.foldl freeRange s with groups := (g.saves.foldl freeRange s).groups.filter fun h => h.gid != g.gid }

theorem released_forgotten (g : Group) (s : State) : Released s (forgotten g s) :=
  (Released.foldl (f := freeRange) (fun _ _ => released_of_cores rfl rfl rfl) g.saves s).trans (released_of_cores rfl rfl rfl)

theorem released_refreshKernel (s : State) (kid : Nat) : Released s (refreshKernel s kid) :=
  ⟨fun c x h => (getCtx_of_cores (refreshKernel_board s kid).2.2 c x).trans h, refreshKernel_grants s kid,
    (refreshKernel_board s kid).2.1⟩

theorem releaseGroup_eq (g : Group) (s : State) : releaseGroup g s =
    refreshKernel (forgotten g (clearGrants (dropGrants (vacated g s) g.gid) g.gid)) g.kernel := rfl

theorem released_afterDrop (g : Group) (s : State) : Released (dropGrants (vacated g s) g.gid) (releaseGroup g s) := by
  rw [releaseGroup_eq]
  exact ((released_clearGrants ..).trans (released_forgotten ..)).trans (released_refreshKernel ..)

theorem releaseGroup_nodes (g : Group) (s : State) : (releaseGroup g s).nodes = s.nodes :=
  (released_afterDrop g s).nodes.trans (released_vacated g s).nodes

theorem releaseGroup_free {g : Group} {s : State} (h : inPlace s g = true) {p : Place} (hp : p ∈ g.places) :
    getCtx (releaseGroup g s) p.core p.ctx = Ctx.reset := by
  refine (released_afterDrop g s).ctx _ _ ?_
  have hv : getCtx (vacated g s) p.core p.ctx = Ctx.reset := by
    rw [vacated, if_pos h]
    exact getCtx_freePlaces g.places s hp
  exact hv

theorem releaseGroup_groups (g : Group) (s : State) : groupOf (releaseGroup g s) g.gid = none := by
  rw [releaseGroup_eq, groupOf, (refreshKernel_board ..).1]
  exact List.find?_eq_none.mpr fun h hm => by simpa using (List.mem_filter.mp hm).2

/-! ### The node of the group completes -/

/-- The groups, cores and tables are the same. -/
def SameBoard (s t : State) : Prop := t.groups = s.groups ∧ t.cores = s.cores ∧ t.tables = s.tables

theorem SameBoard.refl (s : State) : SameBoard s s := ⟨rfl, rfl, rfl⟩

theorem SameBoard.trans {s t u : State} (h : SameBoard s t) (k : SameBoard t u) : SameBoard s u :=
  ⟨k.1.trans h.1, k.2.1.trans h.2.1, k.2.2.trans h.2.2⟩

theorem SameBoard.foldl {α : Type} {f : State → α → State} (h : ∀ s a, SameBoard s (f s a)) :
    ∀ (l : List α) (s : State), SameBoard s (l.foldl f s)
  | [], s => .refl s
  | a :: l, s => (h s a).trans (SameBoard.foldl h l (f s a))

theorem sameBoard_closeGraphs (s : State) : SameBoard s (closeGraphs s) := by
  have hg : ∀ (s : State) (g : Graph), SameBoard s (completeGraph s g) := fun s g => by
    unfold completeGraph
    split
    · exact ⟨rfl, rfl, rfl⟩
    · exact .refl s
  have hr : ∀ (s : State) (g : Graph), SameBoard s (replyGraph s g) := fun s g => by
    unfold replyGraph
    split
    · exact ⟨rfl, rfl, rfl⟩
    · exact .refl s
  have h0 : SameBoard s { s with nodes := s.nodes.filter fun n => !(n.gid == 0 && n.st == NodeSt.done) } := ⟨rfl, rfl, rfl⟩
  exact (h0.trans (SameBoard.foldl hg _ _)).trans (SameBoard.foldl hr _ _)

theorem sameBoard_leaveRecovery (s : State) : SameBoard s (leaveRecovery s) ∧ (leaveRecovery s).nodes = s.nodes := by
  unfold leaveRecovery
  split
  · exact ⟨⟨rfl, rfl, rfl⟩, rfl⟩
  · exact ⟨.refl s, rfl⟩

/-- A node without a completion word completes: its record is done, and groups, cores and tables are the same. -/
theorem completeOne_wordless {s : State} {i : Nat} (hw : ∀ n ∈ s.nodes, n.index = i → ndDonew n.record = 0) (cause : Nat) :
    SameBoard s (completeOne s i 1 cause) ∧ ∀ n ∈ (completeOne s i 1 cause).nodes, n.index = i → n.st = .done := by
  cases hf : s.nodes.find? fun n => n.index == i && n.st != .done with
  | none =>
    have hx : completeOne s i 1 cause = s := by simp only [completeOne, hf]
    rw [hx]
    refine ⟨.refl s, fun n hn hi => ?_⟩
    simpa [hi] using List.find?_eq_none.mp hf n hn
  | some n =>
    have hi : n.index = i := by
      have h := List.find?_some hf
      simp only [Bool.and_eq_true, beq_iff_eq] at h
      exact h.1
    have h0 := hw n (List.mem_of_find?_eq_some hf) hi
    constructor
    · simp only [completeOne, hf, writeWord_none h0]
      exact ⟨rfl, rfl, rfl⟩
    · intro m hm
      rw [(completeOne_nodes hf cause).2] at hm
      obtain ⟨o, _, rfl⟩ := List.mem_map.mp hm
      exact fun hi => ((completedBy_done ..).1 hi).1

/-- The end of a retired group, as one state. -/
def endedState (g : Group) (s : State) : State := leaveRecovery (closeGraphs (completeOne (releaseGroup g s) g.node 1 0))

section End
variable {s : State} {g : Group} {gid : Nat}

theorem exec_groupEnd_retired (hg : groupOf s gid = some g) (hr : ∀ r, r < g.ctxs → r ∈ g.retired) (hst : g.st ≠ .assigned)
    (hw : ∀ n ∈ s.nodes, n.index = g.node → ndDonew n.record = 0) (hq : quiet s g = true) :
    exec (.groupEnd gid) s = .next (endedState g s) := by
  have hx : exec (.groupEnd gid) s = .next (endIf s gid) := rfl
  have hall : allRetired g = true := by
    rw [allRetired, List.all_eq_true]
    exact fun r hr' => List.contains_iff_mem.mpr (hr r (List.mem_range.mp hr'))
  have hww : wordsWait s 1 [g.node] = none := wordsWait_none fun n hn hi =>
    wordWaits_none s (hw n hn (List.mem_singleton.mp hi))
  rw [hx, endIf, hg]
  simp only [hall, hq, bne_iff_ne, ne_eq, hst, not_false_eq_true, Bool.and_eq_true, and_self, if_true]
  rw [endGroup, completeNodes_one hww rfl]
  rfl

theorem endedState_spec (hw : ∀ n ∈ s.nodes, n.index = g.node → ndDonew n.record = 0) :
    SameBoard (releaseGroup g s) (endedState g s) ∧ ∀ n ∈ (endedState g s).nodes, n.index = g.node → n.st = .done := by
  obtain ⟨hb, hd⟩ := completeOne_wordless (s := releaseGroup g s) (i := g.node) (by rwa [releaseGroup_nodes]) 0
  obtain ⟨hl, hn⟩ := sameBoard_leaveRecovery (closeGraphs (completeOne (releaseGroup g s) g.node 1 0))
  refine ⟨(hb.trans (sameBoard_closeGraphs _)).trans hl, fun n hm => hd n ?_⟩
  rw [endedState, hn] at hm
  exact (fewerNodes_closeGraphs _).nodes n hm

theorem allRetired_false (h : ∃ r, r < g.ctxs ∧ r ∉ g.retired) : allRetired g = false := by
  obtain ⟨r, hr, hn⟩ := h
  rw [allRetired, List.all_eq_false]
  exact ⟨r, List.mem_range.mpr hr, by simpa using hn⟩

theorem dropSaved_frame (s : State) (g : Group) : (dropSaved s g).mem = s.mem ∧ (dropSaved s g).groups = s.groups := by
  have h : Quiet s (dropSaved s g) :=
    .ite (Quiet.foldl (fun s (p : Place) => quiet_modCtx s p.core p.ctx _) g.places s) (.refl s)
  exact ⟨h.mem, h.groups⟩

theorem exec_groupEnd_frozen {n : Node} (hg : groupOf s gid = some g) (hst : g.st = .frozen)
    (hr : ∃ r, r < g.ctxs ∧ r ∉ g.retired) (hn : nodeOf s g = some n) (hs : n.st = .suspended) :
    exec (.groupEnd gid) s = .next (modGroup (dropSaved s g) gid fun g => { g with st := .ended }) := by
  have hx : exec (.groupEnd gid) s = .next (endIf s gid) := rfl
  rw [hx, endIf, hg]
  simp only [allRetired_false hr, hn, Option.any_some, hs, hst]
  rfl

theorem exec_groupEnd_waits (hg : groupOf s gid = some g) (hr : ∃ r, r < g.ctxs ∧ r ∉ g.retired)
    (h : g.st = .running ∨ (g.st = .ended ∧ quiet s g = false)) : exec (.groupEnd gid) s = .next s := by
  have hx : exec (.groupEnd gid) s = .next (endIf s gid) := rfl
  rw [hx, endIf, hg]
  rcases h with hst | ⟨hst, hq⟩
  · simp only [allRetired_false hr, hst]
    rfl
  · simp only [allRetired_false hr, hst, hq]
    rfl

end End

/-! ## The claim -/

theorem groupEvents : Claims.GroupEvents := by
  intro gid die picks s
  refine ⟨fun h cores t hg h1 h2 hh hm hn _ h0 hc ht => ⟨exec_dispatch_new hg h1 h2 hh hm hn h0 hc ht, placeOn_group ht⟩,
    fun g hg hst => ?_, fun hh hg => exec_dispatch_new_halted picks hh hg, exec_dispatch_none_halted,
    fun g hg hr hst hw hp hq _ => ?_, fun g n hg hst hr hn hs => ?_,
    fun g hg hr hst hq => exec_groupEnd_waits hg hr (.inr ⟨hst, hq⟩), fun g hg hr hst => exec_groupEnd_waits hg hr (.inl hst),
    fun g hg hst hm hd hc => ?_, fun hm => ?_⟩
  · have hq := quiet_readyPlaces gid g.places s
    rw [groupReady_placing hg hst]
    refine ⟨hq.mem, groupOf_modGroup (f := fun g => { g with st := .running }) (by rw [groupOf, hq.groups]; exact hg) fun _ => rfl,
      fun p hp hpg => ?_⟩
    have hx := getCtx_readyPlaces gid p.core p.ctx g.places s
    rw [if_pos (List.any_eq_true.mpr ⟨p, hp, by simp [standsAt]⟩), Ctx.readied, if_pos hpg] at hx
    exact hx
  · obtain ⟨⟨hgs, hcs, hts⟩, hd⟩ := endedState_spec hw
    have hgid : g.gid = gid := by simpa using List.find?_some hg
    refine ⟨_, exec_groupEnd_retired hg hr hst hw hq, ?_, fun p hpm => ?_, fun d e he => ?_, hd⟩
    · rw [groupOf, hgs, ← hgid]
      exact releaseGroup_groups g s
    · rw [getCtx_of_cores hcs, releaseGroup_free hp hpm]
      rfl
    · have htab : tabGet (endedState g s) 2 d e = tabGet (dropGrants (vacated g s) g.gid) 2 d e := by
        rw [tabGet, hts]
        exact (released_afterDrop g s).grants d e
      rw [htab, ← hgid]
      exact dropGrants_gone _ _ _ _ he
  · obtain ⟨hm, hgs⟩ := dropSaved_frame s g
    exact ⟨_, exec_groupEnd_frozen hg hst hr hn hs, hm,
      groupOf_modGroup (f := fun g => { g with st := .ended }) (by rw [groupOf, hgs]; exact hg) fun _ => rfl⟩
  · have hx : exec (.groupMigration gid die picks) s = .next (migrate s gid die picks) := rfl
    have hmig : migrate s gid die picks = modGroup s gid fun h => { h with die := die } := by
      rw [migrate, hg]
      dsimp only
      rw [if_neg (by simp [mayMigrate, hm]; omega), hst]
    rw [hx, hmig]
    exact ⟨_, rfl, rfl, groupOf_modGroup (f := fun h => { h with die := die }) hg fun _ => rfl⟩
  · have hx : exec (.groupMigration gid die picks) s = .next (migrate s gid die picks) := rfl
    rw [hx, migrate]
    cases hg : groupOf s gid with
    | none => rfl
    | some g =>
      dsimp only
      rw [if_pos (by simp [mayMigrate, hm])]

/-- Settles O58: what enters, ages, starts or completes is the node that the lemma of its event names, and a placed, ended or
migrated group is the one that its event makes of it. -/
theorem eventsOfNodes : Obligations.EventsOfNodes := ⟨nodeEvents, groupEvents⟩

end Sys2Proof.Machine
end

section
/-! PROOFS of O6: a turn runs the group, the microword or the event that stands first (R60, R63, R103). -/
namespace Sys2Proof.Machine

/-! ## The operations of two bundles in ascending slot order (R100) -/

/-- An operation with its slot enters a list in ascending slot order. -/
def slotInsert (acc : List (Nat × Instr)) (p : Nat × Instr) : List (Nat × Instr) :=
  acc.takeWhile (fun q => decide (q.1 < p.1)) ++ p :: acc.dropWhile (fun q => decide (q.1 < p.1))

theorem slotInsert_perm (acc : List (Nat × Instr)) (p : Nat × Instr) : (slotInsert acc p).Perm (p :: acc) := by
  have h := List.perm_middle (a := p) (l₁ := acc.takeWhile fun q => decide (q.1 < p.1))
    (l₂ := acc.dropWhile fun q => decide (q.1 < p.1))
  rwa [List.takeWhile_append_dropWhile] at h

theorem slotInsert_cons_lt {q p : Nat × Instr} (acc : List (Nat × Instr)) (h : q.1 < p.1) :
    slotInsert (q :: acc) p = q :: slotInsert acc p := by
  simp [slotInsert, h]

theorem slotInsert_cons_ge {q p : Nat × Instr} (acc : List (Nat × Instr)) (h : ¬q.1 < p.1) :
    slotInsert (q :: acc) p = p :: q :: acc := by
  simp [slotInsert, h]

theorem slotInsert_sorted (p : Nat × Instr) : ∀ acc : List (Nat × Instr), acc.Pairwise (fun a b => a.1 ≤ b.1) →
    (slotInsert acc p).Pairwise fun a b => a.1 ≤ b.1
  | [], _ => List.pairwise_singleton ..
  | q :: acc, h => by
    have hq : ∀ r ∈ acc, q.1 ≤ r.1 := (List.pairwise_cons.mp h).1
    have ht := (List.pairwise_cons.mp h).2
    by_cases hlt : q.1 < p.1
    · rw [slotInsert_cons_lt acc hlt]
      refine List.pairwise_cons.mpr ⟨fun r hr => ?_, slotInsert_sorted p acc ht⟩
      rcases List.mem_cons.mp ((slotInsert_perm acc p).mem_iff.mp hr) with rfl | hr
      · exact hlt.le
      · exact hq r hr
    · rw [slotInsert_cons_ge acc hlt]
      refine List.pairwise_cons.mpr ⟨fun r hr => ?_, h⟩
      rcases List.mem_cons.mp hr with rfl | hr
      · omega
      · exact (not_lt.mp hlt).trans (hq r hr)

theorem foldl_slotInsert : ∀ (l acc : List (Nat × Instr)), acc.Pairwise (fun a b => a.1 ≤ b.1) →
    (l.foldl slotInsert acc).Perm (l ++ acc) ∧ (l.foldl slotInsert acc).Pairwise fun a b => a.1 ≤ b.1
  | [], acc, h => ⟨.refl acc, h⟩
  | p :: l, acc, h => by
    obtain ⟨hp, hs⟩ := foldl_slotInsert l (slotInsert acc p) (slotInsert_sorted p acc h)
    exact ⟨hp.trans (((slotInsert_perm acc p).append_left l).trans List.perm_middle), hs⟩

/-- The order that the fetch gives two bundles is the only one with their slots ascending. -/
theorem mergeSlots_eq {hd1 hd2 : Header} {a b : List Instr} {ps : List (Nat × Instr)}
    (hp : ps.Perm (hd1.slots.zip a ++ hd2.slots.zip b)) (hs : ps.Pairwise fun p q => p.1 < q.1) :
    mergeSlots hd1 hd2 a b = ps.map (·.2) := by
  obtain ⟨hm, hsorted⟩ := foldl_slotInsert (hd1.slots.zip a ++ hd2.slots.zip b) [] .nil
  rw [List.append_nil] at hm
  have hperm := hm.trans hp.symm
  have hne : ((hd1.slots.zip a ++ hd2.slots.zip b).foldl slotInsert []).Pairwise fun p q => p.1 ≠ q.1 :=
    (hperm.pairwise_iff fun h => Ne.symm h).mpr (hs.imp fun h => h.ne)
  have hlt : ((hd1.slots.zip a ++ hd2.slots.zip b).foldl slotInsert []).Pairwise fun p q => p.1 < q.1 :=
    hsorted.imp₂ (fun _ _ hle hne => lt_of_le_of_ne hle hne) hne
  have heq := hperm.eq_of_pairwise (fun _ _ _ _ h k => absurd (h.trans k) (lt_irrefl _)) hlt hs
  exact congrArg (List.map (·.2)) heq

/-! ## The fetch of a group (R96 to R103) -/

theorem headerOf_decoded {super : Bool} {ps : List Nat} {b : Bundle} (h : decodeBundle super ps = .ok b) :
    headerOf ps = some b.head := by
  cases ps with
  | nil => exact absurd h (by simp [decodeBundle])
  | cons w rest =>
    simp only [decodeBundle] at h
    simp only [headerOf]
    cases hd : decodeHeader (w % 65536) with
    | none => simp [hd] at h
    | some d =>
      simp only [hd] at h
      split at h
      · exact absurd h (by simp)
      · cases hf : decodeFields d.slots rest with
        | error e => simp [hf] at h
        | ok is =>
          simp only [hf, Except.ok.injEq] at h
          rw [← h]

section Fetch
variable {s : State} {super : Bool} {t : Ctx} {a : Nat} {h : Half} {b : Bundle}

theorem fetch_one (hh : halfAt t a = some h) (ha : a % 2 = 0) (hb : decodeBundle super (h.from_ a) = .ok b)
    (hs : b.head.s = true) : fetch s super t a = .group b.instrs b.head.d a (a + 2 * b.head.parcels) 0 := by
  simp only [fetch, hh, headerOf_decoded hb, hb]
  rw [if_neg (by omega), if_pos hs]

theorem fetchSecond_ok {a2 : Nat} {ps2 : List Nat} {b2 : Bundle} (hb2 : decodeBundle super ps2 = .ok b2)
    (hs : b2.head.s = true) (hd : b2.head.d = false) (hm : b.head.mask &&& b2.head.mask = 0) :
    fetchSecond super b.head (.ok b) a2 ps2 =
      .group (mergeSlots b.head b2.head b.ops b2.ops) b.head.d a2 (a2 + 2 * b2.head.parcels) b2.head.mask := by
  simp only [fetchSecond, headerOf_decoded hb2, hb2]
  rw [if_neg (by simp [hs, hd, hm])]

theorem fetch_two {b2 : Bundle} (hh : halfAt t a = some h) (ha : a % 2 = 0) (hb : decodeBundle super (h.from_ a) = .ok b)
    (hs : b.head.s = false) (hb2 : decodeBundle super ((h.from_ a).drop b.head.parcels) = .ok b2) (hs2 : b2.head.s = true)
    (hd2 : b2.head.d = false) (hm : b.head.mask &&& b2.head.mask = 0) (hl : loopEnd t (a + 2 * b.head.parcels) = false) :
    fetch s super t a = .group (mergeSlots b.head b2.head b.ops b2.ops) b.head.d (a + 2 * b.head.parcels)
      (a + 2 * b.head.parcels + 2 * b2.head.parcels) b2.head.mask := by
  have hne : ((h.from_ a).drop b.head.parcels).isEmpty = false := by
    cases hp : (h.from_ a).drop b.head.parcels with
    | nil => rw [hp] at hb2; exact absurd hb2 (by simp [decodeBundle])
    | cons => rfl
  simp only [fetch, hh, headerOf_decoded hb, hb]
  rw [if_neg (by omega), if_neg (by rw [hs]; decide), if_neg (by simp [hne, hl])]
  exact fetchSecond_ok hb2 hs2 hd2 hm

end Fetch

/-! ## The turn (R60, R63) -/

theorem setSeg_pc (s : State) (c x : Nat) : (getCtx (setSeg s c x) c x).pc = (getCtx s c x).pc := by
  unfold setSeg
  split
  · rw [getCtx_modCtx_self]
  · rfl

theorem latch_setSeg (s : State) (c x : Nat) (d : Bool) (addr2 next second : Nat) :
    latch (setSeg s c x) c x d addr2 next second =
      { setSeg s c x with issue := ⟨c, x, (getCtx s c x).pc, addr2, next, d, second, 0⟩ } := by
  rw [latch, setSeg_pc]

/-- What a turn runs for the operations of a group, the latch set for them. -/
def runsGroup (is : List Instr) (d : Bool) (s : State) : Host.Outcome State Fault Refusal :=
  match is with
  | [] => exec (.nop false d) s
  | [i] => exec i s
  | is => .next (runGroup (opsOf is) s)

theorem runsGroup_many {is : List Instr} (h : 2 ≤ is.length) (d : Bool) (s : State) :
    runsGroup is d s = .next (runGroup (opsOf is) s) := by
  match is, h with
  | _ :: _ :: _, _ => rfl

section Issue
variable {s : State} {ts : List Turn} {c x : Nat}

/-- A turn of a core whose chosen context has no report and no freeze point runs the group it fetches. -/
theorem step_runsGroup {is : List Instr} {d : Bool} {a2 n second : Nat} (hs : s.sched = .issue c :: ts)
    (hl : (getCore { s with sched := ts } c).lastIssue ≠ some s.ck) (hm : s.landed ≠ some s.ck)
    (hc : chooseCtx { s with sched := ts } c = some x)
    (ha : (getCtx (landDue (makeCurrent { s with sched := ts } c x) c x) c x).asyncs = [])
    (hf : atFreezePoint (landDue (makeCurrent { s with sched := ts } c x) c x) c x = false)
    (hg : fetchAt (landDue (makeCurrent { s with sched := ts } c x) c x) c x = .group is d a2 n second) :
    step s = runsGroup is d (latch (setSeg (landDue (makeCurrent { s with sched := ts } c x) c x) c x) c x d a2 n second) := by
  have hx : step s = runIssued (issueTurn { s with sched := ts } c) := by
    simp only [step, nextTurn, hs, runTurn]
  have hi : issueTurn { s with sched := ts } c = issueGroup (landDue (makeCurrent { s with sched := ts } c x) c x) c x := by
    rw [issueTurn, if_neg (by simpa [hm] using hl), hc]
    simp only [ha, hf]
    rfl
  rw [hx, hi, issueGroup, hg]
  match is with
  | [] => rfl
  | [_] => rfl
  | _ :: _ :: _ => rfl

end Issue

theorem step_event {s : State} {ts : List Turn} {i : Instr} (hs : s.sched = .event i :: ts) (he : isEvent i = true) :
    step s = exec i { s with sched := ts } := by
  simp only [step, nextTurn, hs, runTurn, he, if_true]

theorem step_microword {s : State} {ts : List Turn} {c : Nat} {i : Instr} (hs : s.sched = .lantern c :: ts)
    (hp : (getCore s c).lantern.phase = .running) (hpc : (getCore s c).lantern.pc < 512)
    (hd : decodeMicro (controlWord (getCore s c) (getCore s c).lantern.pc) = some i) :
    step s = exec i { s with sched := ts, issue := { s.issue with core := c } } := by
  have hx : step s = runLantern (lanternTurn { s with sched := ts } c) := by
    simp only [step, nextTurn, hs, runTurn]
  have hl : lanternTurn { s with sched := ts } c = (some i, { s with sched := ts, issue := { s.issue with core := c } }) := by
    have hln : ({ s with sched := ts, issue := { s.issue with core := c } } : State).ln = (getCore s c).lantern := rfl
    have hmy : ({ s with sched := ts, issue := { s.issue with core := c } } : State).myCore = getCore s c := rfl
    simp only [lanternTurn, hln, hmy, hp, hd]
    rw [if_neg (by omega)]
  rw [hx, hl, runLantern]

/-! ## The claim -/

/-- Settles O6: the turn fetches the one group that its bundles decode to, and runs it. -/
theorem stepRunsDecoded : Obligations.StepRunsDecoded := by
  intro s ts c x h b i is s0 a t u
  refine ⟨fun hs hl hm hc has hf hpc hh hb => ⟨fun hbs hi => ?_, fun hbs hi hlen => ?_, ?_⟩, step_event, step_microword⟩
  · have hg : fetchAt a c x = .group b.instrs b.head.d t.pc (t.pc + 2 * b.head.parcels) 0 := fetch_one hh hpc hb hbs
    rw [step_runsGroup hs hl hm hc has hf hg, hi, latch_setSeg]
    rfl
  · have hg : fetchAt a c x = .group b.instrs b.head.d t.pc (t.pc + 2 * b.head.parcels) 0 := fetch_one hh hpc hb hbs
    rw [step_runsGroup hs hl hm hc has hf hg, hi, runsGroup_many hlen, latch_setSeg]
  · intro b2 ps hbs hb2 hs2 hd2 hmask hle hperm hsort at2 v
    have hg : fetchAt a c x = .group (ps.map (·.2)) b.head.d at2 (at2 + 2 * b2.head.parcels) b2.head.mask := by
      rw [← mergeSlots_eq hperm hsort]
      exact fetch_two hh hpc hb hbs hb2 hs2 hd2 hmask hle
    have hst := step_runsGroup hs hl hm hc has hf hg
    rw [latch_setSeg] at hst
    refine ⟨fun hp => ?_, fun p hp => ?_, fun hlen => ?_⟩
    · rw [hst, hp]
      rfl
    · rw [hst, hp]
      rfl
    · rw [hst, runsGroup_many (by rwa [List.length_map])]

end Sys2Proof.Machine
end

section
/-! PROOFS of O60, first part: the registers and queries of a host channel (R441 to R445). -/
namespace Sys2Proof.Machine

/-! ## The bytes of a reply (R444) -/

/-- Little-endian bytes are those of their value. -/
theorem leBytes_leNat : ∀ bs : List Byte, leBytes bs.length (leNat bs) = bs
  | [] => rfl
  | b :: bs => by
    have hb := b.isLt
    have hd : (b.toNat + 256 * leNat bs) / 256 = leNat bs := by omega
    rw [List.length_cons, leNat, leBytes, hd, leBytes_leNat bs]
    congr 1
    apply BitVec.eq_of_toNat_eq
    rw [BitVec.toNat_ofNat]
    omega

theorem leBytes_leAt {bs : List Byte} {i n : Nat} (h : i + n ≤ bs.length) : leBytes n (leAt bs i n) = (bs.drop i).take n := by
  have hl : ((bs.drop i).take n).length = n := by rw [List.length_take, List.length_drop]; omega
  have h := leBytes_leNat ((bs.drop i).take n)
  rw [hl] at h
  exact h

/-- A reply repeats the sequence number and the operation of its request. -/
theorem replyBytes_request {r : List Byte} (hr : r.length = 64) (status : Nat) (results : List Byte) :
    replyBytes (rqSeq r) (rqOp r) status 0 results =
      fit 64 (r.take 4 ++ r.extract 4 5 ++ [BitVec.ofNat 8 status, 0, 0] ++ results) := by
  have h1 : leBytes 4 (rqSeq r) = r.take 4 := leBytes_leAt (i := 0) (by omega)
  have h2 : leBytes 1 (rqOp r) = r.extract 4 5 := leBytes_leAt (by omega)
  rw [replyBytes, h1, h2]
  congr 1
  simp [leBytes]

/-! ## Requests that finish (R441, R444) -/

theorem getChannel_modChannel (s : State) (c : Nat) (f : Channel → Channel) :
    getChannel (modChannel s c f) c = f (getChannel s c) := alGet_alSet_self ..

/-- A finished request changes its channel alone: it leaves the inbox, and its reply comes last in the outbox. -/
theorem finish_spec (s : State) (c : Nat) (r : List Byte) (status code : Nat) (results : List Byte) :
    finish s c r status code results = { s with channels := (finish s c r status code results).channels } ∧
      (getChannel (finish s c r status code results) c).inbox = (getChannel s c).inbox.drop 1 ∧
      (getChannel (finish s c r status code results) c).outbox =
        (getChannel s c).outbox ++ [replyBytes (rqSeq r) (rqOp r) status code results] := by
  refine ⟨rfl, ?_, ?_⟩
  · rw [finish, pushReply, getChannel_modChannel, getChannel_modChannel]
  · rw [finish, pushReply, getChannel_modChannel, getChannel_modChannel]

/-- A request that is answered by its reply alone. -/
def Replies (s t : State) (ch : Nat) (r : List Byte) (status : Nat) (results : List Byte) : Prop :=
  t.mem = s.mem ∧ t.nodes = s.nodes ∧ t.kernels = s.kernels ∧ t.ports = s.ports ∧
    (getChannel t ch).inbox = (getChannel s ch).inbox.drop 1 ∧ (getChannel t ch).outbox =
      (getChannel s ch).outbox ++ [fit 64 (r.take 4 ++ r.extract 4 5 ++ [BitVec.ofNat 8 status, 0, 0] ++ results)]

theorem replies_finish {s : State} (ch : Nat) {r : List Byte} (hr : r.length = 64) (status : Nat) (results : List Byte) :
    Replies s (finish s ch r status 0 results) ch r status results := by
  obtain ⟨_, hi, ho⟩ := finish_spec s ch r status 0 results
  rw [replyBytes_request hr] at ho
  exact ⟨rfl, rfl, rfl, rfl, hi, ho⟩

theorem pending_of_kind {s : State} {ch what : Nat} {r : List Byte} (hp : pending s ch 8 = some r) (hw : rqWhat r = what) :
    (pending s ch 8).filter (fun r => rqWhat r == what) = some r := by
  rw [hp, Option.filter_some, if_pos (by simp [hw])]

theorem query_answers {s : State} {ch what v : Nat} {r : List Byte} {w : List Byte → Option Nat} (hp : pending s ch 8 = some r)
    (hw : rqWhat r = what) (hv : w r = some v) : query s ch what w = finish s ch r 1 0 (leBytes 8 v) := by
  simp only [query, pending_of_kind hp hw, hv]

theorem query_refused {s : State} {ch what : Nat} {r : List Byte} {w : List Byte → Option Nat} (hp : pending s ch 8 = some r)
    (hw : rqWhat r = what) (hv : w r = none) : query s ch what w = finish s ch r 2 0 [] := by
  simp only [query, pending_of_kind hp hw, hv]
  rfl

theorem exec_malformedRequest {s : State} {ch : Nat} {r : List Byte} {rest : List (List Byte)} (hch : ch < 8)
    (hi : (getChannel s ch).inbox = r :: rest) (ho : (getChannel s ch).outbox.length < 256) (hm : malformed r = true) :
    exec (.malformedRequest ch) s = .next (finish s ch r 3 0 []) := by
  have hx : exec (.malformedRequest ch) s = execMalformedRequest ch s := rfl
  rw [hx]
  simp only [execMalformedRequest, hi]
  rw [if_pos ⟨hch, ho, hm⟩]

/-! ## Registers of a channel (R441, R442) -/

section Bar
variable {s : State} {ch : Nat}

theorem barOffset (ch o : Nat) (ho : o < 0x1000) : (0x1000 * ch + o) / 0x1000 = ch ∧ (0x1000 * ch + o) % 0x1000 = o := by
  omega

theorem barWrite_inbox (hch : ch < 8) (hp : s.pciUp = true) (he : (getChannel s ch).en = true) (bs : List Byte) :
    barWrite s (0x1000 * ch) bs = .next (modChannel s ch fun h =>
      if bs.length = 64 ∧ h.inbox.length < 256 then { h with inbox := h.inbox ++ [bs] } else { h with ovf := true }) := by
  obtain ⟨hc, ho⟩ := barOffset ch 0 (by decide)
  rw [Nat.add_zero] at hc ho
  unfold barWrite
  dsimp only
  rw [hc, ho, if_neg (by simp [hp, he]; omega), if_pos rfl, inboxWrite, if_pos ⟨hch, he, hp⟩]

theorem barRead_outbox (hch : ch < 8) (hp : s.pciUp = true) :
    barRead s (0x1000 * ch + 0x40) 64 = exec (.outboxRead ch) { s with barData := outboxVal s ch } := by
  obtain ⟨hc, ho⟩ := barOffset ch 0x40 (by decide)
  unfold barRead
  dsimp only
  rw [hc, ho, if_neg (by simp [hp]; omega), if_pos ⟨rfl, rfl⟩]
  rfl

/-- Graphs that are open or have a node left complete none, and no reply is written. -/
theorem foldl_graphs_idle {f : State → Graph → State} : ∀ (l : List Graph) (s : State), (∀ g ∈ l, f s g = s) → l.foldl f s = s
  | [], _, _ => rfl
  | g :: l, s, h => by
    rw [List.foldl_cons, h g (by simp)]
    exact foldl_graphs_idle l s fun q hq => h q (by simp [hq])

theorem closeGraphs_idle (h : ∀ g ∈ s.graphs, g.done = false ∧ (g.isOpen = true ∨ g.pending ≠ 0)) :
    closeGraphs s = { s with nodes := s.nodes.filter fun n => !(n.gid == 0 && n.st == NodeSt.done) } := by
  have hc : ∀ (u : State), ∀ g ∈ s.graphs, completeGraph u g = u := fun u g hg => by
    unfold completeGraph
    rw [if_neg]
    rcases (h g hg).2 with ho | hp
    · simp [ho]
    · simp [hp]
  have hr : ∀ (u : State), ∀ g ∈ s.graphs, replyGraph u g = u := fun u g hg => by
    unfold replyGraph
    rw [if_neg (by simp [(h g hg).1])]
  have hfold : closeGraphs s = s.graphs.foldl replyGraph (s.graphs.foldl completeGraph
      { s with nodes := s.nodes.filter fun n => !(n.gid == 0 && n.st == NodeSt.done) }) := by
    rw [closeGraphs]
    dsimp only
    rw [foldl_graphs_idle s.graphs _ (hc _)]
  rw [hfold, foldl_graphs_idle s.graphs _ (hc _), foldl_graphs_idle s.graphs _ (hr _)]

/-- The channel whose oldest reply has been read. -/
def Channel.popped (h : Channel) : Channel := { h with outbox := h.outbox.drop 1, irq := h.irq && decide (1 < h.outbox.length) }

theorem exec_outboxRead (hch : ch < 8) (hp : s.pciUp = true)
    (h : ∀ g ∈ s.graphs, g.done = false ∧ (g.isOpen = true ∨ g.pending ≠ 0)) :
    exec (.outboxRead ch) s = .next { modChannel s ch Channel.popped with
      nodes := s.nodes.filter fun n => !(n.gid == 0 && n.st == NodeSt.done) } := by
  have hx : exec (.outboxRead ch) s = execOutboxRead ch s := rfl
  rw [hx, execOutboxRead, if_pos ⟨hch, hp⟩]
  exact congrArg _ (closeGraphs_idle (s := modChannel s ch Channel.popped) h)

theorem exec_cstatWrite (hch : ch < 8) (hp : s.pciUp = true) (v : BitVec 64) : exec (.cstatWrite ch v) s =
    .next (modChannel s ch fun h => { h with irqe := v.getLsbD 1, ovf := h.ovf && !(v.getLsbD 2) }) := by
  have hx : exec (.cstatWrite ch v) s = execCstatWrite ch v s := rfl
  rw [hx, execCstatWrite, if_pos ⟨hch, hp⟩]

theorem exec_requestDropped (hch : ch < 8) (he : (getChannel s ch).en = true) :
    exec (.requestDropped ch) s = .next (modChannel s ch fun h => { h with ovf := true }) := by
  have hx : exec (.requestDropped ch) s = execRequestDropped ch s := rfl
  rw [hx, execRequestDropped, if_pos ⟨hch, he⟩]

end Bar

/-! ## The claim -/

theorem hostChannels : Claims.HostChannels := by
  intro ch v s hch h replied
  have hrep : ∀ {i : Instr} {r : List Byte} {status : Nat} {results : List Byte} {t : State}, exec i s = .next t →
      Replies s t ch r status results → replied i r status results := fun hx ht => ⟨_, hx, ht⟩
  refine ⟨fun he => ⟨_, exec_requestDropped hch he, getChannel_modChannel .., rfl⟩, fun r rest hi hr ho hm => ?_,
    fun bs hp he => ?_, fun hp hg => ⟨?_, ?_⟩, fun hp => ?_, ⟨_, rfl, rfl⟩, fun r hp hr => ⟨fun hw => ?_, fun hw => ?_, fun hw _ => ?_,
      fun hw => ?_⟩⟩
  · exact hrep (exec_malformedRequest hch hi ho hm) (replies_finish ch hr 3 [])
  · exact ⟨_, barWrite_inbox hch hp he bs, rfl, getChannel_modChannel ..⟩
  · exact ⟨_, exec_outboxRead hch hp hg, rfl, congrArg Channel.outbox (getChannel_modChannel s ch Channel.popped)⟩
  · refine ⟨_, (barRead_outbox hch hp).trans (exec_outboxRead (s := { s with barData := outboxVal s ch }) hch hp hg), rfl, ?_, rfl⟩
    exact congrArg Channel.outbox (getChannel_modChannel s ch Channel.popped)
  · exact ⟨_, exec_cstatWrite hch hp v, rfl, getChannel_modChannel ..⟩
  · refine ⟨fun n hn => ?_, fun hn => ?_⟩
    · exact hrep (congrArg Host.Outcome.next (query_answers hp hw (by rw [hn]; rfl))) (replies_finish ch hr 1 _)
    · exact hrep (congrArg Host.Outcome.next (query_refused hp hw (by rw [hn]; rfl))) (replies_finish ch hr 2 [])
  · refine ⟨fun k hk => ?_, fun hk => ?_⟩
    · exact hrep (congrArg Host.Outcome.next (query_answers hp hw (by rw [hk]; rfl))) (replies_finish ch hr 1 _)
    · exact hrep (congrArg Host.Outcome.next (query_refused hp hw (by rw [hk]; rfl))) (replies_finish ch hr 2 [])
  · have hpq : pending { s with freeCtr := s.freeCtr + 1 } ch 8 = some r := hp
    exact hrep (congrArg Host.Outcome.next (query_answers (w := fun r => some (lstatVal s (leAt r 9 1))) hpq hw rfl))
      (replies_finish (s := { s with freeCtr := s.freeCtr + 1 }) ch hr 1 _)
  · exact hrep (congrArg Host.Outcome.next (query_answers (w := fun _ => some (poolWord s 0)) hp hw rfl)) (replies_finish ch hr 1 _)

end Sys2Proof.Machine
end

section
/-! PROOFS of O60, second part: the requests of a host channel (R345, R357 to R359, R362, R443, R444). -/
namespace Sys2Proof.Machine

/-! ## Replies -/

/-- A request that leaves the inbox, with a reply that comes last in the outbox. -/
def Answered (s t : State) (ch : Nat) (r : List Byte) (status code : Nat) (results : List Byte) : Prop :=
  (getChannel t ch).inbox = (getChannel s ch).inbox.drop 1 ∧
    (getChannel t ch).outbox = (getChannel s ch).outbox ++ [replyBytes (rqSeq r) (rqOp r) status code results]

theorem answered_finish {s u : State} {ch : Nat} (h : getChannel u ch = getChannel s ch) (r : List Byte) (status code : Nat)
    (results : List Byte) : Answered s (finish u ch r status code results) ch r status code results := by
  obtain ⟨_, hi, ho⟩ := finish_spec u ch r status code results
  rw [h] at hi ho
  exact ⟨hi, ho⟩

section Requests
variable {s : State} {ch : Nat} {r : List Byte}

/-! ## ALLOC, FREE (R443) -/

theorem sizeExp_ge (n : Nat) : 16 ≤ sizeExp n := by
  unfold sizeExp
  cases (List.range 25).find? fun i => decide (n ≤ 2 ^ (16 + i)) with
  | none => decide
  | some i => exact Nat.le_add_right 16 i

/-- The fields of a range word for a range at a multiple of 64 KiB (R412). -/
theorem allocWords_fields {base e : Nat} (hb : base % 2 ^ 16 = 0) (hlt : base < 2 ^ 40) (he : e ≤ 40) :
    bitAt (allocWords base e).1 0 = true ∧ bits (allocWords base e).1 31 26 = e ∧
      bits (allocWords base e).1 63 32 * 2 ^ 16 = base := by
  have hw : (allocWords base e).1 = base / 65536 * 4294967296 + e * 67108864 + 1 := rfl
  rw [hw]
  simp only [bitAt, bits, beq_iff_eq, Nat.reducePow, Nat.reduceAdd, Nat.reduceSub] at *
  refine ⟨?_, ?_, ?_⟩ <;> omega

theorem rangeFree_aligned {base e : Nat} (he : 16 ≤ e) (h : rangeFree s base (2 ^ e) (2 ^ e) = true) :
    base % 2 ^ 16 = 0 ∧ base < 2 ^ 40 := by
  simp only [rangeFree, Bool.and_eq_true, beq_iff_eq, decide_eq_true_eq] at h
  obtain ⟨⟨⟨hmod, hend⟩, _⟩, _⟩ := h
  have hpos : 0 < 2 ^ e := Nat.two_pow_pos e
  have hdvd : 2 ^ 16 ∣ base := (pow_dvd_pow 2 he).trans (Nat.dvd_of_mod_eq_zero hmod)
  exact ⟨Nat.mod_eq_zero_of_dvd hdvd, by omega⟩

theorem exec_alloc_none (hp : pending s ch 1 = some r) : exec (.alloc ch none) s = .next (finish s ch r 2 0 []) := by
  have hx : exec (.alloc ch none) s = execAlloc ch none s := rfl
  rw [hx]
  simp only [execAlloc, hp]
  rfl

theorem exec_alloc {base i : Nat} (hp : pending s ch 1 = some r) (h0 : 0 < rqA r) (he : sizeExp (rqA r) ≤ 40)
    (hf : rangeFree s base (2 ^ sizeExp (rqA r)) (2 ^ sizeExp (rqA r)) = true) (hst : leAt r 16 1 = 0xFF)
    (hm : mapped s base (2 ^ sizeExp (rqA r)) = false) (hi : freeEntry s = some i) : exec (.alloc ch (some base)) s =
      .next (finish (giveRange (putEntry s primary i (allocWords base (sizeExp (rqA r)))) ch base (2 ^ sizeExp (rqA r)))
        ch r 1 0 (leBytes 8 base)) := by
  have hx : exec (.alloc ch (some base)) s = execAlloc ch (some base) s := rfl
  have ha : allocRange s ch r base = finish (giveRange (putEntry s primary i (allocWords base (sizeExp (rqA r)))) ch base
      (2 ^ sizeExp (rqA r))) ch r 1 0 (leBytes 8 base) := by
    unfold allocRange
    dsimp only
    rw [if_neg (by omega), if_neg (by simp [hf, hst, hm]), hi]
  rw [hx]
  simp only [execAlloc, hp, ha]

theorem exec_free_none (hp : pending s ch 2 = some r)
    (hn : (clientEntries s ch).find? (fun w => bits w.1 63 32 * 2 ^ 16 == rqA r) = none) :
    exec (.free ch) s = .next (finish s ch r 2 0 []) := by
  have hx : exec (.free ch) s = execFree ch s := rfl
  rw [hx, execFree, hp]
  simp only [freeRequest, hn]
  rfl

theorem exec_free {w : Nat × Nat} (hp : pending s ch 2 = some r)
    (hw : (clientEntries s ch).find? (fun w => bits w.1 63 32 * 2 ^ 16 == rqA r) = some w)
    (hr : (mappingCores s w).any (coreRuns s []) = false) : exec (.free ch) s =
      .next (finish (freeRange ((mappingCores s w).foldl (unmapEntry w) s) (bits w.2 47 16 * 2 ^ 16)) ch r 1 0 []) := by
  have hx : exec (.free ch) s = execFree ch s := rfl
  rw [hx, execFree, hp]
  simp only [freeRequest, hw, hr]
  rfl

theorem foldl_tables {α : Type} {f : State → α → State} (h : ∀ s a, f s a = { s with tables := (f s a).tables }) :
    ∀ (l : List α) (s : State), l.foldl f s = { s with tables := (l.foldl f s).tables }
  | [], _ => rfl
  | a :: l, s => by
    rw [List.foldl_cons]
    have ih := foldl_tables h l (f s a)
    rw [h s a] at ih ⊢
    exact ih

theorem unmapEntry_tables (w : Nat × Nat) (s : State) (c : Nat) : unmapEntry w s c = { s with tables := (unmapEntry w s c).tables } := by
  refine foldl_tables (fun s e => ?_) (List.range 256) s
  split
  · rfl
  · rfl

theorem unmapEntries_frame (w : Nat × Nat) (cs : List Nat) (s : State) :
    (cs.foldl (unmapEntry w) s).mem = s.mem ∧ (cs.foldl (unmapEntry w) s).channels = s.channels := by
  have h := foldl_tables (unmapEntry_tables w) cs s
  exact ⟨(congrArg State.mem h).trans rfl, (congrArg State.channels h).trans rfl⟩

/-- What a FREE leaves of the memory, the ranges and the channel. -/
theorem free_frees (w : Nat × Nat) (cs : List Nat) (s : State) (ch base : Nat) (r : List Byte) :
    let t := finish (freeRange (cs.foldl (unmapEntry w) s) base) ch r 1 0 []
    Answered s t ch r 1 0 [] ∧ t.mem = s.mem ∧ ∀ a ∈ t.allocs, a.2.1 ≠ base := by
  obtain ⟨hm, hc⟩ := unmapEntries_frame w cs s
  exact ⟨answered_finish (congrArg (alGet Channel.reset · ch) hc) r 1 0 [], hm,
    fun a ha => by simpa using (List.mem_filter.mp ha).2⟩

/-! ## COPYIN, COPYOUT (R443 to R445) -/

theorem readBytes_length (m : List Host.Cell) : ∀ n a, (readBytes m a n).length = n
  | 0, _ => rfl
  | n + 1, a => by rw [readBytes, List.length_cons, readBytes_length m n]

theorem exec_copyin_fails (hp : pending s ch 3 = some r) (h : copyRuns s r = .fails) :
    exec (.copyin ch) s = .next (finish s ch r 2 0 []) := by
  have hx : exec (.copyin ch) s = execCopyin ch s := rfl
  rw [hx, execCopyin, hp]
  simp only [h]
  rfl

theorem copyRuns_range {rs : List (Nat × Nat)} (h : copyRuns s r = .ok rs) : nodeRange s (rqB r) (rqC r) = .ok rs := by
  unfold copyRuns at h
  split at h
  · exact absurd h (by simp)
  · cases hn : nodeRange s (rqB r) (rqC r) with
    | ok q => simp only [hn, CopyTry.ok.injEq] at h; rw [h]
    | error e => cases e <;> simp [hn] at h

theorem exec_copyin {k : Nat} (hp : pending s ch 3 = some r) (h : copyRuns s r = .ok [(k, rqC r)])
    (hs : sharedPages s (rqB r) (rqC r) = []) (hb : poisoned s (2 ^ 47 + rqA r) (rqC r) = false)
    (hq : partialBad s [(k, List.replicate (rqC r) 0)] = false) : exec (.copyin ch) s =
      .next (finish (storeBytes s k (readBytes s.mem (2 ^ 47 + rqA r) (rqC r))) ch r 1 0
        (crcResult r (readBytes s.mem (2 ^ 47 + rqA r) (rqC r)))) := by
  have hx : exec (.copyin ch) s = execCopyin ch s := rfl
  have ht : storeRuns s [(k, rqC r)] (readBytes s.mem (2 ^ 47 + rqA r) (rqC r)) =
      storeBytes s k (readBytes s.mem (2 ^ 47 + rqA r) (rqC r)) :=
    congrArg (storeBytes s k) (List.take_of_length_le (readBytes_length ..).le)
  have hi : copyIn s ch r [(k, rqC r)] = copyInBytes s ch r [(k, rqC r)] := by
    simp only [copyIn, hs, ownAll, copyRuns_range h]
  have hc : copyInBytes s ch r [(k, rqC r)] = finish (storeBytes s k (readBytes s.mem (2 ^ 47 + rqA r) (rqC r))) ch r 1 0
      (crcResult r (readBytes s.mem (2 ^ 47 + rqA r) (rqC r))) := by
    have hq' : partialBad s ([(k, rqC r)].map fun q => (q.1, List.replicate q.2 0)) = false := hq
    unfold copyInBytes
    dsimp only
    rw [if_neg (by rw [hb]; decide), if_neg fun he => Bool.false_ne_true (hq'.symm.trans he), ht]
  rw [hx, execCopyin, hp]
  simp only [h]
  rw [hi, hc]

theorem exec_copyout {k : Nat} (hp : pending s ch 4 = some r) (h : copyRuns s r = .ok [(k, rqC r)])
    (hb : poisoned s k (rqC r) = false) : exec (.copyout ch) s =
      .next (finish (storeBytes s (2 ^ 47 + rqA r) (readBytes s.mem k (rqC r))) ch r 1 0 (crcResult r (readBytes s.mem k (rqC r)))) := by
  have hx : exec (.copyout ch) s = execCopyout ch s := rfl
  have hr : readRuns s [(k, rqC r)] = readBytes s.mem k (rqC r) := List.append_nil _
  rw [hx, execCopyout, hp]
  simp only [h, copyOut, hr]
  rw [if_neg (by simp [hb])]

/-- `n` bytes stored read back, and every byte outside them is as before. -/
theorem storeBytes_copied (hm : Memory.wf s.mem = true) {k n : Nat} {bs : List Byte} (hl : bs.length = n) :
    readBytes (storeBytes s k bs).mem k n = bs ∧
      ∀ a, a < k ∨ k + n ≤ a → memGet (storeBytes s k bs).mem a = memGet s.mem a := by
  subst hl
  refine ⟨readBytes_writeBytes hm k bs, fun a ha => ?_⟩
  exact (memGet_writeBytes hm k bs a).trans (if_neg (by omega))

/-! ## LOAD (R345, R357) -/

theorem find_of_mem_kid {ks : List Kernel} {k k' : Kernel} (hk : k ∈ ks) (hid : k'.kid = k.kid) :
    (ks.map fun q => if q.kid = k'.kid then k' else q).find? (fun q => q.kid == k.kid) = some k' := by
  induction ks with
  | nil => exact absurd hk (by simp)
  | cons q ks ih =>
    by_cases hq : q.kid = k.kid
    · rw [List.map_cons, if_pos (hq.trans hid.symm), List.find?_cons_of_pos (by simpa using hid)]
    · rw [List.map_cons, if_neg (by rw [hid]; exact hq), List.find?_cons_of_neg (by simpa using hq)]
      exact ih ((List.mem_cons.mp hk).resolve_left fun h => hq (by rw [h]))

theorem kernelOf_setKernel {k k' : Kernel} (hk : k ∈ s.kernels) (hid : k'.kid = k.kid) :
    kernelOf (setKernel s k') k.kid = some k' := find_of_mem_kid hk hid

theorem kernelOf_dropKernel (s : State) (kid : Nat) : kernelOf (dropKernel s kid) kid = none :=
  List.find?_eq_none.mpr fun k hk => by simpa using (List.mem_filter.mp hk).2

theorem loadingKernel_mem {k : Kernel} (h : loadingKernel s ch r = some k) : k ∈ s.kernels := List.mem_of_find?_eq_some h

/-- The kernel that a LOAD makes. -/
def newKernel (ch : Nat) (r : List Byte) (kid : Nat) : Kernel := ⟨kid, 1, 0, [], 0, ch, rqSeq r + 1⟩

theorem exec_load_starts (hp : pending s ch 5 = some r) (hl : loadingKernel s ch r = none) {kid : Nat} (h32 : kid < 2 ^ 32)
    (hk : kernelOf s kid = none) (hi : kernelIndex s kid < Config.kernelWords) : exec (.load ch (some kid)) s =
      .next (putKernelWord { s with kernels := s.kernels ++ [newKernel ch r kid] } kid) := by
  have hx : exec (.load ch (some kid)) s = execLoad ch (some kid) s := rfl
  rw [hx, execLoad, hp]
  simp only [loadStep, hl]
  rw [if_pos ⟨h32, by rw [hk]; rfl⟩, startLoad, if_neg (by omega)]
  rfl

theorem kernelOf_append {kid : Nat} (hk : kernelOf s kid = none) (ch : Nat) (r : List Byte) :
    kernelOf { s with kernels := s.kernels ++ [newKernel ch r kid] } kid = some (newKernel ch r kid) := by
  rw [kernelOf, List.find?_append, show s.kernels.find? _ = none from hk]
  simp [newKernel]

/-- The word of a kernel that a LOAD has made names it, in Loading (R358). -/
theorem putKernelWord_new {kid : Nat} (h32 : kid < 2 ^ 32) {k : Kernel} (hk : kernelOf s kid = some k) (hs : k.state = 1) :
    tabGet (putKernelWord s kid) 7 0 (kernelIndex s kid) % 8 = 1 ∧
      tabGet (putKernelWord s kid) 7 0 (kernelIndex s kid) / 2 ^ 32 = kid := by
  have hw : tabGet (putKernelWord s kid) 7 0 (kernelIndex s kid) =
      kid % 2 ^ 32 * 2 ^ 32 + k.refuse % 256 * 2 ^ 24 + placedGroups s kid % 65536 * 2 ^ 8 + k.state % 8 := by
    have h : tabGet (putKernelWord s kid) 7 0 (kernelIndex s kid) = _ := alGet_alSet_self 0 s.tables ..
    rw [h, hk]
  rw [hw, hs]
  have h1 := Nat.mod_lt k.refuse (show 0 < 256 by decide)
  have h2 := Nat.mod_lt (placedGroups s kid) (show 0 < 65536 by decide)
  constructor
  · omega
  · omega

section Loading
variable {k : Kernel} {kid : Option Nat}

theorem exec_load_refused (hp : pending s ch 5 = some r) (hl : loadingKernel s ch r = some k) (hs : k.state = 2) :
    exec (.load ch kid) s = .next (finish (dropKernel s k.kid) ch r 2 k.refuse []) := by
  have hx : exec (.load ch kid) s = execLoad ch kid s := rfl
  rw [hx, execLoad, hp]
  simp only [loadStep, hl, hs, if_true]

theorem exec_load_checks (hp : pending s ch 5 = some r) (hl : loadingKernel s ch r = some k) (hs : k.state = 1) {img : List Byte}
    (hi : imageAt s (rqA r) = .ok img) : exec (.load ch kid) s = .next (checkImage s ch r img k) := by
  have hx : exec (.load ch kid) s = execLoad ch kid s := rfl
  rw [hx, execLoad, hp]
  simp only [loadStep, hl, hs, hi]
  rfl

theorem checkImage_refuses {img : List Byte} {code : Nat} (h : (imageCheck (pkgIndex s) img = code ∧ code ≠ 0) ∨
    (imageCheck (pkgIndex s) img = 0 ∧ firstFit s img.length = none ∧ code = 8)) :
    checkImage s ch r img k = refuseKernel s k code := by
  unfold checkImage
  dsimp only
  rcases h with ⟨h, h0⟩ | ⟨h, hf, rfl⟩
  · rw [if_pos (by rw [h]; exact h0), h]
  · rw [if_neg (by simp [h]), addKernel, hf]

/-- The kernel whose image has taken memory at `a`. -/
def Kernel.loaded (k : Kernel) (img : List Byte) (a : Nat) : Kernel :=
  { k with state := 3, image := img, addr := a, client := 0, tag := 0 }

theorem checkImage_loads {img : List Byte} {a : Nat} (h : imageCheck (pkgIndex s) img = 0) (hf : firstFit s img.length = some a) :
    checkImage s ch r img k = finish (setKernel (storeBytes (giveRange s ownKernel a img.length) a img) (k.loaded img a))
      ch r 1 0 (leBytes 4 k.kid) := by
  unfold checkImage
  dsimp only
  rw [if_neg (by simp [h]), addKernel, hf]
  rfl

end Loading

/-! ## UNLOAD (R357, R370) -/

theorem exec_unload (hp : pending s ch 6 = some r) : exec (.unload ch) s = .next (unloadRequest s ch r) := by
  have hx : exec (.unload ch) s = execUnload ch s := rfl
  rw [hx, execUnload, hp]

theorem unloadRequest_none (hk : kernelOf s (leAt r 8 4) = none) : unloadRequest s ch r = finish s ch r 2 0 [] := by
  simp only [unloadRequest, hk]
  rfl

theorem undispatched_nil {kid : Nat} (h : undispatched s kid = []) : undispatchedGroups s kid = [] := by
  have hn : s.nodes.filter (undispatchedNode s kid) = [] := List.map_eq_nil_iff.mp h
  refine List.filter_eq_nil_iff.mpr fun g _ hg => ?_
  obtain ⟨n, hmem, hq⟩ := List.any_eq_true.mp hg
  simp only [Bool.and_eq_true] at hq
  exact List.filter_eq_nil_iff.mp hn n hmem hq.1.1

theorem affected_nil (s : State) : ∀ n, affected s n [] = []
  | 0 => rfl
  | n + 1 => affected_nil s n

theorem completeAll_nil (n : Nat) (s : State) : completeAll n [] s = s := by cases n <;> rfl

theorem completeNodes_nil (s : State) (cause : Nat) (f : State → State) : completeNodes s [] 5 cause f = closeGraphs (f s) := by
  have hw : wordsWait s 5 [] = none := by
    rw [wordsWait, if_neg (by decide), affected_nil]
    simp
  rw [completeNodes, hw]
  simp only [List.map_nil, completeAll_nil]

/-- The end of graphs changes nodes, graphs and channels alone. -/
theorem closeGraphs_frame (s : State) : ∃ n g c, closeGraphs s = { s with nodes := n, graphs := g, channels := c } := by
  have hfold : ∀ (f : State → Graph → State), (∀ (s : State) g, ∃ n gs c, f s g = { s with nodes := n, graphs := gs, channels := c }) →
      ∀ (l : List Graph) (s : State), ∃ n gs c, l.foldl f s = { s with nodes := n, graphs := gs, channels := c } := by
    intro f hf l
    induction l with
    | nil => exact fun s => ⟨s.nodes, s.graphs, s.channels, rfl⟩
    | cons g l ih =>
      intro s
      obtain ⟨n, gs, c, h⟩ := hf s g
      obtain ⟨n', gs', c', h'⟩ := ih (f s g)
      exact ⟨n', gs', c', by rw [List.foldl_cons, h', h]⟩
  have h1 := hfold completeGraph fun s g => by
    unfold completeGraph
    split
    · exact ⟨_, _, s.channels, rfl⟩
    · exact ⟨s.nodes, s.graphs, s.channels, rfl⟩
  have h2 := hfold replyGraph fun s g => by
    unfold replyGraph
    split
    · exact ⟨s.nodes, _, _, rfl⟩
    · exact ⟨s.nodes, s.graphs, s.channels, rfl⟩
  rw [closeGraphs]
  dsimp only
  generalize hu : ({ s with nodes := s.nodes.filter fun n => !(n.gid == 0 && n.st == NodeSt.done) } : State) = u
  obtain ⟨n, gs, c, h⟩ := h1 s.graphs u
  obtain ⟨n', gs', c', h'⟩ := h2 (s.graphs.foldl completeGraph u).graphs (s.graphs.foldl completeGraph u)
  exact ⟨n', gs', c', by rw [h', h, ← hu]⟩

section Unload
variable {k : Kernel}

theorem unloadRequest_starts (hk : kernelOf s (leAt r 8 4) = some k) (hs : k.state = 3 ∨ k.state = 4)
    (hu : undispatched s k.kid = []) :
    unloadRequest s ch r = closeGraphs (setKernel s { k with state := 5, client := ch, tag := rqSeq r + 1 }) := by
  simp only [unloadRequest, hk]
  rw [if_pos hs]
  simp only [startUnload, undispatched_nil hu, hu, List.all_nil, if_true, completeNodes_nil, List.foldl_nil]

theorem unloadRequest_ends (hk : kernelOf s (leAt r 8 4) = some k) (hs : k.state = 5) (hc : k.client = ch)
    (ht : k.tag = rqSeq r + 1) : unloadRequest s ch r = endUnload s ch r k := by
  simp only [unloadRequest, hk]
  rw [if_neg (by omega), if_pos ⟨hs, hc, ht⟩]

end Unload

/-! ## SUBMIT (R362, R443) -/

theorem countBad_life (s : State) (k : Nat) : ∃ l, countBad s k = { s with life := l } := by
  unfold countBad
  split
  · exact ⟨_, rfl⟩
  · exact ⟨s.life, rfl⟩

theorem countUnits_life (gs : List Got) (s : State) : ∃ l, countUnits s gs = { s with life := l } := by
  have h : ∀ (us : List Nat) (s : State), ∃ l, us.foldl countBad s = { s with life := l } := by
    intro us
    induction us with
    | nil => exact fun s => ⟨s.life, rfl⟩
    | cons u us ih =>
      intro s
      obtain ⟨l, hl⟩ := countBad_life s u
      obtain ⟨l', hl'⟩ := ih (countBad s u)
      exact ⟨l', by rw [List.foldl_cons, hl', hl]⟩
  exact h _ s

theorem headerCode_gid {g : List Byte} (h : headerCode s g = 0) : graphOf s (leAt g 0 4) = none := by
  unfold headerCode at h
  dsimp only at h
  split at h
  · exact absurd h (by decide)
  · split at h
    · exact absurd h (by decide)
    next hn => simpa using (not_or.mp (not_or.mp hn).2).1

/-- A record of a graph with its operand ranges and its lists. -/
abbrev Accepted := List Byte × List (Nat × Nat × Nat) × List (List Byte)

/-- A graph that a record of its own joins. -/
def Graph.counted (gid : Nat) (g : Graph) : Graph :=
  if g.gid = gid ∧ g.done = false then { g with pending := g.pending + 1, total := g.total + 1 } else g

/-- The records of an accepted graph enter the node table one after another. -/
def addNodes (gid ch : Nat) (ns : List Accepted) (s : State) : State :=
  ns.foldl (fun s n => addNode s n.1 gid (ndNode n.1) ch n.2.1 n.2.2) s

/-- Each record counts as a node of its graph that is pending. -/
theorem addNodes_spec {gid ch : Nat} {q : Graph} : ∀ (ns : List Accepted) (s : State), graphOf s gid = some q →
    (addNodes gid ch ns s).mem = s.mem ∧ (addNodes gid ch ns s).channels = s.channels ∧
      (addNodes gid ch ns s).nodes.length = s.nodes.length + ns.length ∧
      graphOf (addNodes gid ch ns s) gid = some { q with pending := q.pending + ns.length, total := q.total + ns.length }
  | [], s, h => ⟨rfl, rfl, rfl, h⟩
  | n :: ns, s, h => by
    have hq : graphOf (addNode s n.1 gid (ndNode n.1) ch n.2.1 n.2.2) gid =
        some { q with pending := q.pending + 1, total := q.total + 1 } := by
      have hp : ((fun g : Graph => g.gid == gid && !g.done) ∘ Graph.counted gid) = fun g => g.gid == gid && !g.done :=
        funext fun g => by
          unfold Graph.counted
          simp only [Function.comp_apply]
          split
          · rfl
          · rfl
      have hf : graphOf (addNode s n.1 gid (ndNode n.1) ch n.2.1 n.2.2) gid = (s.graphs.map (Graph.counted gid)).find? _ := rfl
      have hok := List.find?_some h
      simp only [Bool.and_eq_true, beq_iff_eq, Bool.not_eq_true'] at hok
      rw [hf, List.find?_map, hp, show s.graphs.find? _ = some q from h, Option.map_some, Graph.counted, if_pos hok]
    obtain ⟨hm, hc, hl, hg⟩ := addNodes_spec ns _ hq
    refine ⟨hm, hc, ?_, ?_⟩
    · have h1 : (addNode s n.1 gid (ndNode n.1) ch n.2.1 n.2.2).nodes.length = s.nodes.length + 1 := List.length_append ..
      rw [h1] at hl
      rw [List.length_cons]
      exact hl.trans (by omega)
    · refine hg.trans ?_
      rw [List.length_cons]
      simp only [Option.some.injEq, Graph.mk.injEq, true_and, and_true]
      omega

/-- The graph that a SUBMIT opens. -/
def newGraph (ch : Nat) (g : List Byte) : Graph := ⟨leAt g 0 4, ch, leAt g 16 8, bitAt (leAt g 8 1) 0, 0, 0, 0, false⟩

theorem graphOf_append {g : List Byte} (h : graphOf s (leAt g 0 4) = none) (ch : Nat) :
    graphOf { s with graphs := s.graphs ++ [newGraph ch g] } (leAt g 0 4) = some (newGraph ch g) := by
  rw [graphOf, List.find?_append, show s.graphs.find? _ = none from h]
  simp [newGraph]

section Submit
variable {g : List Byte}

/-- What SUBMIT does with its request, by what the reading of the header and of the nodes gives. Both readings stand as
variables in the proof, so that the kernel does not evaluate them. -/
theorem execSubmit_header (hp : pending s ch 7 = some r) (hg : nodeGet s (rqA r) 64 = .ok g) :
    (headerCode s g ≠ 0 → execSubmit ch s = .next (finish s ch r 2 (headerCode s g) (leBytes 2 0xFFFF))) ∧
      (headerCode s g = 0 →
        (∀ k code, checkNodes s (rqA r) (leAt g 0 4) (leAt g 4 4) 0 = .refuse k code → execSubmit ch s =
          .next (finish (countUnits s (recordReads s (rqA r) k)) ch r 2 code (leBytes 2 k))) ∧
        ∀ ns : List Accepted, checkNodes s (rqA r) (leAt g 0 4) (leAt g 4 4) 0 = .ok ns → execSubmit ch s =
          .next (finish (addNodes (leAt g 0 4) ch ns { s with graphs := s.graphs ++ [newGraph ch g] }) ch r 1 0 [])) := by
  rw [execSubmit]
  obtain ⟨read, hread⟩ : ∃ read, read = nodeGet s := ⟨_, rfl⟩
  obtain ⟨check, hcheck⟩ : ∃ check, check = checkNodes s := ⟨_, rfl⟩
  rw [← hread] at hg ⊢
  rw [← hcheck, hp]
  dsimp only
  rw [hg]
  dsimp only
  refine ⟨fun h => by rw [if_pos h, refuseGraph], fun h => ?_⟩
  rw [if_neg (by simp [h])]
  refine ⟨fun k code hc => ?_, fun ns hc => ?_⟩
  · rw [hc]
    rfl
  · rw [hc]
    rfl

end Submit

end Requests

/-! ## The claim -/

theorem hostRequests : Claims.HostRequests := by
  intro ch s r hwf hlen h n host refused done
  have hdone : ∀ {u : State} (results : List Byte), getChannel u ch = getChannel s ch →
      done (finish u ch r 1 0 results) results := fun results hu => answered_finish hu r 1 0 results
  refine ⟨fun hp => ⟨exec_alloc_none hp, fun base i h0 he hf hst hm hi => ?_⟩, fun hp hn => exec_free_none hp hn,
    fun hp w hw hr => ?_, fun hp hf => exec_copyin_fails hp hf, fun hp k hc hs hb hq => ?_, fun hp k hc hb => ?_,
    fun hp hl kid h32 hk hi => ?_, fun hp k kid img hl hst hi => ⟨fun code hc => ?_, fun a hc hf => ?_⟩,
    fun hp k kid hl hst => ?_, fun hp => ⟨fun hk => ?_, fun k hk hst hu => ?_, fun k hk hst hc ht => ⟨fun hu => ?_, fun hu => ?_⟩⟩,
    fun hp g hg => ⟨(execSubmit_header hp hg).1, fun h0 => ⟨fun k code hc => ?_, fun ns hc => ?_⟩⟩⟩
  · obtain ⟨_, hw0, hw1⟩ := putEntry_words s primary i (allocWords base (sizeExp (rqA r)))
    obtain ⟨ha, hlt⟩ := rangeFree_aligned (sizeExp_ge _) hf
    obtain ⟨hv, hsz, hb⟩ := allocWords_fields ha hlt he
    refine ⟨_, exec_alloc hp h0 he hf hst hm hi, hdone _ rfl, rfl, List.mem_append_right _ (List.mem_singleton.mpr rfl), hw1, ?_, ?_, ?_⟩
    · exact (congrArg (bitAt · 0) hw0).trans hv
    · exact (congrArg (bits · 31 26) hw0).trans hsz
    · exact (congrArg (bits · 63 32 * 2 ^ 16) hw0).trans hb
  · obtain ⟨hd, hm, ha⟩ := free_frees w (mappingCores s w) s ch (bits w.2 47 16 * 2 ^ 16) r
    exact ⟨_, exec_free hp hw hr, hd, hm, ha⟩
  · obtain ⟨h1, h2⟩ := storeBytes_copied hwf (k := k) (readBytes_length s.mem n host)
    exact ⟨_, exec_copyin hp hc hs hb hq, hdone _ rfl, h1, h2⟩
  · obtain ⟨h1, h2⟩ := storeBytes_copied hwf (k := host) (readBytes_length s.mem n k)
    exact ⟨_, exec_copyout hp hc hb, hdone _ rfl, h1, h2⟩
  · have hk' := kernelOf_append hk ch r
    obtain ⟨h1, h2⟩ := putKernelWord_new h32 hk' rfl
    refine ⟨_, newKernel ch r kid, exec_load_starts hp hl h32 hk hi, hk', rfl, rfl, rfl, ?_, h1, h2⟩
    have hf : loadingKernel { s with kernels := s.kernels ++ [newKernel ch r kid] } ch r = some (newKernel ch r kid) := by
      rw [loadingKernel, List.find?_append, show s.kernels.find? _ = none from hl]
      simp [newKernel]
    exact hf
  · have hx := exec_load_checks (kid := kid) hp hl hst hi
    rw [checkImage_refuses hc] at hx
    exact ⟨_, hx, kernelOf_setKernel (k' := { k with state := 2, refuse := code }) (loadingKernel_mem hl) rfl, rfl, rfl⟩
  · have hx := exec_load_checks (kid := kid) hp hl hst hi
    rw [checkImage_loads hc hf] at hx
    refine ⟨_, hx, hdone _ rfl, ?_, readBytes_writeBytes hwf a img⟩
    exact kernelOf_setKernel (s := storeBytes (giveRange s ownKernel a img.length) a img) (k' := k.loaded img a)
      (loadingKernel_mem hl) rfl
  · obtain ⟨h1, h2⟩ := answered_finish (u := dropKernel s k.kid) (s := s) (ch := ch) rfl r 2 k.refuse []
    exact ⟨_, exec_load_refused hp hl hst, kernelOf_dropKernel s k.kid, rfl, h1, h2⟩
  · exact (exec_unload hp).trans (congrArg _ (unloadRequest_none hk))
  · have hx := exec_unload hp
    rw [unloadRequest_starts hk hst hu] at hx
    obtain ⟨ns, gs, cs, hc⟩ := closeGraphs_frame (setKernel s { k with state := 5, client := ch, tag := rqSeq r + 1 })
    rw [hc] at hx
    refine ⟨_, hx, rfl, ?_⟩
    exact kernelOf_setKernel (s := s) (k' := { k with state := 5, client := ch, tag := rqSeq r + 1 })
      (List.mem_of_find?_eq_some hk) rfl
  · have hx := exec_unload hp
    rw [unloadRequest_ends hk hst hc ht, endUnload, if_pos hu] at hx
    exact hx
  · have hx := exec_unload hp
    rw [unloadRequest_ends hk hst hc ht, endUnload, if_neg (by simp [hu])] at hx
    exact ⟨_, hx, hdone [] rfl, kernelOf_dropKernel (freeRange s k.addr) k.kid⟩
  · obtain ⟨l, hl⟩ := countUnits_life (recordReads s (rqA r) k) s
    exact ⟨l, by rw [← hl]; exact ((execSubmit_header hp hg).2 h0).1 k code hc⟩
  · obtain ⟨hm, hch, hlen, hq⟩ := addNodes_spec (ch := ch) ns _ (graphOf_append (headerCode_gid h0) ch)
    refine ⟨_, ((execSubmit_header hp hg).2 h0).2 ns hc, hdone [] ?_, hm, hlen, _, hq, rfl, rfl, ?_, ?_, rfl⟩
    · exact congrArg (alGet Channel.reset · ch) hch
    · exact Nat.zero_add _
    · exact Nat.zero_add _

end Sys2Proof.Machine
end

section
/-! PROOFS of O60, third part: reset and bring-up, checkpoints, power, heat and attestation (R67, R435, R457 to R462). -/
namespace Sys2Proof.Machine

/-! ## Checkpoints (R461) -/

theorem filter_wf (q : Nat → Bool) : ∀ {lo : Nat} {m : List Host.Cell}, memWfFrom lo m = true →
    memWfFrom lo (m.filter fun c => q c.1) = true
  | _, [], _ => rfl
  | _, c :: cs, h => by
    simp only [memWfFrom, Bool.and_eq_true, decide_eq_true_eq] at h
    have ih := filter_wf q h.2
    by_cases hq : q c.1 = true
    · rw [List.filter_cons_of_pos (p := fun c : Host.Cell => q c.1) hq]
      simp only [memWfFrom, Bool.and_eq_true, decide_eq_true_eq]
      exact ⟨h.1, ih⟩
    · rw [List.filter_cons_of_neg (p := fun c : Host.Cell => q c.1) hq]
      exact memWfFrom_mono ih (by omega)

/-- Bytes at the addresses kept read as before, and every other byte as 0. -/
theorem memGet_filter (q : Nat → Bool) (k : Nat) : ∀ {lo : Nat} {m : List Host.Cell}, memWfFrom lo m = true →
    memGet (m.filter fun c => q c.1) k = if q k then memGet m k else 0
  | _, [], _ => (ite_self _).symm
  | _, c :: cs, h => by
    simp only [memWfFrom, Bool.and_eq_true, decide_eq_true_eq] at h
    have ih := memGet_filter q k h.2
    by_cases hq : q c.1 = true
    · rw [List.filter_cons_of_pos (p := fun c : Host.Cell => q c.1) hq, memGet, memGet, ih]
      by_cases hk : c.1 = k
      · rw [if_pos hk, if_pos hk, if_pos (hk ▸ hq)]
      · rw [if_neg hk, if_neg hk]
        by_cases hlt : k < c.1
        · rw [if_pos hlt, if_pos hlt, ite_self]
        · rw [if_neg hlt, if_neg hlt]
    · rw [List.filter_cons_of_neg (p := fun c : Host.Cell => q c.1) hq, ih, memGet]
      by_cases hk : c.1 = k
      · rw [if_neg (hk ▸ hq), if_neg (hk ▸ hq)]
      · rw [if_neg hk]
        by_cases hlt : k < c.1
        · rw [if_pos hlt, memGet_below h.2 (by omega)]
        · rw [if_neg hlt]

/-- A list in canonical form whose addresses all start at `mid`. -/
theorem wf_from {lo mid : Nat} {m : List Host.Cell} (h : memWfFrom lo m = true) (hm : ∀ c ∈ m, mid ≤ c.1) :
    memWfFrom mid m = true := by
  cases m with
  | nil => rfl
  | cons c cs =>
    simp only [memWfFrom, Bool.and_eq_true, decide_eq_true_eq] at h ⊢
    exact ⟨⟨hm c (by simp), h.1.2⟩, h.2⟩

theorem ownKey_iff {k : Nat} : ownKey k = true ↔ k < 2 ^ 47 ∨ vaultBase ≤ k := by rw [ownKey, decide_eq_true_iff]

/-- Memory with the package's own taken from an image of it. -/
theorem memGet_mergeOwn {m i : List Host.Cell} (hm : Memory.wf m = true) (hi : Memory.wf i = true) (k : Nat) :
    memGet (mergeOwn m (i.filter fun c => ownKey c.1)) k = if k < 2 ^ 47 ∨ vaultBase ≤ k then memGet i k else memGet m k := by
  have himg := filter_wf ownKey hi
  have hA := filter_wf (fun a => decide (a < 2 ^ 47)) himg
  have hB : memWfFrom (2 ^ 47) (m.filter fun c => !(ownKey c.1)) = true :=
    wf_from (filter_wf (fun a => !(ownKey a)) hm) fun c hc => by
      have h := (List.mem_filter.mp hc).2
      rw [Bool.not_eq_true', Bool.eq_false_iff, ne_eq, ownKey_iff, not_or] at h
      omega
  have hC : memWfFrom vaultBase ((i.filter fun c => ownKey c.1).filter fun c => decide (vaultBase ≤ c.1)) = true :=
    wf_from (filter_wf (fun a => decide (vaultBase ≤ a)) himg) fun c hc => by simpa using (List.mem_filter.mp hc).2
  have hBC : memWfFrom (2 ^ 47) ((m.filter fun c => !(ownKey c.1)) ++
      (i.filter fun c => ownKey c.1).filter fun c => decide (vaultBase ≤ c.1)) = true :=
    memWfFrom_append (by decide) hB (fun c hc => by
      have h := (List.mem_filter.mp hc).2
      rw [Bool.not_eq_true', Bool.eq_false_iff, ne_eq, ownKey_iff, not_or] at h
      omega) hC
  rw [mergeOwn, List.append_assoc, memGet_append k hA (fun c hc => by simpa using (List.mem_filter.mp hc).2) hBC,
    memGet_append k hB (fun c hc => by
      have h := (List.mem_filter.mp hc).2
      rw [Bool.not_eq_true', Bool.eq_false_iff, ne_eq, ownKey_iff, not_or] at h
      omega) hC, memGet_filter (fun a => decide (a < 2 ^ 47)) k himg, memGet_filter (fun a => decide (vaultBase ≤ a)) k himg,
    memGet_filter (fun a => !(ownKey a)) k hm, memGet_filter ownKey k hi]
  by_cases hlow : k < 2 ^ 47
  · have ho : ownKey k = true := ownKey_iff.mpr (.inl hlow)
    rw [if_pos hlow, if_pos (decide_eq_true hlow), if_pos ho, if_pos (Or.inl hlow)]
  · by_cases hv : vaultBase ≤ k
    · have ho : ownKey k = true := ownKey_iff.mpr (.inr hv)
      rw [if_neg hlow, if_neg (Nat.not_lt.mpr hv), if_pos (decide_eq_true hv), if_pos ho, if_pos (Or.inr hv)]
    · have ho : ownKey k = false := Bool.eq_false_iff.mpr fun h => not_or.mpr ⟨hlow, hv⟩ (ownKey_iff.mp h)
      rw [if_neg hlow, if_pos (Nat.not_le.mp hv), ho, if_neg (not_or.mpr ⟨hlow, hv⟩)]
      rfl

theorem restore_checkpoint {s u : State} (hs : stillPackage s = true) (hu : stillPackage u = true)
    (ht : u.tier = (checkpoint s).tier) : (restore u).groups = s.groups ∧
      (restore u).mem = mergeOwn u.mem (s.mem.filter fun c => ownKey c.1) := by
  have htier : u.tier = some (tierImage s) := by rw [ht, checkpoint, if_pos hs]
  unfold restore
  rw [htier]
  dsimp only
  rw [if_pos hu]
  exact ⟨rfl, rfl⟩

/-! ## Power and heat (R456, R460, R462) -/

theorem exec_powerClampWindow (avg : Nat) (temps : List Nat) (s : State) :
    ∃ t, exec (.powerClampWindow avg temps) s = .next t ∧ t = { s with clamp := t.clamp, life := t.life } ∧
      t.clamp = clampAfter s.clamp avg temps := by
  by_cases h : s.clamp = 0 ∧ clampAfter s.clamp avg temps = 1
  · exact ⟨count { s with clamp := clampAfter s.clamp avg temps } lifePLIM 0, congrArg _ (if_pos h), rfl, rfl⟩
  · exact ⟨{ s with clamp := clampAfter s.clamp avg temps }, congrArg _ (if_neg h), rfl, rfl⟩

/-- How the clamp level moves in a window (R460). -/
theorem clampAfter_moves (k avg : Nat) (temps : List Nat) :
    ((3600 < avg ∨ ∃ x ∈ temps, 105 ≤ x) → clampAfter k avg temps = min 15 (k + 1)) ∧
      (avg * 100 < 97 * 3600 → (∀ x ∈ temps, x < 100) → clampAfter k avg temps = k - 1) ∧
      (avg ≤ 3600 → (∀ x ∈ temps, x < 105) → (97 * 3600 ≤ avg * 100 ∨ ∃ x ∈ temps, 100 ≤ x) → clampAfter k avg temps = k) := by
  have hany : (temps.any fun t => decide (105 ≤ t)) = true ↔ ∃ x ∈ temps, 105 ≤ x := by simp
  have hall : (temps.all fun t => decide (t < 100)) = true ↔ ∀ x ∈ temps, x < 100 := by simp
  unfold clampAfter
  refine ⟨fun h => if_pos (h.imp_right hany.mpr), fun ha hc => ?_, fun ha hc h => ?_⟩
  · rw [if_neg, if_pos ⟨ha, hall.mpr hc⟩]
    rw [hany]
    rintro (h | ⟨x, hx, h⟩)
    · omega
    · have := hc x hx
      omega
  · rw [if_neg, if_neg]
    · rw [hall]
      rintro ⟨hlt, hcool⟩
      rcases h with h | ⟨x, hx, h⟩
      · omega
      · have := hcool x hx
        omega
    · rw [hany]
      rintro (h' | ⟨x, hx, h'⟩)
      · omega
      · have := hc x hx
        omega

/-- A fold of steps that keep a value keeps it. -/
theorem foldl_keeps {α β : Type} {π : State → β} {f : State → α → State} (h : ∀ s a, π (f s a) = π s) :
    ∀ (l : List α) (s : State), π (l.foldl f s) = π s
  | [], _ => rfl
  | a :: l, s => (foldl_keeps h l (f s a)).trans (h s a)

theorem freezeGroup_life (s : State) (g : Group) : (freezeGroup s g.gid).life = s.life := by
  unfold freezeGroup
  split
  · rfl
  next h _ =>
    split
    · exact foldl_keeps (π := State.life) (f := fun s p => freezeCtx s p.core p.ctx) (fun _ _ => rfl) h.places s
    · rfl

theorem enterRecovery_life (s : State) : (enterRecovery s).life = s.life :=
  foldl_keeps (π := State.life) (f := fun s (g : Group) => freezeGroup s g.gid) freezeGroup_life
    (s.groups.filter fun g => g.st == .running)
    { s with mode := .recovery, tables := alSet s.tables (5, 0, 0) (2 ^ 16) }

theorem exec_thermalTrip {island temp : Nat} (hi : island < 32) (ht : 115 ≤ temp) (s : State) :
    ∃ t, exec (.thermalTrip island temp) s = .next t ∧ t.mem = s.mem ∧
      alGet 0 t.life (4, island * 8 + 7) = min (2 ^ 32 - 1) (alGet 0 s.life (4, island * 8 + 7) + 1) ∧
      (s.mode = .operating → t.mode = .recovery ∧ halted t = true) := by
  have hb : thermBin temp = 7 := by unfold thermBin; omega
  have hlife : alGet 0 (count s lifeTHERM (island * 8 + 7)).life (4, island * 8 + 7) =
      min (2 ^ 32 - 1) (alGet 0 s.life (4, island * 8 + 7) + 1) := alGet_alSet_self ..
  have hx : exec (.thermalTrip island temp) s = .next (if s.mode = .operating then
      enterRecovery (count s lifeTHERM (island * 8 + 7)) else count s lifeTHERM (island * 8 + 7)) := by
    refine congrArg Host.Outcome.next ((if_pos ⟨hi, ht⟩).trans ?_)
    rw [hb]
    rfl
  by_cases hm : s.mode = .operating
  · rw [if_pos hm] at hx
    obtain ⟨h1, h2, h3⟩ := enterRecovery_frame (count s lifeTHERM (island * 8 + 7))
    refine ⟨_, hx, h1, ?_, fun _ => ⟨h2, h3⟩⟩
    exact (congrArg (alGet 0 · (4, island * 8 + 7)) (enterRecovery_life _)).trans hlife
  · rw [if_neg hm] at hx
    exact ⟨_, hx, rfl, hlife, fun h => absurd h hm⟩

/-! ## Bring-up (R435, R459) -/

/-- What a step of the ports' bring-up keeps of the package. -/
structure SameBoot (s t : State) : Prop where
  boot : t.boot = s.boot
  bootStep : t.bootStep = s.bootStep
  mode : t.mode = s.mode
  ck : t.ck = s.ck
  fwRunning : t.fwRunning = s.fwRunning
  rollback : t.rollback = s.rollback

theorem SameBoot.refl (s : State) : SameBoot s s := ⟨rfl, rfl, rfl, rfl, rfl, rfl⟩

theorem SameBoot.trans {s t u : State} (h : SameBoot s t) (g : SameBoot t u) : SameBoot s u :=
  ⟨g.boot.trans h.boot, g.bootStep.trans h.bootStep, g.mode.trans h.mode, g.ck.trans h.ck, g.fwRunning.trans h.fwRunning,
    g.rollback.trans h.rollback⟩

theorem sameBoot_of_quiet {s t : State} (h : Quiet s t) : SameBoot s t := by
  obtain ⟨_, _, _, _, rfl⟩ := h
  exact ⟨rfl, rfl, rfl, rfl, rfl, rfl⟩

theorem sameBoot_modPort (s : State) (p : Nat) (f : Port → Port) : SameBoot s (modPort s p f) := ⟨rfl, rfl, rfl, rfl, rfl, rfl⟩

theorem sameBoot_startTraining (s : State) (p : Nat) : SameBoot s (startTraining s p) :=
  (sameBoot_modPort s p _).trans (sameBoot_of_quiet (quiet_endAllOnLink ..))

theorem sameBoot_portFails (s : State) (p : Nat) : SameBoot s (portFails s p) := by
  have h : SameBoot s (linkLost (modPort s p fun q => { q.discard with state := 5 }) p) :=
    ((sameBoot_modPort s p _).trans (sameBoot_of_quiet (quiet_endAllOnLink ..))).trans ⟨rfl, rfl, rfl, rfl, rfl, rfl⟩
  exact h.trans (sameBoot_of_quiet (quiet_count ..))

/-- The attempt to train a port ends with `n` good lanes, before any ck has passed (R435). -/
def Port.attempt (n : Nat) (q : Port) : Port :=
  if q.state = 1 then
    if n < 4 then
      if 2 ≤ q.fails then { q.discard with state := 5 } else { q with fails := q.fails + 1, trainStart := some 0 }
    else { q with state := if 8 ≤ n then 2 else 3, lanes := min 8 n, fails := 0, trainStart := none }
  else q

/-- The port enters training, before any ck has passed. -/
def Port.starting (q : Port) : Port := { q with state := 1, lanes := 0, trainStart := some 0 }

theorem attemptOver_boot {s : State} (h : s.ck = 0) (p : Nat) : attemptOver s p = false := by
  unfold attemptOver
  rw [h]
  cases (getPort s p).trainStart with
  | none => rfl
  | some t =>
    rw [Option.any_some, decide_eq_false_iff_not]
    exact Nat.not_lt_zero _

theorem boot_endTraining {s : State} (hck : s.ck = 0) (p n : Nat) :
    SameBoot s (endTraining s p n) ∧ PortTo p ((getPort s p).attempt n) s (endTraining s p n) := by
  by_cases h1 : (getPort s p).state = 1
  · by_cases hn : n < 4
    · rw [endTraining_failed h1 (.inl hn), Port.attempt, if_pos h1, if_pos hn]
      rcases Nat.lt_or_ge (getPort s p).fails 2 with hf | hf
      · rw [trainingFailed_next hf, if_neg (by omega), hck]
        exact ⟨sameBoot_modPort .., portTo_modPort p (fun q => { q with fails := q.fails + 1, trainStart := some 0 }) s⟩
      · rw [trainingFailed_last hf, if_pos hf]
        exact ⟨sameBoot_portFails s p, portTo_portFails p s⟩
    · rw [endTraining_done h1 (by omega) (attemptOver_boot hck p), Port.attempt, if_pos h1, if_neg hn]
      exact ⟨sameBoot_modPort .., portTo_modPort p
        (fun q => { q with state := if 8 ≤ n then 2 else 3, lanes := min 8 n, fails := 0, trainStart := none }) s⟩
  · rw [endTraining, if_neg h1, Port.attempt, if_neg h1]
    exact ⟨.refl s, rfl, rfl, rfl, rfl, rfl, fun _ _ => rfl⟩

theorem boot_startTraining {s : State} (hck : s.ck = 0) (p : Nat) :
    SameBoot s (startTraining s p) ∧ PortTo p (getPort s p).starting s (startTraining s p) := by
  have h := portTo_startTraining p s
  rw [hck] at h
  exact ⟨sameBoot_startTraining s p, h⟩

/-- A fold of changes of one port each, over ports that differ. -/
theorem boot_foldPorts {f : State → Nat → State} {F : Nat → Port → Port}
    (hf : ∀ s p, s.ck = 0 → SameBoot s (f s p) ∧ PortTo p (F p (getPort s p)) s (f s p)) :
    ∀ (l : List Nat), l.Nodup → ∀ s : State, s.ck = 0 → SameBoot s (l.foldl f s) ∧
      ∀ p, getPort (l.foldl f s) p = if p ∈ l then F p (getPort s p) else getPort s p
  | [], _, s, _ => ⟨.refl s, fun _ => (if_neg (by simp)).symm⟩
  | a :: l, hl, s, hck => by
    obtain ⟨ha, hnd⟩ := List.nodup_cons.mp hl
    obtain ⟨hb, hp⟩ := hf s a hck
    obtain ⟨hb', hp'⟩ := boot_foldPorts hf l hnd (f s a) (hb.ck.trans hck)
    refine ⟨hb.trans hb', fun p => ?_⟩
    rw [List.foldl_cons, hp' p]
    by_cases hpa : p = a
    · subst hpa
      rw [if_neg ha, if_pos (by simp), hp.port]
    · rw [hp.others p hpa]
      simp only [List.mem_cons, hpa, false_or]

/-- A port after `k` rounds of bring-up, with `n` good lanes. -/
def Port.bootAfter (n : Nat) : Nat → Port
  | 0 => Port.reset
  | 1 => Port.reset.starting
  | k + 2 => (Port.bootAfter n (k + 1)).attempt n

theorem attempt_state_ne_zero {q : Port} (n : Nat) (h : q.state ≠ 0) : (q.attempt n).state ≠ 0 := by
  unfold Port.attempt
  split
  · split
    · split
      · exact Nat.succ_ne_zero 4
      · exact h
    · dsimp only
      split
      · exact Nat.succ_ne_zero 1
      · exact Nat.succ_ne_zero 2
  · exact h

theorem bootAfter_state_ne_zero (n : Nat) : ∀ k, (Port.bootAfter n (k + 1)).state ≠ 0
  | 0 => Nat.succ_ne_zero 0
  | k + 1 => attempt_state_ne_zero n (bootAfter_state_ne_zero n k)

theorem attempt_rate (n : Nat) (q : Port) : (q.attempt n).rate = q.rate := by
  unfold Port.attempt
  split
  · split
    · split
      · rfl
      · rfl
    · rfl
  · rfl

theorem bootAfter_rate (n : Nat) : ∀ k, (Port.bootAfter n k).rate = 200
  | 0 => rfl
  | 1 => rfl
  | k + 2 => (attempt_rate n _).trans (bootAfter_rate n (k + 1))

/-- A port with too few lanes trains three times, and has then failed. -/
theorem bootAfter_fails {n : Nat} (h : n < 4) : (Port.bootAfter n 2).state = 1 ∧ (Port.bootAfter n 3).state = 1 ∧
    (Port.bootAfter n 4).state = 5 := by
  refine ⟨?_, ?_, ?_⟩ <;> simp [Port.bootAfter, Port.attempt, Port.starting, Port.reset, h]

/-- A port with lanes enough is trained by its first attempt, for good. -/
theorem bootAfter_trained {n : Nat} (h : 4 ≤ n) (k : Nat) : (Port.bootAfter n (k + 2)).state = if 8 ≤ n then 2 else 3 := by
  have h4 : ¬n < 4 := by omega
  induction k with
  | zero => simp [Port.bootAfter, Port.attempt, Port.starting, Port.reset, h4]
  | succ k ih =>
    rw [Port.bootAfter, Port.attempt, if_neg, ih]
    rw [ih]
    split
    · decide
    · decide

/-- Bring-up with firmware that runs stands at a step, its ports after `k` rounds. -/
structure BootAt (b : BootInputs) (rb step k : Nat) (s : State) : Prop where
  boot : s.boot = some b
  bootStep : s.bootStep = step
  mode : s.mode = .startup
  ck : s.ck = 0
  fwRunning : s.fwRunning = true
  rollback : s.rollback = rb
  ports : ∀ p, p < 16 → getPort s p = Port.bootAfter (b.lanes.getD p 0) k

section Boot
variable {b : BootInputs} {rb k : Nat} {s : State}

theorem bringUp_booting (hb : s.boot = some b) (hm : s.mode = .startup) : bringUp s = bootDo b s := by
  unfold bringUp
  rw [hb, hm]

theorem bootAt_same {t : State} {step : Nat} (h : BootAt b rb step k s) (g : SameBoot s t)
    {k' : Nat} (hp : ∀ p, p < 16 → getPort t p = Port.bootAfter (b.lanes.getD p 0) k') : BootAt b rb step k' t :=
  ⟨g.boot.trans h.boot, g.bootStep.trans h.bootStep, g.mode.trans h.mode, g.ck.trans h.ck, g.fwRunning.trans h.fwRunning,
    g.rollback.trans h.rollback, hp⟩

/-- The ports in a state. -/
def portsIn (s : State) (st : Nat) : List Nat := (List.range 16).filter fun p => (getPort s p).state == st

theorem mem_portsIn {p st : Nat} : p ∈ portsIn s st ↔ p < 16 ∧ (getPort s p).state = st := by
  simp [portsIn]

theorem portsIn_nodup (s : State) (st : Nat) : (portsIn s st).Nodup := List.nodup_range.filter _

theorem portsIn_empty {st : Nat} (h : ∀ p, p < 16 → (getPort s p).state ≠ st) : (portsIn s st).isEmpty = true := by
  rw [List.isEmpty_iff, List.eq_nil_iff_forall_not_mem]
  exact fun p hp => h p (mem_portsIn.mp hp).1 (mem_portsIn.mp hp).2

theorem portsIn_nonempty {p st : Nat} (hp : p < 16) (h : (getPort s p).state = st) : (portsIn s st).isEmpty = false := by
  rw [List.isEmpty_eq_false_iff_exists_mem]
  exact ⟨p, mem_portsIn.mpr ⟨hp, h⟩⟩

theorem bootPorts_eq (b : BootInputs) (s : State) : bootPorts b s =
    if !(portsIn s 0).isEmpty then (portsIn s 0).foldl startTraining s
    else if !(portsIn s 1).isEmpty then (portsIn s 1).foldl (fun s p => endTraining s p (b.lanes.getD p 0)) s
    else { s with bootStep := s.bootStep + 1 } := rfl

/-- Every port leaves Down for Training. -/
theorem bootPorts_starts (h : BootAt b rb 6 0 s) : BootAt b rb 6 1 (bootPorts b s) := by
  have h0 : (portsIn s 0).isEmpty = false := portsIn_nonempty (p := 0) (by decide) (by rw [h.ports 0 (by decide)]; rfl)
  obtain ⟨hb, hp⟩ := boot_foldPorts (F := fun _ => Port.starting) (fun _ p hck => boot_startTraining hck p) (portsIn s 0)
    (portsIn_nodup s 0) s h.ck
  rw [bootPorts_eq, h0]
  refine bootAt_same h hb fun p hlt => (hp p).trans ?_
  rw [if_pos (mem_portsIn.mpr ⟨hlt, by rw [h.ports p hlt]; rfl⟩), h.ports p hlt]
  rfl

theorem bootAt_none_down (h : BootAt b rb 6 (k + 1) s) : (portsIn s 0).isEmpty = true :=
  portsIn_empty fun p hlt => by
    rw [h.ports p hlt]
    exact bootAfter_state_ne_zero _ k

/-- Every port in training ends an attempt. -/
theorem bootPorts_trains (h : BootAt b rb 6 (k + 1) s) {p : Nat} (hlt : p < 16)
    (h1 : (Port.bootAfter (b.lanes.getD p 0) (k + 1)).state = 1) : BootAt b rb 6 (k + 2) (bootPorts b s) := by
  obtain ⟨hb, hp⟩ := boot_foldPorts (F := fun p q => q.attempt (b.lanes.getD p 0)) (fun _ p hck => boot_endTraining hck p _)
    (portsIn s 1) (portsIn_nodup s 1) s h.ck
  rw [bootPorts_eq, bootAt_none_down h, portsIn_nonempty hlt (by rw [h.ports p hlt]; exact h1)]
  refine bootAt_same h hb fun p hlt => (hp p).trans ?_
  rw [h.ports p hlt]
  by_cases hs : (Port.bootAfter (b.lanes.getD p 0) (k + 1)).state = 1
  · rw [if_pos (mem_portsIn.mpr ⟨hlt, by rw [h.ports p hlt]; exact hs⟩)]
    rfl
  · rw [if_neg fun hm => hs (by rw [← h.ports p hlt]; exact (mem_portsIn.mp hm).2)]
    exact (if_neg hs).symm

/-- With no port in training, bring-up goes on to enumeration. -/
theorem bootPorts_ends (h : BootAt b rb 6 (k + 1) s)
    (h1 : ∀ p, p < 16 → (Port.bootAfter (b.lanes.getD p 0) (k + 1)).state ≠ 1) : BootAt b rb 7 (k + 1) (bootPorts b s) := by
  rw [bootPorts_eq, bootAt_none_down h, portsIn_empty fun p hlt => by rw [h.ports p hlt]; exact h1 p hlt]
  exact ⟨h.boot, congrArg (· + 1) h.bootStep, h.mode, h.ck, h.fwRunning, h.rollback, h.ports⟩

theorem bringUp_ports (h : BootAt b rb 6 k s) : bringUp s = bootPorts b s := by
  rw [bringUp_booting h.boot h.mode, bootDo, h.bootStep] <;> rfl

/-- Steps 2 to 5 of bring-up touch no port. -/
theorem bringUp_early {step : Nat} (h : BootAt b rb step k s) (hs : step ∈ [2, 3, 4, 5]) : BootAt b rb (step + 1) k (bringUp s) := by
  have hn : s.bootStep + 1 = step + 1 := congrArg (· + 1) h.bootStep
  simp only [List.mem_cons, List.not_mem_nil, or_false] at hs
  rw [bringUp_booting h.boot h.mode, bootDo, h.bootStep]
  rcases hs with rfl | rfl | rfl | rfl
  · exact ⟨h.boot, rfl, h.mode, h.ck, h.fwRunning, h.rollback, h.ports⟩
  · exact ⟨h.boot, rfl, h.mode, h.ck, h.fwRunning, h.rollback, h.ports⟩
  · exact ⟨h.boot, rfl, h.mode, h.ck, h.fwRunning, h.rollback, h.ports⟩
  · exact ⟨h.boot, rfl, h.mode, h.ck, h.fwRunning, h.rollback, h.ports⟩

/-- A port whose peer enumeration has named. -/
def Port.named (q : Port) (peer : Nat) : Port := { q with peer := peer }

/-- The package after enumeration: as before, but for the peers that the ports name. -/
structure Enumerated (b : BootInputs) (rb k : Nat) (s : State) : Prop where
  boot : s.boot = some b
  bootStep : s.bootStep = 8
  mode : s.mode = .startup
  fwRunning : s.fwRunning = true
  rollback : s.rollback = rb
  ports : ∀ p, p < 16 → getPort s p = (Port.bootAfter (b.lanes.getD p 0) k).named (b.peers.getD p 0 % 64)

theorem alGet_range {β : Type} (d : β) (f : Nat → β) {n p : Nat} (hp : p < n) :
    alGet d ((List.range n).map fun p => (p, f p)) p = f p := by
  have h : ∀ (l : List Nat), p ∈ l → alGet d (l.map fun p => (p, f p)) p = f p := by
    intro l
    induction l with
    | nil => exact fun hp => absurd hp (by simp)
    | cons a l ih =>
      intro hp
      by_cases ha : a = p
      · rw [List.map_cons, alGet, if_pos ha, ha]
      · rw [List.map_cons, alGet, if_neg ha]
        exact ih ((List.mem_cons.mp hp).resolve_left (Ne.symm ha))
  exact h _ (List.mem_range.mpr hp)

/-- The ports once enumeration has named their peers. -/
def namedPorts (b : BootInputs) (s : State) : List (Nat × Port) :=
  (List.range 16).map fun p => (p, (getPort s p).named (b.peers.getD p 0 % 64))

theorem enumerate_frame (b : BootInputs) (s : State) : SameBoot s (enumerate b s) ∧ (enumerate b s).ports = namedPorts b s := by
  unfold enumerate
  dsimp only
  split
  · exact ⟨⟨rfl, rfl, rfl, rfl, rfl, rfl⟩, rfl⟩
  · exact ⟨⟨rfl, rfl, rfl, rfl, rfl, rfl⟩, rfl⟩

theorem bringUp_enumerates (h : BootAt b rb 7 k s) : Enumerated b rb k (bringUp s) := by
  have hx : bringUp s = enumerate b { s with bootStep := 8 } := by
    rw [bringUp_booting h.boot h.mode, bootDo, h.bootStep] <;> rfl
  obtain ⟨hb, hp⟩ := enumerate_frame b { s with bootStep := 8 }
  rw [hx]
  refine ⟨hb.boot.trans h.boot, hb.bootStep, hb.mode.trans h.mode, hb.fwRunning.trans h.fwRunning, hb.rollback.trans h.rollback,
    fun p hlt => ?_⟩
  rw [getPort, hp, namedPorts, alGet_range _ _ hlt]
  exact congrArg (Port.named · _) (h.ports p hlt)

/-- The last step puts the package into Service. -/
theorem bringUp_serves (h : Enumerated b rb k s) : (bringUp s).mode = .operating ∧ (bringUp s).fwRunning = true ∧
    (bringUp s).rollback = rb ∧ (bringUp s).ports = s.ports := by
  have hx : bringUp s = { bootStops s with mode := .operating, tables := alSet s.tables (5, 0, 0) 0 } := by
    rw [bringUp_booting h.boot h.mode, bootDo, h.bootStep] <;> rfl
  rw [hx]
  exact ⟨rfl, h.fwRunning, h.rollback, rfl⟩

/-- `n` steps of bring-up. -/
def bringUps (n : Nat) (s : State) : State := Nat.repeat bringUp n s

theorem bringUps_succ (n : Nat) (s : State) : bringUps (n + 1) s = bringUp (bringUps n s) := rfl

/-- Bring-up from the sixth step on, where the ports need `j` rounds: each step before the last leaves the package in start-up. -/
theorem bringUps_last {j : Nat} {u : State} (h : BootAt b rb 7 k (bringUps j u)) :
    ((bringUps j u).mode = .startup ∧ (bringUps (j + 1) u).mode = .startup) ∧ (bringUps (j + 2) u).mode = .operating ∧
      (bringUps (j + 2) u).fwRunning = true ∧ (bringUps (j + 2) u).rollback = rb ∧
      ∀ p, p < 16 → getPort (bringUps (j + 2) u) p = (Port.bootAfter (b.lanes.getD p 0) k).named (b.peers.getD p 0 % 64) := by
  have he := bringUp_enumerates h
  obtain ⟨h1, h2, h3, h4⟩ := bringUp_serves he
  refine ⟨⟨h.mode, he.mode⟩, h1, h2, h3, fun p hlt => ?_⟩
  rw [getPort, show (bringUps (j + 2) u).ports = _ from h4]
  exact he.ports p hlt

/-- The package as reset leaves it, with what the firmware is told. -/
def resetState (b : BootInputs) (s : State) : State := { cleared s with boot := some b, bootStep := 1 }

theorem bringUp_refuses (hf : b.fwValid = false ∨ b.fwVersion < s.rollback) (n : Nat) :
    bringUps (n + 1) (resetState b s) = bootStops (resetState b s) := by
  induction n with
  | zero =>
    have hx : bringUps 1 (resetState b s) = bootDo b (resetState b s) := rfl
    have hd : bootDo b (resetState b s) = if b.fwValid = true ∧ s.rollback ≤ b.fwVersion then _ else bootStops (resetState b s) := rfl
    rw [hx, hd, if_neg]
    rintro ⟨hv, hle⟩
    rcases hf with h | h
    · rw [hv] at h
      exact Bool.false_ne_true h.symm
    · omega
  | succ n ih =>
    rw [bringUps_succ, ih]
    rfl

/-- With firmware that passes its checks, the ports are still down before step 6, and trained once in the second round. -/
theorem bringUps_started (hv : b.fwValid = true) (hr : s.rollback ≤ b.fwVersion) :
    (∀ j, j < 6 → (bringUps j (resetState b s)).mode = .startup) ∧ BootAt b s.rollback 6 1 (bringUps 6 (resetState b s)) := by
  have h1 : BootAt b s.rollback 2 0 (bringUps 1 (resetState b s)) := by
    have hx : bringUps 1 (resetState b s) = if b.fwValid = true ∧ s.rollback ≤ b.fwVersion then
        { resetState b s with bootStep := 2, fwRunning := true, fwDigest := b.fwDigest, fwVersion := b.fwVersion }
      else bootStops (resetState b s) := rfl
    rw [hx, if_pos ⟨hv, hr⟩]
    exact ⟨rfl, rfl, rfl, rfl, rfl, rfl, fun _ _ => rfl⟩
  have h2 := bringUp_early h1 (by decide)
  have h3 := bringUp_early h2 (by decide)
  have h4 := bringUp_early h3 (by decide)
  have h5 := bringUp_early h4 (by decide)
  have h6 := bootPorts_starts h5
  rw [← bringUp_ports h5] at h6
  refine ⟨fun j hj => ?_, h6⟩
  match j, hj with
  | 0, _ => rfl
  | 1, _ => exact h1.mode
  | 2, _ => exact h2.mode
  | 3, _ => exact h3.mode
  | 4, _ => exact h4.mode
  | 5, _ => exact h5.mode

/-- Where every port has lanes enough, ten steps bring the package into Service. -/
theorem bringUps_ten (hv : b.fwValid = true) (hr : s.rollback ≤ b.fwVersion) (hl : ∀ p, p < 16 → 4 ≤ b.lanes.getD p 0) :
    (∀ j, j < 8 → (bringUps j (resetState b s)).mode = .startup) ∧ BootAt b s.rollback 7 2 (bringUps 8 (resetState b s)) := by
  obtain ⟨hs, h6⟩ := bringUps_started hv hr
  have h7 := bootPorts_trains h6 (p := 0) (by decide) rfl
  rw [← bringUp_ports h6] at h7
  have h8 := bootPorts_ends h7 fun p hlt => by
    rw [bootAfter_trained (hl p hlt) 0]
    split
    · decide
    · decide
  rw [← bringUp_ports h7] at h8
  refine ⟨fun j hj => ?_, h8⟩
  rcases Nat.lt_or_ge j 6 with h | h
  · exact hs j h
  · obtain rfl | rfl : j = 6 ∨ j = 7 := by omega
    · exact h6.mode
    · exact h7.mode

/-- Where some port has too few, twelve steps do: two more attempts, after which the port has failed. -/
theorem bringUps_twelve (hv : b.fwValid = true) (hr : s.rollback ≤ b.fwVersion) {p : Nat} (hp : p < 16) (hl : b.lanes.getD p 0 < 4) :
    (∀ j, j < 10 → (bringUps j (resetState b s)).mode = .startup) ∧ BootAt b s.rollback 7 4 (bringUps 10 (resetState b s)) := by
  obtain ⟨hs, h6⟩ := bringUps_started hv hr
  obtain ⟨f2, f3, _⟩ := bootAfter_fails hl
  have h7 := bootPorts_trains h6 hp rfl
  rw [← bringUp_ports h6] at h7
  have h8 := bootPorts_trains h7 hp f2
  rw [← bringUp_ports h7] at h8
  have h9 := bootPorts_trains h8 hp f3
  rw [← bringUp_ports h8] at h9
  have h10 := bootPorts_ends h9 fun q hq => by
    rcases Nat.lt_or_ge (b.lanes.getD q 0) 4 with h | h
    · rw [(bootAfter_fails h).2.2]
      decide
    · rw [bootAfter_trained h 2]
      split
      · decide
      · decide
  rw [← bringUp_ports h9] at h10
  refine ⟨fun j hj => ?_, h10⟩
  rcases Nat.lt_or_ge j 6 with h | h
  · exact hs j h
  · obtain rfl | rfl | rfl | rfl : j = 6 ∨ j = 7 ∨ j = 8 ∨ j = 9 := by omega
    · exact h6.mode
    · exact h7.mode
    · exact h8.mode
    · exact h9.mode

/-- What bring-up comes to in the end: the package in Service, each port as its lanes let it train. -/
structure Served (b : BootInputs) (rb : Nat) (t : State) : Prop where
  mode : t.mode = .operating
  fwRunning : t.fwRunning = true
  rollback : t.rollback = rb
  ports : ∀ p, p < 16 → (getPort t p).peer = b.peers.getD p 0 % 64 ∧ (getPort t p).rate = 200 ∧
    (8 ≤ b.lanes.getD p 0 → (getPort t p).state = 2) ∧
    (4 ≤ b.lanes.getD p 0 → b.lanes.getD p 0 < 8 → (getPort t p).state = 3) ∧
    (b.lanes.getD p 0 < 4 → (getPort t p).state = 5)

theorem served_of_bootAt {j : Nat} {u : State} (hs : ∀ i, i < j → (bringUps i u).mode = .startup)
    (h : BootAt b rb 7 (k + 2) (bringUps j u)) (hk : ∀ p, p < 16 → b.lanes.getD p 0 < 4 → (Port.bootAfter (b.lanes.getD p 0) (k + 2)).state = 5) :
    (∀ i, i < j + 2 → (bringUps i u).mode = .startup) ∧ Served b rb (bringUps (j + 2) u) := by
  obtain ⟨⟨m0, m1⟩, hm, hf, hr, hp⟩ := bringUps_last h
  refine ⟨fun i hi => ?_, hm, hf, hr, fun p hlt => ?_⟩
  · rcases Nat.lt_or_ge i j with hij | hij
    · exact hs i hij
    · obtain rfl | rfl : i = j ∨ i = j + 1 := by omega
      · exact m0
      · exact m1
  · rw [hp p hlt]
    refine ⟨rfl, bootAfter_rate .., fun h8 => ?_, fun h4 h8 => ?_, fun h4 => hk p hlt h4⟩
    · exact (bootAfter_trained (by omega) k).trans (if_pos h8)
    · exact (bootAfter_trained h4 k).trans (if_neg (by omega))

end Boot

theorem exec_attestation {s : State} {nonce : Nat} (hf : s.fwRunning = true) (hn : nonce < 2 ^ 256) : exec (.attestation nonce) s =
    .next { s with attests := s.attests ++ [(nonce, Config.sign (attestMessage s nonce))] } :=
  congrArg Host.Outcome.next (if_pos ⟨hf, hn⟩)

/-! ## The claim -/

theorem serviceEvents : Claims.ServiceEvents := by
  intro b avg island temp nonce temps s
  refine ⟨⟨resetState b s, rfl, rfl, rfl, rfl, rfl, rfl, rfl, rfl, fun _ => rfl, ?_⟩, fun v => ⟨fun hf => ?_, fun hf => ?_⟩,
    fun u hs hu hsm hum ht => ?_, fun hm => congrArg _ (if_pos hm), fun hm => congrArg _ (if_neg hm), ?_,
    fun hi ht => exec_thermalTrip hi ht s, fun hf hn => ⟨_, _, exec_attestation hf hn, rfl⟩,
    fun hf => congrArg _ (if_neg fun h => ?_)⟩
  · refine ⟨fun _ => rfl, fun hv hr => ?_, fun hf n => ?_⟩
    · have h6 := (bringUps_started hv hr).2
      intro n
      have hdown : ∀ p, p < 16 → (getPort (bringUps 6 (resetState b s)) p).state = 1 := fun p hlt => by
        rw [h6.ports p hlt]
        rfl
      have hall : ((List.range 16).all fun p => decide (4 ≤ b.lanes.getD p 0)) = true ↔ ∀ p, p < 16 → 4 ≤ b.lanes.getD p 0 := by
        simp
      by_cases hl : ∀ p, p < 16 → 4 ≤ b.lanes.getD p 0
      · have hn : n = 10 := if_pos (hall.mpr hl)
        obtain ⟨hs, h8⟩ := bringUps_ten hv hr hl
        obtain ⟨hst, hserved⟩ := served_of_bootAt hs h8 fun p hlt h4 => absurd (hl p hlt) (by omega)
        rw [hn]
        exact ⟨hst, hdown, hserved.mode, hserved.fwRunning, hserved.rollback, hserved.ports⟩
      · have hn : n = 12 := if_neg fun h => hl (hall.mp h)
        push Not at hl
        obtain ⟨p, hp, h4⟩ := hl
        obtain ⟨hs, h10⟩ := bringUps_twelve hv hr hp h4
        obtain ⟨hst, hserved⟩ := served_of_bootAt hs h10 fun q _ hq => (bootAfter_fails hq).2.2
        rw [hn]
        exact ⟨hst, hdown, hserved.mode, hserved.fwRunning, hserved.rollback, hserved.ports⟩
    · cases n with
      | zero => exact ⟨rfl, rfl, fun _ => rfl⟩
      | succ n =>
        have hx := bringUp_refuses (s := s) hf n
        exact ⟨congrArg State.mode hx, congrArg State.fwRunning hx, fun c => congrArg (fun t => (getChannel t c).en) hx⟩
  · rw [raiseRollback, if_pos hf]
  · rw [raiseRollback, if_neg (by simp [hf])]
  · obtain ⟨hg, hm⟩ := restore_checkpoint hs hu ht
    refine ⟨hg, fun k => ?_⟩
    rw [hm]
    exact memGet_mergeOwn hum hsm k
  · obtain ⟨t, hx, ht, hc⟩ := exec_powerClampWindow avg temps s
    obtain ⟨h1, h2, h3⟩ := clampAfter_moves s.clamp avg temps
    rw [← hc] at h1 h2 h3
    exact ⟨t, hx, ht, h1, h2, h3⟩
  · rw [hf] at h
    exact Bool.false_ne_true h.1

/-- Settles O60: a request's event answers it as its case of the lemmas above says, and bring-up takes ten steps, or twelve where
a port fails. -/
theorem eventsOfHost : Obligations.EventsOfHost := ⟨hostChannels, hostRequests, serviceEvents⟩

end Sys2Proof.Machine
end

section
/-! PROOFS of O56, first part: results that land, reports and the data queue (R61, R75, R84, R189, R207, R440). -/
namespace Sys2Proof.Machine

section Landing
variable {s : State} {c x i : Nat} {r : LongRes}

/-- Another result, or a far load, is on its way to the register of a result. -/
def Ctx.awaits (t : Ctx) (r : LongRes) : Prop :=
  (∃ q ∈ t.longs.erase r, q.d = r.d) ∨ ∃ f ∈ t.far, f.kind ≠ .store ∧ f.d = r.d

theorem loads_iff (k : FarKind) : k.loads = true ↔ k ≠ .store := by cases k <;> simp [FarKind.loads]

theorem fullAfter_awaited {t : Ctx} (h : t.awaits r) : fullAfter t.full r.d (t.longs.erase r) t.far = t.full := by
  rw [fullAfter, if_pos]
  rw [Bool.or_eq_true]
  rcases h with ⟨q, hq, hd⟩ | ⟨f, hf, hk, hd⟩
  · exact .inl (List.any_eq_true.mpr ⟨q, hq, by simpa using hd⟩)
  · exact .inr (List.any_eq_true.mpr ⟨f, hf, by rw [(loads_iff _).mpr hk]; simpa using hd⟩)

theorem fullAfter_last {t : Ctx} (h : ¬t.awaits r) :
    fullAfter t.full r.d (t.longs.erase r) t.far = t.full ||| ((1 : BitVec 32) <<< r.d.val) := by
  rw [fullAfter, if_neg]
  rw [Bool.or_eq_true]
  rintro (hq | hf)
  · obtain ⟨q, hq, hd⟩ := List.any_eq_true.mp hq
    exact h (.inl ⟨q, hq, by simpa using hd⟩)
  · obtain ⟨f, hf, hd⟩ := List.any_eq_true.mp hf
    rw [Bool.and_eq_true, loads_iff] at hd
    exact h (.inr ⟨f, hf, hd.1, by simpa using hd.2⟩)

/-- A context in which a result has landed, its flags aside. -/
def Ctx.landed (r : LongRes) (t : Ctx) : Ctx :=
  { t with g := t.g.set r.d r.v, full := fullAfter t.full r.d (t.longs.erase r) t.far, longs := t.longs.erase r }

theorem getCtx_landLong (s : State) (c x : Nat) (r : LongRes) : ∃ k n, getCtx (landLong s c x r) c x =
    { (getCtx s c x).landed r with flags := (getCtx s c x).flags ||| r.flags, foldCk := k, foldNow := n } := by
  have h1 : getCtx (modCtx s c x (Ctx.landed r)) c x = (getCtx s c x).landed r := getCtx_modCtx_self ..
  have hl : landLong s c x r = foldAt (modCtx s c x (Ctx.landed r)) c x r.due r.flags := rfl
  rw [hl, foldAt]
  by_cases hf : r.flags = 0
  · rw [if_pos hf, h1, hf]
    exact ⟨(getCtx s c x).foldCk, (getCtx s c x).foldNow, by rw [show (getCtx s c x).flags ||| 0 = (getCtx s c x).flags from BitVec.or_zero]; rfl⟩
  · rw [if_neg hf, getCtx_modCtx_self, h1]
    exact ⟨_, _, rfl⟩

theorem exec_longLatencyLanding (hr : (getCtx s c x).longs[i]? = some r) : exec (.longLatencyLanding c x i) s =
    .next (if r.due ≤ s.ck ∧ landsNext (getCtx s c x).longs r = true then landLong s c x r else s) := by
  have hx : exec (.longLatencyLanding c x i) s = execLongLatencyLanding c x i s := rfl
  rw [hx]
  simp only [execLongLatencyLanding, hr]

end Landing

/-! ## Exposed results (R61) -/

theorem splitDue_later {icyc ck : Nat} : ∀ {fs : List Flight}, (∀ f ∈ fs, icyc < f.due) → splitDue icyc ck fs [] = ([], fs)
  | [], _ => rfl
  | f :: fs, h => by
    rw [splitDue, if_neg (Nat.not_le.mpr (h f (by simp))), splitDue_later fun q hq => h q (by simp [hq])]

theorem splitDue_first {icyc ck : Nat} {f : Flight} {fs : List Flight} (hd : f.due = icyc) (hr : f.ready ≤ ck)
    (h : ∀ f ∈ fs, icyc < f.due) : splitDue icyc ck (f :: fs) [] = ([f], fs) := by
  rw [splitDue, if_pos hd.le, if_pos ⟨hr, by simp⟩, splitDue_later h]

theorem exec_exposedResultDelivery {s : State} {c x : Nat} {d : Fin 32} {v : Word} {f : Flight} {fs : List Flight}
    (hst : (getCtx s c x).st = .current) (hf : (getCtx s c x).flights = f :: fs) (hd : f.due = (getCtx s c x).icyc)
    (hr : f.ready ≤ s.ck) (hw : f.w = .g d v) (h : ∀ f ∈ fs, (getCtx s c x).icyc < f.due) :
    exec (.exposedResultDelivery c x) s = .next (modCtx (setCtx s c x { getCtx s c x with flights := fs }) c x
      fun t => { t with g := t.g.set d v }) := by
  have hx : exec (.exposedResultDelivery c x) s = execExposedResultDelivery c x s := rfl
  have hdel : deliver s c x = modCtx (setCtx s c x { getCtx s c x with flights := fs }) c x fun t => { t with g := t.g.set d v } := by
    rw [deliver]
    dsimp only
    rw [hf, splitDue_first hd hr h]
    simp only [List.foldl_cons, List.foldl_nil, hw]
    rfl
  rw [hx, execExposedResultDelivery, if_pos hst, hdel]

/-! ## The data queue (R207, R440) -/

section Data
variable {s : State} {c x i : Nat} {e : DqEnt}

/-- The entry `i` of a context's data queue becomes another. -/
def Ctx.setDq (i : Nat) (e : DqEnt) (t : Ctx) : Ctx := { t with dq := t.dq.set i e }

/-- The state in which the entry `i` of a data queue has become another. -/
def setDq (s : State) (c x i : Nat) (e : DqEnt) : State := modCtx s c x (Ctx.setDq i e)

/-- An entry that arrives poisoned. -/
def DqEnt.bad (e : DqEnt) : DqEnt := { e with arrived := true, poison := true, data := List.replicate e.n 0 }

/-- A request that reads its bytes at once, whole. -/
def arriveWhole (s : State) (c x i : Nat) (e : DqEnt) (key : Nat) : State :=
  if poisoned s key e.n then setDq (countBad s key) c x i e.bad
  else setDq s c x i { e with arrived := true, data := readBytes s.mem key e.n }

/-- A request that reads one word of its 16 bytes, the high one or the low. -/
def arriveWord (s : State) (c x i : Nat) (e : DqEnt) (key : Nat) (high : Bool) : State :=
  let k := if high then key + 8 else key
  if poisoned s k 8 then setDq (countBad s k) c x i e.bad
  else match e.got with
    | none => setDq { s with freeCtr := s.freeCtr + 1 } c x i { e with got := some (high, readBytes s.mem k 8) }
    | some g => setDq { s with freeCtr := s.freeCtr + 1 } c x i
        { e with arrived := true, got := none, data := if high then g.2 ++ readBytes s.mem k 8 else readBytes s.mem k 8 ++ g.2 }

/-- What is next of a request of host memory: the other word than the one it has got. -/
def nextHigh (s : State) (e : DqEnt) : Bool := match e.got with | some g => !g.1 | none => bitAt (openVal s) 0

/-- A request that is next, and has not been sent. -/
structure Requests (s : State) (c x i : Nat) (e : DqEnt) : Prop where
  entry : (getCtx s c x).dq[i]? = some e
  arrived : e.arrived = false
  parked : e.parked = false
  sent : e.sent = none
  first : earlierMeets s c x e.uid (homeAt s c x e.addr) = false

theorem exec_dataQueueArrival (h : Requests s c x i e) (hh : holeOf s c x e.addr = none) :
    exec (.dataQueueArrival c x i) s = .next (arriveData s c x i) := by
  have hx : exec (.dataQueueArrival c x i) s = execDataQueueArrival c x i s := rfl
  rw [hx, execDataQueueArrival, h.entry, Option.bind_some, h.arrived, if_neg Bool.false_ne_true, hh]

theorem arriveData_miss (h : Requests s c x i e) (hp : placeOf s c x e.addr e.n = .miss) :
    arriveData s c x i = setDq s c x i e.bad := by
  obtain ⟨he, ha, hk, hs, hf⟩ := h
  cases e
  simp only at ha hk hs
  subst ha hk hs
  rw [arriveData]
  simp only [he, hf, hp]
  rfl

variable {key o p : Nat} {sh crc : Bool}

theorem arriveData_sent (h : Requests s c x i e) (hp : placeOf s c x e.addr e.n = .at_ key sh o p crc) (ha : isAperture key = true)
    {q : Nat} (hq : portTo s (bits key 38 33) = some q) :
    arriveData s c x i = setDq s c x i { e with sent := some ⟨0, e.addr, key, some (o, p), q⟩ } := by
  obtain ⟨he, ha', hk, hs, hf⟩ := h
  cases e
  simp only at ha' hk hs
  subst ha' hk hs
  rw [arriveData]
  simp only [he, hf, hp, ha, hq]
  rfl

theorem arriveData_reads (h : Requests s c x i e) (hp : placeOf s c x e.addr e.n = .at_ key sh o p crc) (ha : isAperture key = false) :
    arriveData s c x i = if isHost key = true ∧ e.n = 16 then arriveWord s c x i e key (nextHigh s e)
      else arriveWhole s c x i e key := by
  obtain ⟨he, ha', hk, hs, hf⟩ := h
  cases e
  simp only at ha' hk hs
  subst ha' hk hs
  rw [arriveData]
  simp only [he, hf, hp, ha]
  rfl

end Data

theorem getCtx_setDq (s : State) (c x i : Nat) (e : DqEnt) : getCtx (setDq s c x i e) c x = (getCtx s c x).setDq i e :=
  getCtx_modCtx_self ..

theorem countBad_mem_cores (s : State) (k : Nat) : (countBad s k).mem = s.mem ∧ (countBad s k).cores = s.cores := by
  obtain ⟨l, hl⟩ := countBad_life s k
  rw [hl]
  exact ⟨rfl, rfl⟩

/-- A request that fails or finds an error arrives poisoned. -/
theorem setDq_countBad (s : State) (c x i k : Nat) (e : DqEnt) : (setDq (countBad s k) c x i e).mem = s.mem ∧
    getCtx (setDq (countBad s k) c x i e) c x = (getCtx s c x).setDq i e := by
  obtain ⟨hm, hc⟩ := countBad_mem_cores s k
  exact ⟨hm, (getCtx_setDq ..).trans (congrArg (Ctx.setDq i e) (getCtx_of_cores hc c x))⟩

section Words
variable {s : State} {c x i key : Nat} {e : DqEnt}

theorem arriveWord_clean {high : Bool} (h0 : poisoned s key 8 = false) (h8 : poisoned s (key + 8) 8 = false) :
    arriveWord s c x i e key high = match e.got with
      | none => setDq { s with freeCtr := s.freeCtr + 1 } c x i
          { e with got := some (high, readBytes s.mem (if high then key + 8 else key) 8) }
      | some g => setDq { s with freeCtr := s.freeCtr + 1 } c x i { e with
          arrived := true, got := none
          data := if high then g.2 ++ readBytes s.mem (if high then key + 8 else key) 8
            else readBytes s.mem (if high then key + 8 else key) 8 ++ g.2 } := by
  unfold arriveWord
  dsimp only
  rw [if_neg]
  cases high
  · exact fun h => Bool.false_ne_true (h0.symm.trans h)
  · exact fun h => Bool.false_ne_true (h8.symm.trans h)

theorem arriveWhole_spec : (arriveWhole s c x i e key).mem = s.mem ∧ getCtx (arriveWhole s c x i e key) c x =
    { getCtx s c x with dq := (getCtx s c x).dq.set i (if poisoned s key e.n then
        { e with arrived := true, poison := true, data := List.replicate e.n 0 }
      else { e with arrived := true, data := readBytes s.mem key e.n }) } := by
  unfold arriveWhole
  by_cases hp : poisoned s key e.n = true
  · rw [if_pos hp, if_pos hp]
    exact setDq_countBad ..
  · rw [if_neg hp, if_neg hp]
    exact ⟨rfl, getCtx_setDq ..⟩

end Words

/-! ## Reports (R138, R189) -/

section Report
variable {s : State} {c x : Nat} {a : Async} {rest : List Async}

theorem exec_asyncTrap_waits (h : (getCtx s c x).asyncs = a :: rest) (hst : (getCtx s c x).st ≠ .current) :
    exec (.asyncTrap c x) s = .next s := by
  have hx : exec (.asyncTrap c x) s = execAsyncTrap c x s := rfl
  rw [hx, execAsyncTrap]
  dsimp only
  rw [h]
  dsimp only
  rw [if_neg hst]

theorem exec_asyncTrap (h : (getCtx s c x).asyncs = a :: rest) (hst : (getCtx s c x).st = .current) :
    exec (.asyncTrap c x) s = .next (takeAsync (modCtx s c x fun t => { t with asyncs := rest }) c x a) := by
  have hx : exec (.asyncTrap c x) s = execAsyncTrap c x s := rfl
  rw [hx, execAsyncTrap]
  dsimp only
  rw [h]
  dsimp only
  rw [if_pos hst]

/-- A context whose oldest report has left it, with what the report says of its port and element. -/
def Ctx.reporting (a : Async) (rest : List Async) (t : Ctx) : Ctx :=
  { t with
    asyncs := rest
    xport := match a.xport with | some v => BitVec.ofNat 64 v | none => t.xport
    xelem := match a.xelem with | some v => BitVec.ofNat 64 v | none => t.xelem }

theorem takeAsync_eq (s : State) (c x : Nat) (a : Async) (rest : List Async) :
    takeAsync (modCtx s c x fun t => { t with asyncs := rest }) c x a =
      takeTrap (modCtx s c x (Ctx.reporting a rest)) c x a.cause a.tval a.epc := by
  rw [takeAsync, modCtx_modCtx]
  rfl

end Report

/-! ## The claim -/

theorem resultsArrive : Claims.ResultsArrive := by
  intro c x i s t others
  refine ⟨fun r hr hd hn => ?_, fun r hr h => ?_, fun hst d v f fs hf hd hr hw h => ?_,
    fun e key sh o p crc he ha hk hs hp hpn hap hf => ?_,
    fun e key sh o p crc q he ha hk hs hp hpn hap hq hf => ?_, fun e he ha hk hs hp hpn hf => ?_,
    fun a rest h => ⟨exec_asyncTrap_waits h, fun hst hc hx => ?_⟩⟩
  · obtain ⟨k, n, hu⟩ := getCtx_landLong s c x r
    have hfull : (getCtx (landLong s c x r) c x).full = fullAfter t.full r.d (t.longs.erase r) t.far := by rw [hu]; rfl
    refine ⟨landLong s c x r, ?_, (quiet_landLong s c x r).mem, fun ho => ?_, fun ho => ?_, ?_⟩
    · rw [exec_longLatencyLanding hr, if_pos ⟨hd, hn⟩]
    · exact hfull.trans (fullAfter_last ho)
    · exact hfull.trans (fullAfter_awaited ho)
    · rw [hu]
      rfl
  · rw [exec_longLatencyLanding hr, if_neg]
    rintro ⟨hd, hn⟩
    rcases h with h | h
    · omega
    · rw [hn] at h
      exact Bool.false_ne_true h.symm
  · refine ⟨_, exec_exposedResultDelivery hst hf hd hr hw h, rfl, ?_⟩
    rw [getCtx_modCtx_self, getCtx_setCtx_self]
  · intro word
    have hreq : Requests s c x i e := ⟨he, ha, hk, hs, hf⟩
    have hx := exec_dataQueueArrival hreq (by rw [holeOf, hp])
    rw [arriveData_reads hreq hpn hap] at hx
    refine ⟨fun hh hn h0 h8 => ⟨fun hg => ?_, fun hi b hg => ?_⟩, fun hh => ?_⟩
    · rw [if_pos ⟨hh, hn⟩, arriveWord_clean h0 h8, hg] at hx
      exact ⟨_, _, hx, rfl, getCtx_setDq { s with freeCtr := s.freeCtr + 1 } c x i _⟩
    · have hhigh : nextHigh s e = !hi := by rw [nextHigh, hg]
      rw [if_pos ⟨hh, hn⟩, arriveWord_clean h0 h8, hg, hhigh] at hx
      refine ⟨_, hx, rfl, (getCtx_setDq { s with freeCtr := s.freeCtr + 1 } c x i _).trans ?_⟩
      cases hi <;> rfl
    · intro got
      rw [if_neg hh] at hx
      obtain ⟨hm, hu⟩ := arriveWhole_spec (s := s) (c := c) (x := x) (i := i) (key := key) (e := e)
      exact ⟨_, hx, hm, hu⟩
  · have hreq : Requests s c x i e := ⟨he, ha, hk, hs, hf⟩
    have hx := exec_dataQueueArrival hreq (by rw [holeOf, hp])
    rw [arriveData_sent hreq hpn hap hq] at hx
    exact ⟨_, hx, rfl, getCtx_setDq ..⟩
  · intro bad
    have hreq : Requests s c x i e := ⟨he, ha, hk, hs, hf⟩
    have hx := exec_dataQueueArrival hreq (by rw [holeOf, hp])
    rw [arriveData_miss hreq hpn] at hx
    exact ⟨_, hx, rfl, getCtx_setDq ..⟩
  · have hm := (takeTrap_mem (modCtx s c x (Ctx.reporting a rest)) c x a.cause a.tval a.epc)
    have hu := getCtx_takeTrap (s := modCtx s c x (Ctx.reporting a rest)) hc x a.cause a.tval a.epc
    rw [getCtx_modCtx_self] at hu
    have hxx := exec_asyncTrap h hst
    rw [takeAsync_eq] at hxx
    refine ⟨_, hxx, hm, ?_⟩
    rw [hu]
    exact ⟨rfl, rfl, rfl, rfl, rfl, rfl, rfl⟩

end Sys2Proof.Machine
end

section
/-! PROOFS of O56, second part: the watchdog, freezing, and the expansion of segments (R68, R332, R333, R337, R348). -/
namespace Sys2Proof.Machine

section Freeze
variable {s : State} {c x : Nat}

theorem exec_watchdog (hc : isSup c = false) (hb : (getCtx s c x).blk ≠ 0)
    (hst : (getCtx s c x).st = .blocked ∨ (getCtx s c x).st = .current) (hs : (getCtx s c x).since + 2 ^ 32 ≤ s.ck) :
    exec (.watchdog c x) s = .next (takeTrap s c x causeWATCHDOG (getCtx s c x).blk (getCtx s c x).pc) := by
  have hx : exec (.watchdog c x) s = execWatchdog c x s := rfl
  rw [hx, execWatchdog]
  dsimp only
  rw [if_pos]
  have hst' : ((getCtx s c x).st == .blocked || (getCtx s c x).st == .current) = true := by
    rcases hst with h | h <;> (rw [h]; rfl)
  rw [hc, hst', decide_eq_true hb, Bool.and_eq_true]
  exact ⟨rfl, decide_eq_true_iff.mpr hs⟩

theorem getCtx_freezeLimit {f : Nat} (hc : isSup c = false) (hf : (getCtx s c x).frzAt = some f)
    (hst : (getCtx s c x).st = .current ∨ (getCtx s c x).st = .ready ∨ (getCtx s c x).st = .blocked) (h : f + 10000 ≤ s.ck) :
    getCtx (freezeLimit s c x) c x =
      { getCtx s c x with st := .freezing, frzPoint := some s.ck, frzCause := 0x17, frzForced := true } := by
  rw [freezeLimit, getCtx_modCtx_self]
  dsimp only
  rw [hf]
  dsimp only
  rw [if_pos ⟨hc, hst, h⟩] <;> rfl

/-! ## Capture (R333) -/

/-- The state in which a context has been captured. -/
def capturedState (s : State) (c x : Nat) : State :=
  modCore (setCtx (modGroup s (getCtx s c x).group fun g => putSaved g (savedOf s c x)) c x (savedOf s c x).ctx) c
    fun k => releaseEngines k x

theorem exec_contextFreeze {g : Group} (hg : groupOf s (getCtx s c x).group = some g) (hr : captureReady s c x = true)
    (hc : isSup c = false) (hw : ∀ w ∈ g.saved, w.rank ≠ (getCtx s c x).rank) :
    exec (.contextFreeze c x) s = .next (capturedState s c x) := by
  have hx : exec (.contextFreeze c x) s = .next (captureContext s c x) := rfl
  have hany : (g.saved.any fun w => w.rank == (getCtx s c x).rank) = false := by
    rw [List.any_eq_false]
    exact fun w hm => by simpa using hw w hm
  rw [hx, captureContext, if_pos]
  · rfl
  · rw [hr, hc, hg, Option.any_some, hany]
    rfl

/-- A context whose engines are given back owns the matrix unit no more. -/
theorem releaseEngines_owner (k : Core) (x : Nat) : (releaseEngines k x).owner ≠ .ctx x := by
  unfold releaseEngines
  extract_lets k1 k2
  split
  · exact fun h => by simp at h
  · assumption

theorem saved_in_putSaved (g : Group) (v : Saved) : v ∈ (putSaved g v).saved := List.mem_cons_self

/-- Where no flight is the result of a row, no flag folds and no flight is dropped. -/
theorem captureCtx_rowless {t : Ctx} (ht : getCtx s c x = t) (h : ∀ f ∈ t.flights, f.w.rowOf t.icyc = false) :
    (captureCtx s c x t).flags = t.flags ∧ (captureCtx s c x t).flights = t.flights.map fun f =>
      { f with ready := 0, out := if f.entry < t.icyc then 0 else f.out, w := f.w.folded } := by
  have hrow : (t.flights.filter fun f => f.w.rowOf t.icyc) = [] :=
    List.filter_eq_nil_iff.mpr fun f hf => by rw [h f hf]; decide
  have hkeep : (t.flights.filter fun f => !(f.spent t.icyc)) = t.flights :=
    List.filter_eq_self.mpr fun f hf => by
      have hs : f.spent t.icyc = false := by
        unfold Flight.spent
        split
        · exact h f hf
        · rfl
      rw [hs]
      rfl
  constructor
  · have hf : (captureCtx s c x t).flags = finishedFlags s c x t := rfl
    rw [hf, finishedFlags, hrow, List.foldl_nil, ht]
  · have hf : (captureCtx s c x t).flights = (t.flights.filter fun f => !(f.spent t.icyc)).map fun f =>
        { f with ready := 0, out := if f.entered t then 0 else f.out, w := f.w.folded } := rfl
    rw [hf, hkeep]
    simp only [Flight.entered, decide_eq_true_eq]

/-! ## The save image (R337) -/

/-- A save image without the matrix unit and the Lantern: head and tiles, in two places. -/
theorem writeImage_plain {g : Group} {v : Saved} (hmu : v.mu = false) (hln : v.ln = false) : writeImage s c x g v =
    { storeBytes (storeBytes s (saveAddr g v.rank) (imageHead s c x v)) (saveAddr g v.rank + 0x32000) (tileBytes v) with
      freeCtr := s.freeCtr + 2103 } := by
  unfold writeImage
  rw [hmu, hln]
  rfl

/-- An image starts with the first word of its record. -/
theorem imageHead_take (s : State) (c x : Nat) (v : Saved) : ∃ bs, imageHead s c x v = leBytes 8 v.header ++ bs := by
  unfold imageHead recordBytes n64
  simp only [List.append_assoc]
  exact ⟨_, rfl⟩

theorem readBytes_add (m : List Host.Cell) (n : Nat) : ∀ (k a : Nat), readBytes m a (k + n) = readBytes m a k ++ readBytes m (a + k) n
  | 0, a => by rw [Nat.zero_add, readBytes, List.nil_append, Nat.add_zero]
  | k + 1, a => by
    rw [show k + 1 + n = (k + n) + 1 by omega, readBytes, readBytes_add m n k (a + 1), readBytes, List.cons_append,
      show a + 1 + k = a + (k + 1) by omega]

theorem readBytes_append (hm : Memory.wf s.mem = true) (a : Nat) (bs cs : List Byte) :
    readBytes (storeBytes s a (bs ++ cs)).mem a bs.length = bs := by
  have h := readBytes_writeBytes hm a (bs ++ cs)
  rw [List.length_append, readBytes_add] at h
  exact (List.append_inj h (readBytes_length ..)).1

theorem writeImage_mem {g : Group} {v : Saved} (hm : Memory.wf s.mem = true) (hmu : v.mu = false) (hln : v.ln = false) :
    readBytes (writeImage s c x g v).mem (saveAddr g v.rank) 8 = leBytes 8 v.header ∧
      ∀ k, k < saveAddr g v.rank → memGet (writeImage s c x g v).mem k = memGet s.mem k := by
  obtain ⟨bs, hbs⟩ := imageHead_take s c x v
  have hm1 : Memory.wf (storeBytes s (saveAddr g v.rank) (imageHead s c x v)).mem = true := writeBytes_wf hm _ _
  have hmem : (writeImage s c x g v).mem = (storeBytes (storeBytes s (saveAddr g v.rank) (imageHead s c x v))
      (saveAddr g v.rank + 0x32000) (tileBytes v)).mem := by rw [writeImage_plain hmu hln]
  rw [hmem]
  constructor
  · have hoff := readBytes_writeBytes_off hm1 (saveAddr g v.rank + 0x32000) (tileBytes v) 8 (saveAddr g v.rank) (.inl (by omega))
    have hread := readBytes_append hm (saveAddr g v.rank) (leBytes 8 v.header) bs
    rw [leBytes_length, ← hbs] at hread
    exact hoff.trans hread
  · intro k hk
    have h1 := memGet_writeBytes hm1 (saveAddr g v.rank + 0x32000) (tileBytes v) k
    have h2 := memGet_writeBytes hm (saveAddr g v.rank) (imageHead s c x v) k
    rw [if_neg (by omega)] at h1 h2
    exact h1.trans h2

theorem groupFrozen_cores (s : State) (gid : Nat) : (groupFrozen s gid).cores = s.cores ∧ (groupFrozen s gid).mem = s.mem := by
  unfold groupFrozen
  split
  · exact ⟨rfl, rfl⟩
  · dsimp only
    split
    · exact ⟨rfl, rfl⟩
    · exact ⟨rfl, rfl⟩

theorem exec_saveImageWritten {g : Group} {v : Saved} (hg : groupOf s (getCtx s c x).group = some g)
    (hv : g.saved.find? (fun v => v.rank == (getCtx s c x).rank) = some v) (hst : (getCtx s c x).st = .freezing) :
    exec (.saveImageWritten c x) s = .next (groupFrozen (modCtx (writeImage s c x g v) c x fun t => { t with st := .frozen })
      (getCtx s c x).group) := by
  have hx : exec (.saveImageWritten c x) s = .next (saveImage s c x) := rfl
  rw [hx, saveImage]
  simp only [hg, hv]
  rw [if_pos hst]

/-! ## Segments (R348) -/

theorem exec_segmentExpansion {g : SegEnt} (hh : halfAt (getCtx s c x) (getCtx s c x).pc = none)
    (hs : segAt (kernelImage s (getCtx s c x).kernel) (getCtx s c x).pc = some g)
    (h0 : holdsSeg (getCtx s c x).half0 (getCtx s c x).seg = false) : exec (.segmentExpansion c x) s =
      .next (setCtx s c x { getCtx s c x with half0 := some (loadHalf (kernelImage s (getCtx s c x).kernel) g) }) := by
  have hx : exec (.segmentExpansion c x) s = .next (expandSegment s c x) := rfl
  rw [hx, expandSegment]
  dsimp only
  rw [hh]
  dsimp only
  rw [hs]
  dsimp only
  rw [if_neg (by rw [h0]; decide)]

end Freeze

/-! ## The claim -/

theorem contextEvents : Claims.ContextEvents := by
  intro c x s hx4 t
  refine ⟨fun hc hb hst hs => ?_, fun hc f hf hst h => ⟨_, rfl, rfl, getCtx_freezeLimit hc hf hst h⟩,
    fun g hg hr hc hw => ?_, fun g v hg hv hst hm hmu hln hc => ?_, fun g hh hs h0 => ?_⟩
  · have hu := getCtx_takeTrap (s := s) hc x causeWATCHDOG t.blk t.pc
    refine ⟨_, exec_watchdog hc hb hst hs, takeTrap_mem .., ?_⟩
    rw [hu]
    exact ⟨rfl, rfl, rfl, rfl⟩
  · refine ⟨_, _, savedOf s c x, exec_contextFreeze hg hr hc hw, rfl,
      groupOf_modGroup (f := fun g => putSaved g (savedOf s c x)) hg fun _ => rfl, saved_in_putSaved .., rfl, rfl, rfl, rfl, rfl,
      captureCtx_rowless rfl, ?_⟩
    rw [capturedState, getCore_modCore_self]
    exact releaseEngines_owner _ x
  · obtain ⟨hcores, hmem⟩ := groupFrozen_cores (modCtx (writeImage s c x g v) c x fun t => { t with st := .frozen }) t.group
    have hrank : v.rank = t.rank := by simpa using List.find?_some hv
    have hctx : getCtx (groupFrozen (modCtx (writeImage s c x g v) c x fun t => { t with st := .frozen }) t.group) c x =
        { t with st := .frozen } := by
      rw [getCtx_of_cores hcores, getCtx_modCtx_self, writeImage_plain hmu hln]
      rfl
    obtain ⟨h1, h2⟩ := writeImage_mem (s := s) (c := c) (x := x) (g := g) hm hmu hln
    rw [saveAddr, hrank] at h1 h2
    refine ⟨_, exec_saveImageWritten hg hv hst, ?_, ?_, ?_, ?_⟩
    · rw [hctx]
    · rw [hctx]
    · rw [hmem]
      exact h1
    · rw [hmem]
      exact h2
  · exact ⟨_, exec_segmentExpansion hh hs h0, rfl, getCtx_setCtx_self ..⟩

end Sys2Proof.Machine
end

section
/-! PROOFS of O56, third part: the writes of the supervisor tables (R22, R405, R420, R421). -/
namespace Sys2Proof.Machine

/-! ## Fields of a word written -/

theorem bitAt_toNat {n : Nat} (v : BitVec n) (i : Nat) : bitAt v.toNat i = v.getLsbD i := by
  rw [bitAt, BitVec.getLsbD, Nat.testBit, Nat.shiftRight_eq_div_pow, Nat.one_and_eq_mod_two]
  rcases Nat.mod_two_eq_zero_or_one (v.toNat / 2 ^ i) with h | h <;> rw [h] <;> rfl

/-- OBJ, PAGE and ALL name a page as R420 says. -/
theorem namesPage_iff (v : BitVec 64) (o p : Nat) :
    namesPage v.toNat o p = true ↔ v.toNat / 2 ^ 52 = o ∧ (v.getLsbD 27 = true ∨ v.toNat / 2 ^ 28 % 2 ^ 24 = p) := by
  have hv := v.isLt
  have hobj : bits v.toNat 63 52 = v.toNat / 2 ^ 52 := by
    rw [bits]
    exact Nat.mod_eq_of_lt (by omega)
  rw [namesPage, hobj, bitAt_toNat, Bool.and_eq_true, Bool.or_eq_true, beq_iff_eq, beq_iff_eq]
  rfl

/-! ## SHOOT, WAKE (R420, R421) -/

/-- What a SHOOT or a WAKE names on its chiplet. -/
def shotOn (ch : Nat) (v : BitVec 64) (c o p : Nat) : Prop :=
  c = ch ∧ v.toNat / 2 ^ 52 = o ∧ (v.getLsbD 27 = true ∨ v.toNat / 2 ^ 28 % 2 ^ 24 = p)

theorem named_iff (ch : Nat) (v : BitVec 64) (c o p : Nat) : (c == ch && namesPage v.toNat o p) = true ↔ shotOn ch v c o p := by
  rw [Bool.and_eq_true, beq_iff_eq, namesPage_iff]
  rfl

section Shoot
variable {s : State} {ch : Nat} {v : BitVec 64}

theorem mem_shootDown (e : (Nat × Nat × Nat) × Nat) :
    e ∈ (shootDown s ch v.toNat).tcache ↔ e ∈ s.tcache ∧ ¬shotOn ch v e.1.1 e.1.2.1 e.1.2.2 := by
  have h : e ∈ (shootDown s ch v.toNat).tcache ↔ e ∈ s.tcache ∧ (!(e.1.1 == ch && namesPage v.toNat e.1.2.1 e.1.2.2)) = true :=
    List.mem_filter
  rw [h, Bool.not_eq_true', ← Bool.not_eq_true, named_iff]

/-- What a wake does to a context whose chunk or request it names. -/
def Ctx.woken (uid : Nat) (t : Ctx) : Ctx :=
  { t with
    cmds := t.cmds.map fun m => if m.uid = uid then { m with parkedAt := none } else m
    dq := t.dq.map fun d => if d.uid = uid then { d with parked := false } else d }

theorem wakePark_cases (s : State) (p : Park) : wakePark s p = s ∨ wakePark s p = parkAt s p.core p.ctx p.uid p.id ∨
    wakePark s p = modCtx s p.core p.ctx (Ctx.woken p.uid) := by
  unfold wakePark
  split
  · exact .inl rfl
  · split
    · exact .inr (.inl rfl)
    · exact .inr (.inr rfl)

theorem getCtx_of_woken {α : Type} {π : Ctx → α} (hπ : ∀ uid t, π (Ctx.woken uid t) = π t) (s : State) (p : Park) (c x : Nat) :
    π (getCtx (wakePark s p) c x) = π (getCtx s c x) := by
  rcases wakePark_cases s p with h | h | h
  · rw [h]
  · rw [h]
    rfl
  · rw [h]
    by_cases hp : p.core = c ∧ p.ctx % 4 = x % 4
    · rw [hp.1, modCtx_mod s c _ hp.2, getCtx_modCtx_self, hπ]
    · rw [getCtx_modCtx_ne]
      by_cases hcp : c = p.core
      · exact .inr fun hx => hp ⟨hcp.symm, hx.symm⟩
      · exact .inl hcp

theorem getCtx_wakePark_ne {p : Park} {c : Nat} (h : c ≠ p.core) (s : State) (x : Nat) :
    getCtx (wakePark s p) c x = getCtx s c x := by
  rcases wakePark_cases s p with hw | hw | hw
  · rw [hw]
  · rw [hw]
    rfl
  · rw [hw, getCtx_modCtx_ne _ _ (.inl h)]

theorem wakePark_frame (s : State) (p : Park) :
    wakePark s p = { s with cores := (wakePark s p).cores, parks := (wakePark s p).parks, supIrq := (wakePark s p).supIrq } := by
  rcases wakePark_cases s p with h | h | h
  · rw [h]
  · rw [h]
    rfl
  · rw [h]
    rfl

/-- What a WAKE changes, whatever it names. -/
structure Wakes (ch : Nat) (s t : State) : Prop where
  frame : t = { s with cores := t.cores, parks := t.parks, supIrq := t.supIrq }
  others : ∀ c x, chipletOf c ≠ ch → getCtx t c x = getCtx s c x
  kept : ∀ c x, (getCtx t c x).g = (getCtx s c x).g ∧ (getCtx t c x).st = (getCtx s c x).st

theorem wakes_foldl (ch : Nat) : ∀ (ps : List Park) (s : State), (∀ p ∈ ps, chipletOf p.core = ch) → Wakes ch s (ps.foldl wakePark s)
  | [], _, _ => ⟨rfl, fun _ _ _ => rfl, fun _ _ => ⟨rfl, rfl⟩⟩
  | p :: ps, s, h => by
    have ih := wakes_foldl ch ps (wakePark s p) fun q hq => h q (by simp [hq])
    refine ⟨?_, fun c x hc => ?_, fun c x => ?_⟩
    · rw [List.foldl_cons]
      have h1 := ih.frame
      rw [wakePark_frame s p] at h1 ⊢
      exact h1
    · refine (ih.others c x hc).trans (getCtx_wakePark_ne (fun he => hc ?_) s x)
      rw [he]
      exact h p (by simp)
    · obtain ⟨h1, h2⟩ := ih.kept c x
      exact ⟨h1.trans (getCtx_of_woken (π := Ctx.g) (fun _ _ => rfl) s p c x),
        h2.trans (getCtx_of_woken (π := Ctx.st) (fun _ _ => rfl) s p c x)⟩

end Shoot

/-! ## CFG and STATE words (R405) -/

theorem Core.get_map (k : Core) (F : Ctx → Ctx) (x : Nat) : ({ k with ctx := k.ctx.map F } : Core).get x = F (k.get x) := by
  simp [Core.get]

theorem getCtx_modWaits (s : State) (ch b : Nat) (f : Ctx → Ctx) (c x : Nat) : getCtx (modWaits s ch b f) c x =
    if waitsOn c (getCtx s c x) ch b then f (getCtx s c x) else getCtx s c x := by
  have h : ∀ l : List (Nat × Core), (alGet Core.reset
      (l.map fun p => (p.1, { p.2 with ctx := p.2.ctx.map fun t => if waitsOn p.1 t ch b then f t else t })) c).get x =
      if waitsOn c ((alGet Core.reset l c).get x) ch b then f ((alGet Core.reset l c).get x) else (alGet Core.reset l c).get x := by
    intro l
    induction l with
    | nil =>
      have hr : (Core.reset.get x) = Ctx.reset := by simp [Core.get, Core.reset]
      have hw : waitsOn c Ctx.reset ch b = false := by simp [waitsOn, Ctx.reset]
      rw [List.map_nil, alGet, hr, hw]
      rfl
    | cons p l ih =>
      by_cases hp : p.1 = c
      · simp only [List.map_cons, alGet, if_pos hp]
        rw [hp]
        exact Core.get_map ..
      · simp only [List.map_cons, alGet, if_neg hp]
        exact ih
  exact h s.cores

theorem entry_setEntry (v : Slot) (p q : Nat) (e : PEntry) :
    (v.setEntry p (some e)).entry q = if q = p then some e else v.entry q := by
  unfold Slot.entry Slot.setEntry
  dsimp only
  by_cases h : q = p
  · rw [if_pos h, List.find?_cons_of_pos (by simp [h])]
    rfl
  · rw [if_neg h, List.find?_cons_of_neg (by simpa using Ne.symm h), List.find?_filter]
    congr 2
    funext a
    by_cases ha : a.1 = q
    · simp [ha, h]
    · simp [ha]

/-- The parties that wait get the entry WRELP, one after another. -/
def releaseParties (ps : List Nat) (v : Slot) : Slot := ps.foldl (fun w p => w.setEntry p (some .wrelp)) v

theorem releaseParties_frame : ∀ (ps : List Nat) (v : Slot), releaseParties ps v = { v with entries := (releaseParties ps v).entries }
  | [], _ => rfl
  | p :: ps, v => by
    have h : releaseParties (p :: ps) v = releaseParties ps (v.setEntry p (some .wrelp)) := rfl
    rw [h, releaseParties_frame ps]
    rfl

theorem releaseParties_entry (q : Nat) : ∀ (ps : List Nat) (v : Slot),
    (releaseParties ps v).entry q = if q ∈ ps then some .wrelp else v.entry q
  | [], _ => (if_neg (by simp)).symm
  | p :: ps, v => by
    have h : releaseParties (p :: ps) v = releaseParties ps (v.setEntry p (some .wrelp)) := rfl
    rw [h, releaseParties_entry q ps, entry_setEntry]
    by_cases hq : q ∈ ps
    · rw [if_pos hq, if_pos (List.mem_cons_of_mem p hq)]
    · rw [if_neg hq]
      by_cases hp : q = p
      · rw [if_pos hp, if_pos (by simp [hp])]
      · rw [if_neg hp, if_neg (by simp [hp, hq])]

section Slots
variable {s : State} {ch b : Nat} {v : BitVec 64}

/-- A slot as a CFG word leaves it, its waiting parties aside (R405). -/
def Slot.configured (s : State) (b : Nat) (q : Slot) (w : Nat) : Slot :=
  { Slot.reset with
    cfg := setBits (if cfgRefused q w then setBits w 0 0 0 else w) 16 1 0
    size := q.size
    free := q.depth
    sup := (q.sup.filter fun p => (getCtx s (p.1 / 4) (p.1 % 4)).barWait == some b).map fun p => (p.1, p.2.1, true) }

/-- A context whose BARW the write of its slot ends. -/
def Ctx.cfgFreed (b : Nat) (q : Slot) (t : Ctx) : Ctx := { t.unheld with cfgRel := (b, q.party t.group t.rank) :: t.cfgRel }

theorem writeCfg_eq (s : State) (ch b : Nat) (v : BitVec 64) : writeCfg s ch b v.toNat =
    modWaits (setSlot s ch b (releaseParties (waitParties s ch b) ((getSlot s ch b).configured s b v.toNat))) ch b
      (Ctx.cfgFreed b (getSlot s ch b)) := by
  have hv : v.toNat % 2 ^ 64 = v.toNat := Nat.mod_eq_of_lt v.isLt
  rw [writeCfg, hv]
  rfl

theorem getSlot_setSlot_self (s : State) (ch b : Nat) (q : Slot) : getSlot (setSlot s ch b q) ch b = q := alGet_alSet_self ..

theorem getSlot_setSlot_ne (s : State) (ch : Nat) {b b' : Nat} (q : Slot) (h : b' ≠ b) :
    getSlot (setSlot s ch b q) ch b' = getSlot s ch b' := alGet_alSet_ne _ _ _ fun he => h (congrArg Prod.snd he)

theorem writeStateWord_cases (s : State) (ch b w : Nat) :
    (bitAt w 2 = false ∨ (getSlot s ch b).on = false → writeStateWord s ch b w = s) ∧
      (bitAt w 2 = true → (getSlot s ch b).on = true →
        ((getSlot s ch b).ring = true → bitAt w 1 = true → writeStateWord s ch b w =
          modWaits (setSlot s ch b { getSlot s ch b with brk := true }) ch b Ctx.unheld) ∧
        ((getSlot s ch b).ring = true → bitAt w 1 = false → writeStateWord s ch b w = s) ∧
        ((getSlot s ch b).ring = false → writeStateWord s ch b w = setSlot s ch b { getSlot s ch b with forceNow := some (bitAt w 1) })) := by
  unfold writeStateWord
  dsimp only
  refine ⟨fun h => if_pos h, fun h2 hon => ⟨fun hr h1 => ?_, fun hr h1 => ?_, fun hr => ?_⟩⟩
  · rw [if_neg (by simp [h2, hon]), if_pos hr, if_pos h1]
  · rw [if_neg (by simp [h2, hon]), if_pos hr, if_neg (by simp [h1])]
  · rw [if_neg (by simp [h2, hon]), if_neg (by simp [hr])]

end Slots

/-! ## The discovery table (R22) -/

theorem tabGet_tabSet_self (s : State) (a o i v : Nat) : tabGet (tabSet s a o i v) a o i = v := alGet_alSet_self ..

theorem tabGet_tabSet_other (s : State) {a o i a' o' i' v : Nat} (h : (a', o', i') ≠ (a, o, i)) :
    tabGet (tabSet s a o i v) a' o' i' = tabGet s a' o' i' := alGet_alSet_ne 0 s.tables v h

theorem xcoreVal_fields {s : State} {c : Nat} (hc : c < 1040) :
    xcoreVal s c / 2 ^ 26 = pkgIndex s ∧ xcoreVal s c % 2 ^ 26 = dieBits c + (if isSup c then 2 ^ 21 else c % 65 * 2 ^ 15) := by
  have hd : dieBits c + (if isSup c then 2 ^ 21 else c % 65 * 2 ^ 15) < 2 ^ 26 := by
    have hdie : c / 65 ≤ 15 := by omega
    have hm : c % 65 < 65 := Nat.mod_lt _ (by decide)
    unfold dieBits dieOf isSup
    by_cases h : (c % 65 == 64) = true
    · rw [if_pos h]
      omega
    · rw [if_neg h]
      have h64 : c % 65 ≠ 64 := by simpa using h
      omega
  have hx : xcoreVal s c = pkgIndex s * 2 ^ 26 + (dieBits c + (if isSup c then 2 ^ 21 else c % 65 * 2 ^ 15)) := by
    rw [xcoreVal, Nat.add_assoc]
  rw [hx]
  generalize dieBits c + (if isSup c then 2 ^ 21 else c % 65 * 2 ^ 15) = f at hd ⊢
  omega

/-- Word 6 of the discovery table as it reads back: its costs and BL, SC unchanged. -/
theorem scopeWord_writeScope6 (s : State) (v : BitVec 64) : scopeWord (writeScope6 s v.toNat) 6 =
    v.toNat / 2 ^ 16 * 2 ^ 16 + (v.getLsbD 7).toNat * 2 ^ 7 + 6 := by
  have hv := v.isLt
  have hw : tabGet (writeScope6 s v.toNat) 8 0 6 = bits v.toNat 63 16 * 2 ^ 16 + bits v.toNat 7 7 * 2 ^ 7 := tabGet_tabSet_self ..
  have hb : (v.getLsbD 7).toNat = v.toNat / 2 ^ 7 % 2 := by
    rw [← bitAt_toNat, bitAt]
    rcases Nat.mod_two_eq_zero_or_one (v.toNat / 2 ^ 7) with h | h <;> rw [h] <;> rfl
  have hs : scopeWord (writeScope6 s v.toNat) 6 = bits (tabGet (writeScope6 s v.toNat) 8 0 6) 63 16 * 2 ^ 16 +
      bits (tabGet (writeScope6 s v.toNat) 8 0 6) 7 7 * 2 ^ 7 + 6 := rfl
  rw [hs, hw, hb]
  simp only [bits, Nat.reducePow, Nat.reduceAdd, Nat.reduceSub] at *
  omega

/-! ## The claim -/

section Wake
variable {s : State} {ch : Nat} {v : BitVec 64}

/-- A WAKE names what has parked. -/
def wakeNames (ch : Nat) (v : BitVec 64) (p : Park) : Bool :=
  chipletOf p.core == ch && namesPage v.toNat (p.id / 2 ^ 24) (p.id % 2 ^ 24)

/-- The state in which the translations that a WAKE names are gone, and what it names has left the list of the parked. -/
def unparked (s : State) (ch : Nat) (v : BitVec 64) : State :=
  { shootDown s ch v.toNat with parks := s.parks.filter fun p => !(wakeNames ch v p) }

theorem wakeChunks_eq (s : State) (ch : Nat) (v : BitVec 64) :
    wakeChunks s ch v.toNat = (s.parks.filter (wakeNames ch v)).foldl wakePark (unparked s ch v) := rfl

theorem wakeNames_iff (p : Park) :
    wakeNames ch v p = true ↔ shotOn ch v (chipletOf p.core) (p.id / 2 ^ 24) (p.id % 2 ^ 24) := named_iff ..

theorem wakes_wakeChunks (s : State) (ch : Nat) (v : BitVec 64) : Wakes ch (unparked s ch v) (wakeChunks s ch v.toNat) :=
  wakes_foldl ch _ _ fun p hp => ((wakeNames_iff p).mp (List.mem_filter.mp hp).2).1

/-- One chunk or request that waits is woken: it translates again, or parks again. -/
theorem wakePark_single {p : Park} (hp : p.waits s = true) :
    (pageAbsent s (chipletOf p.core) (p.id / 2 ^ 24) (p.id % 2 ^ 24) = false →
      wakePark s p = modCtx s p.core p.ctx (Ctx.woken p.uid)) ∧
    (pageAbsent s (chipletOf p.core) (p.id / 2 ^ 24) (p.id % 2 ^ 24) = true → wakePark s p = parkAt s p.core p.ctx p.uid p.id) := by
  unfold wakePark
  rw [if_neg (by rw [hp]; decide)]
  exact ⟨fun h => if_neg (by rw [h]; decide), fun h => if_pos h⟩

theorem pageAbsent_of_readPte {o page e : Nat} (h : readPte s ch o page = some e) : pageAbsent s ch o page = !(bitAt e 0) := by
  rw [pageAbsent, h]

theorem pageAbsent_none {o page : Nat} (h : readPte s ch o page = none) : pageAbsent s ch o page = false := by
  rw [pageAbsent, h]

/-- A WAKE that names one chunk or request that waits: it waits no more, or parks again behind the others. -/
theorem wakeChunks_single {p : Park} (hp : s.parks.filter (wakeNames ch v) = [p]) (hwait : p.waits s = true) :
    let t := wakeChunks s ch v.toNat
    let pte := readPte (shootDown s ch v.toNat) ch (p.id / 2 ^ 24) (p.id % 2 ^ 24)
    ((∀ e, pte = some e → bitAt e 0 = true) → t.parks = (s.parks.filter fun p => !(wakeNames ch v p)) ∧ t.supIrq = s.supIrq ∧
      getCtx t p.core p.ctx = (getCtx s p.core p.ctx).woken p.uid) ∧
    ∀ e, pte = some e → bitAt e 0 = false → t.parks = (s.parks.filter fun p => !(wakeNames ch v p)) ++ [p] ∧
      t.supIrq = s.supIrq ++ [(2 * ch, 0x100, p.id)] ∧ getCtx t p.core p.ctx = getCtx s p.core p.ctx := by
  intro t pte
  have hcore : chipletOf p.core = ch := by
    have hm : p ∈ s.parks.filter (wakeNames ch v) := by rw [hp]; exact List.mem_singleton.mpr rfl
    exact ((wakeNames_iff p).mp (List.mem_filter.mp hm).2).1
  have ht : t = wakePark (unparked s ch v) p := by
    rw [show t = wakeChunks s ch v.toNat from rfl, wakeChunks_eq, hp]
    rfl
  obtain ⟨h1, h2⟩ := wakePark_single (s := unparked s ch v) (p := p) hwait
  have hpte : readPte (unparked s ch v) (chipletOf p.core) (p.id / 2 ^ 24) (p.id % 2 ^ 24) = pte := by rw [hcore]; rfl
  refine ⟨fun hpres => ?_, fun e he habs => ?_⟩
  · have ha : pageAbsent (unparked s ch v) (chipletOf p.core) (p.id / 2 ^ 24) (p.id % 2 ^ 24) = false := by
      cases hq : pte with
      | none => exact pageAbsent_none (hpte.trans hq)
      | some e => rw [pageAbsent_of_readPte (hpte.trans hq), hpres e hq]; rfl
    rw [ht, h1 ha]
    exact ⟨rfl, rfl, getCtx_modCtx_self ..⟩
  · have ha : pageAbsent (unparked s ch v) (chipletOf p.core) (p.id / 2 ^ 24) (p.id % 2 ^ 24) = true := by
      rw [pageAbsent_of_readPte (hpte.trans he), habs]
      rfl
    rw [ht, h2 ha, ← hcore]
    exact ⟨rfl, rfl, rfl⟩

end Wake

section Words
variable {s : State} {ch b : Nat} {v : BitVec 64}

/-- A STATE word leaves its slot as FORCE says, and ends the waits at a ring that it breaks (R405). -/
theorem writeStateWord_slot (s : State) (ch b : Nat) (v : BitVec 64) :
    let q := getSlot s ch b
    let t := writeStateWord s ch b v.toNat
    t = { s with slots := t.slots, cores := t.cores, groups := t.groups } ∧
      getSlot t ch b = (if v.getLsbD 2 = false ∨ q.on = false then q
        else if q.ring then { q with brk := q.brk || v.getLsbD 1 } else { q with forceNow := some (v.getLsbD 1) }) ∧
      ∀ c x, getCtx t c x = if v.getLsbD 2 = true ∧ q.on = true ∧ q.ring = true ∧ v.getLsbD 1 = true ∧
          waitsOn c (getCtx s c x) ch b = true then (getCtx s c x).unheld else getCtx s c x := by
  intro q t
  obtain ⟨h0, h1⟩ := writeStateWord_cases s ch b v.toNat
  rw [bitAt_toNat] at h0 h1
  rw [bitAt_toNat] at h1
  by_cases hidle : v.getLsbD 2 = false ∨ q.on = false
  · rw [show t = s from h0 hidle]
    refine ⟨rfl, (if_pos hidle).symm, fun c x => ?_⟩
    rw [if_neg]
    rintro ⟨h2, hon, _⟩
    rcases hidle with h | h
    · rw [h2] at h
      exact Bool.false_ne_true h.symm
    · rw [hon] at h
      exact Bool.false_ne_true h.symm
  · have h2 : v.getLsbD 2 = true := by simpa using (not_or.mp hidle).1
    have hon : q.on = true := by simpa using (not_or.mp hidle).2
    obtain ⟨ha, hb', hc⟩ := h1 h2 hon
    rw [if_neg hidle]
    by_cases hr : q.ring = true
    · by_cases hbit : v.getLsbD 1 = true
      · rw [show t = _ from ha hr hbit]
        refine ⟨rfl, ?_, fun c x => ?_⟩
        · rw [if_pos hr, hbit, Bool.or_true]
          exact getSlot_setSlot_self ..
        · refine (getCtx_modWaits ..).trans ?_
          simp only [h2, hon, hr, hbit, true_and]
          rfl
      · have hbit' : v.getLsbD 1 = false := by simpa using hbit
        rw [show t = s from hb' hr hbit']
        refine ⟨rfl, ?_, fun c x => ?_⟩
        · rw [if_pos hr, hbit', Bool.or_false]
        · rw [if_neg fun h => hbit h.2.2.2.1]
    · have hr' : q.ring = false := by simpa using hr
      rw [show t = _ from hc hr']
      refine ⟨rfl, ?_, fun c x => ?_⟩
      · rw [if_neg hr]
        exact getSlot_setSlot_self ..
      · rw [if_neg fun h => hr h.2.2.1]
        rfl

end Words

theorem tableEvents : Claims.TableEvents := by
  intro ch b v s hch hb w names q refused off
  have hslot : ch < 8 ∧ b < 1023 := ⟨hch, hb⟩
  refine ⟨⟨shootDown s ch v.toNat, congrArg _ (if_pos hch), rfl, fun e => ?_⟩, ?_, ?_, ?_, ?_, ?_⟩
  · rw [mem_shootDown]
    rfl
  · have hw := wakes_wakeChunks s ch v
    have hnamed : (fun p : Park => decide (chipletOf p.core = ch ∧ names (p.id / 2 ^ 24) (p.id % 2 ^ 24))) = wakeNames ch v :=
      funext fun p => Bool.eq_iff_iff.mpr (decide_eq_true_iff.trans (wakeNames_iff p).symm)
    have hothers : (fun p : Park => decide ¬(chipletOf p.core = ch ∧ names (p.id / 2 ^ 24) (p.id % 2 ^ 24))) =
        fun p => !(wakeNames ch v p) := funext fun p => by rw [← hnamed]; exact decide_not
    have hcache : (wakeChunks s ch v.toNat).tcache = (shootDown s ch v.toNat).tcache := by
      have h := hw.frame
      exact (congrArg State.tcache h).trans rfl
    refine ⟨wakeChunks s ch v.toNat, congrArg _ (if_pos hch), ?_, fun e => ?_, fun c x hc => hw.others c x hc,
      fun c x => hw.kept c x, fun p hp hwait => ?_⟩
    · rw [hcache]
      exact hw.frame
    · rw [hcache, mem_shootDown]
      rfl
    · intro others pte k
      rw [hnamed] at hp
      have hoth : others = s.parks.filter fun p => !(wakeNames ch v p) := by rw [← hothers]
      rw [hoth]
      exact wakeChunks_single hp hwait
  · have hoff : cfgRefused q w = off := by
      have h : cfgRefused q w = (bitAt w 0 && ((!refused.ring && refused.ea == 0 && refused.eb == 0) ||
        (!refused.ring && decide (1024 < refused.ea)) || (refused.ring && (refused.depth == 0 || refused.eb == 0)))) := rfl
      rw [h, bitAt_toNat]
    have hx : exec (.barrierCfgWrite ch b v) s = .next (writeCfg s ch b v.toNat) := congrArg _ (if_pos hslot)
    rw [writeCfg_eq] at hx
    have hself : getSlot (modWaits (setSlot s ch b (releaseParties (waitParties s ch b) (q.configured s b w))) ch b
        (Ctx.cfgFreed b q)) ch b = releaseParties (waitParties s ch b) (q.configured s b w) := getSlot_setSlot_self ..
    refine ⟨_, hx, rfl, ?_, fun p => ?_, fun b' hb' => getSlot_setSlot_ne s ch _ hb', fun c x hc hbar => ?_⟩
    · rw [hself, releaseParties_frame, Slot.configured, hoff]
    · rw [hself, releaseParties_entry]
      rfl
    · refine (getCtx_modWaits ..).trans ((if_pos ?_).trans rfl)
      have hwait : waitsOn c (getCtx s c x) ch b = true := by rw [waitsOn, hbar, hc]; simp
      exact hwait
  · exact ⟨writeStateWord s ch b v.toNat, congrArg _ (if_pos hslot), writeStateWord_slot s ch b v⟩
  · have hpkg : pkgIndex (writePkg s w) = w % 64 := by
      rw [pkgIndex, writePkg, tabGet_tabSet_self, bits, pow_zero, Nat.div_one] <;> rfl
    refine ⟨writePkg s w, rfl, rfl, fun c hc => ?_, fun k o i hne => tabGet_tabSet_other s hne⟩
    obtain ⟨h1, h2⟩ := xcoreVal_fields (s := writePkg s w) hc
    rw [h1, h2, (xcoreVal_fields (s := s) hc).2]
    exact ⟨hpkg, rfl⟩
  · exact ⟨writeScope6 s w, rfl, rfl, scopeWord_writeScope6 s v, fun k o i hne => tabGet_tabSet_other s hne⟩

/-- Settles O56: each event makes of its context, slot or table the state that its lemma names, and of nothing else. -/
theorem eventsOfCores : Obligations.EventsOfCores := ⟨resultsArrive, contextEvents, tableEvents⟩

end Sys2Proof.Machine
end


section
/-!
The rows of slot M (O40): what the entry of a row leaves of its core and its context (R217), how many rows of an operation
enter in a cycle, and that none is due any more once a cycle has started.
-/
namespace Sys2Proof.Machine

/-! ## What a row that enters leaves unchanged -/

/-- The operation loads the bank `b` (R220). -/
def loadsBank (i : Instr) (b : Fin 4) : Prop :=
  match i with
  | .mldb _ bk .. => bk = b
  | _ => False

/-- From `t` to `u` a context has changed in its rows, flights, flags and reports alone. -/
def CtxBooks (t u : Ctx) : Prop :=
  ∃ rows flights flags asyncs st wait blk, u = { t with
    rows := rows, flights := flights, flags := flags, asyncs := asyncs, st := st, barWait := wait, blk := blk }

theorem CtxBooks.refl (t : Ctx) : CtxBooks t t := ⟨_, _, _, _, _, _, _, rfl⟩

theorem CtxBooks.trans {t u v : Ctx} (h : CtxBooks t u) (g : CtxBooks u v) : CtxBooks t v := by
  obtain ⟨_, _, _, _, _, _, _, rfl⟩ := h
  obtain ⟨_, _, _, _, _, _, _, rfl⟩ := g
  exact ⟨_, _, _, _, _, _, _, rfl⟩

theorem CtxBooks.icyc {t u : Ctx} (h : CtxBooks t u) : u.icyc = t.icyc := by
  obtain ⟨_, _, _, _, _, _, _, rfl⟩ := h
  rfl

/-- From `k` to `l` a core has changed in its context `x`, its port slots, its parity marks, and the rows of the bank that the
operation `i` loads. -/
structure CoreBooks (i : Instr) (x : Nat) (k l : Core) : Prop where
  core : ∃ ctx serving ports banks bad, l = { k with
    ctx := ctx, serving := serving, ports := ports, banks := banks, bad := bad }
  fmt : ∀ b : Fin 4, l.banks[b].fmt = k.banks[b].fmt
  banks : ∀ b : Fin 4, ¬loadsBank i b → l.banks[b] = k.banks[b]
  others : ∀ y, y % 4 ≠ x % 4 → l.get y = k.get y
  mine : CtxBooks (k.get x) (l.get x)

theorem CoreBooks.refl (i : Instr) (x : Nat) (k : Core) : CoreBooks i x k k where
  core := ⟨_, _, _, _, _, rfl⟩
  fmt _ := rfl
  banks _ _ := rfl
  others _ _ := rfl
  mine := .refl _

theorem CoreBooks.trans {i : Instr} {x : Nat} {k l m : Core} (h : CoreBooks i x k l) (g : CoreBooks i x l m) :
    CoreBooks i x k m where
  core := by
    obtain ⟨_, _, _, _, _, hl⟩ := h.core
    obtain ⟨ctx, serving, ports, banks, bad, hm⟩ := g.core
    refine ⟨ctx, serving, ports, banks, bad, ?_⟩
    rw [hm, hl]
  fmt b := (g.fmt b).trans (h.fmt b)
  banks b hb := (g.banks b hb).trans (h.banks b hb)
  others y hy := (g.others y hy).trans (h.others y hy)
  mine := h.mine.trans g.mine

theorem coreBooks_put {i : Instr} {x : Nat} {k : Core} {t : Ctx} (h : CtxBooks (k.get x) t) : CoreBooks i x k (k.put x t) where
  core := ⟨_, _, _, _, _, rfl⟩
  fmt _ := rfl
  banks _ _ := rfl
  others _ hy := Core.get_put_ne k t hy
  mine := by rw [Core.get_put_self]; exact h

theorem coreBooks_ports (i : Instr) (x : Nat) (k : Core) (serving : List Serve) (ports : List (Nat × PortSlot)) (bad : List Nat) :
    CoreBooks i x k { k with serving := serving, ports := ports, bad := bad } where
  core := ⟨_, _, _, _, _, rfl⟩
  fmt _ := rfl
  banks _ _ := rfl
  others _ _ := rfl
  mine := .refl _

theorem modBank_bank_self (k : Core) (bk : Fin 4) (f : Bank → Bank) : (k.modBank bk f).banks[bk] = f k.banks[bk] := by
  simp [Core.modBank]

theorem modBank_bank_ne (k : Core) {bk b : Fin 4} (f : Bank → Bank) (h : b ≠ bk) : (k.modBank bk f).banks[b] = k.banks[b] := by
  have hv : bk.val ≠ b.val := fun hv => h (Fin.ext hv.symm)
  simp [Core.modBank, Vector.getElem_set_ne, hv]

theorem coreBooks_modBank {i : Instr} {bk : Fin 4} (h : loadsBank i bk) (x : Nat) (k : Core) (f : List Row → List Row) :
    CoreBooks i x k (k.modBank bk fun b => { b with rows := f b.rows }) where
  core := ⟨_, _, _, _, _, rfl⟩
  fmt b := by
    by_cases hb : b = bk
    · rw [hb, modBank_bank_self]
    · rw [modBank_bank_ne k _ hb]
  banks b hb := modBank_bank_ne k _ fun e => hb (e ▸ h)
  others _ _ := rfl
  mine := .refl _

theorem coreBooks_operandPort (i : Instr) (x : Nat) (k : Core) (en : Flags) (p : Option (Fin 16)) (op : Nat) (f : Fmt)
    (codes : List Nat) : CoreBooks i x k (operandPort k en p op f codes).2.2.2 := by
  unfold operandPort
  split
  · exact .refl i x k
  · extract_lets
    split
    · exact coreBooks_ports i x k _ _ k.bad
    · exact coreBooks_ports i x k _ k.ports k.bad

theorem coreBooks_endPort (i : Instr) (x : Nat) (k : Core) (p : Option (Fin 16)) (op : Nat) :
    CoreBooks i x k (endPort k p op) := by
  unfold endPort
  split
  · exact .refl i x k
  · exact coreBooks_ports i x k _ _ k.bad

/-! ## Steps of a row's entry -/

/-- The rows to enter are those of before, or those of operations other than `op` (R215). -/
def RowsLeft (op : Nat) (t u : Ctx) : Prop := u.rows = t.rows ∨ u.rows = t.rows.filter fun r => r.op != op

theorem RowsLeft.trans {op : Nat} {t u v : Ctx} (h : RowsLeft op t u) (g : RowsLeft op u v) : RowsLeft op t v := by
  rcases h with h | h <;> rcases g with g | g
  · exact Or.inl (g.trans h)
  · exact Or.inr (by rw [g, h])
  · exact Or.inr (g.trans h)
  · exact Or.inr (by rw [g, h, List.filter_filter]; simp)

/-- From `s` to `t` books have changed for context `x` of core `c` and its operation `i`, and its rows to enter have not. -/
structure BooksStep (i : Instr) (c x : Nat) (s t : State) : Prop where
  quiet : Quiet s t
  cores : ∀ d, d ≠ c → getCore t d = getCore s d
  core : CoreBooks i x (getCore s c) (getCore t c)

theorem BooksStep.refl (i : Instr) (c x : Nat) (s : State) : BooksStep i c x s s := ⟨.refl s, fun _ _ => rfl, .refl i x _⟩

theorem BooksStep.trans {i : Instr} {c x : Nat} {s t u : State} (h : BooksStep i c x s t) (g : BooksStep i c x t u) :
    BooksStep i c x s u :=
  ⟨h.quiet.trans g.quiet, fun d hd => (g.cores d hd).trans (h.cores d hd), h.core.trans g.core⟩

theorem BooksStep.mine {i : Instr} {c x : Nat} {s t : State} (h : BooksStep i c x s t) :
    CtxBooks (getCtx s c x) (getCtx t c x) := h.core.mine

theorem booksStep_setCore {i : Instr} {c x : Nat} {s : State} {k : Core} (h : CoreBooks i x (getCore s c) k) :
    BooksStep i c x s (setCore s c k) :=
  ⟨quiet_setCore s c k, fun _ hd => getCore_setCore_ne s k hd, by rw [getCore_setCore_self]; exact h⟩

theorem booksStep_setCtx {i : Instr} {c x : Nat} {s : State} {t : Ctx} (h : CtxBooks (getCtx s c x) t) :
    BooksStep i c x s (setCtx s c x t) := booksStep_setCore (coreBooks_put h)

theorem booksStep_of_cores {i : Instr} {c x : Nat} {s t : State} (hq : Quiet s t) (h : t.cores = s.cores) :
    BooksStep i c x s t := by
  have hc : ∀ d, getCore t d = getCore s d := fun d => congrArg (alGet Core.reset · d) h
  exact ⟨hq, fun d _ => hc d, by rw [hc]; exact .refl i x _⟩

/-- A step of the entry of a row of the operation `i`, numbered `op`. -/
structure EntryStep (i : Instr) (op c x : Nat) (s t : State) : Prop extends BooksStep i c x s t where
  left : RowsLeft op (getCtx s c x) (getCtx t c x)

theorem EntryStep.trans {i : Instr} {op c x : Nat} {s t u : State} (h : EntryStep i op c x s t) (g : EntryStep i op c x t u) :
    EntryStep i op c x s u := ⟨h.toBooksStep.trans g.toBooksStep, h.left.trans g.left⟩

section Steps
variable {i : Instr} {op c x : Nat} {s t : State}

theorem EntryStep.refl (s : State) : EntryStep i op c x s s := ⟨.refl i c x s, Or.inl rfl⟩

theorem entryStep_of_cores (hq : Quiet s t) (h : t.cores = s.cores) : EntryStep i op c x s t :=
  ⟨booksStep_of_cores hq h, Or.inl (congrArg Ctx.rows (getCtx_of_cores h c x))⟩

theorem entryStep_setCore {k : Core} (h : CoreBooks i x (getCore s c) k) (hk : k.get x = getCtx s c x) :
    EntryStep i op c x s (setCore s c k) :=
  ⟨booksStep_setCore h, Or.inl (by rw [getCtx, getCore_setCore_self, hk])⟩

theorem entryStep_setCtx {u : Ctx} (h : CtxBooks (getCtx s c x) u) (hr : RowsLeft op (getCtx s c x) u) :
    EntryStep i op c x s (setCtx s c x u) :=
  ⟨booksStep_setCtx h, by rw [getCtx_setCtx_self]; exact hr⟩

theorem entryStep_freeCtr (n : Nat) : EntryStep i op c x s { s with freeCtr := n } :=
  entryStep_of_cores (quiet_freeCtr s n) rfl

theorem entryStep_countCore (d : Nat) : EntryStep i op c x s (countCore s d) := entryStep_of_cores (quiet_countCore s d) rfl

theorem entryStep_foldFlags (f : Flags) : EntryStep i op c x s (foldFlags s c x f) := by
  unfold foldFlags
  split
  · exact .refl s
  · exact entryStep_setCtx ⟨_, _, _, _, _, _, _, rfl⟩ (Or.inl rfl)

theorem entryStep_report (e : Async) : EntryStep i op c x s (report s c x e) := by
  simp only [report]
  split
  · exact entryStep_of_cores ⟨_, _, _, _, rfl⟩ rfl
  · split <;> exact entryStep_setCtx ⟨_, _, _, _, _, _, _, rfl⟩ (Or.inl rfl)

theorem entryStep_noteBad (epc : Nat) (rows : List (Nat × Nat × Nat)) : EntryStep i op c x s (noteBad s c x epc rows) := by
  simp only [noteBad]
  split
  · exact .refl s
  · exact (entryStep_freeCtr _).trans ((entryStep_countCore _).trans (entryStep_report _))

theorem entryStep_stopped : EntryStep i op c x s (modCtx s c x fun t => { t with rows := t.rows.filter fun q => q.op != op }) :=
  entryStep_setCtx ⟨_, _, _, _, _, _, _, rfl⟩ (Or.inr rfl)

theorem entryStep_bankParity {bk : Fin 4} (h : loadsBank i bk) (ro : RowsOp) :
    EntryStep i op c x s (bankParity s c x ro bk) := by
  simp only [bankParity]
  split
  · refine (entryStep_setCore (k := (getCore s c).spoilBank bk _) ((coreBooks_modBank h x _ fun _ => _).trans
      (coreBooks_ports i x _ _ _ _)) rfl).trans ((entryStep_freeCtr _).trans
        ((entryStep_countCore _).trans (entryStep_report _)))
  · exact .refl s

theorem operandPort_get (k : Core) (en : Flags) (p : Option (Fin 16)) (op : Nat) (f : Fmt) (codes : List Nat) :
    (operandPort k en p op f codes).2.2.2.get x = k.get x := by
  unfold operandPort
  split
  · rfl
  · extract_lets
    split <;> rfl

theorem endPort_get (k : Core) (p : Option (Fin 16)) (op : Nat) : (endPort k p op).get x = k.get x := by
  unfold endPort
  split <;> rfl

end Steps

section Entry
variable {i : Instr} {c x : Nat} {s : State} {ro : RowsOp}

theorem entryStep_enterBank {bk : Fin 4} (h : loadsBank i bk) (bt : Nat) (fb : Fmt) (pb : Option (Fin 16)) (r : Nat) :
    EntryStep i ro.op c x s (enterBank s c x ro bk bt fb pb r) := by
  unfold enterBank
  extract_lets k t per src codes
  have hp := coreBooks_operandPort i x k t.flags pb ro.op fb codes
  have hg := operandPort_get (x := x) k t.flags pb ro.op fb codes
  split
  rename_i cs fl fault l heq
  rw [heq] at hp hg
  extract_lets spoilt s1 s2 l' fl' l'' s3
  split
  · refine (entryStep_setCore (hp.trans (coreBooks_modBank h x l fun _ => _)) hg).trans ((entryStep_freeCtr _).trans
      (entryStep_stopped.trans ((entryStep_foldFlags _).trans ((entryStep_noteBad _ _).trans (entryStep_report _)))))
  · have hl : EntryStep i ro.op c x s (setCore s c l'') := by
      have hb := hp.trans (coreBooks_modBank h x l fun rs => setPad rs r (rowOf fb.width cs))
      by_cases hr : r = 191
      · rw [show l'' = endPort l' pb ro.op from if_pos hr]
        exact entryStep_setCore (hb.trans (coreBooks_endPort i x _ pb ro.op)) ((endPort_get ..).trans hg)
      · rw [show l'' = l' from if_neg hr]
        exact entryStep_setCore hb hg
    have hn : EntryStep i ro.op c x s s3 :=
      hl.trans ((entryStep_foldFlags _).trans (entryStep_noteBad _ _))
    split
    · exact hn.trans (entryStep_bankParity h ro)
    · exact hn

theorem entryStep_enterA (bk : Fin 4) (at_ arow n : Nat) (fa : Fmt) (acc : Bool) (zt : Nat) (zf : Zf) (pa pz : Option (Fin 16))
    (sparse : Bool) (j : Nat) :
    EntryStep i ro.op c x s (enterA s c x ro bk at_ arow n fa acc zt zf pa pz sparse j) := by
  unfold enterA
  extract_lets k t codes
  have hp := coreBooks_operandPort i x k t.flags pa ro.op fa codes
  have hg := operandPort_get (x := x) k t.flags pa ro.op fa codes
  split
  rename_i cs fl fault l heq
  rw [heq] at hp hg
  extract_lets l' u b ts fl' fl'' m w
  split
  · have hl : EntryStep i ro.op c x s (setCore s c l') := by
      by_cases hj : j = 0
      · rw [show l' = endPort l pz ro.op from if_pos hj]
        exact entryStep_setCore (hp.trans (coreBooks_endPort i x l pz ro.op)) ((endPort_get ..).trans hg)
      · rw [show l' = l from if_neg hj]
        exact entryStep_setCore hp hg
    refine hl.trans (EntryStep.trans ?_ ((entryStep_foldFlags _).trans ((entryStep_noteBad _ _).trans (entryStep_report _))))
    exact entryStep_setCtx ⟨_, _, _, _, _, _, _, rfl⟩ (Or.inr rfl)
  · have hl : EntryStep i ro.op c x s (setCore s c m) := by
      by_cases hj : j + 1 = n
      · rw [show m = endPort l pa ro.op from if_pos hj]
        exact entryStep_setCore (hp.trans (coreBooks_endPort i x l pa ro.op)) ((endPort_get ..).trans hg)
      · rw [show m = l from if_neg hj]
        exact entryStep_setCore hp hg
    exact hl.trans ((entryStep_noteBad _ _).trans (entryStep_setCtx ⟨_, _, _, _, _, _, _, rfl⟩ (Or.inl rfl)))

theorem entryStep_enterRow (c x : Nat) (s : State) (ro : RowsOp) : EntryStep ro.ins ro.op c x s (enterRow s c x ro) := by
  unfold enterRow
  split
  · rename_i heq
    exact entryStep_enterBank (by rw [heq]; exact (rfl : _ = _)) ..
  · exact entryStep_enterA ..
  · exact entryStep_enterA ..
  · exact entryStep_setCtx ⟨_, _, _, _, _, _, _, rfl⟩ (Or.inl rfl)

end Entry

end Sys2Proof.Machine
end


section
/-! How far the rows of an operation enter in one cycle (O40, R217). -/
namespace Sys2Proof.Machine

/-! ## The rows of one operation -/

/-- The rows to enter once the next row of the operation `op` has entered. -/
def stepRows (op : Nat) (rows : List RowsOp) : List RowsOp :=
  rows.filterMap fun r =>
    if r.op = op then (if r.next + 1 < rowCount r.ins then some { r with next := r.next + 1 } else none) else some r

/-- No row of the operation `op` is due: it has none to enter, or its next one enters in a later cycle. -/
def Settled (op : Nat) (t : Ctx) : Prop := ∀ ro, t.rows.find? (fun r => r.op == op) = some ro → t.icyc < entryCycle ro

/-- At most `n` rows of the operation `op` are left. -/
def RowsWithin (op n : Nat) (rows : List RowsOp) : Prop := ∀ r ∈ rows, r.op = op → rowCount r.ins ≤ r.next + n

theorem resultRows_le (f : Fmt) (acnt : Fin 64) (sparse : Bool) : resultRows f acnt sparse ≤ 64 := by
  unfold resultRows
  split <;> omega

theorem rowCount_le (i : Instr) : rowCount i ≤ 192 := by
  unfold rowCount
  split <;> grind [resultRows_le]

theorem rowsWithin_all (op : Nat) (rows : List RowsOp) : RowsWithin op 192 rows := fun r _ _ =>
  (rowCount_le r.ins).trans (Nat.le_add_left ..)

theorem mem_stepRows {op : Nat} {rows : List RowsOp} {r : RowsOp} (h : r ∈ stepRows op rows) (hr : r.op = op) :
    ∃ q ∈ rows, q.op = op ∧ r = { q with next := q.next + 1 } ∧ r.next < rowCount r.ins := by
  obtain ⟨q, hq, hstep⟩ := List.mem_filterMap.mp h
  split at hstep
  · rename_i hop
    split at hstep
    · obtain rfl := Option.some.inj hstep
      exact ⟨q, hq, hop, rfl, ‹_›⟩
    · cases hstep
  · obtain rfl := Option.some.inj hstep
    exact absurd hr ‹_›

theorem rowsWithin_stepRows {op n : Nat} {rows : List RowsOp} (h : RowsWithin op (n + 1) rows) :
    RowsWithin op n (stepRows op rows) := fun r hr hop => by
  obtain ⟨q, hq, hqop, rfl, -⟩ := mem_stepRows hr hop
  have := h q hq hqop
  exact this.trans (by simp only; omega)

theorem find?_stepRows {op op' : Nat} (h : op' ≠ op) (rows : List RowsOp) :
    (stepRows op rows).find? (fun r => r.op == op') = rows.find? fun r => r.op == op' := by
  induction rows with
  | nil => rfl
  | cons r rs ih =>
    have hcons : stepRows op (r :: rs) = (if r.op = op then
        (if r.next + 1 < rowCount r.ins then [{ r with next := r.next + 1 }] else []) else [r]) ++ stepRows op rs := by
      unfold stepRows
      by_cases hr : r.op = op
      · by_cases hn : r.next + 1 < rowCount r.ins <;> simp [hr, hn]
      · simp [hr]
    rw [hcons]
    by_cases hr : r.op = op
    · have hne : (r.op == op') = false := beq_eq_false_iff_ne.mpr fun e => h (e.symm.trans hr)
      rw [if_pos hr, List.find?_cons_of_neg (by simp [hne])]
      split
      · rw [List.singleton_append, List.find?_cons_of_neg (by simp [hne]), ih]
      · exact ih
    · rw [if_neg hr, List.singleton_append, List.find?_cons, List.find?_cons, ih]

theorem find?_left {op op' : Nat} (h : op' ≠ op) {t u : Ctx} (hl : RowsLeft op t u) :
    u.rows.find? (fun r => r.op == op') = t.rows.find? fun r => r.op == op' := by
  rcases hl with hl | hl
  · rw [hl]
  · rw [hl, List.find?_filter]
    refine congrArg (fun p => t.rows.find? p) (funext fun r => ?_)
    by_cases hr : r.op = op'
    · simp [hr, h]
    · simp [hr]

theorem mem_of_left {op : Nat} {t u : Ctx} (hl : RowsLeft op t u) {r : RowsOp} (h : r ∈ u.rows) : r ∈ t.rows := by
  rcases hl with hl | hl <;> rw [hl] at h
  · exact h
  · exact List.mem_of_mem_filter h

/-! ## The entry of an operation's rows -/

section EnterOp
variable {c x op : Nat} {s : State}

/-- A context with other rows to enter. -/
def Ctx.withRows (rows : List RowsOp) (t : Ctx) : Ctx := { t with rows := rows }

/-- The package once the next row `ro` of its operation has entered. -/
def entered (s : State) (c x : Nat) (ro : RowsOp) : State :=
  enterRow (setCtx s c x ((getCtx s c x).withRows (stepRows ro.op (getCtx s c x).rows))) c x ro

theorem enterOp_settled (h : Settled op (getCtx s c x)) (n : Nat) : enterOp c x op n s = s := by
  cases n with
  | zero => rfl
  | succ n =>
    rw [enterOp]
    cases hf : (getCtx s c x).rows.find? fun r => r.op == op with
    | none => rfl
    | some ro => exact if_pos (h ro hf)

theorem enterOp_due {ro : RowsOp} (hf : (getCtx s c x).rows.find? (fun r => r.op == op) = some ro)
    (hdue : entryCycle ro ≤ (getCtx s c x).icyc) (n : Nat) :
    enterOp c x op (n + 1) s = enterOp c x op n (entered s c x ro) := by
  have hop : ro.op = op := by simpa using List.find?_some hf
  rw [enterOp, hf]
  exact (if_neg (Nat.not_lt.mpr hdue)).trans (by rw [entered, hop]; rfl)

theorem settled_or_due (op : Nat) (t : Ctx) :
    Settled op t ∨ ∃ ro, t.rows.find? (fun r => r.op == op) = some ro ∧ entryCycle ro ≤ t.icyc := by
  cases hf : t.rows.find? fun r => r.op == op with
  | none => exact Or.inl fun ro h => absurd (hf.symm.trans h) (by simp)
  | some ro =>
    by_cases hd : t.icyc < entryCycle ro
    · exact Or.inl fun r h => by rw [hf] at h; rw [← Option.some.inj h]; exact hd
    · exact Or.inr ⟨ro, rfl, Nat.le_of_not_lt hd⟩

theorem enterOp_add (m n : Nat) : ∀ s, enterOp c x op (m + n) s = enterOp c x op n (enterOp c x op m s) := by
  induction m with
  | zero => intro s; rw [Nat.zero_add]; rfl
  | succ m ih =>
    intro s
    rcases settled_or_due op (getCtx s c x) with h | ⟨ro, hf, hd⟩
    · rw [enterOp_settled h, enterOp_settled h, enterOp_settled h]
    · rw [Nat.add_right_comm, enterOp_due hf hd, enterOp_due hf hd, ih]

/-- What the entry of one row leaves of the rows to enter and of the issue cycle. -/
theorem entered_left (s : State) (c x : Nat) (ro : RowsOp) :
    RowsLeft ro.op ((getCtx s c x).withRows (stepRows ro.op (getCtx s c x).rows)) (getCtx (entered s c x ro) c x) ∧
      (getCtx (entered s c x ro) c x).icyc = (getCtx s c x).icyc := by
  have h := entryStep_enterRow c x (setCtx s c x ((getCtx s c x).withRows (stepRows ro.op (getCtx s c x).rows))) ro
  have hl := h.left
  have hi := h.toBooksStep.mine.icyc
  rw [getCtx_setCtx_self] at hl hi
  exact ⟨hl, hi⟩

theorem booksStep_entered (s : State) (c x : Nat) (ro : RowsOp) : BooksStep ro.ins c x s (entered s c x ro) :=
  (booksStep_setCtx ⟨_, _, _, _, _, _, _, rfl⟩).trans (entryStep_enterRow ..).toBooksStep

theorem settled_enterOp (n : Nat) : ∀ {s : State}, RowsWithin op (n + 1) (getCtx s c x).rows →
    Settled op (getCtx (enterOp c x op (n + 1) s) c x) := by
  induction n with
  | zero =>
    intro s h
    rcases settled_or_due op (getCtx s c x) with hs | ⟨ro, hf, hd⟩
    · rw [enterOp_settled hs]
      exact hs
    · obtain rfl : ro.op = op := by simpa using List.find?_some hf
      rw [enterOp_due hf hd]
      intro r hr
      have hmem := mem_of_left (entered_left s c x ro).1 (List.mem_of_find?_eq_some hr)
      obtain ⟨q, hq, hqop, rfl, hlt⟩ := mem_stepRows hmem (by simpa using List.find?_some hr)
      exact absurd hlt (Nat.not_lt.mpr (h q hq hqop))
  | succ n ih =>
    intro s h
    rcases settled_or_due op (getCtx s c x) with hs | ⟨ro, hf, hd⟩
    · rw [enterOp_settled hs]
      exact hs
    · obtain rfl : ro.op = op := by simpa using List.find?_some hf
      rw [enterOp_due hf hd]
      exact ih fun r hr => rowsWithin_stepRows h r (mem_of_left (entered_left s c x ro).1 hr)

theorem settled_entered {op' : Nat} {ro : RowsOp} (h : op' ≠ ro.op) (hs : Settled op' (getCtx s c x)) :
    Settled op' (getCtx (entered s c x ro) c x) := fun r hr => by
  obtain ⟨hl, hi⟩ := entered_left s c x ro
  rw [find?_left h hl] at hr
  rw [hi]
  exact hs r ((find?_stepRows h _).symm.trans hr)

theorem settled_enterOp_other {op' : Nat} (h : op' ≠ op) (n : Nat) : ∀ {s : State}, Settled op' (getCtx s c x) →
    Settled op' (getCtx (enterOp c x op n s) c x) := by
  induction n with
  | zero => exact fun hs => hs
  | succ n ih =>
    intro s hs
    rcases settled_or_due op (getCtx s c x) with hw | ⟨ro, hf, hd⟩
    · rw [enterOp_settled hw]
      exact hs
    · obtain rfl : ro.op = op := by simpa using List.find?_some hf
      rw [enterOp_due hf hd]
      exact ih (settled_entered h hs)

theorem settled_foldl {op' : Nat} : ∀ (rows : List RowsOp) {s : State},
    (∃ r ∈ rows, r.op = op') ∨ Settled op' (getCtx s c x) →
    Settled op' (getCtx (rows.foldl (fun s ro => enterOp c x ro.op 192 s) s) c x)
  | [], s, h => h.resolve_left (by simp)
  | r :: rs, s, h => by
    rw [List.foldl_cons]
    refine settled_foldl rs ?_
    by_cases hr : op' = r.op
    · subst hr
      exact Or.inr (settled_enterOp 191 (rowsWithin_all r.op _))
    · rcases h with ⟨q, hq, hop⟩ | h
      · rcases List.mem_cons.mp hq with rfl | hq
        · exact absurd hop.symm hr
        · exact Or.inl ⟨q, hq, hop⟩
      · exact Or.inr (settled_enterOp_other hr 192 h)

theorem settled_enterRows (op' : Nat) (s : State) (c x : Nat) : Settled op' (getCtx (enterRows s c x) c x) := by
  refine settled_foldl _ ?_
  by_cases h : ∃ r ∈ (getCtx s c x).rows, r.op = op'
  · exact Or.inl h
  · refine Or.inr fun ro hro => absurd ⟨ro, List.mem_of_find?_eq_some hro, ?_⟩ h
    simpa using List.find?_some hro

/-- The operation `i` has entered rows of its own alone. -/
theorem booksStep_enterOp {i : Instr} (n : Nat) : ∀ {s : State}, (∀ r ∈ (getCtx s c x).rows, r.op = op → r.ins = i) →
    BooksStep i c x s (enterOp c x op n s) := by
  induction n with
  | zero => exact fun _ => .refl ..
  | succ n ih =>
    intro s h
    rcases settled_or_due op (getCtx s c x) with hw | ⟨ro, hf, hd⟩
    · rw [enterOp_settled hw]
      exact .refl ..
    · obtain rfl : ro.op = op := by simpa using List.find?_some hf
      rw [enterOp_due hf hd]
      have hi : ro.ins = i := h ro (List.mem_of_find?_eq_some hf) rfl
      refine (hi ▸ booksStep_entered s c x ro).trans (ih fun r hr hop => ?_)
      obtain ⟨q, hq, hqop, rfl, -⟩ := mem_stepRows (mem_of_left (entered_left s c x ro).1 hr) hop
      exact h q hq hqop

end EnterOp

theorem settled_startCycle (op : Nat) (s : State) : Settled op (startCycle s).me := by
  rw [State.me, startCycle_core, startCycle_ctx]
  have h : startCycle s = enterRows (delivered s) s.issue.core s.issue.ctx := rfl
  rw [h]
  exact settled_enterRows op (delivered s) s.issue.core s.issue.ctx

/-! ## Rows that enter in turn -/

theorem enterRows_single {c x : Nat} {s : State} {ro : RowsOp} (h : (getCtx s c x).rows = [ro]) :
    enterRows s c x = enterOp c x ro.op 192 s := by
  rw [enterRows, h]
  rfl

theorem stepRows_single (ro : RowsOp) : stepRows ro.op [ro] =
    if ro.next + 1 < rowCount ro.ins then [{ ro with next := ro.next + 1 }] else [] := by
  by_cases h : ro.next + 1 < rowCount ro.ins <;> simp [stepRows, h]

/-- The rows left after a row has entered do as if their cycle began. -/
theorem enterRows_entered {c x : Nat} {s : State} {ro : RowsOp} (h : (getCtx s c x).rows = [ro]) :
    enterOp c x ro.op 191 (entered s c x ro) = enterRows (entered s c x ro) c x := by
  obtain ⟨hl, -⟩ := entered_left s c x ro
  have hnone : (getCtx (entered s c x ro) c x).rows = [] →
      enterOp c x ro.op 191 (entered s c x ro) = enterRows (entered s c x ro) c x := fun he => by
    rw [enterRows, he]
    exact enterOp_settled (fun r hr => by rw [he] at hr; cases hr) 191
  have hrest := stepRows_single ro
  rw [← h] at hrest
  by_cases hn : ro.next + 1 < rowCount ro.ins
  · rw [if_pos hn] at hrest
    rcases hl with hl | hl
    · have hone := hl.trans hrest
      rw [enterRows_single hone]
      have hset : Settled ro.op (getCtx (enterOp c x ro.op 191 (entered s c x ro)) c x) := by
        refine settled_enterOp 190 fun r hr _ => ?_
        rw [hone, List.mem_singleton] at hr
        subst hr
        exact (rowCount_le _).trans (by simp only; omega)
      exact (enterOp_settled hset 1).symm.trans (enterOp_add 191 1 _).symm
    · exact hnone (hl.trans ((congrArg _ hrest).trans (by simp)))
  · rw [if_neg hn] at hrest
    rcases hl with hl | hl
    · exact hnone (hl.trans hrest)
    · exact hnone (hl.trans ((congrArg _ hrest).trans rfl))

theorem rowsEnterInTurn : Claims.RowsEnterInTurn := by
  intro c x ro s t p e hrows hnext
  have he : e = (rowCount ro.ins, entryCycle ro) := by
    revert hnext
    simp only [e, p]
    unfold rowCount entryCycle
    split
    · rename_i heq
      intro _
      rw [heq]
    · rename_i heq
      intro _
      rw [heq]
      rfl
    · rename_i fa _ _ _ _ _ _ _ heq
      intro _
      rw [heq]
      by_cases hw : fa.width = 8 <;> simp [resultRows, rowEntry, hw]
    · exact fun h => absurd h (Nat.not_lt_zero _)
  rw [he]
  have hf : (getCtx s c x).rows.find? (fun r => r.op == ro.op) = some ro := by
    rw [show (getCtx s c x).rows = [ro] from hrows]
    simp
  refine ⟨fun hlt => ?_, fun hdue => ?_⟩
  · rw [enterRows_single hrows]
    exact enterOp_settled (fun r hr => by rw [hf] at hr; rw [← Option.some.inj hr]; exact hlt) 192
  · rw [enterRows_single hrows, enterOp_due hf hdue, enterRows_entered hrows]
    have hstep : stepRows ro.op (getCtx s c x).rows =
        if ro.next + 1 < rowCount ro.ins then [{ ro with next := ro.next + 1 }] else [] := by
      rw [show (getCtx s c x).rows = [ro] from hrows, stepRows_single]
    rw [entered, hstep]
    rfl

end Sys2Proof.Machine
end


section
/-! MLDB, MMUL and MMULS as they issue, and the rows of an MLDB (O40; R93, R94, R217, R220). -/
namespace Sys2Proof.Machine

/-! ## A bank's row (R212, R220) -/

theorem setPad_getD (xs : List Row) (i : Nat) (v : Row) (r : Nat) :
    (setPad xs i v).getD r 0 = if r = i then v else xs.getD r 0 := by
  unfold setPad
  simp only [List.getD_eq_getElem?_getD]
  by_cases hi : i < xs.length
  · rw [if_pos hi, List.getElem?_set]
    by_cases hr : r = i
    · subst hr
      simp [hi]
    · rw [if_neg hr, if_neg fun h => hr h.symm]
  · rw [if_neg hi]
    have hlen : (xs ++ List.replicate (i - xs.length) (0 : Row)).length = i := by
      rw [List.length_append, List.length_replicate]
      omega
    rcases Nat.lt_trichotomy r i with hr | hr | hr
    · rw [if_neg (Nat.ne_of_lt hr), List.getElem?_append_left (by omega), List.getElem?_append]
      split
      · rfl
      · rw [List.getElem?_replicate, List.getElem?_eq_none (by omega)]
        split <;> rfl
    · rw [if_pos hr, List.getElem?_append_right (by omega), hlen, hr]
      simp
    · rw [if_neg (Nat.ne_of_gt hr), List.getElem?_append_right (by omega), hlen,
        List.getElem?_eq_none (by simp only [List.length_singleton]; omega), List.getElem?_eq_none (by omega)]

/-- Row `r` of the bank an MLDB loads from tile name `bt` of context `x`. -/
def Core.bankSource (k : Core) (x bt : Nat) (f : Fmt) (r : Nat) : Row :=
  rowOf f.width (elemsOf f.width (if f.isWide then 96 else 192) (k.row ((k.get x).tbase + bt + r / 64) (r % 64)).toNat)

/-- A core with row `r` of a bank written. -/
def Core.fillBank (bk : Fin 4) (r : Nat) (v : Row) (k : Core) : Core :=
  k.modBank bk fun b => { b with rows := setPad b.rows r v }

theorem fillBank_bank (bk : Fin 4) (r : Nat) (v : Row) (k : Core) :
    (k.fillBank bk r v).banks[bk] = { k.banks[bk] with rows := setPad k.banks[bk].rows r v } := modBank_bank_self ..

theorem foldFlags_zero (s : State) (c x : Nat) : foldFlags s c x 0 = s := if_pos rfl

theorem enterRow_bank {c x : Nat} {s : State} {ro : RowsOp} {gd : Guard} {bk : Fin 4} {bt : Fin 32} {f : Fmt}
    (hi : ro.ins = .mldb gd bk bt f none) (hb : (getCore s c).bad = []) : enterRow s c x ro =
      setCore s c ((getCore s c).fillBank bk ro.next ((getCore s c).bankSource x bt.val f ro.next)) := by
  have hbad : (getCore (setCore s c ((getCore s c).fillBank bk ro.next ((getCore s c).bankSource x bt.val f ro.next))) c).bad =
      [] := by rw [getCore_setCore_self]; exact hb
  have hparity : ∀ u : State, (getCore u c).bad = [] → bankParity u c x ro bk = u := fun u hu => by simp [bankParity, hu]
  unfold enterRow
  rw [hi]
  unfold enterBank
  have hflags : (if ro.next = 191 then (0 : Flags) ||| 0 else 0) = 0 := by split <;> rfl
  simp only [operandPort, endPort, endPortFlags, readRow_clean hb, hflags, foldFlags_zero, ite_self]
  change (if ro.next = 191 then bankParity (noteBad (setCore s c ((getCore s c).fillBank bk ro.next
    ((getCore s c).bankSource x bt.val f ro.next))) c x ro.addr _) c x ro bk else noteBad (setCore s c ((getCore s c).fillBank
      bk ro.next ((getCore s c).bankSource x bt.val f ro.next))) c x ro.addr _) = _
  rw [noteBad_clean hbad, hparity _ hbad, ite_self]

theorem bankRows : Claims.BankRows := by
  intro gd bk bt f ro c x s hi _ hb k u row
  have hu : u = setCore s c (k.fillBank bk ro.next (k.bankSource x bt.val f ro.next)) := enterRow_bank hi hb
  have hk : getCore u c = k.fillBank bk ro.next (k.bankSource x bt.val f ro.next) := by rw [hu, getCore_setCore_self]
  rw [hk]
  refine ⟨⟨_, hu⟩, fun d hd => by rw [hu]; exact getCore_setCore_ne s _ hd, rfl, fun b hb => modBank_bank_ne k _ hb, ?_,
    fun r => ?_⟩
  · rw [fillBank_bank]
  · rw [fillBank_bank]
    exact setPad_getD ..

end Sys2Proof.Machine
end


section
/-! MLDB, MMUL and MMULS as they issue (O40; R93, R94, R217, R220). -/
namespace Sys2Proof.Machine

/-! ## The unit accepts an operation -/

/-- From `s` to `t` a core has changed, as `R` says, and nothing else. -/
structure AtCore (c : Nat) (R : Core → Core → Prop) (s t : State) : Prop where
  only : ∃ cs, t = { s with cores := cs }
  cores : ∀ d, d ≠ c → getCore t d = getCore s d
  core : R (getCore s c) (getCore t c)

theorem AtCore.quiet {c : Nat} {R : Core → Core → Prop} {s t : State} (h : AtCore c R s t) : Quiet s t := by
  obtain ⟨_, rfl⟩ := h.only
  exact ⟨_, _, _, _, rfl⟩

theorem atCore_modCore {c : Nat} {R : Core → Core → Prop} {s : State} {f : Core → Core} (h : R (getCore s c) (f (getCore s c))) :
    AtCore c R s (modCore s c f) :=
  ⟨⟨_, rfl⟩, fun _ hd => getCore_modCore_ne s f hd, by rw [getCore_modCore_self]; exact h⟩

theorem AtCore.trans {c : Nat} {R R' R'' : Core → Core → Prop} {s t u : State} (h : AtCore c R s t) (g : AtCore c R' t u)
    (hR : ∀ k l m, R k l → R' l m → R'' k m) : AtCore c R'' s u := by
  obtain ⟨_, ht⟩ := h.only
  obtain ⟨cs, hu⟩ := g.only
  exact ⟨⟨cs, by rw [hu, ht]⟩, fun d hd => (g.cores d hd).trans (h.cores d hd), hR _ _ _ h.core g.core⟩

/-- A core with other commands in its port slots. -/
def SameButServing (k l : Core) : Prop := ∃ serving, l = { k with serving := serving }

theorem SameButServing.trans (k l m : Core) (h : SameButServing k l) (g : SameButServing l m) : SameButServing k m := by
  obtain ⟨_, rfl⟩ := h
  obtain ⟨v, rfl⟩ := g
  exact ⟨v, rfl⟩

theorem serving_passCopies (c x : Nat) (p : Option (Fin 16)) (s : State) : AtCore c SameButServing s (passCopies c x p s) := by
  unfold passCopies
  split
  · exact ⟨⟨_, rfl⟩, fun _ _ => rfl, ⟨_, rfl⟩⟩
  · exact atCore_modCore ⟨_, rfl⟩

theorem serving_serve (s : State) (c x seq : Nat) (p : Option (Fin 16)) (start : Bool) (until_ : Option Nat) :
    AtCore c SameButServing s (serve s c x seq p start until_) := by
  unfold serve
  split
  · exact ⟨⟨_, rfl⟩, fun _ _ => rfl, ⟨_, rfl⟩⟩
  · exact atCore_modCore ⟨_, rfl⟩

theorem serving_foldl {α : Type} {c : Nat} {f : State → α → State} (h : ∀ s a, AtCore c SameButServing s (f s a)) :
    ∀ (as : List α) (s : State), AtCore c SameButServing s (as.foldl f s)
  | [], _ => ⟨⟨_, rfl⟩, fun _ _ => rfl, ⟨_, rfl⟩⟩
  | a :: as, s => (h s a).trans (serving_foldl h as (f s a)) SameButServing.trans

/-- The row state of an operation that the unit accepts in the cycle of `a` (R217). -/
def acceptedRows (a : State) (i : Instr) (sel : Row) (op : Nat) : RowsOp :=
  ⟨op, i, a.me.icyc, a.ck, 0, a.issue.addr, sel, none, 0⟩

/-- A context with the rows of an operation to enter. -/
def Ctx.addRows (r : RowsOp) (t : Ctx) : Ctx := { t with rows := t.rows ++ [r] }

/-- The core `l` is `k` once the unit has accepted an operation whose last row enters `last` cycles on. -/
def Accepts (a : State) (i : Instr) (sel : Row) (last : Nat) (k l : Core) : Prop :=
  ∃ serving, l = { k.put a.issue.ctx ((k.get a.issue.ctx).addRows (acceptedRows a i sel k.opSeq)) with
    opSeq := k.opSeq + 1, serving := serving, owner := .ctx a.issue.ctx, mFree := a.me.icyc + last + 1, mUser := a.issue.ctx }

/-- The core that the unit is made the context's own on (R93). -/
def Core.claim (a : State) (last : Nat) (k : Core) : Core :=
  { takeUnit a.issue.ctx k with mFree := a.me.icyc + last + 1, mUser := a.issue.ctx }

/-- The port slots of an operation as the unit accepts it (R244). -/
def servePorts (a : State) (ports : List (Option (Fin 16))) (s : State) : State :=
  ports.foldl (fun u p => serve u a.issue.core a.issue.ctx (newOp s a.issue.core).1 p true none)
    (ports.foldl (fun u p => passCopies a.issue.core a.issue.ctx p u) (newOp s a.issue.core).2)

theorem acceptRows_eq (a : State) (i : Instr) (sel : Row) (last : Nat) (ports : List (Option (Fin 16))) (s : State) :
    acceptRows a i sel last ports s = enterOp a.issue.core a.issue.ctx (getCore s a.issue.core).opSeq 192
      (modCtx (modCore (servePorts a ports s) a.issue.core (Core.claim a last)) a.issue.core a.issue.ctx
        (Ctx.addRows (acceptedRows a i sel (getCore s a.issue.core).opSeq))) := rfl

theorem servePorts_core (a : State) (ports : List (Option (Fin 16))) (s : State) : AtCore a.issue.core
    (fun k l => ∃ serving, l = { k with opSeq := k.opSeq + 1, serving := serving }) s (servePorts a ports s) := by
  have hnew : AtCore a.issue.core (fun k l => l = { k with opSeq := k.opSeq + 1 }) s (newOp s a.issue.core).2 :=
    atCore_modCore (f := fun k => { k with opSeq := k.opSeq + 1 }) rfl
  have hserve := (serving_foldl (fun s p => serving_passCopies a.issue.core a.issue.ctx p s) ports
    (newOp s a.issue.core).2).trans (serving_foldl (fun u p => serving_serve u a.issue.core a.issue.ctx
      (newOp s a.issue.core).1 p true none) ports _) SameButServing.trans
  refine hnew.trans hserve fun k l m h g => ?_
  obtain ⟨v, rfl⟩ := g
  exact ⟨v, by rw [h]⟩

theorem accepts_acceptRows (a : State) (i : Instr) (sel : Row) (last : Nat) (ports : List (Option (Fin 16))) (s : State) :
    AtCore a.issue.core (Accepts a i sel last) s
      (modCtx (modCore (servePorts a ports s) a.issue.core (Core.claim a last)) a.issue.core a.issue.ctx
        (Ctx.addRows (acceptedRows a i sel (getCore s a.issue.core).opSeq))) := by
  obtain ⟨⟨cs, hu⟩, hcores, v, hv⟩ := servePorts_core a ports s
  generalize servePorts a ports s = u at hu hcores hv
  refine ⟨⟨_, by rw [hu]; rfl⟩, fun d hd => ?_, v, ?_⟩
  · exact (getCore_modCtx_ne _ _ _ hd).trans ((getCore_modCore_ne _ _ hd).trans (hcores d hd))
  · rw [getCore_modCtx_self, getCtx, getCore_modCore_self, hv]
    rfl

/-! ## What an operation leaves that the unit has accepted -/

/-- The core of a group that is one operation of slot M, as its effect finds it: the bank it loads has its format. -/
def AtIssue (a : State) (bank : Vector Bank 4) (k l : Core) : Prop := l = { k.beforeEffect a [] none with banks := bank }

section Starts
variable {a s t : State} {i : Instr} {sel : Row} {last : Nat} {bank : Vector Bank 4}

theorem atIssue_get (hs : AtCore a.issue.core (AtIssue a bank) a s) :
    getCtx s a.issue.core a.issue.ctx = moveOn (srcPops [] a) (flow a.me a.issue.next none) a.me := by
  rw [getCtx, hs.core]
  exact Core.beforeEffect_get ..

theorem atIssue_opSeq (hs : AtCore a.issue.core (AtIssue a bank) a s) : (getCore s a.issue.core).opSeq = a.myCore.opSeq := by
  rw [hs.core]
  unfold Core.beforeEffect giveUp
  split <;> rfl

theorem accepted_get (hs : AtCore a.issue.core (AtIssue a bank) a s) (ht : AtCore a.issue.core (Accepts a i sel last) s t) :
    getCtx t a.issue.core a.issue.ctx = Ctx.addRows (acceptedRows a i sel a.myCore.opSeq)
      (moveOn (srcPops [] a) (flow a.me a.issue.next none) a.me) := by
  obtain ⟨v, hv⟩ := ht.core
  rw [← atIssue_get hs, ← atIssue_opSeq hs, getCtx, hv]
  exact Core.get_put_self ..

/-- The rows that enter as the unit accepts an operation are its own. -/
theorem booksStep_accepted (hset : Settled a.myCore.opSeq a.me) (hs : AtCore a.issue.core (AtIssue a bank) a s)
    (ht : AtCore a.issue.core (Accepts a i sel last) s t) :
    BooksStep i a.issue.core a.issue.ctx t (enterOp a.issue.core a.issue.ctx a.myCore.opSeq 192 t) := by
  have hget := accepted_get hs ht
  have hicyc : (getCtx t a.issue.core a.issue.ctx).icyc = a.me.icyc := by rw [hget]; rfl
  have hrows : (getCtx t a.issue.core a.issue.ctx).rows = a.me.rows ++ [acceptedRows a i sel a.myCore.opSeq] := by
    rw [hget]; rfl
  by_cases hold : ∃ r ∈ a.me.rows, r.op = a.myCore.opSeq
  · have hw : Settled a.myCore.opSeq (getCtx t a.issue.core a.issue.ctx) := fun ro hro => by
      rw [hicyc]
      rw [hrows, List.find?_append] at hro
      cases hf : a.me.rows.find? fun r => r.op == a.myCore.opSeq with
      | none =>
        obtain ⟨r, hr, hop⟩ := hold
        exact absurd hop (by simpa using List.find?_eq_none.mp hf r hr)
      | some r =>
        rw [hf] at hro
        exact hset ro (hf.trans hro)
    rw [enterOp_settled hw]
    exact .refl ..
  · refine booksStep_enterOp 192 fun r hr hop => ?_
    rw [hrows] at hr
    rcases List.mem_append.mp hr with hr | hr
    · exact absurd ⟨r, hr, hop⟩ hold
    · rw [List.mem_singleton.mp hr]
      rfl

/-- What the group of an operation leaves that the unit has accepted. -/
structure Started (a : State) (i : Instr) (last : Nat) (bank : Vector Bank 4) (u : State) : Prop where
  keeps : Keeps a u
  owner : u.myCore.owner = .ctx a.issue.ctx
  user : u.myCore.mUser = a.issue.ctx
  free : u.myCore.mFree = a.me.icyc + last + 1
  g : u.me.g = a.me.g
  full : u.me.full = a.me.full
  p : u.me.p = a.me.p
  pc : u.me.pc = (advanced a []).pc
  icyc : u.me.icyc = a.me.icyc + 1
  banks : ∀ b : Fin 4, ¬loadsBank i b → u.myCore.banks[b] = bank[b]
  fmt : ∀ b : Fin 4, u.myCore.banks[b].fmt = bank[b].fmt

theorem getCore_after {a e : State} (h : e.issue = a.issue) :
    getCore (after a e) a.issue.core = (getCore e a.issue.core).afterEffect a := by
  have hc : e.issue.core = a.issue.core := congrArg Issue.core h
  have hx : e.issue.ctx = a.issue.ctx := congrArg Issue.ctx h
  rw [after, getCore_modCore_self, State.modMe, hc, hx, getCore_modCtx_self]
  rfl

theorem getCore_after_ne {a e : State} (h : e.issue = a.issue) {d : Nat} (hd : d ≠ a.issue.core) :
    getCore (after a e) d = getCore e d := by
  have hc : e.issue.core = a.issue.core := congrArg Issue.core h
  rw [after, getCore_modCore_ne _ _ hd, State.modMe, hc, getCore_modCtx_ne _ _ _ hd]

theorem quiet_after (a e : State) : Quiet e (after a e) := (quiet_modMe e _).trans (quiet_modCore _ _ _)

/-- The fields of the core that a group of slot M leaves, but for its contexts, banks and books. -/
theorem started_core {e : State} (hs : AtCore a.issue.core (AtIssue a bank) a s)
    (ht : AtCore a.issue.core (Accepts a i sel last) s t) (he : BooksStep i a.issue.core a.issue.ctx t e) :
    ∃ ctx serving ports banks bad seq k, getCore (after a e) a.issue.core = { a.myCore with
      ctx := ctx, serving := serving, ports := ports, banks := banks, bad := bad, opSeq := seq, owner := .ctx a.issue.ctx
      mFree := a.me.icyc + last + 1, mUser := a.issue.ctx, lastIssue := k, cur := a.issue.ctx } := by
  have hi : e.issue = a.issue := (hs.quiet.trans (ht.quiet.trans he.quiet)).issue
  obtain ⟨_, ports, banks, bad, _, hk⟩ := he.core.core
  obtain ⟨v, hv⟩ := ht.core
  rw [hs.core] at hv
  rw [getCore_after hi, hk, hv]
  unfold Core.beforeEffect giveUp
  split <;> exact ⟨_, _, _, _, _, _, _, rfl⟩

theorem started_me {e : State} (hs : AtCore a.issue.core (AtIssue a bank) a s)
    (ht : AtCore a.issue.core (Accepts a i sel last) s t) (he : BooksStep i a.issue.core a.issue.ctx t e) :
    CtxBooks (advanced a []) (after a e).me := by
  have hi : e.issue = a.issue := (hs.quiet.trans (ht.quiet.trans he.quiet)).issue
  obtain ⟨_, _, _, _, _, _, _, hme⟩ := he.mine
  have hem : e.me = getCtx e a.issue.core a.issue.ctx := by rw [State.me, hi]
  rw [after_me hi, hem, hme, accepted_get hs ht]
  exact ⟨_, _, _, _, _, _, _, rfl⟩

theorem started_of_books {e : State} (hs : AtCore a.issue.core (AtIssue a bank) a s)
    (ht : AtCore a.issue.core (Accepts a i sel last) s t) (he : BooksStep i a.issue.core a.issue.ctx t e) :
    Started a i last bank (after a e) := by
  have hq := hs.quiet.trans (ht.quiet.trans he.quiet)
  have hi : e.issue = a.issue := hq.issue
  have hmy : (after a e).myCore = getCore (after a e) a.issue.core := by
    rw [State.myCore, (quiet_after a e).issue, hi]
  obtain ⟨_, _, _, _, _, _, _, hcore⟩ := started_core hs ht he
  obtain ⟨_, _, _, _, _, _, _, hme⟩ := started_me hs ht he
  have hbanks : ∀ b : Fin 4, (after a e).myCore.banks[b] = (getCore e a.issue.core).banks[b] := fun b => by
    rw [hmy, getCore_after hi]
    rfl
  have htbanks : ∀ b : Fin 4, (getCore t a.issue.core).banks[b] = bank[b] := fun b => by
    obtain ⟨v, hv⟩ := ht.core
    rw [hv, hs.core]
    rfl
  rw [← hmy] at hcore
  refine ⟨⟨?_, fun d hd => ?_, fun y hy => ?_, ?_, ?_, ?_, ?_, ?_, ?_⟩, ?_, ?_, ?_, ?_, ?_, ?_, ?_, ?_, fun b hb => ?_, fun b => ?_⟩
  · obtain ⟨cs, irq, life, f, h⟩ := hq.trans (quiet_after a e)
    exact ⟨cs, irq, life, f, h⟩
  · rw [getCore_after_ne hi hd, he.cores d hd, ht.cores d hd, hs.cores d hd]
  · rw [getCtx, getCore_after hi]
    obtain ⟨v, hv⟩ := ht.core
    refine (Core.get_put_ne _ _ hy).trans ((he.core.others y hy).trans ?_)
    rw [hv, hs.core]
    refine (Core.get_put_ne _ _ hy).trans ((Core.get_put_ne _ _ hy).trans ?_)
    rw [giveUp_get]
    rfl
  · rw [hcore]
  · rw [hcore]
  · rw [hcore]
  · rw [hcore]
  · rw [hcore]
  · rw [hcore]
  · rw [hcore]
  · rw [hcore]
  · rw [hcore]
  · rw [hme]; rfl
  · rw [hme]; rfl
  · rw [hme]; rfl
  · rw [hme]
  · rw [hme]; rfl
  · rw [hbanks, he.core.banks b hb, htbanks]
  · rw [hbanks, he.core.fmt b, htbanks]

end Starts

end Sys2Proof.Machine
end


section
/-! The unit accepts MLDB, MMUL and MMULS (O40; R93, R94, R217, R220). -/
namespace Sys2Proof.Machine

/-! ## Groups of slot M -/

section Accept
variable {a s e : State} {i : Instr} {sel : Row} {last : Nat} {bank : Vector Bank 4} {ports : List (Option (Fin 16))}

theorem started_accept (hset : Settled a.myCore.opSeq a.me) (hs : AtCore a.issue.core (AtIssue a bank) a s)
    (he : BooksStep i a.issue.core a.issue.ctx (acceptRows a i sel last ports s) e) : Started a i last bank (after a e) := by
  have ht := accepts_acceptRows a i sel last ports s
  have hop := booksStep_accepted hset hs ht
  rw [acceptRows_eq, atIssue_opSeq hs] at he
  rw [atIssue_opSeq hs] at ht hop
  exact started_of_books hs ht (hop.trans he)

theorem accept_loopn (hset : Settled a.myCore.opSeq a.me) (hs : AtCore a.issue.core (AtIssue a bank) a s)
    (he : BooksStep i a.issue.core a.issue.ctx (acceptRows a i sel last ports s) e) :
    e.me.loopn = (before a [] none).me.loopn := by
  have ht := accepts_acceptRows a i sel last ports s
  have hop := booksStep_accepted hset hs ht
  rw [acceptRows_eq, atIssue_opSeq hs] at he
  rw [atIssue_opSeq hs] at ht hop
  have hi : e.issue = a.issue := (hs.quiet.trans (ht.quiet.trans (hop.trans he).quiet)).issue
  obtain ⟨_, _, _, _, _, _, _, hme⟩ := (hop.trans he).mine
  rw [State.me, hi, hme, accepted_get hs ht, before_me]
  rfl

end Accept

theorem beforeEffect_banks (a : State) (srcs : List Src) (g : Option (Bool × Nat)) (k : Core) :
    (k.beforeEffect a srcs g).banks = k.banks := by
  unfold Core.beforeEffect giveUp
  split <;> rfl

theorem atIssue_before (a : State) : AtCore a.issue.core (AtIssue a a.myCore.banks) a (before a [] none) := by
  rw [before_eq_modCore]
  refine atCore_modCore (f := Core.beforeEffect a [] none) ?_
  rw [AtIssue, State.myCore, ← beforeEffect_banks a [] none]

/-- The banks of a core with bank `bk` in format `f`. -/
def Core.formatted (bk : Fin 4) (f : Fmt) (k : Core) : Vector Bank 4 := (k.modBank bk fun b => { b with fmt := f }).banks

theorem atIssue_formatted (a : State) (bk : Fin 4) (f : Fmt) : AtCore a.issue.core (AtIssue a (a.myCore.formatted bk f)) a
    (modCore (before a [] none) a.issue.core fun k => k.modBank bk fun b => { b with fmt := f }) := by
  rw [before_eq_modCore, modCore_modCore]
  refine atCore_modCore (f := fun k => (k.beforeEffect a [] none).modBank bk fun b => { b with fmt := f }) ?_
  have h : ∀ k : Core, k.formatted bk f = (k.beforeEffect a [] none).formatted bk f := fun k => by
    simp only [Core.formatted, Core.modBank, beforeEffect_banks]
  rw [AtIssue, State.myCore, h]
  rfl

theorem formatted_ne (k : Core) {bk b : Fin 4} (f : Fmt) (h : b ≠ bk) : (k.formatted bk f)[b] = k.banks[b] :=
  modBank_bank_ne k _ h

theorem formatted_self (k : Core) (bk : Fin 4) (f : Fmt) : (k.formatted bk f)[bk] = { k.banks[bk] with fmt := f } :=
  modBank_bank_self k bk _

/-- The effect of an MLDB on the package it finds. -/
def mldbEffect (a : State) (gd : Guard) (bk : Fin 4) (bt : Fin 32) (f : Fmt) (pa : Option (Fin 16)) : State :=
  acceptRows a (.mldb gd bk bt f pa) 0 63 [pa]
    (modCore (before a [] none) a.issue.core fun k => k.modBank bk fun b => { b with fmt := f })

theorem started_mldb {a : State} (hset : Settled a.myCore.opSeq a.me) (gd : Guard) (bk : Fin 4) (bt : Fin 32) (f : Fmt)
    (pa : Option (Fin 16)) :
    Started a (.mldb gd bk bt f pa) 63 (a.myCore.formatted bk f) (after a (mldbEffect a gd bk bt f pa)) :=
  started_accept hset (atIssue_formatted a bk f) (.refl ..)

theorem exec_mldb {s : State} {gd : Guard} {bk : Fin 4} {bt : Fin 32} {f : Fmt} {pa : Option (Fin 16)}
    (h : goes (opMldb gd bk bt f pa) s = true) :
    exec (.mldb gd bk bt f pa) s = .next (after (startCycle s) (mldbEffect (startCycle s) gd bk bt f pa)) :=
  exec_of_effect_at (o := opMldb gd bk bt f pa) rfl h rfl rfl rfl
    ((accept_loopn (settled_startCycle _ s) (atIssue_formatted ..) (.refl ..)).trans (me_loopn_of_goes h []))

theorem exec_mmul {s : State} {gd : Guard} {bk : Fin 4} {at_ zt : Fin 32} {arow acnt : Fin 64} {f : Fmt} {acc : Bool} {zf : Zf}
    {pa pz : Option (Fin 16)} (h : goes (opMmul gd bk at_ arow acnt f acc zt zf pa pz) s = true) :
    exec (.mmul gd bk at_ arow acnt f acc zt zf pa pz) s = .next (after (startCycle s) (acceptRows (startCycle s)
      (.mmul gd bk at_ arow acnt f acc zt zf pa pz) 0 (acnt.val * f.pA / 8) [pa, pz] (before (startCycle s) [] none))) :=
  exec_of_effect_at (o := opMmul gd bk at_ arow acnt f acc zt zf pa pz) rfl h rfl rfl rfl
    ((accept_loopn (settled_startCycle _ s) (atIssue_before _) (.refl ..)).trans (me_loopn_of_goes h []))

/-- The effect of an MMULS on the package it finds. -/
def mmulsEffect (a : State) (gd : Guard) (bk : Fin 4) (at_ : Fin 32) (arow acnt : Fin 64) (f : Fmt) (acc : Bool) (zt : Fin 32)
    (zf : Zf) (pa pz : Option (Fin 16)) (st : Fin 32) (srow : Fin 64) : State :=
  noteBad (acceptRows a (.mmuls gd bk at_ arow acnt f acc zt zf pa pz st srow)
      (readRow a a.myCore (a.tile st.val) srow.val) ((resultRows f acnt true - 1) * f.pA / 8) [pa, pz] (before a [] none))
    a.issue.core a.issue.ctx a.issue.addr [(a.tile st.val, srow.val, 96)]

theorem booksStep_noteBad {i : Instr} {c x : Nat} (s : State) (epc : Nat) (rows : List (Nat × Nat × Nat)) :
    BooksStep i c x s (noteBad s c x epc rows) := (entryStep_noteBad (op := 0) epc rows).toBooksStep

theorem exec_mmuls {s : State} {gd : Guard} {bk : Fin 4} {at_ zt st : Fin 32} {arow acnt srow : Fin 64} {f : Fmt} {acc : Bool}
    {zf : Zf} {pa pz : Option (Fin 16)} (h : goes (opMmuls gd bk at_ arow acnt f acc zt zf pa pz st srow) s = true) :
    exec (.mmuls gd bk at_ arow acnt f acc zt zf pa pz st srow) s = .next (after (startCycle s)
      (mmulsEffect (startCycle s) gd bk at_ arow acnt f acc zt zf pa pz st srow)) :=
  exec_of_effect_at (o := opMmuls gd bk at_ arow acnt f acc zt zf pa pz st srow) rfl h rfl rfl rfl
    ((accept_loopn (settled_startCycle _ s) (atIssue_before _) (booksStep_noteBad ..)).trans (me_loopn_of_goes h []))

/-! ## The rows of an MLDB that enter as it issues -/

/-- The first `j` rows of an MLDB have entered; the rest of bank `bk` is that of the core `k`. -/
structure Filling (c x : Nat) (bk : Fin 4) (bt : Nat) (f : Fmt) (k : Core) (old : List RowsOp) (ro : RowsOp) (j : Nat)
    (s : State) : Prop where
  bad : (getCore s c).bad = []
  tiles : (getCore s c).tiles = k.tiles
  tbase : (getCtx s c x).tbase = (k.get x).tbase
  icyc : (getCtx s c x).icyc = ro.c
  rows : (getCtx s c x).rows = old ++ [{ ro with next := j }]
  bank : ∀ r, (getCore s c).banks[bk].rows.getD r 0 = if r < j then k.bankSource x bt f r else k.banks[bk].rows.getD r 0

theorem stepRows_fresh {op : Nat} {old : List RowsOp} (h : ∀ r ∈ old, r.op ≠ op) : stepRows op old = old := by
  induction old with
  | nil => rfl
  | cons r rs ih =>
    have hr := h r (List.mem_cons_self ..)
    have hrs := ih fun q hq => h q (List.mem_cons_of_mem _ hq)
    unfold stepRows at hrs ⊢
    rw [List.filterMap_cons, if_neg hr]
    exact congrArg _ hrs

theorem find?_fresh {op : Nat} {old : List RowsOp} (h : ∀ r ∈ old, r.op ≠ op) {ro : RowsOp} (hro : ro.op = op) :
    (old ++ [ro]).find? (fun r => r.op == op) = some ro := by
  rw [List.find?_append, List.find?_eq_none.mpr fun r hr => by simpa using h r hr]
  simp [hro]

theorem bankSource_congr {k l : Core} {x : Nat} (ht : l.tiles = k.tiles) (hb : (l.get x).tbase = (k.get x).tbase) (bt : Nat) (f : Fmt)
    (r : Nat) : l.bankSource x bt f r = k.bankSource x bt f r := by
  unfold Core.bankSource Core.row
  rw [ht, hb]

section Fill
variable {c x : Nat} {gd : Guard} {bk : Fin 4} {bt : Fin 32} {f : Fmt} {k : Core} {old : List RowsOp} {ro : RowsOp} {j : Nat} {s : State}

theorem entryCycle_mldb {pb : Option (Fin 16)} (hi : ro.ins = .mldb gd bk bt f pb) : entryCycle ro = ro.c + ro.next / 3 := by
  unfold entryCycle
  rw [hi]

/-- The core once a row of an MLDB has entered. -/
theorem getCore_entered_bank (hi : ro.ins = .mldb gd bk bt f none) (hb : (getCore s c).bad = []) :
    getCore (entered s c x ro) c = ((getCore s c).put x ((getCtx s c x).withRows (stepRows ro.op (getCtx s c x).rows))).fillBank
      bk ro.next ((getCore s c).bankSource x bt.val f ro.next) := by
  unfold entered
  generalize hu : (getCtx s c x).withRows (stepRows ro.op (getCtx s c x).rows) = u
  have hbase : u.tbase = ((getCore s c).get x).tbase := by rw [← hu]; rfl
  have hbad : (getCore (setCtx s c x u) c).bad = [] := by
    rw [getCore_setCtx_self]
    exact hb
  rw [enterRow_bank hi hbad, getCore_setCore_self, getCore_setCtx_self,
    bankSource_congr (k := getCore s c) (l := (getCore s c).put x u) rfl (by rw [Core.get_put_self, hbase])]

theorem filling_step (hfresh : ∀ r ∈ old, r.op ≠ ro.op) (hi : ro.ins = .mldb gd bk bt f none) (hj : j < 3)
    (h : Filling c x bk bt.val f k old ro j s) (n : Nat) :
    ∃ t, Filling c x bk bt.val f k old ro (j + 1) t ∧ enterOp c x ro.op (n + 1) s = enterOp c x ro.op n t := by
  have hf : (getCtx s c x).rows.find? (fun r => r.op == ro.op) = some { ro with next := j } := by
    rw [h.rows]
    exact find?_fresh hfresh rfl
  have hcycle : entryCycle { ro with next := j } = ro.c + j / 3 := by
    exact entryCycle_mldb (ro := { ro with next := j }) hi
  have hcount : rowCount ro.ins = 192 := by rw [hi]; rfl
  refine ⟨entered s c x { ro with next := j }, ?_, enterOp_due hf (by rw [hcycle, h.icyc]; omega) n⟩
  have hrows : stepRows ro.op (getCtx s c x).rows = old ++ [{ ro with next := j + 1 }] := by
    have happ : stepRows ro.op (old ++ [{ ro with next := j }]) = stepRows ro.op old ++ stepRows ro.op [{ ro with next := j }] :=
      List.filterMap_append
    rw [h.rows, happ, stepRows_fresh hfresh, show stepRows ro.op [{ ro with next := j }] = [{ ro with next := j + 1 }] from
      (stepRows_single { ro with next := j }).trans (if_pos (by simp only [hcount]; omega))]
  have hcore : getCore (entered s c x { ro with next := j }) c = ((getCore s c).put x ((getCtx s c x).withRows
      (old ++ [{ ro with next := j + 1 }]))).fillBank bk j (k.bankSource x bt.val f j) := by
    have hc := getCore_entered_bank (x := x) (ro := { ro with next := j }) hi h.bad
    rw [bankSource_congr (k := k) h.tiles h.tbase] at hc
    exact hc.trans (congrArg (fun rs => Core.fillBank bk j (k.bankSource x bt.val f j)
      ((getCore s c).put x ((getCtx s c x).withRows rs))) hrows)
  have hctx : getCtx (entered s c x { ro with next := j }) c x = (getCtx s c x).withRows (old ++ [{ ro with next := j + 1 }]) :=
    (congrArg (Core.get · x) hcore).trans (Core.get_put_self ..)
  refine ⟨(congrArg Core.bad hcore).trans h.bad, (congrArg Core.tiles hcore).trans h.tiles, (congrArg Ctx.tbase hctx).trans h.tbase,
    (congrArg Ctx.icyc hctx).trans h.icyc, congrArg Ctx.rows hctx, fun r => ?_⟩
  have hbank := (congrArg (fun l : Core => l.banks[bk]) hcore).trans (fillBank_bank ..)
  refine (congrArg (fun b : Bank => b.rows.getD r 0) hbank).trans ((setPad_getD ..).trans ?_)
  by_cases hr : r = j
  · rw [if_pos hr, if_pos (by omega), hr]
  · rw [if_neg hr]
    refine (h.bank r).trans (if_congr ?_ rfl rfl)
    omega

theorem filling_three (hfresh : ∀ r ∈ old, r.op ≠ ro.op) (hi : ro.ins = .mldb gd bk bt f none)
    (h : Filling c x bk bt.val f k old ro 0 s) : Filling c x bk bt.val f k old ro 3 (enterOp c x ro.op 192 s) := by
  obtain ⟨t, ht, e1⟩ := filling_step hfresh hi (by omega) h 191
  obtain ⟨u, hu, e2⟩ := filling_step hfresh hi (by omega) ht 190
  obtain ⟨v, hv, e3⟩ := filling_step hfresh hi (by omega) hu 189
  have hset : Settled ro.op (getCtx v c x) := fun q hq => by
    rw [hv.rows, find?_fresh hfresh (ro := { ro with next := 3 }) rfl] at hq
    rw [hv.icyc, ← Option.some.inj hq, entryCycle_mldb (ro := { ro with next := 3 }) hi]
    exact Nat.lt_add_of_pos_right (n := ro.c) (k := 3 / 3) (by decide)
  rw [e1, e2, e3, enterOp_settled hset]
  exact hv

end Fill

theorem filling_mldb {a : State} {gd : Guard} {bk : Fin 4} {bt : Fin 32} {f : Fmt} (hb : a.myCore.bad = [])
    (hfresh : ∀ r ∈ a.me.rows, r.op ≠ a.myCore.opSeq) : Filling a.issue.core a.issue.ctx bk bt.val f a.myCore a.me.rows
      (acceptedRows a (.mldb gd bk bt f none) 0 a.myCore.opSeq) 3 (mldbEffect a gd bk bt f none) := by
  have hs := atIssue_formatted a bk f
  have ht := accepts_acceptRows a (.mldb gd bk bt f none) 0 63 [none]
    (modCore (before a [] none) a.issue.core fun k => k.modBank bk fun b => { b with fmt := f })
  rw [mldbEffect, acceptRows_eq, atIssue_opSeq hs]
  rw [atIssue_opSeq hs] at ht
  have hget := accepted_get hs ht
  obtain ⟨v, hv⟩ := ht.core
  rw [hs.core] at hv
  refine filling_three hfresh rfl ⟨?_, ?_, ?_, ?_, ?_, fun r => ?_⟩
  · rw [hv]
    exact (show (a.myCore.beforeEffect a [] none).bad = a.myCore.bad by unfold Core.beforeEffect giveUp; split <;> rfl).trans hb
  · rw [hv]
    exact show (a.myCore.beforeEffect a [] none).tiles = a.myCore.tiles by unfold Core.beforeEffect giveUp; split <;> rfl
  · rw [hget]; rfl
  · rw [hget]; rfl
  · rw [hget]; rfl
  · rw [if_neg (Nat.not_lt_zero r), hv]
    exact (congrArg (fun b : Bank => b.rows.getD r 0) (formatted_self a.myCore bk f)).trans rfl

/-- The bank and the rows to enter that an MLDB leaves, with no port and no parity failure. -/
theorem mldb_filled {a : State} {gd : Guard} {bk : Fin 4} {bt : Fin 32} {f : Fmt} (hb : a.myCore.bad = [])
    (hfresh : ∀ r ∈ a.me.rows, r.op ≠ a.myCore.opSeq) :
    (∀ r, (after a (mldbEffect a gd bk bt f none)).myCore.banks[bk].rows.getD r 0 = if r < 3 then
      rowOf f.width (elemsOf f.width (if f.isWide then 96 else 192) (a.myCore.row (a.me.tbase + bt.val) r).toNat)
      else a.myCore.banks[bk].rows.getD r 0) ∧
    (after a (mldbEffect a gd bk bt f none)).me.rows = a.me.rows ++
      [⟨a.myCore.opSeq, .mldb gd bk bt f none, a.me.icyc, a.ck, 3, a.issue.addr, 0, none, 0⟩] := by
  have hf := filling_mldb (gd := gd) (bk := bk) (bt := bt) (f := f) hb hfresh
  have hs := atIssue_formatted a bk f
  have hq : Quiet a (mldbEffect a gd bk bt f none) :=
    hs.quiet.trans ((accepts_acceptRows a _ _ _ _ _).quiet.trans (quiet_enterOp ..))
  generalize mldbEffect a gd bk bt f none = e at hf hq
  have hmy : (after a e).myCore = (getCore e a.issue.core).afterEffect a := by
    rw [State.myCore, (quiet_after ..).issue, hq.issue, getCore_after hq.issue]
  refine ⟨fun r => ?_, ?_⟩
  · rw [hmy]
    refine (hf.bank r).trans ?_
    by_cases hr : r < 3
    · rw [if_pos hr, if_pos hr, Core.bankSource, Nat.div_eq_of_lt (by omega), Nat.mod_eq_of_lt (by omega)]
      rfl
    · rw [if_neg hr, if_neg hr]
  · rw [after_me hq.issue, State.me, hq.issue]
    exact hf.rows

/-! ## The three operations -/

theorem matrixStarts : Claims.MatrixStarts := by
  intro gd bk bt at_ zt st arow acnt srow f acc zf pa pz s a starts per op
  have hset : Settled a.myCore.opSeq a.me := settled_startCycle _ s
  have hstart : ∀ {i : Instr} {last : Nat} {bank : Vector Bank 4} {e : State}, exec i s = .next (after a e) →
      Started a i last bank (after a e) →
      (∀ b : Fin 4, b ≠ bk ∨ (∀ g t f p, i ≠ .mldb g bk t f p) → ¬loadsBank i b ∧ bank[b] = a.myCore.banks[b]) → starts i last :=
    fun hx h hb => ⟨_, hx, h.keeps, h.owner, h.user, h.free, h.g, h.full, h.p, h.pc, h.icyc, fun b hne =>
      (h.banks b (hb b hne).1).trans (hb b hne).2⟩
  refine ⟨fun h => ⟨?_, _, exec_mldb h, ?_, ?_⟩, fun h => ?_, fun h => ?_⟩
  · refine hstart (exec_mldb h) (started_mldb hset gd bk bt f pa) fun b hb => ?_
    have hne : b ≠ bk := hb.resolve_right fun hi => hi gd bt f pa rfl
    exact ⟨fun hl => hne hl.symm, formatted_ne _ f hne⟩
  · rw [(started_mldb hset gd bk bt f pa).fmt bk, formatted_self]
  · intro hp hbad hfresh
    subst hp
    exact mldb_filled hbad hfresh
  · exact hstart (exec_mmul h) (started_accept hset (atIssue_before a) (.refl ..)) fun b _ => ⟨id, rfl⟩
  · exact hstart (exec_mmuls h) (started_accept hset (atIssue_before a) (booksStep_noteBad ..)) fun b _ => ⟨id, rfl⟩

/-- Settles O40: the unit accepts an operation in one change of its core, and the rows that enter change only its books. -/
theorem matrixIssue : Obligations.MatrixIssue := ⟨matrixStarts, rowsEnterInTurn, bankRows⟩

end Sys2Proof.Machine
end


section
/-! A select row that MMULS refuses, and rows of totals as they are delivered (O41; R213, R222, R223). -/
namespace Sys2Proof.Machine

/-! ## The select row of MMULS (R144, R223) -/

theorem selOk_iff {v : Nat} (hv : v < 2 ^ 16) : selOk v = true ↔
    v / 2 ^ 12 = 0 ∧ v % 8 < v / 8 % 8 ∧ v / 8 % 8 < v / 64 % 8 ∧ v / 64 % 8 < v / 512 % 8 := by
  have h12 : v / 2 ^ 12 % 2 ^ 4 = v / 2 ^ 12 := Nat.mod_eq_of_lt (by omega)
  have h : selOk v = (v / 2 ^ 12 % 2 ^ 4 == 0 && decide (v / 2 ^ 0 % 8 < v / 8 % 8 ∧ v / 8 % 8 < v / 64 % 8 ∧
    v / 64 % 8 < v / 512 % 8)) := rfl
  rw [h, h12, pow_zero, Nat.div_one, Bool.and_eq_true, beq_iff_eq, decide_eq_true_iff]

theorem findSome?_first {p : Nat → Bool} {n g : Nat} (hg : g < n) (hlow : ∀ h, h < g → p h = true) (hbad : p g = false) :
    (List.range n).findSome? (fun h => if p h then none else some h) = some g := by
  obtain ⟨m, rfl⟩ : ∃ m, n = g + 1 + m := ⟨n - g - 1, by omega⟩
  rw [List.findSome?_eq_some_iff]
  refine ⟨List.range g, g, (List.range m).map (g + 1 + ·), ?_, by simp [hbad], fun h hh => ?_⟩
  · rw [List.range_add, List.range_succ, List.append_assoc]
    rfl
  · simp [hlow h (List.mem_range.mp hh)]

theorem badField_first {sel : Row} {g : Nat} (hg : g < 48) (hlow : ∀ h, h < g → selOk (elemAt 16 sel.toNat h) = true)
    (hbad : selOk (elemAt 16 sel.toNat g) = false) : badField sel = some g := by
  have hz : (selFields sel).zipIdx = (List.range 48).map fun h => (elemAt 16 sel.toNat h, h) := by
    rw [selFields, elemsOf]
    refine List.ext_getElem (by simp) fun h h1 h2 => ?_
    simp
  rw [badField, hz, List.findSome?_map]
  exact findSome?_first (p := fun h => selOk (elemAt 16 sel.toNat h)) hg hlow hbad

theorem opMmuls_traps {a : State} {gd : Guard} {bk : Fin 4} {at_ zt st : Fin 32} {arow acnt srow : Fin 64} {f : Fmt} {acc : Bool}
    {zf : Zf} {pa pz : Option (Fin 16)} {g : Nat} (hmul : mulTraps a bk at_ arow acnt f acc zt zf pa pz true = [])
    (hst : st.val < a.me.tcnt) (hb : badField (readRow a a.myCore (a.tile st.val) srow.val) = some g) (v : List Word) :
    (opMmuls gd bk at_ arow acnt f acc zt zf pa pz st srow).traps a v = [⟨5, causeSPARSE, g⟩] := by
  have ht : tileChecks a 8 st.val srow.val = [] := by
    rw [tileChecks, decide_eq_false (Nat.not_le.mpr hst), decide_eq_false (by omega)]
    rfl
  have h : (opMmuls gd bk at_ arow acnt f acc zt zf pa pz st srow).traps a v =
      mulTraps a bk at_ arow acnt f acc zt zf pa pz true ++ tileChecks a 8 st.val srow.val ++
        (match badField (readRow a a.myCore (a.tile st.val) srow.val) with
          | some g => [⟨5, causeSPARSE, g⟩]
          | none => []) := rfl
  rw [h, hmul, ht, hb]
  rfl

theorem sparseSelectTraps : Claims.SparseSelectTraps := by
  intro gd bk at_ zt st arow acnt srow f acc zf pa pz s g hc a o field good hdec hsb hempty hmul hst hg hlow hbad
  have hgood : ∀ h, selOk (field h) = true ↔ good h := fun h => selOk_iff (Nat.mod_lt _ (by decide))
  have hfirst : badField (readRow a a.myCore (a.tile st.val) srow.val) = some g :=
    badField_first hg (fun h hh => (hgood h).mpr (hlow h hh)) (Bool.eq_false_iff.mpr fun h => hbad ((hgood g).mp h))
  exact exec_trap_of_srcs (o := o) (srcs := []) rfl hc rfl rfl rfl hdec hsb rfl hempty
    (opMmuls_traps hmul hst hfirst (srcVals [] a)) fun _ => rfl

/-! ## Rows delivered to the accumulator (R222) -/

/-- A context with flags folded into its own (R40). -/
def Ctx.fold (f : Flags) (t : Ctx) : Ctx := { t with flags := t.flags ||| f }

theorem getCtx_foldFlags (s : State) (c x : Nat) (f : Flags) :
    getCtx (foldFlags s c x f) c x = (getCtx s c x).fold f := by
  unfold foldFlags
  split
  · rename_i h
    have h0 : (getCtx s c x).flags ||| (0 : Flags) = (getCtx s c x).flags := BitVec.or_zero
    rw [h, Ctx.fold, h0]
  · exact getCtx_modCtx_self ..

theorem getCore_foldFlags (s : State) (c x : Nat) (f : Flags) :
    getCore (foldFlags s c x f) c = { getCore s c with ctx := (getCore (foldFlags s c x f) c).ctx } := by
  unfold foldFlags
  split
  · rfl
  · rw [getCore_modCtx_self]
    rfl

theorem foldFlags_mem (s : State) (c x : Nat) (f : Flags) : (foldFlags s c x f).mem = s.mem := (quiet_foldFlags s c x f).mem

/-- A core whose row of totals has been added to its acc row. -/
def Core.addAcc (row : Nat) (vals : List Nat) (k : Core) : Core :=
  { k with acc := alSet k.acc row ((accSums k row vals).map (·.1)), live := k.live ||| ((1 : BitVec 64) <<< row) }

theorem applyAccAdd_eq (s : State) (c x row : Nat) (vals : List Nat) (fl : Flags) : applyAccAdd s c x row vals (some fl) =
    foldFlags (setCore s c ((getCore s c).addAcc row vals)) c x (fl ||| flagsOf (accSums (getCore s c) row vals)) := rfl

theorem accAdd_delivered (c x row : Nat) (vals : List Nat) (fl : Flags) (s : State) :
    let k := getCore s c
    let adds := vals.zipIdx.map fun p => FV.add ((alGet [] k.acc row).getD p.2 0, 0) (p.1, 0)
    let u := applyWrite s c x (.accAdd row vals (some fl))
    let k' := getCore u c
    u.mem = s.mem ∧ getCtx u c x = (getCtx s c x).fold ([adds].flatten.foldl (fun y v => y ||| v.2) fl) ∧ k'.tiles = k.tiles ∧ alGet [] k'.acc row = adds.map (·.1) ∧
      (∀ r, r ≠ row → alGet [] k'.acc r = alGet [] k.acc r) ∧
      ∀ r, r < 64 → k'.live.getLsbD r = (k.live.getLsbD r || decide (r = row)) := by
  intro k adds u k'
  have hu : u = foldFlags (setCore s c (k.addAcc row vals)) c x (fl ||| flagsOf adds) := applyAccAdd_eq s c x row vals fl
  have hk : k' = { k.addAcc row vals with ctx := k'.ctx } := by
    have h := getCore_foldFlags (setCore s c (k.addAcc row vals)) c x (fl ||| flagsOf adds)
    rw [← hu, getCore_setCore_self] at h
    exact h
  refine ⟨by rw [hu, foldFlags_mem]; rfl, ?_, (congrArg Core.tiles hk).trans rfl, ?_, fun r hr => ?_, fun r hr => ?_⟩
  · rw [hu, getCtx_foldFlags, getCtx_setCore_self, List.flatten_singleton, foldl_or]
    rfl
  · exact (congrArg (fun k : Core => alGet [] k.acc row) hk).trans (alGet_alSet_self ..)
  · exact (congrArg (fun k : Core => alGet [] k.acc r) hk).trans (alGet_alSet_ne _ _ _ hr)
  · refine (congrArg (fun k : Core => k.live.getLsbD r) hk).trans ?_
    exact (BitVec.getLsbD_or ..).trans (congrArg _ (getLsbD_one_shiftLeft hr))

/-! ## Rows delivered to their tiles (R213, R222) -/

/-- A row of results in the tiles from `zt` on, `per` elements of `w` bits to a tile. -/
def Core.putTiles (zt row w per : Nat) (cs : List Nat) (n : Nat) (k : Core) : Core :=
  (List.range n).foldl (fun k q => k.setRow (zt + q) row (rowOf w ((cs.drop (q * per)).take per))) k

theorem putTiles_succ (zt row w per : Nat) (cs : List Nat) (n : Nat) (k : Core) : k.putTiles zt row w per cs (n + 1) =
    (k.putTiles zt row w per cs n).setRow (zt + n) row (rowOf w ((cs.drop (n * per)).take per)) := by
  simp [Core.putTiles, List.range_succ]

theorem putTiles_frame (zt row w per : Nat) (cs : List Nat) (n : Nat) (k : Core) : ∃ tiles bad,
    k.putTiles zt row w per cs n = { k with tiles := tiles, bad := bad } := by
  induction n with
  | zero => exact ⟨_, _, rfl⟩
  | succ n ih =>
    obtain ⟨_, _, h⟩ := ih
    exact ⟨_, _, by rw [putTiles_succ, h]; rfl⟩

theorem row_setRow (k : Core) (t r : Nat) (v : Row) (t' r' : Nat) (hr : r < 64) (hr' : r' < 64) :
    (k.setRow t r v).row t' r' = if t' = t ∧ r' = r then v else k.row t' r' := by
  by_cases h : t' = t ∧ r' = r
  · obtain ⟨rfl, rfl⟩ := h
    rw [if_pos ⟨rfl, rfl⟩]
    exact alGet_alSet_self ..
  · rw [if_neg h]
    exact alGet_alSet_ne _ _ _ (by omega)

theorem putTiles_row (zt row w per : Nat) (cs : List Nat) (hrow : row < 64) (n : Nat) (k : Core) (t r : Nat) (hr : r < 64) :
    (k.putTiles zt row w per cs n).row t r = if r = row ∧ zt ≤ t ∧ t < zt + n then
      rowOf w ((cs.drop ((t - zt) * per)).take per) else k.row t r := by
  induction n with
  | zero => rw [if_neg (by omega)]; rfl
  | succ n ih =>
    rw [putTiles_succ, row_setRow _ _ _ _ _ _ hrow hr, ih]
    by_cases h : t = zt + n ∧ r = row
    · obtain ⟨rfl, rfl⟩ := h
      rw [if_pos ⟨rfl, rfl⟩, if_pos (by omega), Nat.add_sub_cancel_left]
    · rw [if_neg h]
      exact if_congr (by omega) rfl rfl

theorem getD_map_some (cs : List Nat) {i : Nat} (h : i < cs.length) : (cs.map some).getD i none = some (cs.getD i 0) := by
  simp [List.getD_eq_getElem?_getD, h]

/-- A full row of results leaves nothing of the rows it is put in. -/
theorem putResultRow_eq (zt row : Nat) (zf : Zf) (cs : List Nat) (hlen : cs.length = 192) (k : Core) :
    putResultRow k zt row (Zf.toFmt zf).width (cs.map some) =
      k.putTiles zt row (Zf.toFmt zf).width (1536 / (Zf.toFmt zf).width) cs (192 / (1536 / (Zf.toFmt zf).width)) := by
  have hper : 192 % (1536 / (Zf.toFmt zf).width) = 0 ∧ 0 < 1536 / (Zf.toFmt zf).width := by cases zf <;> decide
  generalize (Zf.toFmt zf).width = w at hper
  generalize hp : 1536 / w = per at hper
  obtain ⟨hdvd, hpos⟩ := hper
  have hn : (192 + per - 1) / per = 192 / per := by
    obtain ⟨m, hm⟩ := Nat.dvd_of_mod_eq_zero hdvd
    rw [hm, Nat.mul_div_cancel_left _ hpos, Nat.add_sub_assoc hpos, Nat.mul_add_div hpos, Nat.div_eq_of_lt (by omega), Nat.add_zero]
  have hmul : 192 / per * per = 192 := Nat.div_mul_cancel (Nat.dvd_of_mod_eq_zero hdvd)
  simp only [putResultRow, List.length_map, hlen, hp, hn, Core.putTiles]
  refine List.foldl_ext _ _ _ fun k q hq => congrArg (fun es => k.setRow (zt + q) row (rowOf w es)) ?_
  have hq' : (q + 1) * per ≤ 192 := hmul ▸ Nat.mul_le_mul_right per (List.mem_range.mp hq)
  rw [Nat.add_mul, one_mul] at hq'
  refine List.ext_getElem (by simp [elemsOf_length, hlen]; omega) fun i h1 h2 => ?_
  have hi : i < per := by simpa [elemsOf_length] using h1
  have hlt : q * per + i < cs.length := by omega
  simp only [List.getElem_map, List.getElem_zipIdx, Nat.zero_add, getD_map_some cs hlt, List.getElem_take, List.getElem_drop]
  rw [List.getD_eq_getElem _ _ hlt]

/-- A core whose acc row has left the accumulator. -/
def Core.clearAcc (row : Nat) (k : Core) : Core :=
  { k with acc := alSet k.acc row [], live := k.live &&& ~~~((1 : BitVec 64) <<< row) }

/-- A row of totals as it leaves: added to its acc row where that is live (R222). -/
def leavingSums (k : Core) (row : Nat) (vals : List Nat) : List FV :=
  vals.zipIdx.map fun p => if k.live.getLsbD row then FV.add ((alGet [] k.acc row).getD p.2 0, 0) (p.1, 0) else (p.1, 0)

/-- The codes of a row that leaves in its result format (R213). -/
def leavingCodes (k : Core) (row : Nat) (vals : List Nat) (zf : Zf) : List FV :=
  (leavingSums k row vals).map fun v => zfCode zf v.1

theorem applyAccOut_eq (s : State) (c x row : Nat) (vals : List Nat) (zt : Nat) (zf : Zf) (op epc : Nat) (last : Bool) (fl : Flags) :
    applyAccOut s c x row vals zt zf none op epc last (some fl) =
      foldFlags (setCore s c ((putResultRow (getCore s c) zt row (Zf.toFmt zf).width
        ((leavingCodes (getCore s c) row vals zf).map fun v => some v.1)).clearAcc row)) c x
        (fl ||| (leavingCodes (getCore s c) row vals zf).foldl (fun f v => f ||| v.2) (flagsOf (leavingSums (getCore s c) row vals))) :=
  rfl

theorem leavingSums_eq (k : Core) (row : Nat) (vals : List Nat) : leavingSums k row vals =
    if k.live.getLsbD row then vals.zipIdx.map fun p => FV.add ((alGet [] k.acc row).getD p.2 0, 0) (p.1, 0)
    else vals.map fun v => (v, 0) := by
  unfold leavingSums
  split
  · rfl
  · refine List.ext_getElem (by simp) fun i h1 h2 => ?_
    simp

theorem accOut_delivered (c x row zt op epc : Nat) (zf : Zf) (last : Bool) (vals : List Nat) (fl : Flags) (s : State)
    (hrow : row < 64) (hlen : vals.length = 192) :
    let k := getCore s c
    let sums := leavingSums k row vals
    let out := leavingCodes k row vals zf
    let u := applyWrite s c x (.accOut row vals zt zf none op epc last (some fl))
    let k' := getCore u c
    let w := if zf = .bf16 then 16 else 32
    let per := 1536 / w
    u.mem = s.mem ∧ getCtx u c x = (getCtx s c x).fold ([sums, out].flatten.foldl (fun y v => y ||| v.2) fl) ∧
      alGet [] k'.acc row = [] ∧ (∀ r, r ≠ row → alGet [] k'.acc r = alGet [] k.acc r) ∧
      (∀ r, r < 64 → k'.live.getLsbD r = (k.live.getLsbD r && decide (r ≠ row))) ∧
      (∀ q, q < 192 / per → k'.row (zt + q) row = rowOf w (((out.map (·.1)).drop (q * per)).take per)) ∧
      ∀ t r, r < 64 → (r ≠ row ∨ t < zt ∨ zt + 192 / per ≤ t) → k'.row t r = k.row t r := by
  intro k sums out u k' w per
  have hw : (Zf.toFmt zf).width = w := by simp only [w]; cases zf <;> rfl
  have hcodes : (out.map (·.1)).length = 192 := by simp [out, leavingCodes, leavingSums, hlen]
  have hput : putResultRow k zt row (Zf.toFmt zf).width (out.map fun v => some v.1) =
      k.putTiles zt row w per (out.map (·.1)) (192 / per) := by
    have h := putResultRow_eq zt row zf (out.map (·.1)) hcodes k
    rw [hw, List.map_map] at h
    rw [hw]
    exact h
  have hu : u = foldFlags (setCore s c ((k.putTiles zt row w per (out.map (·.1)) (192 / per)).clearAcc row)) c x
      (fl ||| out.foldl (fun f v => f ||| v.2) (flagsOf sums)) := by
    rw [← hput]
    exact applyAccOut_eq s c x row vals zt zf op epc last fl
  obtain ⟨tiles, bad, hframe⟩ := putTiles_frame zt row w per (out.map (·.1)) (192 / per) k
  have hk : k' = { (k.putTiles zt row w per (out.map (·.1)) (192 / per)).clearAcc row with ctx := k'.ctx } := by
    have h := getCore_foldFlags (setCore s c ((k.putTiles zt row w per (out.map (·.1)) (192 / per)).clearAcc row)) c x
      (fl ||| out.foldl (fun f v => f ||| v.2) (flagsOf sums))
    rw [← hu, getCore_setCore_self] at h
    exact h
  have hacc : k'.acc = alSet k.acc row [] := (congrArg Core.acc hk).trans (by rw [hframe]; rfl)
  have hlive : k'.live = k.live &&& ~~~((1 : BitVec 64) <<< row) := (congrArg Core.live hk).trans (by rw [hframe]; rfl)
  have hrows : ∀ t r, k'.row t r = (k.putTiles zt row w per (out.map (·.1)) (192 / per)).row t r := fun t r =>
    (congrArg (fun k : Core => k.row t r) hk).trans rfl
  refine ⟨by rw [hu, foldFlags_mem]; rfl, ?_, ?_, fun r hr => ?_, fun r hr => ?_, fun q hq => ?_, fun t r hr hne => ?_⟩
  · have hget : ((k.putTiles zt row w per (out.map (·.1)) (192 / per)).clearAcc row).get x = getCtx s c x := by
      rw [hframe]
      rfl
    rw [hu, getCtx_foldFlags, getCtx_setCore_self, hget, foldl_or, foldl_or, List.flatten_cons, List.flatten_singleton,
      flagsOf_append]
  · rw [hacc, alGet_alSet_self]
  · rw [hacc, alGet_alSet_ne _ _ _ hr]
  · rw [hlive, BitVec.getLsbD_and, BitVec.getLsbD_not, getLsbD_one_shiftLeft hr, decide_eq_true hr, Bool.true_and, decide_not]
  · rw [hrows, putTiles_row _ _ _ _ _ hrow _ _ _ _ hrow, if_pos ⟨rfl, by omega, by omega⟩, Nat.add_sub_cancel_left]
  · rw [hrows, putTiles_row _ _ _ _ _ hrow _ _ _ _ hr, if_neg (by omega)]

theorem matrixDelivery : Claims.MatrixDelivery := by
  intro c x row zt op epc zf last vals fl s hrow hlen k adds sums out folds
  refine ⟨accAdd_delivered c x row vals fl s, ?_⟩
  have h := accOut_delivered c x row zt op epc zf last vals fl s hrow hlen
  have hs : leavingSums (getCore s c) row vals = sums := leavingSums_eq k row vals
  simp only [leavingCodes, hs] at h
  exact h

end Sys2Proof.Machine
end


section
/-! The rows of MMUL and MMULS as they enter the matrix unit (O41; R211, R217, R222, R223). -/
namespace Sys2Proof.Machine

/-! ## A row that passes its port -/

theorem operandPort_frame (k : Core) (en : Flags) (p : Option (Fin 16)) (op : Nat) (f : Fmt) (codes : List Nat) :
    ∃ serving ports, (operandPort k en p op f codes).2.2.2 = { k with serving := serving, ports := ports } := by
  unfold operandPort
  split
  · exact ⟨_, _, rfl⟩
  · extract_lets
    split <;> exact ⟨_, _, rfl⟩

theorem endPort_frame (k : Core) (p : Option (Fin 16)) (op : Nat) :
    ∃ serving ports, endPort k p op = { k with serving := serving, ports := ports } := by
  unfold endPort
  split <;> exact ⟨_, _, rfl⟩

/-- The totals of a row of elements (R222, R223). -/
def rowTotals (sparse : Bool) (f : Fmt) (cs : List Nat) (k : Core) (bk : Fin 4) (sel : Row) : List FV :=
  if sparse then sparseRow f cs k.latA sel k.banks[bk] k.latB else denseRow f cs k.latA k.banks[bk] k.latB 192

/-- The write of a row of totals with its flags (R222). -/
def rowResult (acc : Bool) (row zt : Nat) (zf : Zf) (pz : Option (Fin 16)) (op addr : Nat) (last : Bool) (ts : List FV)
    (fl : Flags) : Write :=
  if acc then .accAdd row (ts.map (·.1)) (some fl)
  else .accOut row (ts.map (·.1)) zt zf (pz.map (·.val)) op addr last (some fl)

/-- The flags of a row of totals: those of its elements and, with the last row, those of its port's last group (R250). -/
def totalFlags (last : Bool) (k : Core) (pa : Option (Fin 16)) (op : Nat) (f0 : Flags) (ts : List FV) : Flags :=
  ts.foldl (fun y v => y ||| v.2) f0 ||| if last then endPortFlags k pa op else 0

section Enter
variable {c x : Nat} {s : State} {ro : RowsOp} {bk : Fin 4} {at_ arow n : Nat} {fa : Fmt} {acc : Bool} {zt : Nat} {zf : Zf}
  {pa pz : Option (Fin 16)} {sparse : Bool} {i : Nat} {cs : List Nat} {f0 : Flags} {k1 : Core}

theorem totalFlags_eq (k : Core) (pa : Option (Fin 16)) (op : Nat) (f0 : Flags) (ts : List FV) :
    totalFlags (decide (i + 1 = n)) k pa op f0 ts =
      if i + 1 = n then ts.foldl (fun y v => y ||| v.2) f0 ||| endPortFlags k pa op else ts.foldl (fun y v => y ||| v.2) f0 := by
  have hz : ts.foldl (fun (y : Flags) (v : FV) => y ||| v.2) f0 ||| (0 : Flags) = ts.foldl (fun y v => y ||| v.2) f0 := BitVec.or_zero
  by_cases h : i + 1 = n
  · rw [totalFlags, decide_eq_true h, if_pos rfl, if_pos h]
  · rw [totalFlags, decide_eq_false h, if_neg Bool.false_ne_true, if_neg h, hz]

theorem enterA_passed (hop : operandPort (getCore s c) ((getCore s c).get x).flags pa ro.op fa
      (aRowCodes s (getCore s c) (((getCore s c).get x).tbase + at_) arow fa sparse i) = (cs, f0, none, k1)) :
    enterA s c x ro bk at_ arow n fa acc zt zf pa pz sparse i = exposeRow (noteBad (setCore s c
      (if i + 1 = n then endPort k1 pa ro.op else k1)) c x ro.addr ((aRows (((getCore s c).get x).tbase + at_) arow fa sparse i).map
        fun p => (p.1, p.2, aRowBytes fa sparse))) c x ro i fa.pA
      (rowResult acc (arow + i) (((getCore s c).get x).tbase + zt) zf pz ro.op ro.addr (decide (i + 1 = n))
        (rowTotals sparse fa cs k1 bk ro.sel) (totalFlags (decide (i + 1 = n)) k1 pa ro.op f0 (rowTotals sparse fa cs k1 bk ro.sel))) := by
  unfold enterA
  simp only [hop]
  rw [totalFlags_eq]
  rfl

end Enter

theorem enterRow_unit {c x : Nat} {s : State} {ro : RowsOp} {sparse acc : Bool} {gd : Guard} {bk : Fin 4} {at_ zt st : Fin 32}
    {arow acnt srow : Fin 64} {f : Fmt} {zf : Zf} {pa pz : Option (Fin 16)}
    (h : ro.ins = (if sparse then .mmuls gd bk at_ arow acnt f acc zt zf pa pz st srow
      else .mmul gd bk at_ arow acnt f acc zt zf pa pz)) : enterRow s c x ro =
      enterA s c x ro bk at_.val arow.val (resultRows f acnt sparse) f acc zt.val zf pa pz sparse ro.next := by
  unfold enterRow
  rw [h]
  cases sparse <;> rfl

/-- What a row leaves as its totals go on their way, with no parity failure. -/
theorem exposeRow_core {c x : Nat} {s : State} {ro : RowsOp} {i p : Nat} {w : Write} {l : Core} {serving : List Serve}
    {ports : List (Nat × PortSlot)} (hl : l = { getCore s c with serving := serving, ports := ports }) :
    let k := getCore s c
    let t := k.get x
    let T := t.lat.getD 6 1
    let L := partLatency.getD 6 1
    let late := ((i + 1) * p + 7) / 8
    let u := exposeRow (setCore s c l) c x ro i p w
    u.mem = s.mem ∧ (∀ d, d ≠ c → getCore u d = getCore s d) ∧
      getCtx u c x = { t with flights := insertFlight ⟨ro.c + T + late, if T < L then ro.ck + L + late else 0,
        s.ck + (ro.c + T + late - t.icyc), ro.c, 6, t.icyc, w⟩ t.flights } ∧
      (getCore u c).tiles = k.tiles ∧ (getCore u c).acc = k.acc ∧ (getCore u c).live = k.live ∧ (getCore u c).banks = k.banks := by
  intro k t T L late u
  have hget : getCtx (setCore s c l) c x = t := by
    rw [getCtx_setCore_self, hl]
    rfl
  have hcore : getCore u c = l.put x (getCtx u c x) := by
    rw [show u = exposeRow (setCore s c l) c x ro i p w from rfl, exposeRow, getCore_modCtx_self, getCore_setCore_self,
      getCtx_modCtx_self]
  refine ⟨rfl, fun d hd => (getCore_modCtx_ne _ _ _ hd).trans (getCore_setCore_ne s l hd), ?_, ?_, ?_, ?_, ?_⟩
  · refine (getCtx_modCtx_self ..).trans ?_
    rw [hget]
    rfl
  · rw [hcore, hl]; rfl
  · rw [hcore, hl]; rfl
  · rw [hcore, hl]; rfl
  · rw [hcore, hl]; rfl

theorem matrixRows : Claims.MatrixRows := by
  intro sparse acc gd bk at_ zt st arow acnt srow f zf pa pz ro c x s cs f0 k1 k t i n row codes hins hi hbad hop ts fl w late T L u
  have hn : resultRows f acnt sparse = n := by
    simp only [resultRows, n, Bool.and_eq_true, beq_iff_eq]
  have hcodes : aRowCodes s k (t.tbase + at_.val) arow.val f sparse i = codes := by
    cases sparse <;> simp [aRowCodes, codes, row, readRow_clean hbad, Nat.add_assoc]
  obtain ⟨sv, ps, hk1⟩ := operandPort_frame k t.flags pa ro.op f codes
  replace hk1 : k1 = { k with serving := sv, ports := ps } := by
    rw [hop] at hk1
    exact hk1
  have hlast : ∃ sv ps, (if i + 1 = n then endPort k1 pa ro.op else k1) = { k with serving := sv, ports := ps } := by
    obtain ⟨sv', ps', he⟩ := endPort_frame k1 pa ro.op
    split
    · exact ⟨sv', ps', by rw [he, hk1]⟩
    · exact ⟨sv, ps, hk1⟩
  obtain ⟨sv', ps', hl⟩ := hlast
  have hts : rowTotals sparse f cs k1 bk ro.sel = ts := by
    rw [hk1]
    rfl
  have hw : rowResult acc (arow.val + i) (t.tbase + zt.val) zf pz ro.op ro.addr (decide (i + 1 = n)) ts
      (totalFlags (decide (i + 1 = n)) k1 pa ro.op f0 ts) = w := by
    simp only [rowResult, totalFlags, decide_eq_true_eq, w, fl]
  have hu : u = exposeRow (setCore s c (if i + 1 = n then endPort k1 pa ro.op else k1)) c x ro i f.pA w := by
    refine (enterRow_unit hins).trans ?_
    rw [hn, enterA_passed ((congrArg (operandPort k t.flags pa ro.op f) hcodes).trans hop), noteBad_clean, hts, hw]
    rw [getCore_setCore_self, hl]
    exact hbad
  rw [hu]
  exact exposeRow_core hl

end Sys2Proof.Machine
end


section
/-! An MMUL of one row as it issues (O41; R217, R222). -/
namespace Sys2Proof.Machine

/-! ## Reports leave a context's rows and flights -/

/-- From `t` to `u` a context has changed in its reports alone. -/
def CtxReports (t u : Ctx) : Prop :=
  ∃ asyncs st wait blk, u = { t with asyncs := asyncs, st := st, barWait := wait, blk := blk }

theorem ctxReports_report (s : State) (c x : Nat) (e : Async) : CtxReports (getCtx s c x) (getCtx (report s c x e) c x) := by
  simp only [report]
  split
  · exact ⟨_, _, _, _, rfl⟩
  · rw [getCtx_setCtx_self]
    split <;> exact ⟨_, _, _, _, rfl⟩

theorem ctxReports_noteBad (s : State) (c x epc : Nat) (rows : List (Nat × Nat × Nat)) :
    CtxReports (getCtx s c x) (getCtx (noteBad s c x epc rows) c x) := by
  simp only [noteBad]
  split
  · exact ⟨_, _, _, _, rfl⟩
  · exact ctxReports_report (countCore { s with freeCtr := s.freeCtr + 4 } c) c x _

theorem readRow_congr {s u : State} {k l : Core} (hf : u.freeCtr = s.freeCtr) (hb : l.bad = k.bad) (ht : l.tiles = k.tiles) (t r : Nat) :
    readRow u l t r = readRow s k t r := by
  unfold readRow Core.row
  rw [hf, hb, ht]

theorem beforeEffect_frame (a : State) (srcs : List Src) (g : Option (Bool × Nat)) (k : Core) :
    ∃ ctx owner, k.beforeEffect a srcs g = { k with ctx := ctx, owner := owner } := by
  unfold Core.beforeEffect giveUp
  split <;> exact ⟨_, _, rfl⟩

/-! ## The row enters -/

section OneRow
variable {a : State} {gd : Guard} {bk : Fin 4} {at_ zt : Fin 32} {arow : Fin 64} {f : Fmt} {acc : Bool} {zf : Zf}

/-- The totals of the one row of an MMUL that issues in `a`. -/
def oneRowTotals (a : State) (bk : Fin 4) (at_ : Fin 32) (arow : Fin 64) (f : Fmt) : List FV :=
  denseRow f (elemsOf f.width f.kPos (readRow a a.myCore (a.me.tbase + at_.val) arow.val).toNat) a.myCore.latA
    a.myCore.banks[bk] a.myCore.latB 192

/-- The write of the one row of an MMUL that issues in `a`. -/
def oneRowResult (a : State) (bk : Fin 4) (at_ zt : Fin 32) (arow : Fin 64) (f : Fmt) (acc : Bool) (zf : Zf) : Write :=
  rowResult acc arow.val (a.me.tbase + zt.val) zf none a.myCore.opSeq a.issue.addr true (oneRowTotals a bk at_ arow f)
    (flagsOf (oneRowTotals a bk at_ arow f))

theorem enterRow_oneRow {u : State} {c x : Nat} {ro : RowsOp} (hi : ro.ins = .mmul gd bk at_ arow 0 f acc zt zf none none)
    (hn : ro.next = 0) (hop : ro.op = a.myCore.opSeq) (haddr : ro.addr = a.issue.addr)
    (hfree : u.freeCtr = a.freeCtr) (hbase : ((getCore u c).get x).tbase = a.me.tbase)
    (hcore : ∃ ctx owner seq serving free user, getCore u c = { a.myCore with
      ctx := ctx, owner := owner, opSeq := seq, serving := serving, mFree := free, mUser := user }) :
    ∃ rows, enterRow u c x ro = exposeRow (noteBad (setCore u c (getCore u c)) c x a.issue.addr rows) c x ro 0 f.pA
      (oneRowResult a bk at_ zt arow f acc zf) := by
  obtain ⟨_, _, _, _, _, _, hk⟩ := hcore
  have hrow : readRow u (getCore u c) (a.me.tbase + at_.val) arow.val = readRow a a.myCore (a.me.tbase + at_.val) arow.val :=
    readRow_congr hfree (by rw [hk]) (by rw [hk]) _ _
  have hcodes : aRowCodes u (getCore u c) (a.me.tbase + at_.val) arow.val f false 0 =
      elemsOf f.width f.kPos (readRow a a.myCore (a.me.tbase + at_.val) arow.val).toNat := by
    rw [← hrow]
    rfl
  have hts : rowTotals false f (elemsOf f.width f.kPos (readRow a a.myCore (a.me.tbase + at_.val) arow.val).toNat) (getCore u c) bk
      ro.sel = oneRowTotals a bk at_ arow f := by
    rw [hk]
    rfl
  have hfl : totalFlags (decide (0 + 1 = 1)) (getCore u c) none ro.op 0 (oneRowTotals a bk at_ arow f) =
      flagsOf (oneRowTotals a bk at_ arow f) := BitVec.or_zero
  have henter := enterRow_unit (s := u) (c := c) (x := x) (sparse := false) (st := 0) (srow := 0) hi
  rw [hn, show resultRows f 0 false = 1 from rfl, enterA_passed rfl, hbase, hcodes, hts] at henter
  exact ⟨_, henter.trans (by rw [hfl, hop, haddr]; rfl)⟩

theorem exposeRow_issue {s : State} {c x p : Nat} {ro : RowsOp} {w : Write} (hc : ro.c = a.me.icyc) (hro : ro.ck = a.ck)
    (hck : s.ck = a.ck) (hi : (getCtx s c x).icyc = a.me.icyc) (hl : (getCtx s c x).lat = a.me.lat)
    (hf : (getCtx s c x).flights = a.me.flights) :
    (getCtx (exposeRow s c x ro 0 p w) c x).rows = (getCtx s c x).rows ∧
      (getCtx (exposeRow s c x ro 0 p w) c x).flights = addFlights a 6 [(0, (p + 7) / 8, w)] := by
  have hget := getCtx_modCtx_self s c x fun t =>
    { t with flights := insertFlight ⟨ro.c + t.lat.getD 6 1 + ((0 + 1) * p + 7) / 8,
        if t.lat.getD 6 1 < partLatency.getD 6 1 then ro.ck + partLatency.getD 6 1 + ((0 + 1) * p + 7) / 8 else 0,
        s.ck + (ro.c + t.lat.getD 6 1 + ((0 + 1) * p + 7) / 8 - t.icyc), ro.c, 6, t.icyc, w⟩ t.flights }
  have hsub : ∀ m n, a.me.icyc + m + n - a.me.icyc = m + n := fun m n => by omega
  refine ⟨(congrArg Ctx.rows hget).trans rfl, (congrArg Ctx.flights hget).trans ?_⟩
  rw [hc, hro, hck, hi, hl, hf, Nat.zero_add, one_mul, hsub, ← Nat.add_assoc a.ck]
  rfl

/-- The package that an MMUL of one row finds its row in. -/
theorem oneRow_entered {t : State} {last : Nat} (hs : AtCore a.issue.core (AtIssue a a.myCore.banks) a (before a [] none))
    (ht : AtCore a.issue.core (Accepts a (.mmul gd bk at_ arow 0 f acc zt zf none none) 0 last) (before a [] none) t)
    (hfresh : ∀ r ∈ a.me.rows, r.op ≠ a.myCore.opSeq) :
    let e := entered t a.issue.core a.issue.ctx (acceptedRows a (.mmul gd bk at_ arow 0 f acc zt zf none none) 0 a.myCore.opSeq)
    (getCtx e a.issue.core a.issue.ctx).rows = a.me.rows ∧ (getCtx e a.issue.core a.issue.ctx).flights =
      addFlights a 6 [(0, (f.pA + 7) / 8, oneRowResult a bk at_ zt arow f acc zf)] := by
  intro e
  have hget := accepted_get hs ht
  obtain ⟨v, hv⟩ := ht.core
  rw [hs.core] at hv
  obtain ⟨_, _, hb⟩ := beforeEffect_frame a [] none a.myCore
  have hrows : stepRows a.myCore.opSeq (getCtx t a.issue.core a.issue.ctx).rows = a.me.rows := by
    have happ : (getCtx t a.issue.core a.issue.ctx).rows = a.me.rows ++
        [acceptedRows a (.mmul gd bk at_ arow 0 f acc zt zf none none) 0 a.myCore.opSeq] := by
      rw [hget]
      rfl
    have hone : stepRows a.myCore.opSeq [acceptedRows a (.mmul gd bk at_ arow 0 f acc zt zf none none) 0 a.myCore.opSeq] = [] :=
      (stepRows_single (acceptedRows a (.mmul gd bk at_ arow 0 f acc zt zf none none) 0 a.myCore.opSeq)).trans
        (if_neg (Nat.lt_irrefl 1))
    rw [happ]
    exact List.filterMap_append.trans ((congrArg₂ (· ++ ·) (stepRows_fresh hfresh) hone).trans (List.append_nil _))
  have he : e = enterRow (setCtx t a.issue.core a.issue.ctx ((getCtx t a.issue.core a.issue.ctx).withRows a.me.rows))
      a.issue.core a.issue.ctx (acceptedRows a (.mmul gd bk at_ arow 0 f acc zt zf none none) 0 a.myCore.opSeq) :=
    congrArg (fun rs => enterRow (setCtx t a.issue.core a.issue.ctx ((getCtx t a.issue.core a.issue.ctx).withRows rs))
      a.issue.core a.issue.ctx _) hrows
  have hfree : t.freeCtr = a.freeCtr := by
    obtain ⟨_, h1⟩ := hs.only
    obtain ⟨_, h2⟩ := ht.only
    rw [h2, h1]
  have hck : t.ck = a.ck := (hs.quiet.trans ht.quiet).ck
  generalize hu : setCtx t a.issue.core a.issue.ctx ((getCtx t a.issue.core a.issue.ctx).withRows a.me.rows) = u at he
  have hucore : getCore u a.issue.core = (getCore t a.issue.core).put a.issue.ctx
      ((getCtx t a.issue.core a.issue.ctx).withRows a.me.rows) := by rw [← hu, getCore_setCtx_self]
  have huget : getCtx u a.issue.core a.issue.ctx = (getCtx t a.issue.core a.issue.ctx).withRows a.me.rows := by
    rw [← hu, getCtx_setCtx_self]
  have huck : u.ck = a.ck := by rw [← hu]; exact hck
  obtain ⟨rows, hrow⟩ := enterRow_oneRow (a := a) (u := u) (c := a.issue.core) (x := a.issue.ctx)
    (ro := acceptedRows a (.mmul gd bk at_ arow 0 f acc zt zf none none) 0 a.myCore.opSeq) rfl rfl rfl rfl
    (by rw [← hu]; exact hfree) (by rw [show (getCore u a.issue.core).get a.issue.ctx = _ from huget, hget]; rfl)
    (by
      rw [hucore, hv, show getCore a a.issue.core = a.myCore from rfl, hb]
      exact ⟨_, _, _, _, _, _, rfl⟩)
  obtain ⟨_, _, _, _, hnote⟩ := ctxReports_noteBad (setCore u a.issue.core (getCore u a.issue.core)) a.issue.core a.issue.ctx
    a.issue.addr rows
  have hnck : (noteBad (setCore u a.issue.core (getCore u a.issue.core)) a.issue.core a.issue.ctx a.issue.addr rows).ck = a.ck :=
    (quiet_noteBad ..).ck.trans huck
  rw [getCtx_setCore_self, show (getCore u a.issue.core).get a.issue.ctx = _ from huget, hget] at hnote
  generalize noteBad (setCore u a.issue.core (getCore u a.issue.core)) a.issue.core a.issue.ctx a.issue.addr rows = n at hrow hnote hnck
  rw [he, hrow]
  obtain ⟨h1, h2⟩ := exposeRow_issue (a := a) (s := n) (c := a.issue.core) (x := a.issue.ctx) (p := f.pA)
    (ro := acceptedRows a (.mmul gd bk at_ arow 0 f acc zt zf none none) 0 a.myCore.opSeq)
    (w := oneRowResult a bk at_ zt arow f acc zf) rfl rfl hnck (by rw [hnote]; rfl) (by rw [hnote]; rfl) (by rw [hnote]; rfl)
  exact ⟨h1.trans (by rw [hnote]; rfl), h2⟩

/-- The issuing context of an MMUL of one row after its group. -/
theorem oneRow_me (last : Nat) (hfresh : ∀ r ∈ a.me.rows, r.op ≠ a.myCore.opSeq) :
    let u := after a (acceptRows a (.mmul gd bk at_ arow 0 f acc zt zf none none) 0 last [none, none] (before a [] none))
    u.me.flights = addFlights a 6 [(0, (f.pA + 7) / 8, oneRowResult a bk at_ zt arow f acc zf)] ∧ u.me.rows = a.me.rows := by
  intro u
  have hs := atIssue_before a
  have ht := accepts_acceptRows a (.mmul gd bk at_ arow 0 f acc zt zf none none) 0 last [none, none] (before a [] none)
  have heq := acceptRows_eq a (.mmul gd bk at_ arow 0 f acc zt zf none none) 0 last [none, none] (before a [] none)
  rw [atIssue_opSeq hs] at heq ht
  have hq : Quiet a (acceptRows a (.mmul gd bk at_ arow 0 f acc zt zf none none) 0 last [none, none] (before a [] none)) := by
    rw [heq]
    exact hs.quiet.trans (ht.quiet.trans (quiet_enterOp ..))
  obtain ⟨hrows, hflights⟩ := oneRow_entered hs ht hfresh
  have hget := accepted_get hs ht
  generalize modCtx (modCore (servePorts a [none, none] (before a [] none)) a.issue.core (Core.claim a last)) a.issue.core
    a.issue.ctx (Ctx.addRows (acceptedRows a (.mmul gd bk at_ arow 0 f acc zt zf none none) 0 a.myCore.opSeq)) = t
    at heq hrows hflights hget
  have hfind : (getCtx t a.issue.core a.issue.ctx).rows.find? (fun r => r.op == a.myCore.opSeq) =
      some (acceptedRows a (.mmul gd bk at_ arow 0 f acc zt zf none none) 0 a.myCore.opSeq) := by
    rw [hget]
    exact find?_fresh hfresh rfl
  have hdue : entryCycle (acceptedRows a (.mmul gd bk at_ arow 0 f acc zt zf none none) 0 a.myCore.opSeq) ≤
      (getCtx t a.issue.core a.issue.ctx).icyc := by
    rw [hget]
    exact Nat.le_of_eq (show a.me.icyc + 0 * f.pA / 8 = a.me.icyc by rw [Nat.zero_mul, Nat.zero_div, Nat.add_zero])
  have hsettled : Settled a.myCore.opSeq (getCtx (entered t a.issue.core a.issue.ctx
      (acceptedRows a (.mmul gd bk at_ arow 0 f acc zt zf none none) 0 a.myCore.opSeq)) a.issue.core a.issue.ctx) := fun r hr => by
    rw [hrows] at hr
    exact absurd (by simpa using List.find?_some hr) (hfresh r (List.mem_of_find?_eq_some hr))
  rw [enterOp_due hfind hdue 191, enterOp_settled hsettled] at heq
  have hme : u.me = countCycle a (getCtx (entered t a.issue.core a.issue.ctx
      (acceptedRows a (.mmul gd bk at_ arow 0 f acc zt zf none none) 0 a.myCore.opSeq)) a.issue.core a.issue.ctx) := by
    rw [show u.me = _ from after_me hq.issue, State.me, hq.issue, heq]
  exact ⟨(congrArg Ctx.flights hme).trans hflights, (congrArg Ctx.rows hme).trans hrows⟩

end OneRow

theorem matrixOneRow : Claims.MatrixOneRow := by
  intro gd bk at_ zt arow f acc zf s h a k row ts fl late hfresh w
  obtain ⟨hflights, hrows⟩ := oneRow_me (a := a) (gd := gd) (bk := bk) (at_ := at_) (zt := zt) (arow := arow) (f := f)
    (acc := acc) (zf := zf) ((0 : Fin 64).val * f.pA / 8) hfresh
  exact ⟨_, exec_mmul h, hflights, hrows⟩

/-- Settles O41: a row of totals is what its elements, the bank and the latches give as it enters, and its delivery adds it
to its acc row or puts it in its tiles. -/
theorem matrixRowResults : Obligations.MatrixRowResults := ⟨matrixOneRow, matrixRows, sparseSelectTraps, matrixDelivery⟩

end Sys2Proof.Machine
end
